-- ==== Sys2Proof/Word.lean ====
section
/-! DEFINITION. The word types of the TVD-8 and the shape of sparse storage. Nothing here computes
more than a re-reading of bits: everything a test could show wrong stands under Machine/. -/

namespace Sys2Proof

/-- A 32-bit register value (R9, R41). -/
abbrev Word := BitVec 32
/-- A 64-bit value of a register pair (R9). -/
abbrev DWord := BitVec 64
/-- One byte of storage (R80). -/
abbrev Byte := BitVec 8
/-- A program counter: a 56-bit virtual address (R142). -/
abbrev Pc := BitVec 56

/-- Sparse storage: cells in rising key order, none of them zero. A key that is not listed reads zero.
Registers, the scratchpad, the tile area and memory are all held in this one shape. -/
abbrev Cells (w : Nat) := List (Nat × BitVec w)

end Sys2Proof
end

