-- ==== Sys2Proof/Config.lean ====
section
/-! DEFINITION. What the spec leaves to the silicon, to the host's cryptography or to chance: constants with
no body, so that nothing can be proved of their values (log entries 3 and 7). -/

namespace Sys2Proof.Config

/-- Free values, drawn at a counter of the state (log entry 3). -/
opaque freeWord : Nat → BitVec 64
/-- The bits of a quotient by a scale of 0, which R106 and R108 do not state: element type, sign and magnitude
m · 2^e of the element (log entry 3). A function of its operands, so that R343 holds of it. -/
opaque quantByZero : (ty : Nat) → (neg : Bool) → (m : Nat) → (e : Int) → BitVec 32
/-- STEP of R404, whose reset value the spec gives as "Silicon" (DESIGN CHOICE, log entry 7).
(DEDUCED, log entry 60.) -/
opaque stepping : BitVec 8
/-- Whether an ML-DSA-87 signature over a digest verifies under the fused vendor key, whose value the spec does not give, R409
(DESIGN CHOICE, log entry 7). -/
opaque vendorSigned : (digest sig : List (BitVec 8)) → Bool
/-- The fused version floor of an image type, R409 (log entry 7). -/
opaque versionFloor : Nat → Nat
/-- Byte k of the ML-DSA-87 signature over a digest under the identity key, which is made inside the package, R413 (log entry 7). -/
opaque identitySig : (digest : List (BitVec 8)) → Nat → BitVec 8
/-- Warp contexts of a core, R16. -/
def coreWarps : Nat := 64
/-- Cores of a package, R16. -/
def cores : Nat := 128

end Sys2Proof.Config
end

