-- ==== Sys2Proof/Machine/Cells.lean ====
section
/-! DEFINITION. Sparse storage in one canonical form: keys rise and no listed value is zero. Byte runs are
little-endian (R7). -/

namespace Sys2Proof.Machine

/-- The value at a key; a key that is not listed reads zero. (DESIGN CHOICE, log entry 4.) -/
def cget {w : Nat} : Cells w → Nat → BitVec w
  | [], _ => 0
  | (b, y) :: m, a => if b = a then y else cget m a

def cdel {w : Nat} (m : Cells w) (a : Nat) : Cells w := m.filter (fun c => c.1 != a)

def cins {w : Nat} : Cells w → Nat → BitVec w → Cells w
  | [], a, x => [(a, x)]
  | (b, y) :: m, a, x => if a < b then (a, x) :: (b, y) :: m else (b, y) :: cins m a x

/-- Writing zero removes the entry, so that equal contents are equal lists. -/
def cset {w : Nat} (m : Cells w) (a : Nat) (x : BitVec w) : Cells w :=
  if x = 0 then cdel m a else cins (cdel m a) a x

/-- Keys rise and nothing listed is zero. -/
def cellsWf {w : Nat} : Cells w → Bool
  | [] => true
  | (a, x) :: m => x != 0 && m.all (fun c => a < c.1) && cellsWf m

/-- Keys in [lo, lo + n) read zero afterwards. -/
def cclear {w : Nat} (m : Cells w) (lo n : Nat) : Cells w := m.filter (fun c => c.1 < lo || lo + n ≤ c.1)

/-- `n` cells from `a` upward. -/
def cread {w : Nat} (m : Cells w) (a n : Nat) : List (BitVec w) := (List.range n).map (fun k => cget m (a + k))

def cwrite {w : Nat} : Cells w → Nat → List (BitVec w) → Cells w
  | m, _, [] => m
  | m, a, x :: xs => cwrite (cset m a x) (a + 1) xs

/-- The number whose bytes, low first, are these (R7). -/
def leNat : List Byte → Nat
  | [] => 0
  | b :: bs => b.toNat + 256 * leNat bs

/-- The `n` low bytes of a number, low first (R7). -/
def leBytes : Nat → Nat → List Byte
  | 0, _ => []
  | n + 1, x => BitVec.ofNat 8 x :: leBytes n (x / 256)

def readLE (m : Cells 8) (a n : Nat) : Nat := leNat (cread m a n)
def writeLE (m : Cells 8) (a n x : Nat) : Cells 8 := cwrite m a (leBytes n x)

/-- Bits [hi:lo] of a number. -/
def nbits (x hi lo : Nat) : Nat := x / 2 ^ lo % 2 ^ (hi + 1 - lo)

/-- A number as two's complement of n bits. -/
def toSigned (x n : Nat) : Int := if x % 2 ^ n < 2 ^ (n - 1) then (x % 2 ^ n : Int) else (x % 2 ^ n : Int) - 2 ^ n

end Sys2Proof.Machine
end

