-- ==== Sys2Proof/Machine/Crypto.lean ====
section
/-! DEFINITION. The two functions that R409, R412 and R413 name: the digest SHA3-512 (FIPS 202), and AES-256-XTS (FIPS 197,
IEEE 1619), which enciphers a line of memory. PRESUMED, log entry 7: the spec names them and gives their texts by no rule. -/

namespace Sys2Proof.Machine

/-- Byte k of a word of 64 bits, and the word of 8 bytes; low first. -/
def wordBytes (x : BitVec 64) : List (BitVec 8) := (List.range 8).map (fun k => x.extractLsb' (8 * k) 8)
def bytesWord (bs : List (BitVec 8)) : BitVec 64 := bs.foldr (fun b x => x <<< 8 ||| b.setWidth 64) 0

/-! ### SHA3-512 -/

/-- The rotations of step ρ, lane x + 5y at its place. -/
def keccakRot : List Nat :=
  [0, 1, 62, 28, 27, 36, 44, 6, 55, 20, 3, 10, 43, 25, 39, 41, 45, 15, 21, 8, 18, 2, 61, 56, 14]

/-- The constants of step ι, one a round. -/
def keccakRc : List (BitVec 64) :=
  [0x0000000000000001, 0x0000000000008082, 0x800000000000808A, 0x8000000080008000, 0x000000000000808B, 0x0000000080000001] ++
  [0x8000000080008081, 0x8000000000008009, 0x000000000000008A, 0x0000000000000088, 0x0000000080008009, 0x000000008000000A] ++
  [0x000000008000808B, 0x800000000000008B, 0x8000000000008089, 0x8000000000008003, 0x8000000000008002, 0x8000000000000080] ++
  [0x000000000000800A, 0x800000008000000A, 0x8000000080008081, 0x8000000000008080, 0x0000000080000001, 0x8000000080008008]

def laneAt (a : List (BitVec 64)) (k : Nat) : BitVec 64 := (a[k]?).getD 0

/-- θ, ρ and π, χ, ι. -/
def keccakRound (a : List (BitVec 64)) (rc : BitVec 64) : List (BitVec 64) :=
  let col (x : Nat) : BitVec 64 := (List.range 5).foldl (fun c y => c ^^^ laneAt a (x % 5 + 5 * y)) 0
  let cols := (List.range 5).map col
  let theta := a.zipIdx.map (fun v => v.1 ^^^ laneAt cols ((v.2 % 5 + 4) % 5) ^^^ (laneAt cols ((v.2 % 5 + 1) % 5)).rotateLeft 1)
  let b := (List.range 25).map (fun i =>
    let k := (i % 5 + 3 * (i / 5)) % 5 + 5 * (i % 5)
    (laneAt theta k).rotateLeft ((keccakRot[k]?).getD 0))
  let chi := (List.range 25).map (fun i =>
    let row := 5 * (i / 5)
    laneAt b i ^^^ (~~~(laneAt b (row + (i % 5 + 1) % 5)) &&& laneAt b (row + (i % 5 + 2) % 5)))
  match chi with
  | v :: vs => (v ^^^ rc) :: vs
  | [] => []

def keccak (a : List (BitVec 64)) : List (BitVec 64) := keccakRc.foldl keccakRound a

/-- The message with its padding: a multiple of 72 bytes. -/
def sha3Pad (bs : List (BitVec 8)) : List (BitVec 8) :=
  let free := 72 - bs.length % 72
  bs ++ (if free = 1 then [0x86] else 0x06 :: List.replicate (free - 2) 0 ++ [0x80])

/-- One block of 72 bytes is absorbed. -/
def sha3Absorb (bs : List (BitVec 8)) (a : List (BitVec 64)) (k : Nat) : List (BitVec 64) :=
  let block := (bs.drop (72 * k)).take 72
  keccak (a.zipIdx.map (fun v => v.1 ^^^ bytesWord ((block.drop (8 * v.2)).take 8)))

/-- The 64 bytes of the digest. -/
def sha3 (bs : List (BitVec 8)) : List (BitVec 8) :=
  let m := sha3Pad bs
  (((List.range (m.length / 72)).foldl (sha3Absorb m) (List.replicate 25 0)).flatMap wordBytes).take 64

end Sys2Proof.Machine

namespace Sys2Proof.Config

/-- The ML-DSA-87 signature in the last 4,627 bytes of an image verifies: it is made over the digest of the header and body. -/
def signatureOk (image : List (BitVec 8)) : Bool :=
  let n := image.length - 4627
  vendorSigned (Machine.sha3 (image.take n)) (image.drop n)

end Sys2Proof.Config

namespace Sys2Proof.Machine

/-! ### AES-256 -/

/-- The product with x in GF(2^8). -/
def xtime (a : BitVec 8) : BitVec 8 := (a <<< 1) ^^^ (if a.getLsbD 7 then 0x1B else 0)

/-- The product in GF(2^8). -/
def gmul (a b : BitVec 8) : BitVec 8 :=
  ((List.range 8).foldl (fun (r : BitVec 8 × BitVec 8) k => (xtime r.1, if b.getLsbD k then r.2 ^^^ r.1 else r.2)) (a, 0)).2

/-- The inverse in GF(2^8), 0 of 0: the 254th power. -/
def ginv (a : BitVec 8) : BitVec 8 := (List.range 6).foldl (fun r _ => gmul (gmul r r) a) a |> fun r => gmul r r

def subByte (a : BitVec 8) : BitVec 8 :=
  let b := ginv a
  b ^^^ b.rotateLeft 1 ^^^ b.rotateLeft 2 ^^^ b.rotateLeft 3 ^^^ b.rotateLeft 4 ^^^ 0x63
def invSubByte (a : BitVec 8) : BitVec 8 := ginv (a.rotateLeft 1 ^^^ a.rotateLeft 3 ^^^ a.rotateLeft 6 ^^^ 0x05)

/-- A block, and a word of a key: bytes, the first of them first. -/
abbrev Bytes := List (BitVec 8)
def xorBytes (a b : Bytes) : Bytes := List.zipWith (· ^^^ ·) a b
def byteAt (a : Bytes) (k : Nat) : BitVec 8 := (a[k]?).getD 0

/-- The key schedule: 60 words, the last first. -/
def aesWords (key : Bytes) : List Bytes :=
  let first := ((List.range 8).map (fun k => (key.drop (4 * k)).take 4)).reverse
  (((List.range 52).foldl (fun (r : List Bytes × BitVec 8) j =>
    let i := j + 8
    let t := r.1.headD []
    let old := (r.1[7]?).getD []
    if i % 8 = 0 then
      (xorBytes old (xorBytes ((t.drop 1 ++ t.take 1).map subByte) [r.2, 0, 0, 0]) :: r.1, xtime r.2)
    else if i % 8 = 4 then (xorBytes old (t.map subByte) :: r.1, r.2)
    else (xorBytes old t :: r.1, r.2)) (first, 1)).1)

/-- The fifteen round keys. -/
def roundKeys (key : Bytes) : List Bytes :=
  let ws := (aesWords key).reverse
  (List.range 15).map (fun k => ((ws.drop (4 * k)).take 4).flatten)

def shiftRows (a : Bytes) : Bytes := (List.range 16).map (fun i => byteAt a ((i + 4 * (i % 4)) % 16))
def invShiftRows (a : Bytes) : Bytes := (List.range 16).map (fun i => byteAt a ((i + 12 * (i % 4)) % 16))

/-- Each column multiplied by the circulant of four coefficients. -/
def mixWith (m : Bytes) (a : Bytes) : Bytes :=
  (List.range 16).map (fun i =>
    (List.range 4).foldl (fun r k => r ^^^ gmul (byteAt m k) (byteAt a (4 * (i / 4) + (i + k) % 4))) 0)

/-- The rounds with the keys from the second on; the last does not mix. -/
def aesRounds : List Bytes → Bytes → Bytes
  | [], a => a
  | [k], a => xorBytes k (shiftRows (a.map subByte))
  | k :: ks, a => aesRounds ks (xorBytes k (mixWith [2, 3, 1, 1] (shiftRows (a.map subByte))))

def aesEncipher (key : Bytes) (a : Bytes) : Bytes :=
  match roundKeys key with
  | k :: ks => aesRounds ks (xorBytes k a)
  | [] => a

/-- The same backwards, with the keys from the last but one down to the first. -/
def aesUnrounds : List Bytes → Bytes → Bytes
  | [], a => a
  | [k], a => xorBytes k ((invShiftRows a).map invSubByte)
  | k :: ks, a => aesUnrounds ks (mixWith [14, 11, 13, 9] (xorBytes k ((invShiftRows a).map invSubByte)))

def aesDecipher (key : Bytes) (a : Bytes) : Bytes :=
  match (roundKeys key).reverse with
  | k :: ks => aesUnrounds ks (xorBytes k a)
  | [] => a

/-! ### XTS, R319, R412 -/

/-- The data key and the tweak key, bytes 0 to 31 and 32 to 63 of the key block (R319). -/
def keyBytes (k : BitVec 512) : Bytes × Bytes :=
  let bs := (List.range 64).map (fun j => k.extractLsb' (8 * j) 8)
  (bs.take 32, bs.drop 32)

/-- The product of a tweak with x in GF(2^128). -/
def doubled (t : BitVec 128) : BitVec 128 := (t <<< 1) ^^^ (if t.getLsbD 127 then 0x87 else 0)
def bytes16 (x : BitVec 128) : Bytes := (List.range 16).map (fun k => x.extractLsb' (8 * k) 8)
def word16 (bs : Bytes) : BitVec 128 := bs.foldr (fun b x => x <<< 8 ||| b.setWidth 128) 0

/-- The tweak of block j of a line. -/
def xtsTweak (key : BitVec 512) (line j : Nat) : Bytes :=
  let t := word16 (aesEncipher (keyBytes key).2 (bytes16 (BitVec.ofNat 128 line)))
  bytes16 ((List.range j).foldl (fun t _ => doubled t) t)

/-- Block j of a line, enciphered and deciphered. -/
def xtsEncipher (key : BitVec 512) (line j : Nat) (a : Bytes) : Bytes :=
  let t := xtsTweak key line j
  xorBytes t (aesEncipher (keyBytes key).1 (xorBytes t a))
def xtsDecipher (key : BitVec 512) (line j : Nat) (a : Bytes) : Bytes :=
  let t := xtsTweak key line j
  xorBytes t (aesDecipher (keyBytes key).1 (xorBytes t a))

/-- A block of 16 bytes at a PA that was written under one key, as another key deciphers it. -/
def reciphered (written used : BitVec 512) (pa : Nat) (a : Bytes) : Bytes :=
  let line := pa % 2 ^ 48 / 128
  let j := pa / 16 % 8
  xtsDecipher used line j (xtsEncipher written line j a)

end Sys2Proof.Machine
end

