-- ==== Sys2Proof/Syntax.lean ====
section
/-! DEFINITION. The instructions of the TVD-8 (R158) and the steps of its other agents, as data. -/

namespace Sys2Proof

/-- Scope suffixes, R9. -/
inductive Scope | w | t | c | s | d | n | y
deriving DecidableEq, Repr

/-- Cache hints, R151. -/
inductive Hint | alloc | stream | noalloc
deriving DecidableEq, Repr

/-- Access widths, R151. -/
inductive Width | u8 | s8 | u16 | s16 | b32 | b64 | b128
deriving DecidableEq, Repr

/-- Comparisons, R151; `un` is FSET's alone. -/
inductive Cond | eq | ne | lt | le | gt | ge | un
deriving DecidableEq, Repr

/-- Rounding modes, R13, in the code order of R151. -/
inductive Rm | rn | rz | ru | rd | rna
deriving DecidableEq, Repr

/-- Roles, R30. -/
inductive Role | general | copy | matrix | vector
deriving DecidableEq, Repr

/-- The guard G of R148: predicate number and inversion. `?p7` is the unguarded form. -/
structure Guard where
  p : Fin 8
  neg : Bool
deriving DecidableEq, Repr

/-- What every instruction carries beside its operands: the guard and the W field (R46). -/
structure Hdr where
  g : Guard
  nw : Bool
  latch : Option (Fin 4)
deriving DecidableEq, Repr

/-- A source operand under R41. -/
inductive Src
  | v (n : Fin 192)
  | s (n : Fin 64)
  | bp (n : Fin 4)
deriving DecidableEq, Repr

/-- A destination register under R41. -/
inductive Reg
  | v (n : Fin 192)
  | s (n : Fin 64)
deriving DecidableEq, Repr

/-- The last source of a form with an I96 variant (R154): a register or the IMM32. -/
inductive SrcI
  | reg (r : Src)
  | imm (x : Word)
deriving DecidableEq, Repr

/-- A 64-bit source of IADD64 (R155, R200). -/
inductive Src64
  | reg (r : Src)
  | imm (x : DWord)
deriving DecidableEq, Repr

/-- A predicate source, R149. -/
structure PSrc where
  neg : Bool
  p : Fin 8
deriving DecidableEq, Repr

/-- An address operand: the base and, in the I96 form, the signed byte offset (R154). -/
structure Addr where
  base : Src
  off : Option Word
deriving DecidableEq, Repr

/-- The M sub-fields of LD, ST, LDA, STL, LDS and STS (R152). -/
structure AccM where
  scope : Scope
  hint : Hint
  strong : Bool
  width : Width
deriving DecidableEq, Repr

/-- The M sub-fields of ATOM and ACAS (R152). -/
structure AtomM where
  scope : Scope
  hint : Hint
  ord : Bool
  w64 : Bool
  u : Bool
deriving DecidableEq, Repr

/-- The operand modifiers of page 2 (R209). On complex opcodes aa and ab conjugate. -/
structure FMod where
  na : Bool
  nb : Bool
  nc : Bool
  aa : Bool
  ab : Bool
  sat : Bool
  rm : Rm
deriving DecidableEq, Repr

/-- VOTE's form with its destination (R177, R181). -/
inductive VoteOp
  | all (p : Fin 8)
  | any (p : Fin 8)
  | eq (p : Fin 8)
  | ballot (d : Reg)
deriving DecidableEq, Repr

/-- SHFL's MODE (R181). -/
inductive ShflMode | pick | rot | rev | seg
deriving DecidableEq, Repr

/-- SPAWN's FORM (R180). -/
inductive SpawnForm
  | plain
  | wait
  | try_ (p : Fin 8)
deriving DecidableEq, Repr

/-- GETID's KIND (R182). -/
inductive IdKind | lane | warp | ctx | core | sector | pkg | team | nteams | lcore | depth
deriving DecidableEq, Repr

/-- MOVI's immediate (R207). -/
inductive MoviImm
  | i32 (x : Word)
  | i64 (x : DWord)
deriving DecidableEq, Repr

/-- LEA's forms (R200, R208): B register, IMM32, or B register with the X64 displacement. -/
inductive LeaForm
  | reg (b : Src)
  | imm (x : Word)
  | wide (b : Src) (e : DWord)
deriving DecidableEq, Repr

/-- FCVT's TYPE, R54 codes 0x1 to 0x8 (R153). -/
inductive ElemTy | bf16 | f16 | e4m3 | e5m2 | e3m2 | e2m3 | e2m1 | mxi8
deriving DecidableEq, Repr

/-- ICVT's FT (R153). -/
inductive FTy | f32 | f16 | bf16
deriving DecidableEq, Repr

/-- ICVT's IT (R153). -/
inductive ITy | s8 | u8 | s16 | s32 | u32 | s64
deriving DecidableEq, Repr

/-- CPYIN and CPYOUT's SCV, SCOPE and HINT (R234). -/
structure CpyM where
  scope : Option Scope
  hint : Hint
deriving DecidableEq, Repr

/-- TDECL's shape operand (R236). -/
inductive TdeclSrc
  | reg (a : Src)
  | imm (x : DWord)
deriving DecidableEq, Repr

/-- RPUSH's tile operand (R240). -/
inductive RpSrc
  | tile (t : Fin 32)
  | reg (b : Src)
deriving DecidableEq, Repr

/-- The MP extension of R157. -/
structure MpExt where
  mo : Bool
  ko : Bool
  movr : BitVec 12
  kovr : BitVec 12
  pbo : Word
deriving DecidableEq, Repr

/-- The fields that every stream-vector instruction carries (R156, R252). -/
structure VsM where
  sreg : Fin 64
  rm : Rm
  cnt : BitVec 12
  sd : BitVec 12
  sa : BitVec 12
  sb : BitVec 12
deriving DecidableEq, Repr

/-- The B operand of VADD to VMIN: a tile, or with SEG.BS a scalar (R252). -/
inductive VsB
  | tile (t : Fin 32)
  | scalar (r : Src)
deriving DecidableEq, Repr

/-- VRED's ROP (R252). -/
inductive RedOp | sum | max | min
deriving DecidableEq, Repr

/-- BEVPOOL's target: the completion word's address pair (TOT = 0) or a tile (TOT = 1) (R258). -/
inductive BevTgt
  | mem (b : Src)
  | tile (d : Fin 32)
deriving DecidableEq, Repr

/-- The last operand of STAMP and LEAVE: a register (B64) or an immediate (I96) (R304). -/
abbrev RegOrImm := SrcI

/-- Opcodes and agents' steps: one constructor for each row of the opcode table. The constructors up to
`setkey` have an encoding; those after it are the steps of the device's other agents and of the host,
named by the object that they concern. -/
inductive Instr
  -- page 0, R177
  | nop (h : Hdr)
  | bra (h : Hdr) (disp : Word)
  | brc (h : Hdr) (cond : Cond) (u : Bool) (a : Src) (disp : Word)
  | jmpi (h : Hdr) (a : Src)
  | call (h : Hdr) (d : Reg) (disp : Word)
  | ret (h : Hdr) (a : Src)
  | reform (h : Hdr)
  | yield (h : Hdr)
  | exit (h : Hdr)
  | spawn (h : Hdr) (form : SpawnForm) (a : Fin 192) (disp : Word)
  | elect (h : Hdr) (pd : Fin 8)
  | vote (h : Hdr) (op : VoteOp) (ps : PSrc)
  | shfl (h : Hdr) (mode : ShflMode) (d : Reg) (a : Src) (b : SrcI)
  | bar (h : Hdr) (n : Fin 8)
  | phase (h : Hdr) (scope : Scope)
  | emit (h : Hdr) (edge : Fin 8) (pd : Fin 8) (a : Src)
  | region (h : Hdr)
  | tryOpen (h : Hdr) (disp : Word)
  | tcommit (h : Hdr)
  | tcommitLane (h : Hdr)
  | tabort (h : Hdr) (value : Byte)
  | tabortLane (h : Hdr) (value : Byte)
  | tstat (h : Hdr) (d : Reg)
  | getid (h : Hdr) (kind : IdKind) (d : Reg)
  | brk (h : Hdr) (code : Byte)
  -- page 1, R200
  | iadd (h : Hdr) (sat u : Bool) (d : Reg) (a : Src) (b : SrcI)
  | isub (h : Hdr) (sat u : Bool) (d : Reg) (a : Src) (b : SrcI)
  | imul (h : Hdr) (d : Reg) (a : Src) (b : SrcI)
  | imulh (h : Hdr) (u : Bool) (d : Reg) (a : Src) (b : SrcI)
  | imad (h : Hdr) (d : Reg) (a b : Src) (c : SrcI)
  | iadd64 (h : Hdr) (sub : Bool) (d : Reg) (a : Src) (b : Src64)
  | imul64 (h : Hdr) (w u : Bool) (d : Reg) (a b : Src)
  | idiv (h : Hdr) (tz u : Bool) (d : Reg) (a : Src) (b : SrcI)
  | irem (h : Hdr) (tz u : Bool) (d : Reg) (a : Src) (b : SrcI)
  | imin (h : Hdr) (u : Bool) (d : Reg) (a : Src) (b : SrcI)
  | imax (h : Hdr) (u : Bool) (d : Reg) (a : Src) (b : SrcI)
  | iabs (h : Hdr) (sat : Bool) (d : Reg) (a : Src)
  | and (h : Hdr) (d : Reg) (a : Src) (b : SrcI)
  | or (h : Hdr) (d : Reg) (a : Src) (b : SrcI)
  | xor (h : Hdr) (d : Reg) (a : Src) (b : SrcI)
  | andn (h : Hdr) (d : Reg) (a : Src) (b : SrcI)
  | shl (h : Hdr) (d : Reg) (a : Src) (b : SrcI)
  | shr (h : Hdr) (d : Reg) (a : Src) (b : SrcI)
  | sar (h : Hdr) (d : Reg) (a : Src) (b : SrcI)
  | rotl (h : Hdr) (d : Reg) (a : Src) (b : SrcI)
  | bfx (h : Hdr) (u : Bool) (d : Reg) (a : Src) (b : SrcI)
  | bfi (h : Hdr) (d : Reg) (a b : Src) (c : SrcI)
  | popc (h : Hdr) (d : Reg) (a : Src)
  | clz (h : Hdr) (d : Reg) (a : Src)
  | iset (h : Hdr) (cond : Cond) (u : Bool) (pd : Fin 8) (a : Src) (b : SrcI)
  | sel (h : Hdr) (d : Reg) (p : PSrc) (a : Src) (b : SrcI)
  | mov (h : Hdr) (d : Reg) (a : Src)
  | movi (h : Hdr) (d : Reg) (imm : MoviImm)
  | lea (h : Hdr) (u : Bool) (sh : Fin 8) (d : Reg) (a : Src) (f : LeaForm)
  -- page 2, R209, R213, R216, R217
  | fadd (h : Hdr) (m : FMod) (d : Reg) (a : Src) (b : SrcI)
  | fsub (h : Hdr) (m : FMod) (d : Reg) (a : Src) (b : SrcI)
  | fmul (h : Hdr) (m : FMod) (d : Reg) (a : Src) (b : SrcI)
  | ffma (h : Hdr) (m : FMod) (d : Reg) (a b : Src) (c : SrcI)
  | fmin (h : Hdr) (m : FMod) (d : Reg) (a : Src) (b : SrcI)
  | fmax (h : Hdr) (m : FMod) (d : Reg) (a : Src) (b : SrcI)
  | fset (h : Hdr) (cond : Cond) (rm : Rm) (pd : Fin 8) (a : Src) (b : SrcI)
  | fcls (h : Hdr) (d : Reg) (a : Src)
  | frnd (h : Hdr) (m : FMod) (d : Reg) (a : Src)
  | fscale (h : Hdr) (m : FMod) (d : Reg) (a : Src) (b : SrcI)
  | fcvt (h : Hdr) (toF32 : Bool) (ty : ElemTy) (sat : Bool) (rm : Rm) (d : Reg) (a : Src)
  | icvt (h : Hdr) (toInt : Bool) (ft : FTy) (it : ITy) (rm : Rm) (d : Reg) (a : Src)
  | hfma2 (h : Hdr) (m : FMod) (d : Reg) (a b c : Src)
  | hadd2 (h : Hdr) (m : FMod) (d : Reg) (a b : Src)
  | hmul2 (h : Hdr) (m : FMod) (d : Reg) (a b : Src)
  | bfma2 (h : Hdr) (m : FMod) (d : Reg) (a b c : Src)
  | cadd (h : Hdr) (m : FMod) (d : Reg) (a b : Src)
  | csub (h : Hdr) (m : FMod) (d : Reg) (a b : Src)
  | cmul (h : Hdr) (m : FMod) (d : Reg) (a b : Src)
  | cfma (h : Hdr) (m : FMod) (d : Reg) (a b c : Src)
  | cmag2 (h : Hdr) (m : FMod) (d : Reg) (a : Src)
  | cscale (h : Hdr) (m : FMod) (d : Reg) (a : Src) (b : SrcI)
  -- page 3, R220
  | ld (h : Hdr) (m : AccM) (d : Reg) (ad : Addr)
  | st (h : Hdr) (m : AccM) (ad : Addr) (b : Src)
  | lds (h : Hdr) (m : AccM) (d : Reg) (ad : Addr)
  | sts (h : Hdr) (m : AccM) (ad : Addr) (b : Src)
  | ldw (h : Hdr) (d : Reg) (ad : Addr)
  | stw (h : Hdr) (ad : Addr) (b : Src)
  | lda (h : Hdr) (m : AccM) (d : Reg) (ad : Addr)
  | stl (h : Hdr) (m : AccM) (ad : Addr) (b : Src)
  | atomAdd (h : Hdr) (m : AtomM) (d : Reg) (ad : Addr) (b : Src)
  | atomMin (h : Hdr) (m : AtomM) (d : Reg) (ad : Addr) (b : Src)
  | atomMax (h : Hdr) (m : AtomM) (d : Reg) (ad : Addr) (b : Src)
  | atomAnd (h : Hdr) (m : AtomM) (d : Reg) (ad : Addr) (b : Src)
  | atomOr (h : Hdr) (m : AtomM) (d : Reg) (ad : Addr) (b : Src)
  | atomXor (h : Hdr) (m : AtomM) (d : Reg) (ad : Addr) (b : Src)
  | atomXchg (h : Hdr) (m : AtomM) (d : Reg) (ad : Addr) (b : Src)
  | atomFadd (h : Hdr) (m : AtomM) (d : Reg) (ad : Addr) (b : Src)
  | acas (h : Hdr) (m : AtomM) (d : Reg) (ad : Addr) (b c : Src)
  | fence (h : Hdr) (scope : Scope)
  | mcast (h : Hdr) (t : Fin 32) (a b : Src)
  | pref (h : Hdr) (hint : Hint) (ad : Addr)
  -- page 4, R234
  | tdecl (h : Hdr) (t : Fin 32) (src : TdeclSrc)
  | tarm (h : Hdr) (t : Fin 32)
  | cpyin (h : Hdr) (m : CpyM) (t : Fin 32) (ad : Addr) (b : Src)
  | cpyout (h : Hdr) (free : Bool) (m : CpyM) (t : Fin 32) (ad : Addr) (b : Src)
  | tstate (h : Hdr) (d : Reg) (t : Fin 32)
  | tfree (h : Hdr) (t : Fin 32)
  | rrot (h : Hdr) (ring dn : Bool) (t : Fin 32)
  | rpush (h : Hdr) (r : Fin 8) (src : RpSrc)
  | rpop (h : Hdr) (d : Reg) (r : Fin 8)
  | movTshFromS (h : Hdr) (t : Fin 32) (a : Src)
  | movSFromTsh (h : Hdr) (d : Reg) (t : Fin 32)
  | movQFromV (h : Hdr) (q : Fin 4) (a : Src)
  | movVFromQ (h : Hdr) (d : Reg) (q : Fin 4)
  -- page 5, R242, R252, R258
  | mlw (h : Hdr) (x : MpExt)
  | mma (h : Hdr) (x : MpExt)
  | mq (h : Hdr) (x : MpExt)
  | vadd (h : Hdr) (m : VsM) (nb : Bool) (d a : Fin 32) (b : VsB)
  | vsub (h : Hdr) (m : VsM) (nb : Bool) (d a : Fin 32) (b : VsB)
  | vmul (h : Hdr) (m : VsM) (nb : Bool) (d a : Fin 32) (b : VsB)
  | vfma (h : Hdr) (m : VsM) (nb : Bool) (d a : Fin 32) (b : VsB)
  | vmax (h : Hdr) (m : VsM) (nb : Bool) (d a : Fin 32) (b : VsB)
  | vmin (h : Hdr) (m : VsM) (nb : Bool) (d a : Fin 32) (b : VsB)
  | vred (h : Hdr) (m : VsM) (rop : RedOp) (d a : Fin 32)
  | vcvt (h : Hdr) (m : VsM) (sat : Bool) (d a : Fin 32)
  | vqnt (h : Hdr) (m : VsM) (sat : Bool) (d a b : Fin 32)
  | vdeq (h : Hdr) (m : VsM) (d a b : Fin 32)
  | vcpy (h : Hdr) (m : VsM) (d a : Fin 32)
  | voxin (h : Hdr) (nocap : Bool) (d : Reg) (a b : Src)
  | bevpool (h : Hdr) (sum clr : Bool) (tgt : BevTgt) (a : Src)
  -- page 6, R265
  | traceNew (h : Hdr) (node : Bool) (d : Reg) (a : Src)
  | trace (h : Hdr) (node : Bool) (d : Reg) (a : Src)
  | tnext (h : Hdr) (d : Reg) (a : Src)
  | thit (h : Hdr) (fin : Bool) (d : Reg) (a : Src)
  | spawnray (h : Hdr) (d : Reg) (a b c : Src)
  | boxin (h : Hdr) (d : Reg) (a b : Src)
  | edge (h : Hdr) (cov : Bool) (d : Reg) (a b c : Src)
  | snap (h : Hdr) (d : Reg) (a b : Src)
  | bin (h : Hdr) (d : Reg) (a b : Src)
  | binClose (h : Hdr) (d : Reg)
  | binReset (h : Hdr) (d : Reg)
  | visres (h : Hdr) (d : Reg) (a : Src)
  | pidld (h : Hdr) (d : Reg) (a : Src)
  | anim (h : Hdr) (d : Reg) (a b : Src)
  -- page 7, R304
  | rdclk (h : Hdr) (d : Reg)
  | rdtmr (h : Hdr) (d : Reg)
  | stamp (h : Hdr) (src : RegOrImm)
  | trap (h : Hdr) (code : Option Byte)
  | mfs (h : Hdr) (d : Reg) (num : Word)
  | mts (h : Hdr) (num : Word) (a : Src)
  | eret (h : Hdr)
  | fenceMap (h : Hdr) (scope : Scope)
  | mapsync (h : Hdr)
  | ctxsave (h : Hdr) (d : Reg) (a : Src)
  | ctxload (h : Hdr) (d : Reg) (a : Src)
  | preempt (h : Hdr) (d : Reg) (a : Src)
  | leave (h : Hdr) (src : RegOrImm)
  | setkey (h : Hdr) (d : Reg) (a b : Src)
  -- bins and issue, R22, R23, R28
  | binAgeExpiry (core bin : Nat)
  | binFixedAgeExpiry (core bin : Nat)
  | binSlotFile (core bin : Nat)
  | yieldSkipExpiry (team warp : Nat)
  -- results and synchronisation, R183, R85, R198, R223
  | loadDataArrival
  | resultWriteback
  | barrierCompletion (team : Nat) (n : Fin 8)
  | phaseNumberExchange (team neighbour : Nat)
  -- tile engines, R63, R67, R72, R73, R238
  | cpyinCompletion (op : Nat)
  | cpyoutCompletion (op : Nat)
  | mcastRequestArrival (op : Nat)
  | mergeRequestArrival (mc op : Nat)
  | mergeWindowClose (mc : Nat)
  | mcastFirstBeatArrival (mc core : Nat)
  | mcastDeliveryComplete (mc core : Nat)
  | rrotRotation (inst : Nat) (t : Fin 32)
  | rrotCompletion (team : Nat) (t : Fin 32)
  -- Luna, the stream vector unit and the point unit, R248 to R264
  | mlwLatch (op : Nat)
  | mmaCompletion (op : Nat)
  | mqCompletion (op : Nat)
  | streamVectorCompletion (op : Nat)
  | voxinInsertion (op : Nat)
  | bevpoolCompletion (op : Nat)
  -- Anole and Skink, R273, R279
  | traceBatchCompletion (op : Nat)
  | frameResolved (team : Nat)
  -- messages, ordered accesses and the replay gate, R75, R230, R393
  | flitArrival
  | flitRetry
  | ordAccessArrival (acc : Nat)
  | replayGateArrival (acc : Nat)
  -- governor, R318, R411
  | leaveRequestArrival
  | leaveGrant
  | grantLapse (team : Nat)
  -- Cecropia, R350 to R358
  | translationWalk
  | migrateFreeze (space : Nat) (ia : Nat)
  | migrateCopy (space : Nat) (ia : Nat)
  | swing (space : Nat) (ia : Nat)
  | unfreeze (space : Nat) (ia : Nat)
  | hotUpdate (k : Nat)
  -- faults and saves, R368 to R381
  | lateRegionFault (team warp : Nat)
  | pageFaultSave (team : Nat)
  | engineFault (op : Nat)
  | deferredWriteFault (core : Nat)
  | mcheck (space : Nat) (sub : Byte) (ad : DWord)
  | softErrorCorrection (slice : Bool) (n : Nat)
  | priorityPreemption (team : Nat)
  | teamRestore (team core : Nat)
  | warpTimerFire (team warp : Nat)
  -- Hawkmoth, R320 to R342
  | recordAdmission (queue : Nat)
  | instanceFormation (record node edge : Nat)
  | teamPlacement (inst : Nat)
  | coreReservation
  | logicalClusterSwitch (cluster : Nat)
  | teamGone (team : Nat)
  | nodeInstanceEnd (inst : Nat)
  | recordCompletion (record : Nat)
  -- debug, R385 to R388
  | breakpointStop (team warp : Nat) (lane : Fin 32)
  | stepStop (team warp : Nat)
  | debugEventWrite
  | halt (space : Nat)
  | resume (space : Nat)
  | stepon (space : Nat)
  | stepoff (space : Nat)
  | debugRightRevoke (space : Nat)
  -- system-register writes, R293, R311, R344, R381
  | tmrcmpWrite (team warp : Nat) (x : Word)
  | qdestWrite (team warp : Nat) (q : Fin 4) (x : Word)
  | hiWordWrite (space : Nat) (num x : Word)
  | loWordWrite (space : Nat) (num x : Word)
  | rangeWord0Install (space : Nat) (reg : Fin 8) (x : Word)
  | sysregWrite (space : Nat) (num x : Word)
  -- host control block and bring-up, R404 to R413
  | pkgrst
  | load
  | attest
  | partitionEnable (p : Fin 8)
  | partitionDisable (p : Fin 8)
  | heavybWrite (x : Word)
  | hcbWrite (off : BitVec 16) (x : Word)
  | powerOn
  | linkTraining
  | memoryTraining (failed : Option (Fin 8))
  -- links, R363, R415, R416
  | xreq (space : Nat) (ia : Nat) (write : Bool)
  | xrsp
  | preq (space : Nat) (ia : Nat)
  | prsp (accept : Bool)
  | inv
  | invack
  | fabricPortFailure (peer : Fin 8) (port : Fin 2)
  | hostAccess (space : Nat) (ia : Nat) (write : Option Word)
deriving DecidableEq, Repr

end Sys2Proof
end

