-- ==== Sys2Proof/WellFormed.lean ====
section
/-! DEFINITION. Which terms of `Instr` an encoding exists for: the reserved values of R9, R148 to R157 and
of the pages' own tables are the terms that are not well formed. -/

namespace Sys2Proof

/-- A request word of LEAVE, R318. -/
def leaveWordOk (x : Word) : Bool :=
  x == 0 || (x &&& 0xFFFF00F0 == 0 && x.extractLsb' 8 8 != 0 && 1 ≤ x.extractLsb' 0 4 && x.extractLsb' 0 4 ≤ 4)

/-- The guard of R148: `?!p7` is reserved. -/
def Hdr.wf (h : Hdr) : Bool := !(h.g.neg && h.g.p == 7)

def Src.isV : Src → Bool | .v _ => true | _ => false
def Src.isS : Src → Bool | .s _ => true | _ => false
def Src.isLatch : Src → Bool | .bp _ => true | _ => false
def Reg.isS : Reg → Bool | .s _ => true | _ => false

/-- R152: an ordinary access carries scope .W; LDS and STS carry no hint. -/
def AccM.wf (m : AccM) (lds st : Bool) : Bool :=
  (m.strong || m.scope == .w) && (!lds || m.hint == .alloc) && (!st || (m.width != .s8 && m.width != .s16))

/-- R220 and R152: LDA and STL have no STRONG bit. -/
def AccM.wfAcq (m : AccM) (st : Bool) : Bool := !m.strong && (!st || (m.width != .s8 && m.width != .s16))

/-- R220: U and W64 only where the operation has them. -/
def AtomM.wf (m : AtomM) (u w64 : Bool) : Bool := (u || !m.u) && (w64 || !m.w64)

/-- R209: only the marked modifiers. -/
def FMod.wf (m : FMod) (nb nc aa ab sat : Bool) : Bool :=
  (nb || !m.nb) && (nc || !m.nc) && (aa || !m.aa) && (ab || !m.ab) && (sat || !m.sat)

/-- R156, and R252: SB is 0 where no tile is read as B. -/
def VsM.wf (m : VsM) (tileB : Bool) : Bool := (m.cnt == 0 || m.sreg == 0) && (tileB || m.sb == 0)

def VsB.isTile : VsB → Bool
  | .tile _ => true
  | .scalar _ => false

/-- R157, R242. -/
def MpExt.wf (x : MpExt) (mo ko : Bool) : Bool :=
  x.pbo.extractLsb' 0 6 == 0 && (mo || (!x.mo && x.movr == 0)) && (ko || (!x.ko && x.kovr == 0))

/-- An operand that a field of R149's s-register (v-register) pair kind admits; a latch is refused later. -/
def Src.sKind (a : Src) : Bool := !a.isV
def Src.vKind (a : Src) : Bool := !a.isS

/-- R46: only a latch is written, and D is ignored. -/
def Hdr.dFree (h : Hdr) : Bool := h.nw && h.latch.isSome

/-- The header of an instruction that has an encoding. -/
def Instr.hdr? : Instr → Option Hdr
  | .nop h | .bra h _ | .brc h _ _ _ _ | .jmpi h _ | .call h _ _ | .ret h _ | .reform h | .yield h | .exit h
  | .spawn h _ _ _ | .elect h _ | .vote h _ _ | .shfl h _ _ _ _ | .bar h _ | .phase h _ | .emit h _ _ _
  | .region h | .tryOpen h _ | .tcommit h | .tcommitLane h | .tabort h _ | .tabortLane h _ | .tstat h _
  | .getid h _ _ | .brk h _ | .iadd h _ _ _ _ _ | .isub h _ _ _ _ _ | .imul h _ _ _ | .imulh h _ _ _ _
  | .imad h _ _ _ _ | .iadd64 h _ _ _ _ | .imul64 h _ _ _ _ _ | .idiv h _ _ _ _ _ | .irem h _ _ _ _ _
  | .imin h _ _ _ _ | .imax h _ _ _ _ | .iabs h _ _ _ | .and h _ _ _ | .or h _ _ _ | .xor h _ _ _
  | .andn h _ _ _ | .shl h _ _ _ | .shr h _ _ _ | .sar h _ _ _ | .rotl h _ _ _ | .bfx h _ _ _ _
  | .bfi h _ _ _ _ | .popc h _ _ | .clz h _ _ | .iset h _ _ _ _ _ | .sel h _ _ _ _ | .mov h _ _
  | .movi h _ _ | .lea h _ _ _ _ _ | .fadd h _ _ _ _ | .fsub h _ _ _ _ | .fmul h _ _ _ _
  | .ffma h _ _ _ _ _ | .fmin h _ _ _ _ | .fmax h _ _ _ _ | .fset h _ _ _ _ _ | .fcls h _ _
  | .frnd h _ _ _ | .fscale h _ _ _ _ | .fcvt h _ _ _ _ _ _ | .icvt h _ _ _ _ _ _ | .hfma2 h _ _ _ _ _
  | .hadd2 h _ _ _ _ | .hmul2 h _ _ _ _ | .bfma2 h _ _ _ _ _ | .cadd h _ _ _ _ | .csub h _ _ _ _
  | .cmul h _ _ _ _ | .cfma h _ _ _ _ _ | .cmag2 h _ _ _ | .cscale h _ _ _ _ | .ld h _ _ _ | .st h _ _ _
  | .lds h _ _ _ | .sts h _ _ _ | .ldw h _ _ | .stw h _ _ | .lda h _ _ _ | .stl h _ _ _
  | .atomAdd h _ _ _ _ | .atomMin h _ _ _ _ | .atomMax h _ _ _ _ | .atomAnd h _ _ _ _ | .atomOr h _ _ _ _
  | .atomXor h _ _ _ _ | .atomXchg h _ _ _ _ | .atomFadd h _ _ _ _ | .acas h _ _ _ _ _ | .fence h _
  | .mcast h _ _ _ | .pref h _ _ | .tdecl h _ _ | .tarm h _ | .cpyin h _ _ _ _ | .cpyout h _ _ _ _ _
  | .tstate h _ _ | .tfree h _ | .rrot h _ _ _ | .rpush h _ _ | .rpop h _ _ | .movTshFromS h _ _
  | .movSFromTsh h _ _ | .movQFromV h _ _ | .movVFromQ h _ _ | .mlw h _ | .mma h _ | .mq h _
  | .vadd h _ _ _ _ _ | .vsub h _ _ _ _ _ | .vmul h _ _ _ _ _ | .vfma h _ _ _ _ _ | .vmax h _ _ _ _ _
  | .vmin h _ _ _ _ _ | .vred h _ _ _ _ | .vcvt h _ _ _ _ | .vqnt h _ _ _ _ _ | .vdeq h _ _ _ _
  | .vcpy h _ _ _ | .voxin h _ _ _ _ | .bevpool h _ _ _ _ | .traceNew h _ _ _ | .trace h _ _ _
  | .tnext h _ _ | .thit h _ _ _ | .spawnray h _ _ _ _ | .boxin h _ _ _ | .edge h _ _ _ _ _ | .snap h _ _ _
  | .bin h _ _ _ | .binClose h _ | .binReset h _ | .visres h _ _ | .pidld h _ _ | .anim h _ _ _
  | .rdclk h _ | .rdtmr h _ | .stamp h _ | .trap h _ | .mfs h _ _ | .mts h _ _ | .eret h | .fenceMap h _
  | .mapsync h | .ctxsave h _ _ | .ctxload h _ _ | .preempt h _ _ | .leave h _ | .setkey h _ _ _ => some h
  | _ => none

/-- The conditions beside the header's: no modifier that the opcode does not have, no reserved value. -/
def Instr.fieldsWf : Instr → Bool
  | .brc _ c _ _ _ => c != .un
  | .iadd _ s u _ _ _ | .isub _ s u _ _ _ => !u || s
  | .iset _ c _ _ _ _ => c != .un
  | .fadd _ m _ _ _ | .fsub _ m _ _ _ | .fmul _ m _ _ _ => m.wf true false true true true
  | .ffma _ m _ _ _ _ => m.wf true true true true true
  | .fmin _ m _ _ _ | .fmax _ m _ _ _ => m.wf true false true true false
  | .frnd _ m _ _ | .fscale _ m _ _ _ => m.wf false false true false true
  | .fcvt _ dir ty sat rm _ _ => (!sat || ty == .e5m2) && (!dir || rm == .rn)
  | .hfma2 _ m _ _ _ _ | .bfma2 _ m _ _ _ _ => m.wf true true false false true
  | .hadd2 _ m _ _ _ | .hmul2 _ m _ _ _ => m.wf true false false false true
  | .cadd _ m _ _ _ | .csub _ m _ _ _ | .cmul _ m _ _ _ => m.wf true false true true false
  | .cfma _ m _ _ _ _ => m.wf true true true true false
  | .cmag2 _ m _ _ => !m.na && m.wf false false true false false
  | .cscale _ m _ _ _ => m.wf true false true false false
  | .ld _ m _ _ => m.wf false false
  | .st _ m _ _ => m.wf false true
  | .lds _ m _ _ => m.wf true false
  | .sts _ m _ _ => m.wf true true
  | .lda _ m _ _ => m.wfAcq false
  | .stl _ m _ _ => m.wfAcq true
  | .atomMin _ m _ _ _ | .atomMax _ m _ _ _ => m.wf true true
  | .atomAdd _ m _ _ _ | .atomAnd _ m _ _ _ | .atomOr _ m _ _ _ | .atomXor _ m _ _ _
  | .atomXchg _ m _ _ _ | .acas _ m _ _ _ _ => m.wf false true
  | .atomFadd _ m _ _ _ => m.wf false false
  | .tdecl _ _ (.reg a) => a.sKind
  | .movTshFromS _ _ a => a.sKind
  | .movSFromTsh h d _ => h.dFree || d.isS
  | .movQFromV _ _ a => a.vKind
  | .movVFromQ h d _ => h.dFree || !d.isS
  | .mlw _ x => x.wf false true
  | .mma _ x => x.wf true true
  | .mq _ x => x.wf true false
  | .vadd _ m _ _ _ b | .vsub _ m _ _ _ b | .vmul _ m _ _ _ b | .vfma _ m _ _ _ b | .vmax _ m _ _ _ b
  | .vmin _ m _ _ _ b => m.wf b.isTile
  | .vred _ m _ _ _ | .vcvt _ m _ _ _ => m.wf false
  | .vqnt _ m _ _ _ _ | .vdeq _ m _ _ _ => m.wf true
  | .vcpy _ m _ _ => m.wf false && m.rm == .rn
  | .stamp _ (.imm x) => x.extractLsb' 16 16 == 0
  | .leave _ (.imm x) => leaveWordOk x
  | _ => true

/-- A well-formed instruction: one that some bits stand for. -/
def Instr.wf (i : Instr) : Bool :=
  match i.hdr? with
  | some h => h.wf && i.fieldsWf
  | none => false

end Sys2Proof
end

