-- ==== Sys2Proof/Decode.lean ====
section
/-! DEFINITION. The decoder, steps 1 to 8 of R161 over the opcode map of R158, and the encoder written
from the same tables (R177, R200, R209, R220, R234, R242, R252, R258, R265, R304). -/

namespace Sys2Proof

/-- The subcodes of ILLOP, R163. -/
inductive Ill
  | opcode | len | priv | rsvfield | operand | wfield | guard | cross | window | latch | pair
  | tshape | tarmed | ring | rshape | mcast | qoff | mxcombo | vcount
deriving DecidableEq, Repr

/-- The 8-bit value of a subcode, R163. -/
def illCode : Ill → Byte
  | .opcode => 0x00 | .len => 0x01 | .priv => 0x02 | .rsvfield => 0x03 | .operand => 0x04
  | .wfield => 0x05 | .guard => 0x06 | .cross => 0x07 | .window => 0x08 | .latch => 0x09
  | .pair => 0x0A | .tshape => 0x0B | .tarmed => 0x0C | .ring => 0x0D | .rshape => 0x0E
  | .mcast => 0x0F | .qoff => 0x10 | .mxcombo => 0x11 | .vcount => 0x12

/-! ### Words -/

/-- The fields of word 0 (R148) and the 64 bits above it. -/
structure Raw where
  ext : BitVec 64
  m : BitVec 9
  c : BitVec 9
  b : BitVec 9
  a : BitVec 9
  w : BitVec 4
  d : BitVec 8
  g : BitVec 4
  op : BitVec 10
  len : BitVec 2
deriving DecidableEq, Repr

/-- The fields of the bits of an instruction (R142, R148). -/
def rawOf (x : BitVec 128) : Raw where
  ext := x.extractLsb' 64 64
  m := x.extractLsb' 55 9
  c := x.extractLsb' 46 9
  b := x.extractLsb' 37 9
  a := x.extractLsb' 28 9
  w := x.extractLsb' 24 4
  d := x.extractLsb' 16 8
  g := x.extractLsb' 12 4
  op := x.extractLsb' 2 10
  len := x.extractLsb' 0 2

/-- The bits of the fields: R148's strip, the extension above it. -/
def bitsOf (r : Raw) : BitVec 128 :=
  r.ext ++ r.m ++ r.c ++ r.b ++ r.a ++ r.w ++ r.d ++ r.g ++ r.op ++ r.len

/-- Bytes of an instruction of length code `len` (R142); a SKIP word has four. -/
def lenBytes (len : BitVec 2) : Nat :=
  match len.toNat with
  | 0 => 8 | 1 => 12 | 2 => 16 | _ => 4

/-! ### Codes of the sub-fields -/

/-- R9. -/
def scopeBits : Scope → BitVec 3
  | .w => 0 | .t => 1 | .c => 2 | .s => 3 | .d => 4 | .n => 5 | .y => 6
def scopeOf (x : BitVec 3) : Scope :=
  match x.toNat with
  | 0 => .w | 1 => .t | 2 => .c | 3 => .s | 4 => .d | 5 => .n | _ => .y

/-- R151. -/
def hintBits : Hint → BitVec 2 | .alloc => 0 | .stream => 1 | .noalloc => 2
def hintOf (x : BitVec 2) : Hint := match x.toNat with | 0 => .alloc | 1 => .stream | _ => .noalloc

/-- R151. -/
def widthBits : Width → BitVec 3
  | .u8 => 0 | .s8 => 1 | .u16 => 2 | .s16 => 3 | .b32 => 4 | .b64 => 5 | .b128 => 6
def widthOf (x : BitVec 3) : Width :=
  match x.toNat with
  | 0 => .u8 | 1 => .s8 | 2 => .u16 | 3 => .s16 | 4 => .b32 | 5 => .b64 | _ => .b128

/-- R151. -/
def condBits : Cond → BitVec 3
  | .eq => 0 | .ne => 1 | .lt => 2 | .le => 3 | .gt => 4 | .ge => 5 | .un => 6
def condOf (x : BitVec 3) : Cond :=
  match x.toNat with
  | 0 => .eq | 1 => .ne | 2 => .lt | 3 => .le | 4 => .gt | 5 => .ge | _ => .un

/-- R151. -/
def rmBits : Rm → BitVec 3 | .rn => 0 | .rz => 1 | .ru => 2 | .rd => 3 | .rna => 4
def rmOf (x : BitVec 3) : Rm :=
  match x.toNat with
  | 0 => .rn | 1 => .rz | 2 => .ru | 3 => .rd | _ => .rna

/-- R182. -/
def idBits : IdKind → BitVec 4
  | .lane => 0 | .warp => 1 | .ctx => 2 | .core => 3 | .sector => 4 | .pkg => 5 | .team => 6
  | .nteams => 7 | .lcore => 8 | .depth => 9
def idOf (x : BitVec 4) : IdKind :=
  match x.toNat with
  | 0 => .lane | 1 => .warp | 2 => .ctx | 3 => .core | 4 => .sector | 5 => .pkg | 6 => .team
  | 7 => .nteams | 8 => .lcore | _ => .depth

/-- R54, R153. -/
def elemBits : ElemTy → BitVec 4
  | .bf16 => 1 | .f16 => 2 | .e4m3 => 3 | .e5m2 => 4 | .e3m2 => 5 | .e2m3 => 6 | .e2m1 => 7
  | .mxi8 => 8
def elemOf (x : BitVec 4) : ElemTy :=
  match x.toNat with
  | 1 => .bf16 | 2 => .f16 | 3 => .e4m3 | 4 => .e5m2 | 5 => .e3m2 | 6 => .e2m3 | 7 => .e2m1
  | _ => .mxi8

/-- R153. -/
def ftBits : FTy → BitVec 2 | .f32 => 0 | .f16 => 1 | .bf16 => 2
def ftOf (x : BitVec 2) : FTy := match x.toNat with | 0 => .f32 | 1 => .f16 | _ => .bf16
def itBits : ITy → BitVec 3 | .s8 => 0 | .u8 => 1 | .s16 => 2 | .s32 => 4 | .u32 => 5 | .s64 => 6
def itOf (x : BitVec 3) : ITy :=
  match x.toNat with
  | 0 => .s8 | 1 => .u8 | 2 => .s16 | 4 => .s32 | 5 => .u32 | _ => .s64

/-- R181. -/
def shflBits : ShflMode → BitVec 2 | .pick => 0 | .rot => 1 | .rev => 2 | .seg => 3
def shflOf (x : BitVec 2) : ShflMode :=
  match x.toNat with | 0 => .pick | 1 => .rot | 2 => .rev | _ => .seg

/-- R252. -/
def ropBits : RedOp → BitVec 2 | .sum => 0 | .max => 1 | .min => 2
def ropOf (x : BitVec 2) : RedOp := match x.toNat with | 0 => .sum | 1 => .max | _ => .min

/-! ### Operand fields, R41 and R149 -/

def bit (b : Bool) : BitVec 1 := BitVec.ofBool b

def srcBits : Src → BitVec 9
  | .v n => BitVec.ofNat 9 n.val
  | .s n => BitVec.ofNat 9 (192 + n.val)
  | .bp n => BitVec.ofNat 9 (256 + n.val)
def srcOf (x : BitVec 9) : Src :=
  if x.getLsbD 8 then .bp (Fin.ofNat 4 x.toNat)
  else if h : x.toNat < 192 then .v ⟨x.toNat, h⟩
  else .s (Fin.ofNat 64 (x.toNat - 192))

def regBits : Reg → BitVec 8
  | .v n => BitVec.ofNat 8 n.val
  | .s n => BitVec.ofNat 8 (192 + n.val)
def regOf (x : BitVec 8) : Reg :=
  if h : x.toNat < 192 then .v ⟨x.toNat, h⟩ else .s (Fin.ofNat 64 (x.toNat - 192))

def psBits (p : PSrc) : BitVec 9 := (0 : BitVec 5) ++ bit p.neg ++ BitVec.ofNat 3 p.p.val
def psOf (x : BitVec 9) : PSrc := ⟨x.getLsbD 3, Fin.ofNat 8 x.toNat⟩

/-- The low bits of a D field that name a predicate, a tile or a channel. -/
def dNum (n : Nat) [NeZero n] (x : BitVec 8) : Fin n := Fin.ofNat n x.toNat
/-- The low bits of a source field that name a ring, a tile, a channel. -/
def fNum (n : Nat) [NeZero n] (x : BitVec 9) : Fin n := Fin.ofNat n x.toNat

/-- The kinds of R149 and of R177's v-register block, as step 7 of R161 sees them. -/
inductive Kind | zero | reg | vblock | psrc | pred | tile | ring | chan | spair | vpair
deriving DecidableEq, Repr

/-- Step 7 of R161 on one field, a D field zero-extended. -/
def kindOk (k : Kind) (x : BitVec 9) : Bool :=
  let latch := x.getLsbD 8
  let regOk := !latch || x.extractLsb' 2 6 == 0
  match k with
  | .zero => true
  | .reg => regOk
  | .vblock => x.toNat < 192
  | .psrc => x.extractLsb' 4 5 == 0
  | .pred => x.extractLsb' 3 6 == 0
  | .tile => x.extractLsb' 5 4 == 0
  | .ring => x.extractLsb' 3 6 == 0
  | .chan => x.extractLsb' 2 7 == 0
  | .spair => regOk && (latch || 192 ≤ x.toNat)
  | .vpair => regOk && (latch || x.toNat < 192)

/-- Step 8 of R161 on an unused field, R150. -/
def zeroOk (k : Kind) (x : BitVec 9) : Bool := k != .zero || x == 0

/-! ### M layouts, R151 to R153 -/

def accBits (m : AccM) : BitVec 9 := scopeBits m.scope ++ hintBits m.hint ++ bit m.strong ++ widthBits m.width
def accOf (m : BitVec 9) : AccM :=
  ⟨scopeOf (m.extractLsb' 6 3), hintOf (m.extractLsb' 4 2), m.getLsbD 3, widthOf (m.extractLsb' 0 3)⟩
/-- Values of the LD layout that are not reserved; `st` for a store, `always` for LDA and STL. -/
def accOk (st always : Bool) (m : BitVec 9) : Bool :=
  m.extractLsb' 6 3 != 7 && m.extractLsb' 4 2 != 3 && m.extractLsb' 0 3 != 7 &&
  (!st || (m.extractLsb' 0 3 != 1 && m.extractLsb' 0 3 != 3)) &&
  (always || m.getLsbD 3 || m.extractLsb' 6 3 == 0)

def atomBits (m : AtomM) : BitVec 9 :=
  scopeBits m.scope ++ hintBits m.hint ++ bit m.ord ++ bit m.w64 ++ bit m.u ++ (0 : BitVec 1)
def atomOf (m : BitVec 9) : AtomM :=
  ⟨scopeOf (m.extractLsb' 6 3), hintOf (m.extractLsb' 4 2), m.getLsbD 3, m.getLsbD 2, m.getLsbD 1⟩
def atomOk (m : BitVec 9) : Bool := m.extractLsb' 6 3 != 7 && m.extractLsb' 4 2 != 3

def fmBits (m : FMod) : BitVec 9 :=
  bit m.na ++ bit m.nb ++ bit m.nc ++ bit m.aa ++ bit m.ab ++ bit m.sat ++ rmBits m.rm
def fmOf (m : BitVec 9) : FMod :=
  ⟨m.getLsbD 8, m.getLsbD 7, m.getLsbD 6, m.getLsbD 5, m.getLsbD 4, m.getLsbD 3, rmOf (m.extractLsb' 0 3)⟩
def rmOk (m : BitVec 9) : Bool := m.extractLsb' 0 3 ≤ 4

def cpyBits (m : CpyM) (free : Bool) : BitVec 9 :=
  (match m.scope with | some s => bit true ++ scopeBits s | none => (0 : BitVec 4)) ++
    hintBits m.hint ++ (0 : BitVec 2) ++ bit free
def cpyOf (m : BitVec 9) : CpyM :=
  ⟨if m.getLsbD 8 then some (scopeOf (m.extractLsb' 5 3)) else none, hintOf (m.extractLsb' 3 2)⟩
def cpyOk (m : BitVec 9) : Bool :=
  m.extractLsb' 5 3 != 7 && m.extractLsb' 3 2 != 3 && (m.getLsbD 8 || m.extractLsb' 5 3 == 0)

/-! ### Extensions, R156 and R157 -/

def vsM (m : BitVec 9) (x : BitVec 64) : VsM where
  sreg := Fin.ofNat 64 (m.extractLsb' 3 6).toNat
  rm := rmOf (m.extractLsb' 0 3)
  cnt := x.extractLsb' 0 12
  sd := x.extractLsb' 12 12
  sa := x.extractLsb' 24 12
  sb := x.extractLsb' 36 12
def vsBits (v : VsM) (seg : BitVec 16) : BitVec 64 := seg ++ v.sb ++ v.sa ++ v.sd ++ v.cnt
def vsMBits (v : VsM) : BitVec 9 := BitVec.ofNat 6 v.sreg.val ++ rmBits v.rm
/-- R156: with CNT given, SREG is 0; SEG bits outside `mask` are 0. R252: SB is 0 where no tile is read as B
(DEDUCED for a scalar B: no iteration steps it, log entry 71). -/
def vsOk (m : BitVec 9) (x : BitVec 64) (mask : BitVec 16) (tileB : Bool) : Bool :=
  rmOk m && (x.extractLsb' 0 12 == 0 || m.extractLsb' 3 6 == 0) && x.extractLsb' 48 16 &&& ~~~mask == 0 &&
  (tileB || x.extractLsb' 36 12 == 0)

def mpOf (x : BitVec 64) : MpExt :=
  ⟨x.getLsbD 57, x.getLsbD 56, x.extractLsb' 44 12, x.extractLsb' 32 12, x.extractLsb' 0 32⟩
def mpBits (e : MpExt) : BitVec 64 := (0 : BitVec 6) ++ bit e.mo ++ bit e.ko ++ e.movr ++ e.kovr ++ e.pbo
def mpOk (mo ko : Bool) (x : BitVec 64) : Bool :=
  x.extractLsb' 58 6 == 0 && x.extractLsb' 0 6 == 0 &&
  (mo || (!x.getLsbD 57 && x.extractLsb' 44 12 == 0)) &&
  (ko || (!x.getLsbD 56 && x.extractLsb' 32 12 == 0))

/-! ### The opcode map -/

/-- One row of R158 as its page's table gives it, with the instruction that the fields make. -/
structure Entry where
  forms : List Nat := [0]
  a : Kind := .zero
  b : Kind := .zero
  c : Kind := .zero
  d : Kind := .zero
  /-- M bits that the layout names -/
  mask : BitVec 9 := 0
  /-- the named M bits and the extension hold no reserved value -/
  ok : Bool := true
  instr : Instr

def hdrOf (r : Raw) : Hdr where
  g := ⟨Fin.ofNat 8 r.g.toNat, r.g.getLsbD 3⟩
  nw := r.w.getLsbD 3
  latch := match (r.w.extractLsb' 0 3).toNat with
    | 1 => some 0 | 2 => some 1 | 3 => some 2 | 4 => some 3 | _ => none

/-- The opcode map of R158; `none` is an unassigned opcode (R159). -/
def entry (r : Raw) : Option Entry :=
  let h := hdrOf r
  let m := r.m
  let imm := r.ext.extractLsb' 0 32
  let i96 := r.len == 1
  let x64 := r.len == 2
  let a := srcOf r.a
  let b := srcOf r.b
  let c := srcOf r.c
  let d := regOf r.d
  let pd := dNum 8 r.d
  let td := dNum 32 r.d
  let bi : SrcI := if i96 then .imm imm else .reg b
  let ci : SrcI := if i96 then .imm imm else .reg c
  let kb : Kind := if i96 then .zero else .reg
  let ad : Addr := ⟨a, if i96 then some imm else none⟩
  let u := m.getLsbD 0
  let m1 := m.getLsbD 1
  let lo2 := m.extractLsb' 0 2
  let lo3 := m.extractLsb' 0 3
  let bar : Fin 8 := Fin.ofNat 8 lo3.toNat
  let fm := fmOf m
  let acc := accOf m
  let atm := atomOf m
  let vs := vsM m r.ext
  let mp := mpOf r.ext
  let bs := r.ext.getLsbD 48
  let vb : VsB := if bs then .scalar b else .tile (fNum 32 r.b)
  let nb := r.ext.getLsbD 49
  let ta := fNum 32 r.a
  let alu (mask : BitVec 9) (ok : Bool) (i : Instr) : Option Entry :=
    some { forms := [0, 1], a := .reg, b := kb, d := .reg, mask, ok, instr := i }
  let un (mask : BitVec 9) (ok : Bool) (i : Instr) : Option Entry :=
    some { a := .reg, d := .reg, mask, ok, instr := i }
  let cx (mask : BitVec 9) (i : Instr) : Option Entry :=
    some { a := .reg, b := .reg, d := .reg, mask, ok := rmOk m, instr := i }
  let atom (i : Instr) (u w64 : Bool) : Option Entry :=
    some { forms := [0, 1], a := .reg, b := .reg, d := .reg,
           mask := (0x1F8 : BitVec 9) ||| (if u then 2 else 0) ||| (if w64 then 4 else 0),
           ok := atomOk m, instr := i }
  let vec (i : Instr) : Option Entry :=
    some { forms := [2], a := .tile, b := if bs then .reg else .tile, d := .tile, mask := 0x1FF,
           ok := vsOk m r.ext 3 (!bs), instr := i }
  let moved (k : Kind) (kd : Kind) (i : Instr) : Option Entry := some { a := k, d := kd, instr := i }
  match r.op.toNat with
  | 0x000 => some { instr := .nop h }
  | 0x001 => some { forms := [1], instr := .bra h imm }
  | 0x002 => some { forms := [1], a := .reg, mask := 0x00F, ok := lo3 < 6,
                    instr := .brc h (condOf lo3) (m.getLsbD 3) a imm }
  | 0x003 => some { a := .reg, instr := .jmpi h a }
  | 0x004 => some { forms := [1], d := .reg, instr := .call h d imm }
  | 0x005 => some { a := .reg, instr := .ret h a }
  | 0x006 => some { instr := .reform h }
  | 0x007 => some { instr := .yield h }
  | 0x008 => some { instr := .exit h }
  | 0x009 => some { forms := [1], a := .vblock, d := if lo2 == 2 then .pred else .zero, mask := 3,
                    ok := lo2 != 3,
                    instr := .spawn h (match lo2.toNat with | 0 => .plain | 1 => .wait | _ => .try_ pd)
                      (Fin.ofNat 192 r.a.toNat) imm }
  | 0x00A => some { d := .pred, instr := .elect h pd }
  | 0x00B => some { a := .psrc, d := if lo2 == 3 then .reg else .pred, mask := 3,
                    instr := .vote h (match lo2.toNat with
                      | 0 => .all pd | 1 => .any pd | 2 => .eq pd | _ => .ballot d) (psOf r.a) }
  | 0x00C => alu 3 true (.shfl h (shflOf lo2) d a bi)
  | 0x00D => some { mask := 7, instr := .bar h bar }
  | 0x00E => some { mask := 0x1C0, ok := m.extractLsb' 6 3 != 7, instr := .phase h (scopeOf (m.extractLsb' 6 3)) }
  | 0x00F => some { a := .reg, d := .pred, mask := 7, instr := .emit h bar pd a }
  | 0x010 => some { instr := .region h }
  | 0x011 => some { forms := [1], instr := .tryOpen h imm }
  | 0x012 => some { mask := 1, instr := if u then .tcommitLane h else .tcommit h }
  | 0x013 => some { mask := 0x1FF, instr := if m.getLsbD 8 then .tabortLane h (m.extractLsb' 0 8)
                                            else .tabort h (m.extractLsb' 0 8) }
  | 0x014 => some { d := .reg, instr := .tstat h d }
  | 0x015 => some { d := .reg, mask := 0xF, ok := m.extractLsb' 0 4 < 10,
                    instr := .getid h (idOf (m.extractLsb' 0 4)) d }
  | 0x016 => some { mask := 0xFF, instr := .brk h (m.extractLsb' 0 8) }
  | 0x080 => alu 3 (!u || m1) (.iadd h m1 u d a bi)
  | 0x081 => alu 3 (!u || m1) (.isub h m1 u d a bi)
  | 0x082 => alu 0 true (.imul h d a bi)
  | 0x083 => alu 1 true (.imulh h u d a bi)
  | 0x084 => some { forms := [0, 1], a := .reg, b := .reg, c := kb, d := .reg, instr := .imad h d a b ci }
  | 0x085 => some { forms := [0, 2], a := .reg, b := if x64 then .zero else .reg, d := .reg, mask := 2,
                    instr := .iadd64 h m1 d a (if x64 then .imm r.ext else .reg b) }
  | 0x086 => some { a := .reg, b := .reg, d := .reg, mask := 3, instr := .imul64 h m1 u d a b }
  | 0x087 => alu 3 true (.idiv h m1 u d a bi)
  | 0x088 => alu 3 true (.irem h m1 u d a bi)
  | 0x089 => alu 1 true (.imin h u d a bi)
  | 0x08A => alu 1 true (.imax h u d a bi)
  | 0x08B => un 2 true (.iabs h m1 d a)
  | 0x08C => alu 0 true (.and h d a bi)
  | 0x08D => alu 0 true (.or h d a bi)
  | 0x08E => alu 0 true (.xor h d a bi)
  | 0x08F => alu 0 true (.andn h d a bi)
  | 0x090 => alu 0 true (.shl h d a bi)
  | 0x091 => alu 0 true (.shr h d a bi)
  | 0x092 => alu 0 true (.sar h d a bi)
  | 0x093 => alu 0 true (.rotl h d a bi)
  | 0x094 => alu 1 true (.bfx h u d a bi)
  | 0x095 => some { forms := [0, 1], a := .reg, b := .reg, c := kb, d := .reg, instr := .bfi h d a b ci }
  | 0x096 => un 0 true (.popc h d a)
  | 0x097 => un 0 true (.clz h d a)
  | 0x098 => some { forms := [0, 1], a := .reg, b := kb, d := .pred, mask := 0xF,
                    ok := m.extractLsb' 1 3 < 6, instr := .iset h (condOf (m.extractLsb' 1 3)) u pd a bi }
  | 0x099 => some { forms := [0, 1], a := .reg, b := kb, c := .psrc, d := .reg,
                    instr := .sel h d (psOf r.c) a bi }
  | 0x09A => un 0 true (.mov h d a)
  | 0x09B => some { forms := [1, 2], d := .reg, instr := .movi h d (if x64 then .i64 r.ext else .i32 imm) }
  | 0x09C => some { forms := [0, 1, 2], a := .reg, b := kb, d := .reg, mask := 0xF,
                    instr := .lea h (m.getLsbD 3) bar d a
                      (if i96 then .imm imm else if x64 then .wide b r.ext else .reg b) }
  | 0x100 => alu 0x1BF (rmOk m) (.fadd h fm d a bi)
  | 0x101 => alu 0x1BF (rmOk m) (.fsub h fm d a bi)
  | 0x102 => alu 0x1BF (rmOk m) (.fmul h fm d a bi)
  | 0x103 => some { forms := [0, 1], a := .reg, b := .reg, c := kb, d := .reg, mask := 0x1FF,
                    ok := rmOk m, instr := .ffma h fm d a b ci }
  | 0x104 => alu 0x1B7 (rmOk m) (.fmin h fm d a bi)
  | 0x105 => alu 0x1B7 (rmOk m) (.fmax h fm d a bi)
  | 0x106 => some { forms := [0, 1], a := .reg, b := kb, d := .pred, mask := 0x3F,
                    ok := rmOk m && m.extractLsb' 3 3 != 7,
                    instr := .fset h (condOf (m.extractLsb' 3 3)) (rmOf lo3) pd a bi }
  | 0x107 => un 0 true (.fcls h d a)
  | 0x108 => un 0x12F (rmOk m) (.frnd h fm d a)
  | 0x109 => alu 0x12F (rmOk m) (.fscale h fm d a bi)
  | 0x10A => un 0x1FF (rmOk m && 1 ≤ m.extractLsb' 4 4 && m.extractLsb' 4 4 ≤ 8 &&
                       (!m.getLsbD 3 || m.extractLsb' 4 4 == 4) &&
                       (!m.getLsbD 8 || lo3 == 0))
               (.fcvt h (m.getLsbD 8) (elemOf (m.extractLsb' 4 4)) (m.getLsbD 3) (rmOf lo3) d a)
  | 0x10B => un 0x1FF (rmOk m && m.extractLsb' 6 2 != 3 && m.extractLsb' 3 3 != 3 && m.extractLsb' 3 3 != 7)
               (.icvt h (m.getLsbD 8) (ftOf (m.extractLsb' 6 2)) (itOf (m.extractLsb' 3 3)) (rmOf lo3) d a)
  | 0x10C => some { a := .reg, b := .reg, c := .reg, d := .reg, mask := 0x1CF, ok := rmOk m,
                    instr := .hfma2 h fm d a b c }
  | 0x10D => cx 0x18F (.hadd2 h fm d a b)
  | 0x10E => cx 0x18F (.hmul2 h fm d a b)
  | 0x10F => some { a := .reg, b := .reg, c := .reg, d := .reg, mask := 0x1CF, ok := rmOk m,
                    instr := .bfma2 h fm d a b c }
  | 0x110 => cx 0x1B7 (.cadd h fm d a b)
  | 0x111 => cx 0x1B7 (.csub h fm d a b)
  | 0x112 => cx 0x1B7 (.cmul h fm d a b)
  | 0x113 => some { a := .reg, b := .reg, c := .reg, d := .reg, mask := 0x1F7, ok := rmOk m,
                    instr := .cfma h fm d a b c }
  | 0x114 => un 0x027 (rmOk m) (.cmag2 h fm d a)
  | 0x115 => alu 0x1A7 (rmOk m) (.cscale h fm d a bi)
  | 0x180 => some { forms := [0, 1], a := .reg, d := .reg, mask := 0x1FF, ok := accOk false false m,
                    instr := .ld h acc d ad }
  | 0x181 => some { forms := [0, 1], a := .reg, b := .reg, mask := 0x1FF, ok := accOk true false m,
                    instr := .st h acc ad b }
  | 0x182 => some { forms := [0, 1], a := .reg, d := .reg, mask := 0x1CF, ok := accOk false false m,
                    instr := .lds h acc d ad }
  | 0x183 => some { forms := [0, 1], a := .reg, b := .reg, mask := 0x1CF, ok := accOk true false m,
                    instr := .sts h acc ad b }
  | 0x184 => some { forms := [0, 1], a := .reg, d := .reg, mask := 7, ok := lo3 == 4, instr := .ldw h d ad }
  | 0x185 => some { forms := [0, 1], a := .reg, b := .reg, mask := 7, ok := lo3 == 4, instr := .stw h ad b }
  | 0x186 => some { forms := [0, 1], a := .reg, d := .reg, mask := 0x1F7, ok := accOk false true m,
                    instr := .lda h acc d ad }
  | 0x187 => some { forms := [0, 1], a := .reg, b := .reg, mask := 0x1F7, ok := accOk true true m,
                    instr := .stl h acc ad b }
  | 0x188 => atom (.atomAdd h atm d ad b) false true
  | 0x189 => atom (.atomMin h atm d ad b) true true
  | 0x18A => atom (.atomMax h atm d ad b) true true
  | 0x18B => atom (.atomAnd h atm d ad b) false true
  | 0x18C => atom (.atomOr h atm d ad b) false true
  | 0x18D => atom (.atomXor h atm d ad b) false true
  | 0x18E => atom (.atomXchg h atm d ad b) false true
  | 0x18F => atom (.atomFadd h atm d ad b) false false
  | 0x190 => some { forms := [0, 1], a := .reg, b := .reg, c := .reg, d := .reg, mask := 0x1FC,
                    ok := atomOk m, instr := .acas h atm d ad b c }
  | 0x191 => some { mask := 0x1C0, ok := m.extractLsb' 6 3 != 7, instr := .fence h (scopeOf (m.extractLsb' 6 3)) }
  | 0x192 => some { a := .reg, b := .reg, d := .tile, instr := .mcast h td a b }
  | 0x193 => some { forms := [0, 1], a := .reg, mask := 0x030, ok := m.extractLsb' 4 2 != 3,
                    instr := .pref h (hintOf (m.extractLsb' 4 2)) ad }
  | 0x200 => some { forms := [0, 2], a := if x64 then .zero else .spair, d := .tile,
                    instr := .tdecl h td (if x64 then .imm r.ext else .reg a) }
  | 0x201 => some { d := .tile, instr := .tarm h td }
  | 0x202 => some { forms := [0, 1], a := .reg, b := .reg, d := .tile, mask := 0x1F8, ok := cpyOk m,
                    instr := .cpyin h (cpyOf m) td ad b }
  | 0x203 => some { forms := [0, 1], a := .reg, b := .reg, d := .tile, mask := 0x1F9, ok := cpyOk m,
                    instr := .cpyout h u (cpyOf m) td ad b }
  | 0x204 => some { a := .tile, d := .reg, instr := .tstate h d ta }
  | 0x205 => some { d := .tile, instr := .tfree h td }
  | 0x206 => some { d := .tile, mask := 3, instr := .rrot h m1 u td }
  | 0x207 => some { a := .ring, b := if u then .reg else .tile, mask := 1,
                    instr := .rpush h (fNum 8 r.a) (if u then .reg b else .tile (fNum 32 r.b)) }
  | 0x208 => some { a := .ring, d := .reg, instr := .rpop h d (fNum 8 r.a) }
  | 0x209 => moved .spair .tile (.movTshFromS h td a)
  | 0x20A => moved .tile .spair (.movSFromTsh h d ta)
  | 0x20B => moved .vpair .chan (.movQFromV h (dNum 4 r.d) a)
  | 0x20C => moved .chan .vpair (.movVFromQ h d (fNum 4 r.a))
  | 0x280 => some { forms := [2], ok := mpOk false true r.ext, instr := .mlw h mp }
  | 0x281 => some { forms := [2], ok := mpOk true true r.ext, instr := .mma h mp }
  | 0x282 => some { forms := [2], ok := mpOk true false r.ext, instr := .mq h mp }
  | 0x288 => vec (.vadd h vs nb td ta vb)
  | 0x289 => vec (.vsub h vs nb td ta vb)
  | 0x28A => vec (.vmul h vs nb td ta vb)
  | 0x28B => vec (.vfma h vs nb td ta vb)
  | 0x28C => vec (.vmax h vs nb td ta vb)
  | 0x28D => vec (.vmin h vs nb td ta vb)
  | 0x28E => some { forms := [2], a := .tile, d := .tile, mask := 0x1FF,
                    ok := vsOk m r.ext 0xC false && r.ext.extractLsb' 50 2 != 3,
                    instr := .vred h vs (ropOf (r.ext.extractLsb' 50 2)) td ta }
  | 0x28F => some { forms := [2], a := .tile, d := .tile, mask := 0x1FF, ok := vsOk m r.ext 0x10 false,
                    instr := .vcvt h vs (r.ext.getLsbD 52) td ta }
  | 0x290 => some { forms := [2], a := .tile, b := .tile, d := .tile, mask := 0x1FF,
                    ok := vsOk m r.ext 0x10 true,
                    instr := .vqnt h vs (r.ext.getLsbD 52) td ta (fNum 32 r.b) }
  | 0x291 => some { forms := [2], a := .tile, b := .tile, d := .tile, mask := 0x1FF, ok := vsOk m r.ext 0 true,
                    instr := .vdeq h vs td ta (fNum 32 r.b) }
  | 0x292 => some { forms := [2], a := .tile, d := .tile, mask := 0x1FF,
                    ok := vsOk m r.ext 0 false && lo3 == 0, instr := .vcpy h vs td ta }
  | 0x298 => some { a := .reg, b := .reg, d := .reg, mask := 1, instr := .voxin h u d a b }
  | 0x299 => some { a := .reg, b := if m.getLsbD 2 then .zero else .reg,
                    d := if m.getLsbD 2 then .tile else .zero, mask := 7,
                    instr := .bevpool h m1 u (if m.getLsbD 2 then .tile td else .mem b) a }
  | 0x300 => un 9 true (if u then .traceNew h (m.getLsbD 3) d a else .trace h (m.getLsbD 3) d a)
  | 0x301 => un 0 true (.tnext h d a)
  | 0x302 => un 1 true (.thit h u d a)
  | 0x303 => some { a := .reg, b := .reg, c := .reg, d := .reg, instr := .spawnray h d a b c }
  | 0x304 => some { a := .reg, b := .reg, d := .reg, instr := .boxin h d a b }
  | 0x305 => some { a := .reg, b := .reg, c := .reg, d := .reg, mask := 1, instr := .edge h u d a b c }
  | 0x306 => some { a := .reg, b := .reg, d := .reg, instr := .snap h d a b }
  | 0x307 => some { a := if lo2 == 0 then .reg else .zero, b := if lo2 == 0 then .reg else .zero,
                    d := .reg, mask := 3, ok := lo2 != 3,
                    instr := match lo2.toNat with
                      | 0 => .bin h d a b | 1 => .binClose h d | _ => .binReset h d }
  | 0x308 => un 0 true (.visres h d a)
  | 0x309 => un 0 true (.pidld h d a)
  | 0x30A => some { a := .reg, b := .reg, d := .reg, instr := .anim h d a b }
  | 0x380 => some { d := .reg, instr := .rdclk h d }
  | 0x381 => some { d := .reg, instr := .rdtmr h d }
  | 0x382 => some { forms := [0, 1], a := kb, ok := !i96 || imm.extractLsb' 16 16 == 0,
                    instr := .stamp h (if i96 then .imm imm else .reg a) }
  | 0x383 => some { forms := [0, 1], ok := !i96 || imm.extractLsb' 8 24 == 0,
                    instr := .trap h (if i96 then some (imm.extractLsb' 0 8) else none) }
  | 0x384 => some { forms := [1], d := .reg, instr := .mfs h d imm }
  | 0x385 => some { forms := [1], a := .reg, instr := .mts h imm a }
  | 0x3C0 => some { instr := .eret h }
  | 0x3C1 => some { mask := 0x1C0, ok := m.extractLsb' 6 3 != 7, instr := .fenceMap h (scopeOf (m.extractLsb' 6 3)) }
  | 0x3C2 => some { instr := .mapsync h }
  | 0x3C3 => un 0 true (.ctxsave h d a)
  | 0x3C4 => un 0 true (.ctxload h d a)
  | 0x3C5 => un 0 true (.preempt h d a)
  | 0x3C6 => some { forms := [0, 1], a := kb, ok := !i96 || leaveWordOk imm,
                    instr := .leave h (if i96 then .imm imm else .reg a) }
  | 0x3C7 => some { a := .reg, b := .reg, d := .reg, instr := .setkey h d a b }
  | _ => none

/-- R46: D is ignored when only a latch is written. -/
def dIgnored (r : Raw) : Bool := r.w.getLsbD 3 && r.w.extractLsb' 0 3 != 0

/-- Steps 4 to 8 of R161 against one row, in their order. -/
def checkEntry (r : Raw) (e : Entry) : Except Ill Instr :=
  let d9 := r.d.setWidth 9
  if !e.forms.contains r.len.toNat then .error .len
  else if r.g == 15 then .error .guard
  else if 4 < r.w.extractLsb' 0 3 then .error .wfield
  else if !(kindOk e.a r.a && kindOk e.b r.b && kindOk e.c r.c && (dIgnored r || kindOk e.d d9)) then
    .error .operand
  else if !(zeroOk e.a r.a && zeroOk e.b r.b && zeroOk e.c r.c && (dIgnored r || zeroOk e.d d9) &&
      r.m &&& ~~~e.mask == 0 && e.ok) then .error .rsvfield
  else .ok e.instr

/-- Steps 1 to 8 of R161. `crosses` is R143's failure; `user` is the mode of the issuing warps, `ubusy`
their MODE.UBUSY, which lets ERET pass step 3 (R312). -/
def decodeRaw (crosses user ubusy : Bool) (r : Raw) : Except Ill Instr :=
  if crosses then .error .cross
  else match entry r with
  | none => .error .opcode
  | some e =>
    if user && 0x3C0 ≤ r.op && !(r.op == 0x3C0 && ubusy) then .error .priv
    else checkEntry r e

/-- The bits of an instruction, without what lies above its length (R142). -/
def trimBits (x : BitVec 128) : BitVec 128 :=
  match (x.extractLsb' 0 2).toNat with
  | 0 => (x.extractLsb' 0 64).setWidth 128
  | 1 => (x.extractLsb' 0 96).setWidth 128
  | 2 => x
  | _ => (x.extractLsb' 0 32).setWidth 128

/-- The instruction that a supervisor-mode decode of these bits reads, at a window's start. -/
def decodeBits (x : BitVec 128) : Except Ill Instr := decodeRaw false false false (rawOf (trimBits x))

/-- The host's question: the instruction whose bits are `w`, the bits above `nbits` zero. -/
def decodeTableWord (nbits w : Nat) : Option Instr :=
  match decodeBits (BitVec.ofNat 128 (w % 2 ^ nbits)) with
  | .ok i => some i
  | .error _ => none

/-! ### The encoder -/

def wBits (h : Hdr) : BitVec 4 :=
  bit h.nw ++ (match h.latch with | none => (0 : BitVec 3) | some l => BitVec.ofNat 3 (l.val + 1))
def gBits (h : Hdr) : BitVec 4 := bit h.g.neg ++ BitVec.ofNat 3 h.g.p.val

/-- Word 0 with its header; the fields not given are 0 (R150). -/
def word (h : Hdr) (op : BitVec 10) (len : BitVec 2) (m a b c : BitVec 9) (d : BitVec 8)
    (ext : BitVec 64 := 0) : Raw where
  ext := ext
  m := m
  c := c
  b := b
  a := a
  w := wBits h
  d := d
  g := gBits h
  op := op
  len := len

def immExt (x : Word) : BitVec 64 := (0 : BitVec 32) ++ x
def numBits (w n : Nat) : BitVec w := BitVec.ofNat w n

/-- A two-source form with its last source in B or IMM32. -/
def wordI (h : Hdr) (op : BitVec 10) (m a c : BitVec 9) (d : BitVec 8) : SrcI → Raw
  | .reg b => word h op 0 m a (srcBits b) c d
  | .imm x => word h op 1 m a 0 c d (immExt x)
/-- A three-source form with its last source in C or IMM32. -/
def wordC (h : Hdr) (op : BitVec 10) (m a b : BitVec 9) (d : BitVec 8) : SrcI → Raw
  | .reg c => word h op 0 m a b (srcBits c) d
  | .imm x => word h op 1 m a b 0 d (immExt x)
/-- A form with an address operand in A and its offset in IMM32. -/
def wordA (h : Hdr) (op : BitVec 10) (m : BitVec 9) (ad : Addr) (b c : BitVec 9) (d : BitVec 8) : Raw :=
  match ad.off with
  | none => word h op 0 m (srcBits ad.base) b c d
  | some x => word h op 1 m (srcBits ad.base) b c d (immExt x)

def vsSeg (nb bs : Bool) : BitVec 16 := (0 : BitVec 14) ++ bit nb ++ bit bs
def wordV (h : Hdr) (op : BitVec 10) (m : VsM) (nb : Bool) (d a : Fin 32) : VsB → Raw
  | .tile t => word h op 2 (vsMBits m) (numBits 9 a.val) (numBits 9 t.val) 0 (numBits 8 d.val)
                 (vsBits m (vsSeg nb false))
  | .scalar r => word h op 2 (vsMBits m) (numBits 9 a.val) (srcBits r) 0 (numBits 8 d.val)
                 (vsBits m (vsSeg nb true))

def m1u (x y : Bool) : BitVec 9 := (0 : BitVec 7) ++ bit x ++ bit y
def scopeM (s : Scope) : BitVec 9 := scopeBits s ++ (0 : BitVec 6)

/-- The fields of an instruction; the steps of other agents have none. -/
def encodeRaw : Instr → Raw
  | .nop h => word h 0x000 0 0 0 0 0 0
  | .bra h x => word h 0x001 1 0 0 0 0 0 (immExt x)
  | .brc h c u a x => word h 0x002 1 ((0 : BitVec 5) ++ bit u ++ condBits c) (srcBits a) 0 0 0 (immExt x)
  | .jmpi h a => word h 0x003 0 0 (srcBits a) 0 0 0
  | .call h d x => word h 0x004 1 0 0 0 0 (regBits d) (immExt x)
  | .ret h a => word h 0x005 0 0 (srcBits a) 0 0 0
  | .reform h => word h 0x006 0 0 0 0 0 0
  | .yield h => word h 0x007 0 0 0 0 0 0
  | .exit h => word h 0x008 0 0 0 0 0 0
  | .spawn h f a x =>
    match f with
    | .plain => word h 0x009 1 0 (numBits 9 a.val) 0 0 0 (immExt x)
    | .wait => word h 0x009 1 1 (numBits 9 a.val) 0 0 0 (immExt x)
    | .try_ p => word h 0x009 1 2 (numBits 9 a.val) 0 0 (numBits 8 p.val) (immExt x)
  | .elect h p => word h 0x00A 0 0 0 0 0 (numBits 8 p.val)
  | .vote h o ps =>
    match o with
    | .all p => word h 0x00B 0 0 (psBits ps) 0 0 (numBits 8 p.val)
    | .any p => word h 0x00B 0 1 (psBits ps) 0 0 (numBits 8 p.val)
    | .eq p => word h 0x00B 0 2 (psBits ps) 0 0 (numBits 8 p.val)
    | .ballot d => word h 0x00B 0 3 (psBits ps) 0 0 (regBits d)
  | .shfl h mo d a b => wordI h 0x00C ((0 : BitVec 7) ++ shflBits mo) (srcBits a) 0 (regBits d) b
  | .bar h n => word h 0x00D 0 (numBits 9 n.val) 0 0 0 0
  | .phase h s => word h 0x00E 0 (scopeM s) 0 0 0 0
  | .emit h e p a => word h 0x00F 0 (numBits 9 e.val) (srcBits a) 0 0 (numBits 8 p.val)
  | .region h => word h 0x010 0 0 0 0 0 0
  | .tryOpen h x => word h 0x011 1 0 0 0 0 0 (immExt x)
  | .tcommit h => word h 0x012 0 0 0 0 0 0
  | .tcommitLane h => word h 0x012 0 1 0 0 0 0
  | .tabort h v => word h 0x013 0 ((0 : BitVec 1) ++ v) 0 0 0 0
  | .tabortLane h v => word h 0x013 0 ((1 : BitVec 1) ++ v) 0 0 0 0
  | .tstat h d => word h 0x014 0 0 0 0 0 (regBits d)
  | .getid h k d => word h 0x015 0 ((0 : BitVec 5) ++ idBits k) 0 0 0 (regBits d)
  | .brk h c => word h 0x016 0 ((0 : BitVec 1) ++ c) 0 0 0 0
  | .iadd h s u d a b => wordI h 0x080 (m1u s u) (srcBits a) 0 (regBits d) b
  | .isub h s u d a b => wordI h 0x081 (m1u s u) (srcBits a) 0 (regBits d) b
  | .imul h d a b => wordI h 0x082 0 (srcBits a) 0 (regBits d) b
  | .imulh h u d a b => wordI h 0x083 (m1u false u) (srcBits a) 0 (regBits d) b
  | .imad h d a b c => wordC h 0x084 0 (srcBits a) (srcBits b) (regBits d) c
  | .iadd64 h s d a b =>
    match b with
    | .reg r => word h 0x085 0 (m1u s false) (srcBits a) (srcBits r) 0 (regBits d)
    | .imm x => word h 0x085 2 (m1u s false) (srcBits a) 0 0 (regBits d) x
  | .imul64 h w u d a b => word h 0x086 0 (m1u w u) (srcBits a) (srcBits b) 0 (regBits d)
  | .idiv h t u d a b => wordI h 0x087 (m1u t u) (srcBits a) 0 (regBits d) b
  | .irem h t u d a b => wordI h 0x088 (m1u t u) (srcBits a) 0 (regBits d) b
  | .imin h u d a b => wordI h 0x089 (m1u false u) (srcBits a) 0 (regBits d) b
  | .imax h u d a b => wordI h 0x08A (m1u false u) (srcBits a) 0 (regBits d) b
  | .iabs h s d a => word h 0x08B 0 (m1u s false) (srcBits a) 0 0 (regBits d)
  | .and h d a b => wordI h 0x08C 0 (srcBits a) 0 (regBits d) b
  | .or h d a b => wordI h 0x08D 0 (srcBits a) 0 (regBits d) b
  | .xor h d a b => wordI h 0x08E 0 (srcBits a) 0 (regBits d) b
  | .andn h d a b => wordI h 0x08F 0 (srcBits a) 0 (regBits d) b
  | .shl h d a b => wordI h 0x090 0 (srcBits a) 0 (regBits d) b
  | .shr h d a b => wordI h 0x091 0 (srcBits a) 0 (regBits d) b
  | .sar h d a b => wordI h 0x092 0 (srcBits a) 0 (regBits d) b
  | .rotl h d a b => wordI h 0x093 0 (srcBits a) 0 (regBits d) b
  | .bfx h u d a b => wordI h 0x094 (m1u false u) (srcBits a) 0 (regBits d) b
  | .bfi h d a b c => wordC h 0x095 0 (srcBits a) (srcBits b) (regBits d) c
  | .popc h d a => word h 0x096 0 0 (srcBits a) 0 0 (regBits d)
  | .clz h d a => word h 0x097 0 0 (srcBits a) 0 0 (regBits d)
  | .iset h c u p a b => wordI h 0x098 ((0 : BitVec 5) ++ condBits c ++ bit u) (srcBits a) 0 (numBits 8 p.val) b
  | .sel h d p a b => wordI h 0x099 0 (srcBits a) (psBits p) (regBits d) b
  | .mov h d a => word h 0x09A 0 0 (srcBits a) 0 0 (regBits d)
  | .movi h d x =>
    match x with
    | .i32 x => word h 0x09B 1 0 0 0 0 (regBits d) (immExt x)
    | .i64 x => word h 0x09B 2 0 0 0 0 (regBits d) x
  | .lea h u sh d a f =>
    let m := (0 : BitVec 5) ++ bit u ++ numBits 3 sh.val
    match f with
    | .reg b => word h 0x09C 0 m (srcBits a) (srcBits b) 0 (regBits d)
    | .imm x => word h 0x09C 1 m (srcBits a) 0 0 (regBits d) (immExt x)
    | .wide b e => word h 0x09C 2 m (srcBits a) (srcBits b) 0 (regBits d) e
  | .fadd h m d a b => wordI h 0x100 (fmBits m) (srcBits a) 0 (regBits d) b
  | .fsub h m d a b => wordI h 0x101 (fmBits m) (srcBits a) 0 (regBits d) b
  | .fmul h m d a b => wordI h 0x102 (fmBits m) (srcBits a) 0 (regBits d) b
  | .ffma h m d a b c => wordC h 0x103 (fmBits m) (srcBits a) (srcBits b) (regBits d) c
  | .fmin h m d a b => wordI h 0x104 (fmBits m) (srcBits a) 0 (regBits d) b
  | .fmax h m d a b => wordI h 0x105 (fmBits m) (srcBits a) 0 (regBits d) b
  | .fset h c rm p a b => wordI h 0x106 ((0 : BitVec 3) ++ condBits c ++ rmBits rm) (srcBits a) 0 (numBits 8 p.val) b
  | .fcls h d a => word h 0x107 0 0 (srcBits a) 0 0 (regBits d)
  | .frnd h m d a => word h 0x108 0 (fmBits m) (srcBits a) 0 0 (regBits d)
  | .fscale h m d a b => wordI h 0x109 (fmBits m) (srcBits a) 0 (regBits d) b
  | .fcvt h dir ty sat rm d a =>
    word h 0x10A 0 (bit dir ++ elemBits ty ++ bit sat ++ rmBits rm) (srcBits a) 0 0 (regBits d)
  | .icvt h dir ft it rm d a =>
    word h 0x10B 0 (bit dir ++ ftBits ft ++ itBits it ++ rmBits rm) (srcBits a) 0 0 (regBits d)
  | .hfma2 h m d a b c => word h 0x10C 0 (fmBits m) (srcBits a) (srcBits b) (srcBits c) (regBits d)
  | .hadd2 h m d a b => word h 0x10D 0 (fmBits m) (srcBits a) (srcBits b) 0 (regBits d)
  | .hmul2 h m d a b => word h 0x10E 0 (fmBits m) (srcBits a) (srcBits b) 0 (regBits d)
  | .bfma2 h m d a b c => word h 0x10F 0 (fmBits m) (srcBits a) (srcBits b) (srcBits c) (regBits d)
  | .cadd h m d a b => word h 0x110 0 (fmBits m) (srcBits a) (srcBits b) 0 (regBits d)
  | .csub h m d a b => word h 0x111 0 (fmBits m) (srcBits a) (srcBits b) 0 (regBits d)
  | .cmul h m d a b => word h 0x112 0 (fmBits m) (srcBits a) (srcBits b) 0 (regBits d)
  | .cfma h m d a b c => word h 0x113 0 (fmBits m) (srcBits a) (srcBits b) (srcBits c) (regBits d)
  | .cmag2 h m d a => word h 0x114 0 (fmBits m) (srcBits a) 0 0 (regBits d)
  | .cscale h m d a b => wordI h 0x115 (fmBits m) (srcBits a) 0 (regBits d) b
  | .ld h m d ad => wordA h 0x180 (accBits m) ad 0 0 (regBits d)
  | .st h m ad b => wordA h 0x181 (accBits m) ad (srcBits b) 0 0
  | .lds h m d ad => wordA h 0x182 (accBits m) ad 0 0 (regBits d)
  | .sts h m ad b => wordA h 0x183 (accBits m) ad (srcBits b) 0 0
  | .ldw h d ad => wordA h 0x184 4 ad 0 0 (regBits d)
  | .stw h ad b => wordA h 0x185 4 ad (srcBits b) 0 0
  | .lda h m d ad => wordA h 0x186 (accBits m) ad 0 0 (regBits d)
  | .stl h m ad b => wordA h 0x187 (accBits m) ad (srcBits b) 0 0
  | .atomAdd h m d ad b => wordA h 0x188 (atomBits m) ad (srcBits b) 0 (regBits d)
  | .atomMin h m d ad b => wordA h 0x189 (atomBits m) ad (srcBits b) 0 (regBits d)
  | .atomMax h m d ad b => wordA h 0x18A (atomBits m) ad (srcBits b) 0 (regBits d)
  | .atomAnd h m d ad b => wordA h 0x18B (atomBits m) ad (srcBits b) 0 (regBits d)
  | .atomOr h m d ad b => wordA h 0x18C (atomBits m) ad (srcBits b) 0 (regBits d)
  | .atomXor h m d ad b => wordA h 0x18D (atomBits m) ad (srcBits b) 0 (regBits d)
  | .atomXchg h m d ad b => wordA h 0x18E (atomBits m) ad (srcBits b) 0 (regBits d)
  | .atomFadd h m d ad b => wordA h 0x18F (atomBits m) ad (srcBits b) 0 (regBits d)
  | .acas h m d ad b c => wordA h 0x190 (atomBits m) ad (srcBits b) (srcBits c) (regBits d)
  | .fence h s => word h 0x191 0 (scopeM s) 0 0 0 0
  | .mcast h t a b => word h 0x192 0 0 (srcBits a) (srcBits b) 0 (numBits 8 t.val)
  | .pref h hi ad => wordA h 0x193 ((0 : BitVec 3) ++ hintBits hi ++ (0 : BitVec 4)) ad 0 0 0
  | .tdecl h t src =>
    match src with
    | .reg a => word h 0x200 0 0 (srcBits a) 0 0 (numBits 8 t.val)
    | .imm x => word h 0x200 2 0 0 0 0 (numBits 8 t.val) x
  | .tarm h t => word h 0x201 0 0 0 0 0 (numBits 8 t.val)
  | .cpyin h m t ad b => wordA h 0x202 (cpyBits m false) ad (srcBits b) 0 (numBits 8 t.val)
  | .cpyout h f m t ad b => wordA h 0x203 (cpyBits m f) ad (srcBits b) 0 (numBits 8 t.val)
  | .tstate h d t => word h 0x204 0 0 (numBits 9 t.val) 0 0 (regBits d)
  | .tfree h t => word h 0x205 0 0 0 0 0 (numBits 8 t.val)
  | .rrot h ring dn t => word h 0x206 0 (m1u ring dn) 0 0 0 (numBits 8 t.val)
  | .rpush h r src =>
    match src with
    | .tile t => word h 0x207 0 0 (numBits 9 r.val) (numBits 9 t.val) 0 0
    | .reg b => word h 0x207 0 1 (numBits 9 r.val) (srcBits b) 0 0
  | .rpop h d r => word h 0x208 0 0 (numBits 9 r.val) 0 0 (regBits d)
  | .movTshFromS h t a => word h 0x209 0 0 (srcBits a) 0 0 (numBits 8 t.val)
  | .movSFromTsh h d t => word h 0x20A 0 0 (numBits 9 t.val) 0 0 (regBits d)
  | .movQFromV h q a => word h 0x20B 0 0 (srcBits a) 0 0 (numBits 8 q.val)
  | .movVFromQ h d q => word h 0x20C 0 0 (numBits 9 q.val) 0 0 (regBits d)
  | .mlw h x => word h 0x280 2 0 0 0 0 0 (mpBits x)
  | .mma h x => word h 0x281 2 0 0 0 0 0 (mpBits x)
  | .mq h x => word h 0x282 2 0 0 0 0 0 (mpBits x)
  | .vadd h m nb d a b => wordV h 0x288 m nb d a b
  | .vsub h m nb d a b => wordV h 0x289 m nb d a b
  | .vmul h m nb d a b => wordV h 0x28A m nb d a b
  | .vfma h m nb d a b => wordV h 0x28B m nb d a b
  | .vmax h m nb d a b => wordV h 0x28C m nb d a b
  | .vmin h m nb d a b => wordV h 0x28D m nb d a b
  | .vred h m r d a => word h 0x28E 2 (vsMBits m) (numBits 9 a.val) 0 0 (numBits 8 d.val)
                        (vsBits m ((0 : BitVec 12) ++ ropBits r ++ (0 : BitVec 2)))
  | .vcvt h m s d a => word h 0x28F 2 (vsMBits m) (numBits 9 a.val) 0 0 (numBits 8 d.val)
                        (vsBits m ((0 : BitVec 11) ++ bit s ++ (0 : BitVec 4)))
  | .vqnt h m s d a b => word h 0x290 2 (vsMBits m) (numBits 9 a.val) (numBits 9 b.val) 0 (numBits 8 d.val)
                        (vsBits m ((0 : BitVec 11) ++ bit s ++ (0 : BitVec 4)))
  | .vdeq h m d a b => word h 0x291 2 (vsMBits m) (numBits 9 a.val) (numBits 9 b.val) 0 (numBits 8 d.val)
                        (vsBits m 0)
  | .vcpy h m d a => word h 0x292 2 (vsMBits m) (numBits 9 a.val) 0 0 (numBits 8 d.val) (vsBits m 0)
  | .voxin h n d a b => word h 0x298 0 (m1u false n) (srcBits a) (srcBits b) 0 (regBits d)
  | .bevpool h s c t a =>
    match t with
    | .mem b => word h 0x299 0 (m1u s c) (srcBits a) (srcBits b) 0 0
    | .tile d => word h 0x299 0 ((0 : BitVec 6) ++ bit true ++ bit s ++ bit c) (srcBits a) 0 0 (numBits 8 d.val)
  | .traceNew h n d a => word h 0x300 0 ((0 : BitVec 5) ++ bit n ++ (1 : BitVec 3)) (srcBits a) 0 0 (regBits d)
  | .trace h n d a => word h 0x300 0 ((0 : BitVec 5) ++ bit n ++ (0 : BitVec 3)) (srcBits a) 0 0 (regBits d)
  | .tnext h d a => word h 0x301 0 0 (srcBits a) 0 0 (regBits d)
  | .thit h f d a => word h 0x302 0 (m1u false f) (srcBits a) 0 0 (regBits d)
  | .spawnray h d a b c => word h 0x303 0 0 (srcBits a) (srcBits b) (srcBits c) (regBits d)
  | .boxin h d a b => word h 0x304 0 0 (srcBits a) (srcBits b) 0 (regBits d)
  | .edge h c d a b p => word h 0x305 0 (m1u false c) (srcBits a) (srcBits b) (srcBits p) (regBits d)
  | .snap h d a b => word h 0x306 0 0 (srcBits a) (srcBits b) 0 (regBits d)
  | .bin h d a b => word h 0x307 0 0 (srcBits a) (srcBits b) 0 (regBits d)
  | .binClose h d => word h 0x307 0 1 0 0 0 (regBits d)
  | .binReset h d => word h 0x307 0 2 0 0 0 (regBits d)
  | .visres h d a => word h 0x308 0 0 (srcBits a) 0 0 (regBits d)
  | .pidld h d a => word h 0x309 0 0 (srcBits a) 0 0 (regBits d)
  | .anim h d a b => word h 0x30A 0 0 (srcBits a) (srcBits b) 0 (regBits d)
  | .rdclk h d => word h 0x380 0 0 0 0 0 (regBits d)
  | .rdtmr h d => word h 0x381 0 0 0 0 0 (regBits d)
  | .stamp h s =>
    match s with
    | .reg a => word h 0x382 0 0 (srcBits a) 0 0 0
    | .imm x => word h 0x382 1 0 0 0 0 0 (immExt x)
  | .trap h c =>
    match c with
    | none => word h 0x383 0 0 0 0 0 0
    | some x => word h 0x383 1 0 0 0 0 0 (immExt (x.setWidth 32))
  | .mfs h d n => word h 0x384 1 0 0 0 0 (regBits d) (immExt n)
  | .mts h n a => word h 0x385 1 0 (srcBits a) 0 0 0 (immExt n)
  | .eret h => word h 0x3C0 0 0 0 0 0 0
  | .fenceMap h s => word h 0x3C1 0 (scopeM s) 0 0 0 0
  | .mapsync h => word h 0x3C2 0 0 0 0 0 0
  | .ctxsave h d a => word h 0x3C3 0 0 (srcBits a) 0 0 (regBits d)
  | .ctxload h d a => word h 0x3C4 0 0 (srcBits a) 0 0 (regBits d)
  | .preempt h d a => word h 0x3C5 0 0 (srcBits a) 0 0 (regBits d)
  | .leave h s =>
    match s with
    | .reg a => word h 0x3C6 0 0 (srcBits a) 0 0 0
    | .imm x => word h 0x3C6 1 0 0 0 0 0 (immExt x)
  | .setkey h d a b => word h 0x3C7 0 0 (srcBits a) (srcBits b) 0 (regBits d)
  | _ => ⟨0, 0, 0, 0, 0, 0, 0, 0, 0, 3⟩

/-- The bits of an instruction. -/
def encode (i : Instr) : BitVec 128 := bitsOf (encodeRaw i)

end Sys2Proof
end

