-- ==== Sys2Proof/Machine/State.lean ====
section
/-! DEFINITION. The state of one TVD-8 package as plain data, and its value after reset. INVENTORY.md lists
each field with the rule that names it. -/

namespace Sys2Proof.Machine

/-- Why the machine stops with no next state. -/
inductive Fault
  /-- Raised by every access of the device to a physical address that no memory answers: R335 says that
  PA[47:39] is 0 for every byte of the package's memory. Safe: the spec gives such an access no effect. -/
  | noMemory
deriving DecidableEq, Repr

/-- Why an instruction has no meaning. -/
inductive Refusal
  /-- Raised by an arm of `exec` whose instruction has no meaning yet. Safe: nothing follows from it. -/
  | notModelled (mnemonic : String)
deriving DecidableEq, Repr

/-! ### Lanes -/

/-- The lane states of R17. -/
inductive LaneSt | ready | filed | blocked | halted | exited
deriving DecidableEq, Repr

/-- What a BLOCKED lane waits for (R18). `retry`, `result`, `tile`, `phase` and `spawn` are waits whose instruction has done
nothing yet and is tried afresh; the others end by a step of another agent. -/
inductive Wait
  | retry
  /-- a result or an access that its group's next instruction needs -/
  | result
  | tile (t : Nat)
  | phase
  | spawn
  | bar (n : Fin 8)
  | binSlot
  | nocap (op : Nat)
  | close (op : Nat)
  | leave (id : Nat)
  | access (id : Nat)
  | flit (id : Nat)
  | engine (op : Nat)
deriving DecidableEq, Repr

/-- One lane: R17, R44, R46, R184, R186, R196, R342, R385, R394. -/
structure Lane where
  st : LaneSt
  wait : Wait
  /-- the state a HALTED lane returns to -/
  held : LaneSt
  pc : Pc
  v : Cells 32
  p : BitVec 7
  bp : Vector (Option Word) 4
  regionPc : Pc
  regionCnt : Word
  phases : Word
  /-- ordinals of ORD accesses since the last PHASE, R342 -/
  ords : Nat
  tstat : Word
  crc : DWord
  stores : DWord
  /-- the breakpoint, by number and PC, whose check the lane passes once, R385 -/
  bpPass : Option (Nat × Pc)
  /-- a YIELD skip: one more than the issue decisions left, R28 -/
  skip : Nat
  /-- the arithmetic cycle since which the lane is READY or FILED, R25; of a HALTED lane the cycles that it had
  waited before, which R27 counts -/
  since : Nat
  /-- the issue group in which the lane last issued, R48 -/
  group : Nat
  /-- how many lanes that group had, R48 -/
  groupN : Nat
  /-- it has issued in user mode since it last stopped, R385 -/
  stepped : Bool
  /-- it has issued, since it last stopped, an instruction in which it waits, R385 -/
  stepWait : Bool
  /-- the PREEMPT, CTXSAVE or CTXLOAD in which it waits, and the frame that it names, R316 -/
  asked : Option (Pc × Nat)
deriving DecidableEq, Repr

/-! ### Traps -/

/-- What a trap frame reports (R297), with what the region table holds for late faults (R368). -/
structure TrapInfo where
  cause : Byte
  sub : Byte
  kind : BitVec 2
  lanes : BitVec 32
  pc : Pc
  ilen : BitVec 2
  insn : BitVec 128
  va : DWord
  ia : DWord
  tile : Fin 32
  /-- slot, region entry PC and counter of each late-faulting lane -/
  regions : List (Nat × Pc × Word)
  /-- the engine operation that the fault stopped, R370 -/
  op : Option Nat := none
deriving DecidableEq, Repr

/-! ### Speculation, R189 and R190 -/

/-- The checkpoint of one live lane. -/
structure LaneCk where
  slot : Nat
  v : Cells 32
  p : BitVec 7
  regionPc : Pc
  regionCnt : Word
  pc : Pc
deriving DecidableEq, Repr

/-- A byte written inside a TRY with the slot of its last writer: in global memory, by IA, or in the
scratchpad. -/
structure TryByte where
  glob : Bool
  addr : Nat
  val : Byte
  writer : Option Nat
deriving DecidableEq, Repr

/-- A store that a commit counts, R394. -/
structure TryStore where
  slot : Nat
  va : DWord
  width : Nat
  data : BitVec 128
deriving DecidableEq, Repr

structure TryState where
  depth : Nat
  target : Pc
  members : BitVec 32
  laneFlag : Bool
  ckS : Cells 32
  ckLanes : List LaneCk
  /-- bytes written: buffered ones of global memory, in-place ones of the scratchpad -/
  bytes : List TryByte
  /-- the aligned 32-byte global blocks that hold an entry -/
  entries : List Nat
  /-- who touched which 32-byte block: global or scratchpad, block, slot -/
  touched : List (Bool × Nat × Nat)
  readLines : List Nat
  readGrans : List Nat
  /-- 1 KiB scratchpad granules with their contents before the TRY -/
  undo : List (Nat × Cells 8)
  /-- stores in program order, counted into the store hashes at commit -/
  stores : List TryStore
  /-- the model's own: the first name that an access issued inside it can have -/
  start : Nat
deriving DecidableEq, Repr

/-! ### Warps -/

/-- R37. -/
inductive WarpSt | free | live | stopped
deriving DecidableEq, Repr

/-- One warp context: R37, R50, R74, R75, R292, R294, R302, R306, R314, R381. -/
structure Warp where
  st : WarpSt
  ctx : Nat
  idx : Nat
  role : Role
  lanes : List Lane
  s : Cells 32
  lockstep : Bool
  uconflict : Bool
  stepBit : Bool
  det : Bool
  sup : Bool
  sbusy : Bool
  ubusy : Bool
  qdest : Cells 32
  tmrcmp : Word
  armed : Bool
  /-- the timer has fired and its trap is not yet taken, R381 -/
  fired : Bool
  active : DWord
  /-- channel buffers, R75 -/
  q0 : List DWord
  q1 : List DWord
  q2 : List DWord
  q3 : List DWord
  /-- reconvergence stack, top first, R29 -/
  stack : List (Pc × BitVec 32)
  tx : TryState
  /-- a trap of an instruction that waits for the warp's outstanding results, R301 -/
  trap : Option TrapInfo
  /-- faults held pending, R302 -/
  pend : List TrapInfo
  /-- scope of the latest FENCE.MAP, R314 -/
  fenceMap : Option Scope
  /-- a debug stop holds the warp, R385, R387 -/
  dbgHalt : Bool
  /-- the model's own: rollbacks, trap entries, returns and saves of the warp, so that a result computed before
  one of them does not overwrite it -/
  epoch : Nat
  /-- a warp has been created in the context (the model's own): a lane that a replay expects there has exited, not yet to come -/
  ran : Bool := false
deriving DecidableEq, Repr

/-! ### Teams -/

/-- R38; a SAVED team is pooled or held, R316. -/
inductive TeamSt | placed | running | saved (pooled : Bool) | ending | gone
deriving DecidableEq, Repr

/-- R62. -/
inductive TileSt | empty | filling | ready | draining
deriving DecidableEq, Repr

/-- R73: a delivery that waits for TARM: its space, VA, IA and extent. -/
structure Delivery where
  space : Nat
  va : DWord
  ia : Nat
  ext : Nat
deriving DecidableEq, Repr

structure TileEnt where
  st : TileSt
  keep : Bool
  arm : Bool
  pend : Option Delivery
deriving DecidableEq, Repr

/-- The life times of a tile, R389. -/
structure TileLife where
  inStart : Nat
  inEnd : Nat
  wait : Nat
  cStart : Nat
  cEnd : Nat
  outEnd : Nat
deriving DecidableEq, Repr

/-- R64. -/
structure Ring where
  slots : List (Nat × Bool)
  prod : Nat
  prodPh : Bool
  cons : Nat
  expPh : Bool
  count : Nat
  depth : Nat
deriving DecidableEq, Repr

/-- R247. -/
structure WeightSet where
  valid : Bool
  k : Nat
  n : Nat
  ty : Nat
  sc : Nat
  elems : Cells 32
  scales : Cells 32
deriving DecidableEq, Repr

/-- R279: the states of a raster frame. -/
inductive FrameSt | empty | opened | closed
deriving DecidableEq, Repr

/-- R136, R279: the frame word, the pixel store and its spill block's offset from SAVEBASE (R377). The store holds,
by y · width + x, the complement of depth and ID, so that an uncovered pixel, which reads as ones, is not listed. -/
structure RasterFrame where
  st : FrameSt
  word : Word
  pix : Cells 64
  spill : Nat
deriving DecidableEq, Repr

/-- The fields of a node descriptor, R326. -/
structure Desc where
  code : DWord
  args : DWord
  nt : Nat
  start : Nat
  limit : Nat
  lanes : Nat
  win : Nat
  argn : Nat
  tileK : Nat
  scrK : Nat
  fill : Nat
  lead : Nat
  age : Nat
  rings : Word
  root : Bool
  trapOvf : Bool
  nscope : Bool
  /-- the L1 of its cluster is fused while the team is resident, R66 -/
  fused : Bool
  /-- FUSED as the descriptor gives it -/
  fusedOwn : Bool
  place : Nat
  depth : Nat
  payW : Nat
  roles : BitVec 128
  tiles : DWord
  opnd : DWord
  opndK : Nat
  nsucc : Nat
  npred : Nat
  succ : DWord
  edges : DWord
  rcores : DWord
  rlen : Nat
  row : Nat
deriving DecidableEq, Repr

/-- Why a save is taken, R377. -/
inductive SaveReason | preempt | ctxsave | pagefault | stop
deriving DecidableEq, Repr

/-- A pre-emption that waits for the units of R376: its reason, and the warp and instruction that ask for it; team 0
is Hawkmoth. `own` holds the lanes that asked, and the destination of their status, R316. -/
structure Saving where
  reason : SaveReason
  team : Nat
  warp : Nat
  pc : Pc
  own : Option (List Nat × Option (Reg × Nat) × Option (Fin 4)) := none
deriving DecidableEq, Repr

/-- One team: R38, R59 to R64, R85, R247, R279, R295, R318, R389. -/
structure Team where
  uid : Nat
  /-- partition · 65536 + ASID of its context -/
  space : Nat
  inst : Nat
  t : Nat
  core : Nat
  /-- index of the first granule of its window block, R336 -/
  block : Nat
  frameF : Nat
  st : TeamSt
  reason : SaveReason
  desc : Desc
  warps : List Warp
  scratch : Cells 8
  tileMem : Cells 8
  tsh : Cells 64
  ttab : List TileEnt
  rings : List Ring
  /-- phase numbers heard from neighbour teams, R85 -/
  heard : List (Nat × Nat)
  frame : RasterFrame
  weight : WeightSet
  /-- held grants of LEAVE: kind and the cycle of its lapse, R318 -/
  grants : List (Nat × Nat)
  lives : List TileLife
  depthOvf : Nat
  /-- pages whose arrival or unfreeze restores the team, R369 -/
  pages : List Nat
  /-- when the team was pooled, R333 -/
  pooledAt : Nat
  /-- a priority or instruction pre-emption waits for the units of R376 -/
  saving : Option Saving
deriving DecidableEq, Repr

/-! ### Cores -/

/-- R21 to R23: a bin that holds a key, its filed lanes (slot, warp) and the lanes that wait for a slot. -/
structure Bin where
  core : Nat
  num : Nat
  team : Nat
  pc : Pc
  slots : List (Nat × Nat)
  waiting : List (Nat × Nat)
  /-- the cycle in which the oldest entry was filed -/
  oldest : Nat
  drawable : Bool
deriving DecidableEq, Repr

/-- A dirty byte of an L1 or of a sector's slices: the home core of its line, or 128 + k for the slices of sector k
(R69), the line tag of R371 and the byte. -/
structure DirtyByte where
  core : Nat
  space : Nat
  ia : Nat
  val : Byte
deriving DecidableEq, Repr

/-! ### Contexts, R291, R292, R344 -/

/-- The fence, release or PHASE to which a deferred write fault is attributed, R371, R372. -/
structure FenceAt where
  team : Nat
  warp : Nat
  lanes : List Nat
  pc : Pc
  len : Nat
  bits : BitVec 128
deriving DecidableEq, Repr

/-- What the stop record of a context will hold, R373. -/
structure StopInfo where
  cause : Byte
  sub : Byte
  addr : DWord
  frame : Nat
  ctx : Nat
deriving DecidableEq, Repr

structure RangeReg where
  w0 : Word
  w1 : Word
  w2 : Word
  w3 : Word
deriving DecidableEq, Repr

/-- A context's registers. A pending high half is absent while it equals the installed one, R293. -/
structure Context where
  space : Nat
  uvec : DWord
  svec : DWord
  savebase : DWord
  savesz : Word
  dbgctl : Word
  rng : List RangeReg
  uvecHi : Option Word
  svecHi : Option Word
  saveHi : Option Word
  /-- pending words 1 to 3 of each range register -/
  rngPend : List (Option Word × Option Word × Option Word)
  /-- the stop record is ACTIVE, R373 -/
  stopped : Bool
  /-- the context is being stopped, and its stop record is still to be written, R374 -/
  stopping : Option StopInfo
  /-- a save area byte or a record found no room: deferred faults kept in Cecropia, R371 -/
  faultBuf : List (Nat × Nat × Cells 8)
  /-- the warp that handles a deferred write fault, with the fence, while the others are STOPPED, R372 -/
  defer : Option FenceAt
  /-- a command word waits to be performed, R387 -/
  go : Bool
deriving DecidableEq, Repr

/-! ### Queues, records and instances -/

/-- R328. -/
structure Edge where
  num : Nat
  base : DWord
  cap : Nat
  sw : Nat
  maxd : Nat
  target : Nat
  batch : Nat
  inoff : Nat
deriving DecidableEq, Repr

/-- One node of an admitted record, R329, R330. -/
structure Node where
  desc : Desc
  edges : List Edge
  succ : List Nat
  predsLeft : Nat
  rootDone : Bool
  complete : Bool
  inst : Word
  ovf : Word
  fullc : Word
deriving DecidableEq, Repr

structure Rec where
  id : Nat
  queue : Nat
  idx : Word
  space : Nat
  prio : Nat
  overlap : Bool
  det : Bool
  shape : Word
  cword : DWord
  nstat : DWord
  nodes : List Node
  /-- none, REC or PLAY, R393 -/
  log : Nat
  /-- the record was stopped, R374 -/
  stopped : Bool
  /-- it failed the checks of its admission, R327 -/
  bad : Bool
  /-- it has completed, and is kept for its teams that are still saved or placed, R374 -/
  ended : Bool
deriving DecidableEq, Repr

/-- A record that an EMIT appended and no instance has taken, R331. -/
structure Emitted where
  job : Nat
  node : Nat
  edge : Nat
  target : Nat
  depth : Nat
  /-- the team that holds it in deterministic mode until it is GONE, R341 -/
  team : Option Nat
  bytes : List Byte
  /-- its place in the edge's storage -/
  slot : Nat
  /-- the core and its fusion whose write-backs, which the append releases, a freeze still holds, R185, R356 -/
  rel : Option (Nat × Bool)
deriving DecidableEq, Repr

/-- A node instance, R16, R333. -/
structure Inst where
  uid : Nat
  job : Nat
  node : Nat
  depth : Nat
  /-- the delivered records, R331 -/
  input : List (List Byte)
  inoff : Nat
  /-- teams that have been placed; outside deterministic mode the next index to place, R333 -/
  nextT : Nat
  /-- the indices placed in deterministic mode -/
  placed : List Nat
  /-- teams that have reached GONE -/
  gone : Nat
  inPool : Bool
  pooledAt : Nat
  det : Bool
deriving DecidableEq, Repr

/-- R323: the round of one PRIO level: the queue whose turn it is and the records admitted in it. -/
structure Round where
  prio : Nat
  queue : Nat
  count : Nat
deriving DecidableEq, Repr

/-! ### In flight -/

/-- What an access does when it is performed. -/
inductive AccOp | load | store | atom (op : Nat) | cas
deriving DecidableEq, Repr

/-- One access of one lane between issue and performance, R223, R350, R367. -/
structure Access where
  id : Nat
  /-- the issue group that sent it, R221 -/
  group : Nat
  op : AccOp
  team : Nat
  warp : Nat
  lane : Nat
  pc : Pc
  len : Nat
  bits : BitVec 128
  regionPc : Pc
  regionCnt : Word
  va : DWord
  ia : Nat
  width : Nat
  signed : Bool
  dst : Option (Reg × Nat)
  latch : Option (Fin 4)
  /-- the value stored, the operand of an atomic, or the new value of ACAS -/
  data : BitVec 128
  cmp : DWord
  /-- an ordinary access has no scope -/
  scope : Option Scope
  acq : Bool
  /-- an ORD access: phase and ordinal, R342 -/
  ord : Option (Nat × Nat)
  /-- a gate of R393 still holds it -/
  gated : Bool
  /-- cause and subcode with which it has faulted, R368 -/
  fault : Option (Byte × Byte)
  /-- words of the result whose register a later instruction has written, R223 -/
  dead : BitVec 4 := 0
  /-- the scope of a release whose write-backs come before the store, R227 -/
  rel : Option Scope := none
  /-- stores of the lane that a commit has made since, which its hash counts after this one, R394 -/
  after : List TryStore := []
deriving DecidableEq, Repr

/-- A register result not yet written, R198, R223. -/
structure Result where
  id : Nat
  /-- a load's data, which LOAD_DATA_ARRIVAL writes; otherwise a multi-cycle result -/
  load : Bool
  team : Nat
  warp : Nat
  lane : Nat
  dst : Option (Reg × Nat)
  latch : Option (Fin 4)
  val : BitVec 128
  /-- the value of an acquire, R227 -/
  acq : Bool
  /-- words whose register a later instruction has written, R223 -/
  dead : BitVec 4 := 0
deriving DecidableEq, Repr

/-- An engine operation from issue to completion, R92. -/
structure EngOp where
  id : Nat
  ins : Instr
  team : Nat
  warp : Nat
  lane : Nat
  pc : Pc
  len : Nat
  bits : BitVec 128
  /-- operand values read at issue, in the order its meaning gives -/
  args : List Nat
  /-- IAs of the beats checked at issue: first byte of each run -/
  ias : List Nat
  /-- tiles that it holds -/
  tiles : List Nat
  /-- the next beat, bucket or visit -/
  pos : Nat
  /-- a fault stopped it at a beat and its warp has not yet returned from the handler, R370 -/
  stuck : Bool
  /-- its power-leave charge, R410 -/
  charge : Nat
  /-- the cycle in which the grant that it took from its team lapses, R318; 0: it took none -/
  lapse : Nat := 0
  /-- its destination register, for operations that write a status -/
  dst : Option (Reg × Nat)
  latch : Option (Fin 4)
  /-- the VA of the beat at which a fault stopped it, R377 -/
  va : DWord := 0
  /-- the warp whose handler has taken that fault, R370 -/
  handler : Option Nat := none
  /-- words of the status whose register a later instruction has written -/
  dead : BitVec 4 := 0
  /-- what the operation holds from its fork on (R92, R93): of a copy, by IA, the bytes that its core's own writes decide; of a
  pooling, the buckets that it reads; of a batch, the record that it will write and, at 256, its code -/
  kept : Option (Cells 8) := none
deriving DecidableEq, Repr

/-- A requester merged into a multicast, R72: its core and the operation it belongs to; for a plain read,
the access. -/
structure Merged where
  core : Nat
  op : Nat
  isOp : Bool
  /-- beats of its own range that it reads by itself: missed ones, and those of other lines -/
  missed : List Nat
deriving DecidableEq, Repr

/-- A masked multicast at its home slices, R71 to R73. -/
structure Mcast where
  id : Nat
  op : Nat
  inst : Nat
  sector : Nat
  space : Nat
  va : DWord
  /-- the IA of each of its beats -/
  ias : List Nat
  ext : Nat
  tile : Nat
  /-- masked cores still to be served -/
  mask : BitVec 16
  /-- the mesh cycle at which the request arrived -/
  opened : Nat
  /-- the home slice of each of its beats -/
  homes : List Nat
  /-- beats that have left, with the mesh cycle -/
  left : List (Nat × Nat)
  /-- the bytes of each line as its first beat left, by offset in the range -/
  data : Cells 8
  /-- team and core of each receiver whose tile fills -/
  receivers : List (Nat × Nat)
  merged : List Merged
  /-- core and IA of bytes that a core has written since the first beat of their line left, R92 -/
  wrote : List (Nat × Nat) := []
deriving DecidableEq, Repr

/-- A delivery kept by a core that holds no team of the instance, R71, R73. -/
structure CoreDelivery where
  core : Nat
  inst : Nat
  tile : Nat
  del : Delivery
deriving DecidableEq, Repr

/-- A message flit on its way, R75, R76. -/
structure Flit where
  id : Nat
  space : Nat
  team : Nat
  warp : Nat
  lane : Nat
  chan : Nat
  dest : Word
  payload : DWord
  bounced : Bool
deriving DecidableEq, Repr

/-- A debug event that waits for room in its ring, R386. -/
structure DebugEvent where
  space : Nat
  team : Nat
  warp : Nat
  lane : Nat
  kind : Nat
  code : Nat
  pc : Pc
  time : Nat
deriving DecidableEq, Repr

/-- A page that Cecropia is migrating, R355. -/
structure Migration where
  space : Nat
  page : Nat
  big : Bool
  /-- the events of R355 that have been performed -/
  stage : Nat
  oldFrame : Nat
  newFrame : Nat
deriving DecidableEq, Repr

/-- A cached translation with its count, R352, R358. -/
structure TEntry where
  space : Nat
  page : Nat
  big : Bool
  leafPa : Nat
  leaf : BitVec 128
  count : Nat
deriving DecidableEq, Repr

/-- A request at the governor, R318, R411. -/
structure LeaveReq where
  id : Nat
  team : Nat
  warp : Nat
  /-- the instruction that asks -/
  pc : Pc
  /-- a heavy operation asks for itself; otherwise LEAVE asks -/
  forOp : Bool
  kind : Nat
  count : Nat
  /-- it reached the governor's queue -/
  arrived : Bool
  /-- grants already given towards its count -/
  got : Nat
deriving DecidableEq, Repr

/-- A message of R415. -/
inductive LinkMsg
  | xrsp (space ia : Nat) (ans : Option TEntry) (sub : Byte)
  /-- a request that Cecropia has not answered yet -/
  | xreq (space ia : Nat) (write : Bool)
  | preq (space ia : Nat)
  | inv (space page : Nat)
deriving DecidableEq, Repr

/-- A recorded or replayed stream of one point of performance, R392, R393. -/
structure LogStream where
  job : Nat
  stream : Nat
  chunk : Nat
  used : Nat
deriving DecidableEq, Repr

/-! ### Package -/

/-- STAGE of R404. -/
inductive Stage | reset | link | fwload | memready | ready | failed
deriving DecidableEq, Repr

/-- R405. -/
structure Partition where
  en : Bool
  secmask : Byte
  qfirst : Nat
  qlast : Nat
  sptbase : DWord
  fpool : DWord
  membase : DWord
  memlim : DWord
  pstat : Nat
  ctxt : DWord
  /-- EN := 0 has been written and a team is still placed, R408 -/
  closing : Bool
deriving DecidableEq, Repr

/-- R412: the key of an owner within a partition. -/
structure Key where
  space : Nat
  key : BitVec 512
deriving DecidableEq, Repr

/-- The issue group now issuing: lanes as (warp index, slot), ascending. -/
structure Issue where
  team : Nat
  pc : Pc
  len : Nat
  bits : BitVec 128
  lanes : List (Nat × Nat)
  id : Nat
deriving DecidableEq, Repr

/-- What another package of the node does that this one meets, R364: its key store changes, Cecropia's freeze, swing
or unfreeze of a page there invalidates translations, its agents write a byte of its memory. -/
inductive Peer
  | key (pkg space : Nat) (key : Option (BitVec 512))
  | invalidate (pkg frame : Nat)
  | write (pkg pa : Nat) (b : Byte)
deriving DecidableEq, Repr

/-- What moves next. -/
inductive Act
  | event (i : Instr)
  /-- a step of an access, a result or a flit, which the move names -/
  | named (i : Instr) (x : Nat)
  | issue (team warp lane : Nat)
  | idle
  /-- a core's L1, or 128 + k the slices of a sector, gives up a line, R82, R190 -/
  | evict (core space line : Nat)
  /-- the two counters of R45 advance on a core: register-cache evictions and gated-bank cycles -/
  | power (core evictions gated : Nat)
  | peer (p : Peer)
deriving DecidableEq, Repr

/-- One move: cycles that pass, then the act. -/
structure Move where
  cycles : Nat
  act : Act
deriving DecidableEq, Repr

/-- The machine. -/
structure State where
  stage : Stage
  failCode : Byte
  countPa : DWord
  qTable : DWord
  heavyB : Word
  fwCmd : Word
  fwBuf : Cells 8
  /-- LO halves written and not yet installed: HCB offset and value, R404 -/
  hcbLo : List (Nat × Word)
  /-- measurements of the loaded images, governor, Cecropia, Hawkmoth, R409 -/
  images : List (Nat × BitVec 512)
  parts : List Partition
  keys : List Key
  /-- keys that another package of the node holds, by package, R364 -/
  peerKeys : List (Nat × Key)
  /-- the key a line was last enciphered under, by line number, R412 -/
  lineKey : List (Nat × BitVec 512)
  mem : List Host.Cell
  /-- bytes of memory with an uncorrectable error, R375 -/
  badBytes : List Nat
  /-- the TAILs, by space and PA, of stopped contexts of whose queues none has been written since the stop, R374 -/
  tails : List (Nat × Nat)
  pkg : Fin 8
  cycle : Nat
  ctxs : List Context
  teams : List Team
  bins : List Bin
  l1 : List DirtyByte
  reserved : List (Nat × Nat)
  recs : List Rec
  insts : List Inst
  emitted : List Emitted
  rounds : List Round
  /-- HEAD of the pool: the instance and the mesh cycle since which it heads it, R336 -/
  poolHead : Option (Nat × Nat)
  /-- the logical cluster that each physical cluster runs: instance, physical, logical, R340 -/
  clusters : List (Nat × Nat × Nat)
  accs : List Access
  results : List Result
  ops : List EngOp
  mcasts : List Mcast
  coreDels : List CoreDelivery
  flits : List Flit
  events : List DebugEvent
  migs : List Migration
  tcache : List TEntry
  /-- mappings that a FENCE.MAP superseded, until a MAPSYNC, R314 -/
  oldMaps : List TEntry
  /-- mappings through which the dirty lines of the other pages were stored, R314 -/
  stored : List TEntry
  /-- dirty bytes of pages that stores through another mapping have meanwhile reached: the next step writes them through the
  mapping before it (the model's own, log entry 28) -/
  owed : List (TEntry × List DirtyByte)
  /-- evicted entries whose count HOT has not yet taken, R358 -/
  hotQ : List (Nat × Nat)
  leaves : List LeaveReq
  link : List LinkMsg
  /-- the host agent's cached answers, R363 -/
  hostCache : List TEntry
  invWait : Bool
  pagesDeclined : List (Nat × Nat)
  /-- failed fabric ports: peer and port, R416 -/
  ports : List (Nat × Nat)
  /-- contexts, with the PA, that have met a package that no port reaches or a byte with an uncorrectable error; the
  step's end stops them, R375, R416 -/
  lost : List (Nat × Nat)
  /-- writes of the device to a save area that wait behind a freeze: context, offset from SAVEBASE, bytes, R356 -/
  saveQ : List (Nat × Nat × List Byte)
  logs : List LogStream
  cur : Option Issue
  tape : List Move
  /-- core and port of each issue of this arithmetic cycle, R26 -/
  issued : List (Nat × Nat)
  serial : Nat
  /-- the model's own: the access, result or flit that the move names -/
  named : Nat
  freeCtr : Nat
  halt : Option Fault
deriving DecidableEq, Repr

def Partition.off : Partition :=
  ⟨false, 0, 0, 0, 0, 0, 0, 0, 0, 0, false⟩

/-- The package after reset, R404 and R409: stage RESET, no firmware, no key, no partition enabled, every
other field of the control block at its reset value. What R14 calls the creation of a context, a team or a
warp has not happened, so there is none. -/
def State.reset : State where
  stage := .reset
  failCode := 0
  countPa := 0
  qTable := 0
  heavyB := 2064
  fwCmd := 0
  fwBuf := []
  hcbLo := []
  images := []
  parts := List.replicate 8 Partition.off
  keys := []
  peerKeys := []
  lineKey := []
  mem := []
  badBytes := []
  tails := []
  pkg := 0
  cycle := 0
  ctxs := []
  teams := []
  bins := []
  l1 := []
  reserved := []
  recs := []
  insts := []
  emitted := []
  rounds := []
  poolHead := none
  clusters := []
  accs := []
  results := []
  ops := []
  mcasts := []
  coreDels := []
  flits := []
  events := []
  migs := []
  tcache := []
  oldMaps := []
  stored := []
  owed := []
  hotQ := []
  leaves := []
  link := []
  hostCache := []
  invWait := false
  pagesDeclined := []
  ports := []
  lost := []
  saveQ := []
  logs := []
  cur := none
  tape := []
  issued := []
  serial := 1
  named := 0
  freeCtr := 0
  halt := none

end Sys2Proof.Machine
end

