-- ==== Sys2Proof/Machine/Memory.lean ====
section
/-! DEFINITION. Finding and changing parts of the state, registers, memory by physical address, the
translation of R345 to R353, the L1's dirty bytes, and the rollback of a TRY. -/

namespace Sys2Proof.Machine

/-! ### Parts of the state -/

def State.team? (s : State) (uid : Nat) : Option Team := s.teams.find? (fun t => t.uid == uid)
def State.modTeam (s : State) (uid : Nat) (f : Team → Team) : State :=
  { s with teams := s.teams.map (fun t => if t.uid == uid then f t else t) }
def Team.modWarp (t : Team) (w : Nat) (f : Warp → Warp) : Team := { t with warps := t.warps.modify w f }
def State.modWarp (s : State) (uid w : Nat) (f : Warp → Warp) : State := s.modTeam uid (fun t => t.modWarp w f)
def Warp.modLane (w : Warp) (slot : Nat) (f : Lane → Lane) : Warp := { w with lanes := w.lanes.modify slot f }
def State.modLane (s : State) (uid w slot : Nat) (f : Lane → Lane) : State :=
  s.modWarp uid w (fun x => x.modLane slot f)
def State.warp? (s : State) (uid w : Nat) : Option Warp :=
  match s.team? uid with
  | some t => t.warps[w]?
  | none => none
def State.lane? (s : State) (uid w slot : Nat) : Option Lane :=
  match s.warp? uid w with
  | some x => x.lanes[slot]?
  | none => none
def State.ctx? (s : State) (space : Nat) : Option Context := s.ctxs.find? (fun c => c.space == space)
def State.modCtx (s : State) (space : Nat) (f : Context → Context) : State :=
  { s with ctxs := s.ctxs.map (fun c => if c.space == space then f c else c) }
def State.inst? (s : State) (uid : Nat) : Option Inst := s.insts.find? (fun i => i.uid == uid)
def State.modInst (s : State) (uid : Nat) (f : Inst → Inst) : State :=
  { s with insts := s.insts.map (fun i => if i.uid == uid then f i else i) }
def State.rec? (s : State) (id : Nat) : Option Rec := s.recs.find? (fun r => r.id == id)
def State.modRec (s : State) (id : Nat) (f : Rec → Rec) : State :=
  { s with recs := s.recs.map (fun r => if r.id == id then f r else r) }
def State.op? (s : State) (id : Nat) : Option EngOp := s.ops.find? (fun o => o.id == id)
def State.modOp (s : State) (id : Nat) (f : EngOp → EngOp) : State :=
  { s with ops := s.ops.map (fun o => if o.id == id then f o else o) }
def State.dropOp (s : State) (id : Nat) : State := { s with ops := s.ops.filter (fun o => o.id != id) }
def State.part (s : State) (space : Nat) : Partition := (s.parts[space / 65536]?).getD Partition.off
/-- The team of index k has been placed; only a deterministic instance places them out of order. -/
def Inst.hasPlaced (i : Inst) (k : Nat) : Bool := if i.det then i.placed.contains k else k < i.nextT
/-- The record of the instance of a team. -/
def State.teamRec? (s : State) (t : Team) : Option Rec :=
  match s.inst? t.inst with
  | some i => s.rec? i.job
  | none => none

/-- The package clock: nanoseconds since reset, at 2.1 arithmetic cycles each (R15, R306).
(DESIGN CHOICE, log entry 61.) -/
def State.clock (s : State) : DWord := BitVec.ofNat 64 (s.cycle * 10 / 21)
/-- Mesh cycles since reset, at 1.8 GHz (R15). (DESIGN CHOICE, log entry 61.) -/
def State.mesh (s : State) : Nat := s.cycle * 6 / 7

def Lane.live (l : Lane) : Bool := l.st != .exited
/-- The state beneath a halt: that of the lane, or the one that a HALTED lane returns to (R17). -/
def Lane.under (l : Lane) : LaneSt := if l.st == .halted then l.held else l.st
/-- The lane enters a state now; HALTED, it will be in that state once it is resumed. -/
def Lane.enter (l : Lane) (st : LaneSt) (now : Nat) : Lane :=
  match l.st with
  | .exited => l
  | .halted => { l with held := st, since := 0 }
  | _ => { l with st := st, since := now }
/-- A wait of the lane has ended: it is READY, and its instruction is done or will be tried afresh. -/
def Lane.release (l : Lane) (now : Nat) : Lane := { l.enter .ready now with wait := .retry }
/-- It waits, beneath a halt too. -/
def Lane.waitsFor (l : Lane) (w : Wait) : Bool := l.under == .blocked && l.wait == w
/-- Lanes of a warp with their slots. -/
def Warp.slots (w : Warp) : List (Nat × Lane) := w.lanes.zipIdx.map (fun x => (x.2, x.1))
def Warp.liveMask (w : Warp) : BitVec 32 :=
  w.slots.foldl (fun m x => if x.2.live then m ||| BitVec.ofNat 32 (2 ^ x.1) else m) 0
def maskOf (slots : List Nat) : BitVec 32 := slots.foldl (fun m k => m ||| BitVec.ofNat 32 (2 ^ k)) 0

/-- An access that waits for its turn (R342) or in a replay gate (R393) has not been sent. -/
def Access.unsent (a : Access) : Bool := a.fault.isNone && (a.ord.isSome || a.gated)

/-! ### Registers, R41 to R43 -/

def noLatches : Vector (Option Word) 4 := Vector.replicate 4 none
def Lane.dropLatches (l : Lane) : Lane := { l with bp := noLatches, group := 0 }

def Lane.rdV (l : Lane) (n : Nat) : Word := cget l.v n
/-- s0 reads zero, R43. -/
def Warp.rdS (w : Warp) (n : Nat) : Word := if n = 0 then 0 else cget w.s n
/-- p7 reads true, R43. -/
def Lane.rdP (l : Lane) (p : Fin 8) : Bool := p == 7 || l.p.getLsbD p.val
def Lane.wrV (l : Lane) (n : Nat) (x : Word) : Lane := { l with v := cset l.v n x }
/-- A write to s0 is discarded, R43. -/
def Warp.wrS (w : Warp) (n : Nat) (x : Word) : Warp := if n = 0 then w else { w with s := cset w.s n x }
/-- A write to p7 is discarded, R43. -/
def Lane.wrP (l : Lane) (p : Fin 8) (b : Bool) : Lane :=
  if p == 7 then l
  else { l with p := if b then l.p ||| BitVec.ofNat 7 (2 ^ p.val) else l.p &&& ~~~BitVec.ofNat 7 (2 ^ p.val) }

/-- The register k places after a named one. -/
def rdSrc (w : Warp) (l : Lane) (k : Nat) : Src → Option Word
  | .v n => some (l.rdV (n.val + k))
  | .s n => some (w.rdS (n.val + k))
  | .bp n => l.bp[n]

/-- Window-space registers of a warp, R56: v-register offsets beyond the window read zero. -/
def wstat (w : Warp) : Word :=
  BitVec.ofNat 32 (w.tx.depth * 2 ^ 21 + (match w.role with | .general => 0 | .copy => 1 | .matrix => 2 | .vector => 3) * 2 ^ 19
    + w.ctx * 2 ^ 13 + (if w.stepBit then 8 else 0) + (if w.det then 4 else 0)
    + (if w.uconflict then 2 else 0) + (if w.lockstep then 1 else 0))

def predWord (w : Warp) (k : Fin 8) : Word :=
  w.slots.foldl (fun m x => if x.2.rdP k then m ||| BitVec.ofNat 32 (2 ^ x.1) else m) 0

def windowRead (win : Nat) (w : Warp) (off : Nat) : Word :=
  if off < 0x6000 then
    if off / 128 < 8 * win then ((w.lanes[off / 4 % 32]?).map (fun l => l.rdV (off / 128))).getD 0 else 0
  else if off < 0x6100 then w.rdS ((off - 0x6000) / 4)
  else if off < 0x6120 then predWord w (Fin.ofNat 8 ((off - 0x6100) / 4))
  else if off = 0x6120 then wstat w
  else 0

/-! ### Memory by physical address, R335, R412 -/

/-- Memory in its one form: addresses rise, and no entry is the 0 that an unlisted address reads as. -/
abbrev Memory.wf (m : List Host.Cell) : Bool := cellsWf m

/-- One key for every byte of the node's memory: the package's own bytes stand at their PA.
(DESIGN CHOICE, log entry 44.) -/
def physKey (s : State) (home : Nat) (pa : Nat) : Nat := if home = s.pkg.val then pa else (home + 1) * 2 ^ 48 + pa

def State.keyOf (s : State) (space : Nat) : Option (BitVec 512) :=
  (s.keys.find? (fun k => k.space == space)).map (·.key)

def lineKeyOf (s : State) (pa : Nat) : Option (BitVec 512) :=
  (s.lineKey.find? (fun k => k.1 == pa / 128)).map (·.2)

/-- A byte as the device deciphers it: under another key than its line was written under, that of the block which the second
key deciphers (R412). State.mem holds what the key of the line reads. (DESIGN CHOICE, log entry 8.) -/
def deciphered (s : State) (key : Option (BitVec 512)) (pa : Nat) : Byte :=
  match key, lineKeyOf s pa with
  | some k, some k0 =>
    if k = k0 then cget s.mem pa else byteAt (reciphered k0 k pa (cread s.mem (pa / 16 * 16) 16)) (pa % 16)
  | _, _ => cget s.mem pa

def pread (s : State) (key : Option (BitVec 512)) (pa n : Nat) : List Byte :=
  (List.range n).map (fun k => deciphered s key (pa + k))

/-- An access to a PA at which the package has no memory stops the machine. (DEDUCED, log entry 62.) -/
def noMem (s : State) (pa : Nat) : State :=
  if pa < 2 ^ 48 && 2 ^ 39 ≤ pa then { s with halt := some (s.halt.getD .noMemory) } else s

/-- The lines that `n` bytes at `pa` touch. -/
def linesOf (pa n : Nat) : List Nat :=
  if n = 0 then [] else (List.range ((pa + n - 1) / 128 - pa / 128 + 1)).map (fun k => pa / 128 + k)

/-- A line is enciphered whole: its other bytes turn into what the new key reads in them, R412. -/
def rekeyLine (s : State) (key : BitVec 512) (line : Nat) : State :=
  match (s.lineKey.find? (fun k => k.1 == line)).map (·.2) with
  | some k0 =>
    if k0 = key then s
    else { s with
      mem := cwrite s.mem (line * 128) (pread s (some key) (line * 128) 128)
      lineKey := (line, key) :: s.lineKey.filter (fun k => k.1 != line) }
  | none => { s with lineKey := (line, key) :: s.lineKey }

/-- A run of bytes written: what the run held is cleared and what is not zero is listed. -/
def memPut (m : Cells 8) (pa : Nat) (bs : List Byte) : Cells 8 :=
  (bs.zipIdx.filter (fun x => x.1 != 0)).foldl (fun m x => cset m (pa + x.2) x.1) (cclear m pa bs.length)

def pwrite (s : State) (key : Option (BitVec 512)) (pa : Nat) (bs : List Byte) : State :=
  let s := noMem s pa
  let s := match key with
    | some k => (linesOf pa bs.length).foldl (fun s l => rekeyLine s k l) s
    | none => s
  let meets (a n : Nat) : Bool := pa < a + n && a < pa + bs.length
  let told := s.tails.filter (fun x => meets x.2 4)
  { s with
    mem := memPut s.mem pa bs
    badBytes := s.badBytes.filter (fun b => !meets b 1)
    tails := s.tails.filter (fun x => !told.any (fun y => y.1 == x.1)) }

/-- Structures that the host writes by PA: context table, queue table, counter page. (DEDUCED, log entry 42.) -/
def readPa (s : State) (pa n : Nat) : Nat := leNat (pread s none pa n)
/-- DEDUCED, log entry 42. -/
def writePa (s : State) (pa n x : Nat) : State := pwrite s none pa (leBytes n x)

/-! ### Range registers, R344 and R345 -/

/-- What an access needs of a leaf; `compare` is an ACAS that will write nothing, which has the rights of an atomic and the
updates of a load (R229, R353). -/
inductive Need | load | store | atomic | compare | fetch
deriving DecidableEq, Repr

def RangeReg.valid (r : RangeReg) : Bool := r.w1.getLsbD 4
def RangeReg.uni (r : RangeReg) : Bool := r.w1.getLsbD 3
/-- VA[55:16] of the first and the last granule and IA[51:16] of the first. -/
def RangeReg.first (r : RangeReg) : Nat := (r.w1.extractLsb' 24 8).toNat * 2 ^ 32 + r.w0.toNat
def RangeReg.last (r : RangeReg) : Nat := (r.w1.extractLsb' 16 8).toNat * 2 ^ 32 + r.w2.toNat
def RangeReg.iaFirst (r : RangeReg) : Nat := (r.w1.extractLsb' 12 4).toNat * 2 ^ 32 + r.w3.toNat
def RangeReg.allows (r : RangeReg) : Need → Bool
  | .load => r.w1.getLsbD 0
  | .store => r.w1.getLsbD 1
  | .atomic | .compare => r.w1.getLsbD 0 && r.w1.getLsbD 1
  | .fetch => r.w1.getLsbD 2

/-- A value that R344 reserves. -/
def RangeReg.reserved (r : RangeReg) : Bool :=
  r.valid && (r.last < r.first || 2 ^ 36 ≤ r.iaFirst + (r.last - r.first))

/-- The range that holds a VA, the lowest-numbered one (R345). -/
def rangeOf (c : Context) (va : Nat) : Option RangeReg :=
  c.rng.find? (fun r => r.valid && r.first ≤ va / 65536 && va / 65536 ≤ r.last)

/-- R345: the IA, or the subcode of RANGE: 0 HIGHBITS, 1 NORANGE, 2 PERM. -/
def rangeCheck (c : Context) (va : DWord) (need : Need) : Except Byte Nat :=
  if va.extractLsb' 56 8 != 0 then .error 0
  else match rangeOf c va.toNat with
  | none => .error 1
  | some r => if r.allows need then .ok (r.iaFirst * 65536 + va.toNat - r.first * 65536) else .error 2

/-- A unified range holds the IA, R363. -/
def unified (c : Context) (ia : Nat) : Bool :=
  c.rng.any (fun r => r.valid && r.uni && r.iaFirst ≤ ia / 65536 && ia / 65536 ≤ r.iaFirst + (r.last - r.first))

/-! ### The walk, R346 to R350 -/

/-- A translation: the physical key of the address, the leaf and where it stands. -/
structure Trans where
  pa : Nat
  leafPa : Nat
  leaf : BitVec 128
  big : Bool
deriving DecidableEq, Repr

inductive TransRes
  | ok (t : Trans)
  | frozen (fault : Bool)
  | fail (sub : Byte)
deriving DecidableEq, Repr

def leafR (e : BitVec 128) : Bool := e.getLsbD 103
def leafW (e : BitVec 128) : Bool := e.getLsbD 102
def leafX (e : BitVec 128) : Bool := e.getLsbD 101
def leafA (e : BitVec 128) : Bool := e.getLsbD 61
def leafD (e : BitVec 128) : Bool := e.getLsbD 60
def leafFrz (e : BitVec 128) : Bool := e.getLsbD 59
def leafFmode (e : BitVec 128) : Bool := e.getLsbD 58
def leafUnc (e : BitVec 128) : Bool := e.getLsbD 55
def leafSyn (e : BitVec 128) : Bool := e.getLsbD 54
def leafNode (e : BitVec 128) : Bool := e.getLsbD 53
def leafHome (e : BitVec 128) : Nat := (e.extractLsb' 50 3).toNat
def leafOwner (e : BitVec 128) : Nat := (e.extractLsb' 112 16).toNat
def leafFrame (e : BitVec 128) : Nat := (e.extractLsb' 16 32).toNat * 65536
def leafMig (e : BitVec 128) : Bool := e.getLsbD 104
def setBit (e : BitVec 128) (n : Nat) : BitVec 128 := e ||| BitVec.ofNat 128 (2 ^ n)
def clearBit (e : BitVec 128) (n : Nat) : BitVec 128 := e &&& ~~~BitVec.ofNat 128 (2 ^ n)

/-- The partition's memory window of R405 holds a PA. -/
def inWindow (p : Partition) (pa : Nat) : Bool := p.membase.toNat ≤ pa / 65536 && pa / 65536 ≤ p.memlim.toNat

/-- The key of page tables and space tables: that of ASID 0x0000 of the partition (R412). -/
def tableKey (s : State) (space : Nat) : Option (BitVec 512) := s.keyOf (space / 65536 * 65536)
def readEntry (s : State) (space pa : Nat) : BitVec 128 :=
  BitVec.ofNat 128 (leNat (pread s (tableKey s space) pa 16))
def writeEntry (s : State) (space pa : Nat) (e : BitVec 128) : State :=
  pwrite s (tableKey s space) pa (leBytes 16 e.toNat)

/-- A bad leaf or table entry of a level, R348 and R407. -/
def badEntry (s : State) (space : Nat) (lvl : Nat) (e : BitVec 128) : Bool :=
  let p := s.part space
  match (e.extractLsb' 62 2).toNat with
  | 1 => lvl == 3 || (e &&& ~~~(0x4000FFFFFFFFFE00 : BitVec 128)) != 0 ||
         (lvl < 2 && e.extractLsb' 9 4 != 0) || !inWindow p (e.extractLsb' 0 48).toNat
  | 2 => lvl < 2 || e.extractLsb' 96 5 != 0 || e.extractLsb' 48 2 != 0 || e.extractLsb' 0 16 != 0 ||
         (lvl == 2 && e.extractLsb' 16 5 != 0) || e.extractLsb' 56 2 == 3 || (leafUnc e && leafSyn e) ||
         (e.extractLsb' 56 2 == 2 && !p.secmask.getLsbD ((e.extractLsb' 105 7).toNat / 16)) ||
         !(inWindow p (leafFrame e) && inWindow p (leafFrame e + (if lvl == 2 then 0x1FFFFF else 0xFFFF)))
  | _ => true

/-- Bits of the IA that index a level, R347. -/
def levelIndex (lvl ia : Nat) : Nat :=
  match lvl with
  | 0 => ia / 2 ^ 39 % 8192
  | 1 => ia / 2 ^ 30 % 512
  | 2 => ia / 2 ^ 21 % 512
  | _ => ia / 2 ^ 16 % 32

/-- The levels of the walk from a table's PA, at most `fuel` of them: the leaf's PA, the leaf and whether it
maps 2 MiB; or the subcode of the first failure. -/
def walkLevels (s : State) (space ia : Nat) : (fuel lvl table : Nat) → Except Byte (Nat × BitVec 128 × Bool)
  | 0, _, _ => .error 2
  | f + 1, lvl, table =>
    let pa := table + 16 * levelIndex lvl ia
    let e := readEntry s space pa
    if e.extractLsb' 62 2 == 0 then .error 0
    else if badEntry s space lvl e then .error 2
    else if e.extractLsb' 62 2 == 2 then .ok (pa, e, lvl == 2)
    else walkLevels s space ia f (lvl + 1) ((e.extractLsb' 9 39).toNat * 512)

def spaceEntry (s : State) (space : Nat) : BitVec 128 :=
  readEntry s space ((s.part space).sptbase.toNat + 16 * (space % 65536))

def walk (s : State) (space ia : Nat) : Except Byte (Nat × BitVec 128 × Bool) :=
  let pa := (s.part space).sptbase.toNat + 16 * (space % 65536)
  let e := spaceEntry s space
  if !inWindow (s.part space) pa then .error 2
  else if !e.getLsbD 63 then .error 4
  else
    let root := (e.extractLsb' 17 31).toNat * 2 ^ 17
    if !inWindow (s.part space) root then .error 2 else walkLevels s space ia 4 0 root

/-- The PAs of the entries that the walk reads from a table on. -/
def levelReads (s : State) (space ia : Nat) : (fuel lvl table : Nat) → List Nat
  | 0, _, _ => []
  | f + 1, lvl, table =>
    let pa := table + 16 * levelIndex lvl ia
    let e := readEntry s space pa
    pa :: if e.extractLsb' 62 2 == 1 && !badEntry s space lvl e then
      levelReads s space ia f (lvl + 1) ((e.extractLsb' 9 39).toNat * 512) else []

/-- Some of n bytes at a physical key have an uncorrectable error, R375. -/
def corrupt (s : State) (pa n : Nat) : Bool := s.badBytes.any (fun b => pa ≤ b && b < pa + n)

/-- The entry with an uncorrectable error at which the walk of an access stops (R375). -/
def walkStops (s : State) (space ia : Nat) : Option Nat :=
  let pa := (s.part space).sptbase.toNat + 16 * (space % 65536)
  if s.badBytes.isEmpty || !inWindow (s.part space) pa then none
  else (pa :: levelReads s space ia 4 0 (((spaceEntry s space).extractLsb' 17 31).toNat * 2 ^ 17)).find? (fun a => corrupt s a 16)

/-- The first IA of the page of an address. -/
def pageOf (big : Bool) (ia : Nat) : Nat := if big then ia / 2 ^ 21 * 2 ^ 21 else ia / 65536 * 65536

def cached (s : State) (space ia : Nat) : Option TEntry :=
  s.tcache.find? (fun e => e.space == space && e.page == pageOf e.big ia)

def leafAllows (e : BitVec 128) : Need → Bool
  | .load => leafR e
  | .store => leafW e
  | .atomic | .compare => leafR e && leafW e
  | .fetch => leafX e

/-- The key under which a leaf's frame is enciphered: for a NODE page that of its home package (R364, R412). -/
def ownerKey (s : State) (space : Nat) (leaf : BitVec 128) : Option (BitVec 512) :=
  let owner := space / 65536 * 65536 + leafOwner leaf
  if leafNode leaf && leafHome leaf != s.pkg.val then
    (s.peerKeys.find? (fun k => k.1 == leafHome leaf && k.2.space == owner)).map (·.2.key)
  else s.keyOf owner

/-- The checks at a leaf, in the order of R350: the freeze, the rights, the key. -/
def leafCheck (s : State) (space ia : Nat) (need : Need) (lane : Bool) (x : Nat × BitVec 128 × Bool) : TransRes :=
  let leaf := x.2.1
  if leafFrz leaf then .frozen (lane && leafFmode leaf)
  else if !leafAllows leaf need then .fail 1
  else if (ownerKey s space leaf).isNone then .fail 5
  else
    let off := if x.2.2 then ia % 2 ^ 21 else ia % 65536
    .ok { pa := physKey s (if leafNode leaf then leafHome leaf else s.pkg.val) (leafFrame leaf + off)
          leafPa := x.1, leaf := leaf, big := x.2.2 }

/-- What a translation answers, with no update: a cached leaf or a walk; one that cannot be made waits for its context to be
stopped. -/
def lookup (s : State) (space ia : Nat) (need : Need) (lane : Bool) : TransRes :=
  match cached s space ia with
  | some e => leafCheck s space ia need lane (e.leafPa, e.leaf, e.big)
  | none =>
    if (walkStops s space ia).isSome then .frozen false
    else match walk s space ia with
    | .error sub => .fail sub
    | .ok x => leafCheck s space ia need lane x

/-- The physical key to which an IA is mapped at present, whatever the leaf's freeze, rights and owner. -/
def mappedAt (s : State) (space ia : Nat) : Option Nat :=
  let key (leaf : BitVec 128) (big : Bool) : Nat :=
    physKey s (if leafNode leaf then leafHome leaf else s.pkg.val) (leafFrame leaf + if big then ia % 2 ^ 21 else ia % 65536)
  match cached s space ia with
  | some e => some (key e.leaf e.big)
  | none =>
    match walk s space ia with
    | .ok x => some (key x.2.1 x.2.2)
    | .error _ => none

/-- The core whose L1 holds a line for a core: with a fused L1, the core that IA[8:7] names (R66). -/
def l1Core (core : Nat) (fused : Bool) (ia : Nat) : Nat := if fused then core / 4 * 4 + ia / 128 % 4 else core
def Team.l1Core (t : Team) (ia : Nat) : Nat := Machine.l1Core t.core t.desc.fused ia

/-! ### TRY: rollback and conflicts, R191 and R193 -/

def TryState.none : TryState := ⟨0, 0, 0, false, [], [], [], [], [], [], [], [], [], 0⟩

/-- A TSTAT word, R196; DEPTH is read from the warp. -/
def tstatWord (code info sub : Nat) : Word := BitVec.ofNat 32 (info * 2 ^ 24 + sub * 2 ^ 16 + code)

/-- Where the rollback puts one live lane. -/
def rollLane (tx : TryState) (code info sub now slot : Nat) (l : Lane) : Lane :=
  match tx.ckLanes.find? (fun c => c.slot == slot) with
  | none => l
  | some c =>
    if l.st == .exited then l
    else { l.dropLatches with
      v := c.v, p := c.p, regionPc := c.regionPc, regionCnt := c.regionCnt
      pc := if tx.members.getLsbD slot then tx.target else c.pc
      tstat := tstatWord code info sub
      st := if l.st == .halted then .halted else .ready
      held := .ready, wait := .retry, since := if l.st == .halted then 0 else now, stepWait := false }

/-- A warp in lockstep mode is arranged afresh by the PCs of the checkpoint. (DESIGN CHOICE, log entry 55.) -/
def rollWarp (code info sub now : Nat) (w : Warp) : Warp :=
  { w with s := w.tx.ckS, tx := TryState.none, epoch := w.epoch + 1, stack := []
           lanes := w.lanes.zipIdx.map (fun x => rollLane w.tx code info sub now x.2 x.1) }

/-- Granules that a TRY saved go back, R190. -/
def restoreScratch (m : Cells 8) (undo : List (Nat × Cells 8)) : Cells 8 :=
  undo.foldl (fun m g => g.2.foldl (fun m c => cset m c.1 c.2) (cclear m (g.1 * 1024) 1024)) m

/-- The cycle in which a lane of a bin was filed; cycles in which it is HALTED count too (R23). -/
def filedAt (s : State) (b : Bin) (x : Nat × Nat) : Nat :=
  match s.lane? b.team x.2 x.1 with
  | some l => if l.st == .halted then s.cycle - l.since else l.since
  | none => s.cycle

/-- A bin after some of its lanes have left: its oldest entry, and whether one of R23's conditions still holds. -/
def rebin (s : State) (b : Bin) : Bin :=
  let oldest := b.slots.foldl (fun m x => min m (filedAt s b x)) s.cycle
  let d := (s.team? b.team).map (·.desc)
  { b with
    oldest := oldest
    drawable := b.drawable && !b.slots.isEmpty &&
      ((d.map (·.fill)).getD 0 ≤ b.slots.length || b.waiting.any (fun y => b.slots.any (fun x => x.1 == y.1)) ||
        min ((d.map (·.age)).getD 0) 512 < s.cycle - oldest) }

/-- Some entries leave the bins of a team: those that `p` says, by slot and warp. -/
def unfileIf (s : State) (uid : Nat) (p : Nat × Nat → Bool) : State :=
  { s with bins := (s.bins.map (fun b =>
      if b.team == uid && (b.slots.any p || b.waiting.any p) then
        rebin s { b with slots := b.slots.filter (fun x => !p x), waiting := b.waiting.filter (fun x => !p x) }
      else b)).filter (fun b => !(b.slots.isEmpty && b.waiting.isEmpty)) }

/-- A warp's lanes leave the bins. -/
def unfile (s : State) (uid w : Nat) : State := unfileIf s uid (fun x => x.2 == w)

/-- What a warp has outstanding since its TRY began is discarded: accesses and results from the name `start` on, and its
unaccepted flits. What it sent before stands. -/
def dropOutstanding (s : State) (uid w start : Nat) : State :=
  { s with
    accs := s.accs.filter (fun a => !(a.team == uid && a.warp == w && start ≤ a.id))
    results := s.results.filter (fun a => !(a.team == uid && a.warp == w && start ≤ a.id))
    flits := s.flits.filter (fun a => !(a.team == uid && a.warp == w)) }

/-- Abort(X, code, info) of R193. -/
def abortTry (s : State) (uid w code info sub : Nat) : State :=
  match s.warp? uid w with
  | none => s
  | some x =>
    if x.tx.depth = 0 then s
    else
      let s := dropOutstanding (unfile s uid w) uid w x.tx.start
      s.modTeam uid (fun t =>
        { t with scratch := restoreScratch t.scratch x.tx.undo }.modWarp w (rollWarp code info sub s.cycle))

/-- Aborts with CONFLICT, at a write of n bytes at a physical key, every warp but the writer that met them under another line
tag: a TRY whose read set or write entries hold the bytes (R191, R359). `dom` says of
the core that holds the line for a warp whether the write is performed before that warp. -/
def conflictFrame (s : State) (by_ : Option (Nat × Nat)) (dom : Nat → Bool) (pa n : Nat) : State :=
  let hit (t : Team) (x : Nat × Warp) : Bool :=
    0 < x.2.tx.depth && some (t.uid, x.1) != by_ &&
    (x.2.tx.readLines.any (fun l => dom (t.l1Core (128 * l)) && match mappedAt s t.space (128 * l) with
      | some p => p < pa + n && pa < p + 128 | none => false) ||
     x.2.tx.entries.any (fun b => dom (t.l1Core (32 * b)) && match mappedAt s t.space (32 * b) with
      | some p => p < pa + n && pa < p + 32 | none => false))
  let victims := s.teams.flatMap (fun t =>
    ((t.warps.zipIdx.map (fun x => (x.2, x.1))).filter (hit t)).map (fun x => (t.uid, x.1)))
  victims.foldl (fun s v => abortTry s v.1 v.2 2 0 0) s

/-- A write of an entry by Cecropia, an agent whose writes are conflicts too (R79, R191, R352). -/
def updateEntry (s : State) (space pa : Nat) (e : BitVec 128) : State :=
  conflictFrame (writeEntry s space pa e) none (fun _ => true) pa 16

/-! ### Updates and counts, R352, R353, R358 -/

/-- Fields on which an update of A or D must agree with the translation, R353: TYPE, PA and the rights. -/
def sameLeaf (a b : BitVec 128) : Bool :=
  a.extractLsb' 62 2 == b.extractLsb' 62 2 && a.extractLsb' 16 32 == b.extractLsb' 16 32 &&
  a.extractLsb' 101 3 == b.extractLsb' 101 3

/-- DEDUCED, log entry 53. -/
def dropCached (s : State) (p : TEntry → Bool) : State :=
  { s with
    hotQ := s.hotQ ++ ((s.tcache.filter p).map (fun e => (e.leafPa, e.count)))
    tcache := s.tcache.filter (fun e => !p e) }

/-- DEDUCED, log entry 53. -/
def countTranslation (s : State) (space ia : Nat) (t : Trans) (leaf : BitVec 128) : State :=
  match cached s space ia with
  | some e =>
    { s with tcache := s.tcache.map (fun x =>
        if x.space == space && x.page == e.page && x.big == e.big
        then { x with leaf := leaf, count := min (x.count + 1) (2 ^ 32 - 1) } else x) }
  | none => { s with tcache := ⟨space, pageOf t.big ia, t.big, t.leafPa, leaf, 1⟩ :: s.tcache }

/-- Cecropia sets bits of an entry that are not set yet. -/
def updateBits (s : State) (space pa : Nat) (e : BitVec 128) : State :=
  if readEntry s space pa = e then s else updateEntry s space pa e

/-- The accessed and dirty updates of R353, on the entry as memory holds it. -/
def touchLeaf (s : State) (space ia : Nat) (need : Need) (t : Trans) : State :=
  let store := need == .store || need == .atomic
  if leafA t.leaf && (!store || leafD t.leaf) then countTranslation s space ia t t.leaf
  else
    let e := setBit (readEntry s space t.leafPa) 61
    let e := if store then setBit e 60 else e
    countTranslation (updateBits s space t.leafPa e) space ia t e

/-- No port leads to the package in which a NODE leaf's frame lies, R416. (DESIGN CHOICE, log entry 44.)
(DEDUCED, log entry 45.) -/
def unreachable (s : State) (leaf : BitVec 128) : Bool :=
  leafNode leaf && leafHome leaf != s.pkg.val && s.ports.contains (leafHome leaf, 0) && s.ports.contains (leafHome leaf, 1)

/-- An access that would reach an unreachable package, or whose walk meets an uncorrectable error, is not performed, and its
context will be stopped. -/
def reach (space ia : Nat) (x : State × TransRes) : State × TransRes :=
  match x.2 with
  | .ok t => if unreachable x.1 t.leaf then ({ x.1 with lost := x.1.lost ++ [(space, leafFrame t.leaf)] }, .frozen false) else x
  | .frozen _ =>
    if (cached x.1 space ia).isSome then x
    else match walkStops x.1 space ia with
    | some pa => ({ x.1 with lost := x.1.lost ++ [(space, pa)] }, x.2)
    | none => x
  | _ => x

/-- One translation with its updates (R350, R353). `lane` is an access of a lane, for which FMODE counts
(R357). When the entry no longer agrees with the leaf used, the walk is made afresh; an update that finds the entry
frozen waits (R356). -/
def translate (s : State) (space ia : Nat) (need : Need) (lane : Bool) : State × TransRes :=
  reach space ia <| match lookup s space ia need lane with
  | .ok t =>
    let store := need == .store || need == .atomic
    let e := readEntry s space t.leafPa
    if leafA t.leaf && (!store || leafD t.leaf) then (touchLeaf s space ia need t, .ok t)
    else if sameLeaf e t.leaf then
      if leafFrz e then (s, .frozen (lane && leafFmode e)) else (touchLeaf s space ia need t, .ok t)
    else
      let s := dropCached s (fun e => e.space == space && e.page == pageOf e.big ia)
      match lookup s space ia need lane with
      | .ok t => (touchLeaf s space ia need t, .ok t)
      | r => (s, r)
  | r => (s, r)

/-- The translation of an access of n bytes. A read that would meet an uncorrectable error is not performed, and its
context will be stopped (R375). -/
def translateFor (s : State) (space ia n : Nat) (need : Need) (lane : Bool) : State × TransRes :=
  match translate s space ia need lane with
  | (s, .ok t) =>
    if need != .store && corrupt s t.pa n then ({ s with lost := s.lost ++ [(space, t.pa)] }, .frozen false) else (s, .ok t)
  | r => r

/-- An access of n bytes, which translates, would meet an unreachable package or an uncorrectable error (R375, R416). -/
def meetsBad (s : State) (space ia n : Nat) (need : Need) : Bool :=
  match lookup s space ia need false with
  | .ok t => unreachable s t.leaf || (need != .store && corrupt s t.pa n)
  | .frozen _ => (cached s space ia).isNone && (walkStops s space ia).isSome
  | .fail _ => false

/-! ### Bytes at an address of a space -/

def sectorOf (core : Nat) : Nat := core / 16
/-- Where State.l1 keeps the dirty bytes that the slices of a sector hold, R69. -/
def slicesOf (sector : Nat) : Nat := Config.cores + 1 + sector
/-- The sector whose slices State.l1 names so. -/
def sectorAt? (core : Nat) : Option Nat := if Config.cores < core then some (core - Config.cores - 1) else none
/-- SLICE of a leaf is HASH_SECTOR, and its lines are cached in slices (R68, R70). -/
def leafSector (e : BitVec 128) : Bool := e.extractLsb' 56 2 == 1 && !leafUnc e && !leafSyn e

def l1Find (s : State) (core space ia : Nat) : Option Byte :=
  (s.l1.find? (fun d => d.ia == ia && d.space == space && d.core == core)).map (·.val)

/-- Bytes as a sector's slices give them: the sector's own copy of HASH_SECTOR lines over memory (R69). -/
def sliceBytes (s : State) (core : Nat) (space ia n : Nat) (t : Trans) : List Byte :=
  let mem := pread s (ownerKey s space t.leaf) t.pa n
  mem.zipIdx.map (fun x => (l1Find s (slicesOf (sectorOf core)) space (ia + x.2)).getD x.1)

/-- Bytes as the agents of one core see them: its L1's dirty bytes over the slices'. (DESIGN CHOICE, log entry 5.) -/
def readBytes (s : State) (core : Nat) (fused : Bool) (space ia n : Nat) (t : Trans) : List Byte :=
  (sliceBytes s core space ia n t).zipIdx.map (fun x =>
    (l1Find s (l1Core core fused (ia + x.2)) space (ia + x.2)).getD x.1)

/-- A core's writes have reached a slice or memory: a multicast whose line has begun to leave carries what stood there before
them, which the core's own reads do not take for them (R72, R92). -/
def noteWrite (s : State) (core space ia n : Nat) : State :=
  { s with mcasts := s.mcasts.map (fun m =>
      if m.space == space && m.left.any (fun x => (m.ias[x.1]?).getD 0 / 128 == ia / 128) then
        { m with wrote := m.wrote ++ (List.range n).map (fun k => (core, ia + k)) }
      else m) }

/-- What a core reads of its own: its L1 holds the byte dirty, or it has written it since the byte's line began to leave in a
multicast. -/
def ownByte (s : State) (core : Nat) (fused : Bool) (space ia : Nat) : Bool :=
  (l1Find s (l1Core core fused ia) space ia).isSome || s.mcasts.any (fun m => m.space == space && m.wrote.contains (l1Core core fused ia, ia))

/-- The two leaves map alike: they differ at most in A, D and HOT, which Cecropia's own updates write. -/
def sameMapping (a b : BitVec 128) : Bool :=
  let m : BitVec 128 := ~~~(0xFFFFFFFF3000000000000000 : BitVec 128)
  a &&& m == b &&& m

/-- The entry maps the page of an address. -/
def TEntry.holds (e : TEntry) (space ia : Nat) : Bool := e.space == space && e.page == pageOf e.big ia

/-- A page is about to hold bytes dirty through a translation. What it holds dirty through another mapping is owed to that one.
(DESIGN CHOICE, log entry 28.) -/
def remember (s : State) (space ia : Nat) (t : Trans) : State :=
  let new : TEntry := ⟨space, pageOf t.big ia, t.big, t.leafPa, t.leaf, 0⟩
  let meets (e : TEntry) : Bool := e.holds space new.page || (new.holds e.space e.page)
  let differs (e : TEntry) : Bool := e.leafPa != t.leafPa || e.big != t.big || !sameMapping e.leaf t.leaf
  let met := (s.oldMaps ++ s.stored).filter meets
  if !met.isEmpty && !met.any differs then s
  else
    let held (e : TEntry) (d : DirtyByte) : Bool := e.holds d.space d.ia
    { s with
      oldMaps := s.oldMaps.filter (fun e => !meets e)
      stored := new :: s.stored.filter (fun e => !meets e)
      owed := s.owed ++ (met.map (fun e => (e, s.l1.filter (held e)))).filter (fun x => !x.2.isEmpty)
      l1 := s.l1.filter (fun d => !met.any (fun e => held e d)) }

def dropDirty (s : State) (space ia n : Nat) (cores : Nat → Bool) : State :=
  { s with l1 := s.l1.filter (fun d => !(d.space == space && ia ≤ d.ia && d.ia < ia + n && cores d.core)) }

/-- Dirty bytes of one holder: an L1, or the slices of a sector. -/
def putDirty (s : State) (home space ia : Nat) (bs : List Byte) : State :=
  let s := dropDirty s space ia bs.length (fun c => c == home)
  { s with l1 := s.l1 ++ bs.zipIdx.map (fun x => ⟨home, space, ia + x.2, x.1⟩) }

/-- An ordinary store performed in an L1. (DESIGN CHOICE, log entry 5.) -/
def storeL1 (s : State) (core : Nat) (fused : Bool) (space ia : Nat) (bs : List Byte) : State :=
  putDirty s (l1Core core fused ia) space ia bs

/-- A store performed at the home slice of a HASH_SECTOR line, in the copy of the core's sector (R69). -/
def storeSlice (s : State) (core : Nat) (fused : Bool) (space ia : Nat) (bs : List Byte) : State :=
  let home := l1Core core fused ia
  putDirty (dropDirty s space ia bs.length (fun c => c == home)) (slicesOf (sectorOf core)) space ia bs

/-- A store performed at the memory side; the dirty bytes of the place that the issuing core's own L1 and sector hold are
overtaken. -/
def storeMem (s : State) (core : Nat) (fused : Bool) (space ia : Nat) (bs : List Byte) (t : Trans) : State :=
  let home := l1Core core fused ia
  pwrite (dropDirty s space ia bs.length (fun c => c == home || c == slicesOf (sectorOf core)))
    (ownerKey s space t.leaf) t.pa bs

/-! ### The conflicts of a write, R191 -/

/-- Aborts with CONFLICT every warp but the writer whose read set or write entries hold a written byte (R191).
`dom` says of the core that holds the line for a warp whether the write is performed before that warp. -/
def conflictWith (s : State) (by_ : Option (Nat × Nat)) (dom : Nat → Bool) (space ia n : Nat) : State :=
  let lines := linesOf ia n
  let blocks := (List.range ((ia % 32 + n + 31) / 32)).map (fun k => ia / 32 + k)
  let hit (t : Team) (x : Nat × Warp) : Bool :=
    0 < x.2.tx.depth && some (t.uid, x.1) != by_ && t.space == space && dom (t.l1Core ia) &&
    (lines.any (fun l => x.2.tx.readLines.contains l) || blocks.any (fun b => x.2.tx.entries.contains b))
  let victims := s.teams.flatMap (fun t =>
    ((t.warps.zipIdx.map (fun x => (x.2, x.1))).filter (hit t)).map (fun x => (t.uid, x.1)))
  victims.foldl (fun s v => abortTry s v.1 v.2 2 0 0) s

/-- The conflicts of a write of n bytes, under its line tag and through other mappings of its frame. -/
def conflicts (s : State) (by_ : Option (Nat × Nat)) (dom : Nat → Bool) (space ia n pa : Nat) : State :=
  conflictFrame (conflictWith s by_ dom space ia n) by_ dom pa n

def granules (off n : Nat) : List Nat :=
  if n = 0 then [] else (List.range ((off + n - 1) / 1024 - off / 1024 + 1)).map (fun k => off / 1024 + k)
def blocks32 (a n : Nat) : List Nat :=
  if n = 0 then [] else (List.range ((a + n - 1) / 32 - a / 32 + 1)).map (fun k => a / 32 + k)

/-- TRYs of other warps that a scratchpad access meets abort before it is performed. -/
def scratchMeets (s : State) (uid : Nat) (by_ : Option Nat) (off n : Nat) (write : Bool) : State :=
  match s.team? uid with
  | none => s
  | some t =>
    ((t.warps.zipIdx.filter (fun x => 0 < x.1.tx.depth && some x.2 != by_ &&
      (granules off n).any (fun g => x.1.tx.undo.any (fun u => u.1 == g) ||
        (write && x.1.tx.readGrans.contains g)))).map (·.2)).foldl (fun s w => abortTry s uid w 2 0 0) s

/-- A write performed at the memory side by some agent, a warp of the core or another, with the conflicts that
it makes. -/
def memStore (s : State) (by_ : Option (Nat × Nat)) (core : Nat) (fused : Bool) (space ia : Nat) (bs : List Byte)
    (t : Trans) : State :=
  conflicts (noteWrite (storeMem s core fused space ia bs t) (Machine.l1Core core fused ia) space ia bs.length) by_
    (fun _ => true) space ia bs.length t.pa

/-- A write performed in an L1, with its conflicts. -/
def l1Store (s : State) (by_ : Option (Nat × Nat)) (core : Nat) (fused : Bool) (space ia : Nat) (bs : List Byte)
    (t : Trans) : State :=
  conflicts (storeL1 s core fused space ia bs) by_ (fun c => c == Machine.l1Core core fused ia) space ia bs.length t.pa

/-- A write performed at a slice of the core's sector, with its conflicts. -/
def sliceStore (s : State) (by_ : Option (Nat × Nat)) (core : Nat) (fused : Bool) (space ia : Nat) (bs : List Byte)
    (t : Trans) : State :=
  conflicts (noteWrite (storeSlice s core fused space ia bs) (Machine.l1Core core fused ia) space ia bs.length) by_
    (fun c => sectorOf c == sectorOf core) space ia bs.length t.pa

/-! ### Counters and free values -/

/-- A fresh name. -/
def State.fresh (s : State) : Nat × State := (s.serial, { s with serial := s.serial + 1 })
/-- A free value of w bits (DESIGN CHOICE, log entry 3): nothing constrains it. -/
def State.freeWord (s : State) : DWord × State := (Config.freeWord s.freeCtr, { s with freeCtr := s.freeCtr + 1 })

/-- A 64-bit counter of the counter page, R391: it wraps. -/
def bumpPa (s : State) (pa : Nat) : State := writePa s pa 8 ((readPa s pa 8 + 1) % 2 ^ 64)
def bumpCore (s : State) (core off : Nat) : State := bumpPa s (s.countPa.toNat + 64 * core + off)

/-! ### Write-backs, R84, R89, R371 -/

/-- Whether a scope's release writes back the dirty lines of a core, R84, R89 and R90. -/
def writesBack (fused : Bool) : Scope → Bool
  | .w | .t => false
  | .c => !fused
  | _ => true

/-- Cores whose L1 a release of a core's lane writes back. -/
def releaseCores (core : Nat) (fused : Bool) : List Nat :=
  if fused then (List.range 4).map (fun k => core / 4 * 4 + k) else [core]

/-- The dirty lines of some cores: core, space, line. -/
def dirtyLines (s : State) (cores : List Nat) : List (Nat × Nat × Nat) :=
  (s.l1.foldl (fun acc d =>
    if cores.contains d.core && !acc.contains (d.core, d.space, d.ia / 128)
    then (d.core, d.space, d.ia / 128) :: acc else acc) []).reverse

/-- What became of one line: written, waiting behind a freeze, or refused with a subcode. -/
inductive LineRes | ok | wait | fail (sub : Byte)
deriving DecidableEq, Repr

/-- Whether the TRYs of a core's warps have already met the stores that a holder's dirty bytes stand for. -/
def metBy (holder core : Nat) : Bool :=
  match sectorAt? holder with
  | some k => sectorOf core == k
  | none => core == holder

/-- The dirty bytes of a line of one holder go to a frame, and the holder has them no longer. -/
def putLine (s : State) (x : Nat × Nat × Nat) (key : Option (BitVec 512)) (pa : Nat) : State :=
  let ia := x.2.2 * 128
  let ds := s.l1.filter (fun d => d.core == x.1 && d.space == x.2.1 && d.ia / 128 == x.2.2)
  let s := ds.foldl (fun s d => noteWrite (pwrite s key (pa + (d.ia - ia)) [d.val]) x.1 x.2.1 d.ia 1) s
  let s := dropDirty s x.2.1 ia 128 (fun c => c == x.1)
  ds.foldl (fun s d => conflicts s none (fun c => !metBy x.1 c) x.2.1 d.ia 1 (pa + (d.ia - ia))) s

/-- The dirty bytes of a HASH_SECTOR line of one L1 go to the copy of its sector, R69. -/
def putSector (s : State) (x : Nat × Nat × Nat) (pa : Nat) : State :=
  let ia := x.2.2 * 128
  let ds := s.l1.filter (fun d => d.core == x.1 && d.space == x.2.1 && d.ia / 128 == x.2.2)
  let s := dropDirty s x.2.1 ia 128 (fun c => c == x.1)
  ds.foldl (fun s d => conflicts (noteWrite (putDirty s (slicesOf (sectorOf x.1)) x.2.1 d.ia [d.val]) x.1 x.2.1 d.ia 1) none
    (fun c => c != x.1 && sectorOf c == sectorOf x.1) x.2.1 d.ia 1 (pa + (d.ia - ia))) s

/-- The mapping before it of a line whose page a FENCE.MAP has superseded, until MAPSYNC (R314). -/
def oldMapOf (s : State) (x : Nat × Nat × Nat) : Option TEntry := s.oldMaps.find? (fun e => e.holds x.2.1 (x.2.2 * 128))

/-- The page of a line is no longer writable, through a mapping that has been superseded. -/
def readOnly (s : State) (x : Nat × Nat × Nat) (e : TEntry) : Bool :=
  match walk s x.2.1 (x.2.2 * 128) with | .ok y => !leafW y.2.1 | .error _ => !leafW e.leaf

/-- The dirty bytes of a line go to the frame of a mapping. -/
def putThrough (s : State) (x : Nat × Nat × Nat) (e : TEntry) : State :=
  let ia := x.2.2 * 128
  putLine s x (ownerKey s x.2.1 e.leaf) (physKey s (if leafNode e.leaf then leafHome e.leaf else s.pkg.val)
    (leafFrame e.leaf + if e.big then ia % 2 ^ 21 else ia % 65536))

/-- What a write-back of a line would meet, and the state after its translation: through a mapping that has been superseded
nothing is translated again. -/
def lineFate (s : State) (x : Nat × Nat × Nat) : State × TransRes :=
  match oldMapOf s x with
  | some e => if readOnly s x e then (s, .fail 1) else (s, .ok ⟨0, e.leafPa, e.leaf, e.big⟩)
  | none => translate s x.2.1 (x.2.2 * 128) .store false

/-- One dirty line written back with its byte mask, through the mapping in force, or the superseded one of its page. -/
def writeBackLine (s : State) (x : Nat × Nat × Nat) : State × LineRes :=
  match lineFate s x with
  | (s, .ok t) =>
    match oldMapOf s x with
    | some e => (putThrough s x e, .ok)
    | none =>
      if leafSector t.leaf && (sectorAt? x.1).isNone then (putSector s x t.pa, .ok)
      else (putLine s x (ownerKey s x.2.1 t.leaf) t.pa, .ok)
  | (s, .frozen _) => (s, .wait)
  | (s, .fail sub) => (s, .fail sub)

/-- A translation from a state waits for an unfreeze (R356). -/
def freezes (s : State) (r : State × TransRes) : Bool := match r.2 with | .frozen _ => r.1.lost == s.lost | _ => false

/-- Scopes .D and wider, at which HASH_SECTOR lines lie in memory (R69). -/
def beyondSector : Scope → Bool | .d | .n | .y => true | _ => false

/-- Some peer is out of reach of both ports, R416. -/
def peerLost (s : State) : Bool :=
  (List.range 8).any (fun k => k != s.pkg.val && s.ports.contains (k, 0) && s.ports.contains (k, 1))

/-- A release of a scope is an action of the node's directories, which some peer cannot take (R416). (DEDUCED, log entry 45.) -/
def peerMisses (s : State) (scope : Scope) : Bool := (scope == .n || scope == .y) && peerLost s

/-- A release of a scope by a team cannot be made now: a peer is out of reach, or a line that it writes back stands frozen or
cannot be written: of its core's, of its own space, and at .D and wider of its sector's slices', of every space (R69, R84). -/
def relFrozen (s : State) (t : Team) (scope : Scope) : Bool :=
  let own := if writesBack t.desc.fused scope
    then (dirtyLines s (releaseCores t.core t.desc.fused)).filter (fun x => x.2.1 == t.space) else []
  let slices := if beyondSector scope then dirtyLines s [slicesOf (sectorOf t.core)] else []
  peerMisses s scope || (own ++ slices).any (fun x => match (lineFate s x).2 with | .frozen _ => true | _ => false)

/-- Every holder of dirty lines: the cores' L1s, then the sectors' slices. -/
def allHolders : List Nat := List.range Config.cores ++ (List.range 8).map slicesOf

end Sys2Proof.Machine
end

