-- ==== Sys2Proof/Machine/Operands.lean ====
section
/-! DEFINITION. What each instruction reads and writes, its role, what it does to an active TRY and which waits
hold it: R30, R46, R47, R149, R188, R192, R198, R220, R227, R304, R367. The issue checks LATCH, PAIR and
WINDOW of R161 are made from it. -/

namespace Sys2Proof.Machine

/-- The kind of result, R47. -/
inductive Dst
  | none
  | one (d : Reg)
  | many (d : Reg) (n : Nat)
  | pred
deriving DecidableEq, Repr

structure Info where
  dst : Dst := .none
  /-- sources with the count of consecutive registers; 8 is SPAWN's block, which need not be even -/
  srcs : List (Src × Nat) := []
  role : Option Role := none
  /-- the code with which it aborts an active TRY, R192: 7 STRONG, 8 INSIDE -/
  tx : Option Nat := none
  /-- R367: it may issue while accesses of its lane are not yet translated -/
  shadow : Bool := false
  /-- an access that waits behind an acquire of its lane, R227 -/
  mem : Bool := false
  /-- it waits for every outstanding load, atomic and multi-cycle result of its warp, R188, R312, R18 -/
  drain : Bool := false
  /-- PREF never traps after step 8 of R161, R232 -/
  quiet : Bool := false
deriving DecidableEq, Repr

def usesI : SrcI → List (Src × Nat) | .reg r => [(r, 1)] | .imm _ => []
def widthRegs : Width → Nat | .b64 => 2 | .b128 => 4 | _ => 1
def widthBytes : Width → Nat
  | .u8 | .s8 => 1 | .u16 | .s16 => 2 | .b32 => 4 | .b64 => 8 | .b128 => 16
def dstOf (d : Reg) (n : Nat) : Dst := if n = 1 then .one d else .many d n

/-- Pages 1 and 2, which the shadow of R367 admits. -/
def alu (dst : Dst) (srcs : List (Src × Nat)) : Info := { dst, srcs, shadow := true }
def alu2 (d : Reg) (a : Src) (b : SrcI) : Info := alu (.one d) ((a, 1) :: usesI b)
def alu1 (d : Reg) (a : Src) : Info := alu (.one d) [(a, 1)]
def cplx (d : Reg) (as : List Src) : Info := alu (.many d 2) (as.map (fun a => (a, 2)))

def accInfo (m : AccM) (dst : Dst) (srcs : List (Src × Nat)) : Info :=
  { dst, srcs, mem := true, shadow := !m.strong, tx := if m.strong then some 7 else none }
def atomInfo (m : AtomM) (d : Reg) (ad : Addr) (bs : List Src) : Info :=
  let n := if m.w64 then 2 else 1
  { dst := dstOf d n, srcs := (ad.base, 2) :: bs.map (fun b => (b, n)), mem := true, tx := some 7 }
/-- With CNT = 0 the count comes from s(SREG), R156. -/
def vsInfo (m : VsM) (b : VsB) : Info :=
  { srcs := (if m.cnt = 0 then [(.s m.sreg, 1)] else []) ++ (match b with | .scalar r => [(r, 1)] | .tile _ => [])
    role := some .vector, tx := some 7, mem := true }
def lunaInfo : Info := { role := some .matrix, tx := some 7, mem := true }
def tileInfo : Info := { tx := some 7, mem := true }

/-- The operands and rules of an instruction. -/
def info : Instr → Info
  | .nop _ => { shadow := true }
  | .bra _ _ => { shadow := true }
  | .brc _ _ _ a _ => { srcs := [(a, 1)], shadow := true }
  | .jmpi _ a => { srcs := [(a, 2)], shadow := true }
  | .call _ d _ => { dst := .many d 2, shadow := true }
  | .ret _ a => { srcs := [(a, 2)], shadow := true }
  | .reform _ => {}
  | .yield _ => {}
  | .exit _ => { tx := some 8 }
  | .spawn _ f a _ => { dst := match f with | .try_ _ => .pred | _ => .none, srcs := [(.v a, 8)], tx := some 8 }
  | .elect _ _ => { dst := .pred }
  | .vote _ o _ => { dst := match o with | .ballot d => .one d | _ => .pred }
  | .shfl _ _ d a b => { dst := .one d, srcs := (a, 1) :: usesI b }
  | .bar _ _ => { tx := some 8, mem := true }
  | .phase _ _ => { tx := some 8, mem := true }
  | .emit _ _ _ a => { dst := .pred, srcs := [(a, 1)], tx := some 8, mem := true }
  | .region _ => {}
  | .tryOpen _ _ => { drain := true, mem := true }
  | .tcommit _ => { drain := true, mem := true }
  | .tcommitLane _ => { drain := true, mem := true }
  | .tabort _ _ => { drain := true, mem := true }
  | .tabortLane _ _ => { drain := true, mem := true }
  | .tstat _ d => { dst := .one d }
  | .getid _ _ d => { dst := .one d }
  | .brk _ _ => {}
  | .iadd _ _ _ d a b => alu2 d a b
  | .isub _ _ _ d a b => alu2 d a b
  | .imul _ d a b => alu2 d a b
  | .imulh _ _ d a b => alu2 d a b
  | .imad _ d a b c => alu (.one d) ((a, 1) :: (b, 1) :: usesI c)
  | .iadd64 _ _ d a b => alu (.many d 2) ((a, 2) :: (match b with | .reg r => [(r, 2)] | .imm _ => []))
  | .imul64 _ w _ d a b => alu (.many d 2) [(a, if w then 1 else 2), (b, if w then 1 else 2)]
  | .idiv _ _ _ d a b => alu2 d a b
  | .irem _ _ _ d a b => alu2 d a b
  | .imin _ _ d a b => alu2 d a b
  | .imax _ _ d a b => alu2 d a b
  | .iabs _ _ d a => alu1 d a
  | .and _ d a b => alu2 d a b
  | .or _ d a b => alu2 d a b
  | .xor _ d a b => alu2 d a b
  | .andn _ d a b => alu2 d a b
  | .shl _ d a b => alu2 d a b
  | .shr _ d a b => alu2 d a b
  | .sar _ d a b => alu2 d a b
  | .rotl _ d a b => alu2 d a b
  | .bfx _ _ d a b => alu2 d a b
  | .bfi _ d a b c => alu (.one d) ((a, 1) :: (b, 1) :: usesI c)
  | .popc _ d a => alu1 d a
  | .clz _ d a => alu1 d a
  | .iset _ _ _ _ a b => alu .pred ((a, 1) :: usesI b)
  | .sel _ d _ a b => alu2 d a b
  | .mov _ d a => alu1 d a
  | .movi _ d x => alu (match x with | .i32 _ => .one d | .i64 _ => .many d 2) []
  | .lea _ _ _ d a f => alu (.many d 2) ((a, 2) ::
      (match f with | .reg b => [(b, 1)] | .imm _ => [] | .wide b _ => [(b, 1)]))
  | .fadd _ _ d a b => alu2 d a b
  | .fsub _ _ d a b => alu2 d a b
  | .fmul _ _ d a b => alu2 d a b
  | .ffma _ _ d a b c => alu (.one d) ((a, 1) :: (b, 1) :: usesI c)
  | .fmin _ _ d a b => alu2 d a b
  | .fmax _ _ d a b => alu2 d a b
  | .fset _ _ _ _ a b => alu .pred ((a, 1) :: usesI b)
  | .fcls _ d a => alu1 d a
  | .frnd _ _ d a => alu1 d a
  | .fscale _ _ d a b => alu2 d a b
  | .fcvt _ _ _ _ _ d a => alu1 d a
  | .icvt _ dir _ it _ d a => alu (dstOf d (if it == .s64 && dir then 2 else 1)) [(a, if it == .s64 && !dir then 2 else 1)]
  | .hfma2 _ _ d a b c => alu (.one d) [(a, 1), (b, 1), (c, 1)]
  | .hadd2 _ _ d a b => alu (.one d) [(a, 1), (b, 1)]
  | .hmul2 _ _ d a b => alu (.one d) [(a, 1), (b, 1)]
  | .bfma2 _ _ d a b c => alu (.one d) [(a, 1), (b, 1), (c, 1)]
  | .cadd _ _ d a b => cplx d [a, b]
  | .csub _ _ d a b => cplx d [a, b]
  | .cmul _ _ d a b => cplx d [a, b]
  | .cfma _ _ d a b c => cplx d [a, b, c]
  | .cmag2 _ _ d a => alu (.one d) [(a, 2)]
  | .cscale _ _ d a b => alu (.many d 2) ((a, 2) :: usesI b)
  | .ld _ m d ad => accInfo m (dstOf d (widthRegs m.width)) [(ad.base, 2)]
  | .st _ m ad b => accInfo m .none [(ad.base, 2), (b, widthRegs m.width)]
  | .lds _ m d ad => accInfo m (dstOf d (widthRegs m.width)) [(ad.base, 1)]
  | .sts _ m ad b => accInfo m .none [(ad.base, 1), (b, widthRegs m.width)]
  | .ldw _ d ad => { dst := .one d, srcs := [(ad.base, 1)], mem := true, shadow := true, drain := true }
  | .stw _ ad b => { srcs := [(ad.base, 1), (b, 1)], mem := true, shadow := true, drain := true }
  | .lda _ m d ad => { dst := dstOf d (widthRegs m.width), srcs := [(ad.base, 2)], mem := true, tx := some 7 }
  | .stl _ m ad b => { srcs := [(ad.base, 2), (b, widthRegs m.width)], mem := true, tx := some 7 }
  | .atomAdd _ m d ad b => atomInfo m d ad [b]
  | .atomMin _ m d ad b => atomInfo m d ad [b]
  | .atomMax _ m d ad b => atomInfo m d ad [b]
  | .atomAnd _ m d ad b => atomInfo m d ad [b]
  | .atomOr _ m d ad b => atomInfo m d ad [b]
  | .atomXor _ m d ad b => atomInfo m d ad [b]
  | .atomXchg _ m d ad b => atomInfo m d ad [b]
  | .atomFadd _ m d ad b => atomInfo m d ad [b]
  | .acas _ m d ad b c => atomInfo m d ad [b, c]
  | .fence _ _ => { mem := true, tx := some 7 }
  | .mcast _ _ a b => { srcs := [(a, 2), (b, 1)], role := some .copy, mem := true, tx := some 7 }
  | .pref _ _ ad => { srcs := [(ad.base, 2)], shadow := true, mem := true, quiet := true }
  | .tdecl _ _ src => { tileInfo with srcs := match src with | .reg a => [(a, 2)] | .imm _ => [] }
  | .tarm _ _ => tileInfo
  | .cpyin _ _ _ ad b => { srcs := [(ad.base, 2), (b, 1)], role := some .copy, mem := true, tx := some 7 }
  | .cpyout _ _ _ _ ad b => { srcs := [(ad.base, 2), (b, 1)], role := some .copy, mem := true, tx := some 7 }
  | .tstate _ d _ => { dst := .one d }
  | .tfree _ _ => tileInfo
  | .rrot _ _ _ _ => { role := some .copy, mem := true, tx := some 7 }
  | .rpush _ _ src => { tileInfo with srcs := match src with | .reg b => [(b, 1)] | .tile _ => [] }
  | .rpop _ d _ => { tileInfo with dst := .one d }
  | .movTshFromS _ _ a => { tileInfo with srcs := [(a, 2)] }
  | .movSFromTsh _ d _ => { dst := .many d 2 }
  | .movQFromV _ _ a => { tileInfo with srcs := [(a, 2)] }
  | .movVFromQ _ d _ => { tileInfo with dst := .many d 2 }
  | .mlw _ _ => lunaInfo
  | .mma _ _ => lunaInfo
  | .mq _ _ => lunaInfo
  | .vadd _ m _ _ _ b => vsInfo m b
  | .vsub _ m _ _ _ b => vsInfo m b
  | .vmul _ m _ _ _ b => vsInfo m b
  | .vfma _ m _ _ _ b => vsInfo m b
  | .vmax _ m _ _ _ b => vsInfo m b
  | .vmin _ m _ _ _ b => vsInfo m b
  | .vred _ m _ _ _ => vsInfo m (.tile 0)
  | .vcvt _ m _ _ _ => vsInfo m (.tile 0)
  | .vqnt _ m _ _ _ _ => vsInfo m (.tile 0)
  | .vdeq _ m _ _ _ => vsInfo m (.tile 0)
  | .vcpy _ m _ _ => vsInfo m (.tile 0)
  | .voxin _ _ d a b => { dst := .one d, srcs := [(a, 2), (b, 1)], mem := true, tx := some 7 }
  | .bevpool _ _ _ tgt a => { srcs := (a, 1) :: (match tgt with | .mem b => [(b, 2)] | .tile _ => [])
                              role := some .vector, mem := true, tx := some 7 }
  | .traceNew _ _ d a => { dst := .one d, srcs := [(a, 1)], mem := true, tx := some 7 }
  | .trace _ _ d a => { dst := .one d, srcs := [(a, 1)], mem := true, tx := some 7 }
  | .tnext _ d a => { dst := .one d, srcs := [(a, 1)], mem := true, tx := some 7 }
  | .thit _ _ d a => { dst := .one d, srcs := [(a, 1)], mem := true, tx := some 7 }
  | .spawnray _ d a b c => { dst := .one d, srcs := [(a, 1), (b, 1), (c, 1)], mem := true, tx := some 7 }
  | .boxin _ d a b => { dst := .many d 2, srcs := [(a, 2), (b, 1)], mem := true }
  | .edge _ _ d a b p => { dst := .one d, srcs := [(a, 2), (b, 2), (p, 2)] }
  | .snap _ d a b => { dst := .one d, srcs := [(a, 2), (b, 1)], mem := true }
  | .bin _ d a b => { dst := .one d, srcs := [(a, 1), (b, 1)], mem := true, tx := some 7 }
  | .binClose _ d => { dst := .one d, mem := true, tx := some 7 }
  | .binReset _ d => { dst := .one d, mem := true, tx := some 7 }
  | .visres _ d a => { dst := .one d, srcs := [(a, 1)], mem := true, tx := some 7 }
  | .pidld _ d a => { dst := .many d 2, srcs := [(a, 1)], mem := true }
  | .anim _ d a b => { dst := .one d, srcs := [(a, 2), (b, 1)], mem := true }
  | .rdclk _ d => { dst := .many d 2 }
  | .rdtmr _ d => { dst := .many d 2 }
  | .stamp _ src => { srcs := usesI src, tx := some 7 }
  | .trap _ _ => {}
  | .mfs _ d _ => { dst := .one d }
  | .mts _ _ a => { srcs := [(a, 1)], tx := some 7 }
  | .eret _ => { drain := true }
  | .fenceMap _ _ => { mem := true, tx := some 7 }
  | .mapsync _ => { mem := true }
  | .ctxsave _ d a => { dst := .one d, srcs := [(a, 1)], mem := true }
  | .ctxload _ d a => { dst := .one d, srcs := [(a, 1)], mem := true }
  | .preempt _ d a => { dst := .one d, srcs := [(a, 1)], mem := true }
  | .leave _ src => { srcs := usesI src }
  | .setkey _ d a b => { dst := .one d, srcs := [(a, 2), (b, 1)], mem := true }
  | _ => {}

/-! ### LATCH, PAIR and WINDOW -/

def latchIll (h : Hdr) (x : Info) : Bool :=
  x.srcs.any (fun r => 2 ≤ r.2 && r.1.isLatch) ||
  (h.latch.isSome && match x.dst with | .one _ => false | _ => true)

def srcOdd : Src → Bool | .v n => n.val % 2 == 1 | .s n => n.val % 2 == 1 | .bp _ => false
def regOdd : Reg → Bool | .v n => n.val % 2 == 1 | .s n => n.val % 2 == 1
def pairIll (x : Info) : Bool :=
  x.srcs.any (fun r => (r.2 == 2 || r.2 == 4) && srcOdd r.1) ||
  match x.dst with | .many d _ => regOdd d | _ => false

def srcBeyond (win : Nat) (r : Src) (n : Nat) : Bool :=
  match r with | .v k => 8 * win < k.val + n | .s k => 64 < k.val + n | .bp _ => false
def regBeyond (win : Nat) (r : Reg) (n : Nat) : Bool :=
  match r with | .v k => 8 * win < k.val + n | .s k => 64 < k.val + n
def windowIll (win : Nat) (h : Hdr) (x : Info) : Bool :=
  x.srcs.any (fun r => srcBeyond win r.1 r.2) ||
  match x.dst with
  | .one d => !h.dFree && regBeyond win d 1
  | .many d n => regBeyond win d n
  | _ => false

/-- The checks of R161 that follow step 8, in its order. (DEDUCED, log entry 13.) -/
def operandIll (win : Nat) (h : Hdr) (x : Info) : Option Ill :=
  if latchIll h x then some .latch
  else if pairIll x then some .pair
  else if windowIll win h x then some .window
  else none

/-! ### Reading operands -/

/-- A source value; an invalid latch has been refused before. -/
def readSrc (w : Warp) (l : Lane) (r : Src) : Word := (rdSrc w l 0 r).getD 0
def readSrcI (w : Warp) (l : Lane) : SrcI → Word | .reg r => readSrc w l r | .imm x => x
/-- A pair, its even register the low half (R149). -/
def readPair (w : Warp) (l : Lane) (r : Src) : DWord :=
  (rdSrc w l 1 r).getD 0 ++ (rdSrc w l 0 r).getD 0
/-- n consecutive registers as one number. -/
def readRegs (w : Warp) (l : Lane) (r : Src) (n : Nat) : Nat :=
  (List.range n).foldl (fun acc k => acc + ((rdSrc w l k r).getD 0).toNat * 2 ^ (32 * k)) 0
def readPs (l : Lane) (p : PSrc) : Bool := l.rdP p.p != p.neg
/-- The guard of R11. -/
def guardHolds (l : Lane) (g : Guard) : Bool := l.rdP g.p != g.neg
/-- A latch source that is invalid, R49. -/
def staleSrc (l : Lane) (x : Info) : Bool :=
  x.srcs.any (fun r => match r.1 with | .bp n => l.bp[n].isNone | _ => false)

/-! ### Waits on outstanding results -/

/-- The register k after d. -/
def regAfter (d : Reg) (k : Nat) : Reg :=
  match d with | .v n => .v (Fin.ofNat 192 (n.val + k)) | .s n => .s (Fin.ofNat 64 (n.val + k))

/-- The words of a destination whose register is among some registers. -/
def wordsIn (dst : Option (Reg × Nat)) (rs : List Reg) : BitVec 4 :=
  match dst with
  | some (d, n) => BitVec.ofNat 4 ((List.range n).foldl (fun m k => if rs.contains (regAfter d k) then m + 2 ^ k else m) 0)
  | none => 0

/-- The registers of two runs meet. -/
def regsMeet (d : Reg) (n : Nat) (r : Src) (k : Nat) : Bool :=
  match d, r with
  | .v a, .v b => a.val < b.val + k && b.val < a.val + n
  | .s a, .s b => a.val < b.val + k && b.val < a.val + n
  | _, _ => false

/-- One outstanding destination holds back a reader: of its own lane, or for an s-register of its warp. Words that a later
instruction has overtaken hold back no one. -/
def holdsBack (sameLane : Bool) (dst : Option (Reg × Nat)) (dead : BitVec 4) (latch : Option (Fin 4)) (x : Info) : Bool :=
  x.srcs.any (fun r =>
    (match dst with
     | some (d, n) => (sameLane || d.isS) &&
        (List.range n).any (fun k => !dead.getLsbD k && regsMeet (regAfter d k) 1 r.1 r.2)
     | none => false) ||
    (match latch, r.1 with | some b, .bp c => sameLane && b == c | _, _ => false))

/-- An operation whose status the warp waits for as for a result: one that a fault has stopped goes on only after
the handler (R261, R263, R273, R301). -/
def EngOp.owes (o : EngOp) : Bool :=
  !o.stuck && (o.dst.isSome || o.latch.isSome ||
    match o.ins with | .voxin _ nocap .. => nocap && o.pos == 0 | _ => false)

/-- The lane is BLOCKED at this instruction (R18, R188, R227, R367): behind an access that was not sent it issues
nothing. -/
def gated (s : State) (uid w slot : Nat) (x : Info) : Bool :=
  s.accs.any (fun a => a.team == uid && a.warp == w &&
    ((x.drain && a.op != .store) || holdsBack (a.lane == slot) a.dst a.dead a.latch x ||
      (a.lane == slot && (!x.shadow || a.unsent || (a.acq && x.mem))))) ||
  s.results.any (fun r => r.team == uid && r.warp == w &&
    (x.drain || holdsBack (r.lane == slot) r.dst r.dead r.latch x || (r.lane == slot && r.acq && x.mem))) ||
  s.ops.any (fun o => o.team == uid && o.warp == w &&
    ((x.drain && o.owes) || holdsBack (o.lane == slot) o.dst o.dead o.latch x))

end Sys2Proof.Machine
end

