-- ==== Sys2Proof/Machine/Curve.lean ====
section
/-! DEFINITION. The virtual shape of deterministic mode (R338, R339), and which teams are co-scheduled (R67, R333). -/

namespace Sys2Proof.Machine

/-- HilbertIndex of R339; `fuel` bounds the halvings of s. -/
def hilbert (n : Nat) : (fuel s x y d : Nat) → Nat
  | 0, _, _, _, d => d
  | f + 1, s, x, y, d =>
    if s = 0 then d
    else
      let rx := if x / s % 2 = 1 then 1 else 0
      let ry := if y / s % 2 = 1 then 1 else 0
      let d := d + s * s * Nat.xor (3 * rx) ry
      let p := if ry = 0 then
          (if rx = 1 then (n - 1 - y, n - 1 - x) else (y, x))
        else (x, y)
      hilbert n f (s / 2) p.1 p.2 d

/-- Width and height of a virtual shape, R338. -/
def shapeW (shape : Word) : Nat := 2 ^ (shape.extractLsb' 0 3).toNat
def shapeH (shape : Word) : Nat := 2 ^ (shape.extractLsb' 4 3).toNat

/-- The curve position of logical cluster (x, y): its rank by HilbertIndex. -/
def curvePos (shape : Word) (x y : Nat) : Nat :=
  let w := shapeW shape / 2
  let h := shapeH shape / 2
  let n := max w h
  let ix (x y : Nat) : Nat := hilbert n 8 (n / 2) x y 0
  ((List.range w).flatMap (fun a => (List.range h).map (fun b => ix a b))).countP (fun k => k < ix x y)

/-- Curve position and core within its cluster of the logical core of team t (R338 to R340). -/
def teamCurve (shape : Word) (t : Nat) : Nat × Nat :=
  let l := t % (shapeW shape * shapeH shape)
  let x := l % shapeW shape
  let y := l / shapeW shape
  (curvePos shape (x / 2) (y / 2), 2 * (y % 2) + x % 2)

/-- Logical cores of a virtual shape. -/
def shapeCores (shape : Word) : Nat := 2 ^ ((shape.extractLsb' 0 3).toNat + (shape.extractLsb' 4 3).toNat)

/-- The sectors of a mask, ascending. -/
def sectorsOf (mask : Byte) : List Nat := (List.range 8).filter (fun k => mask.getLsbD k)

/-- The logical clusters of a shape outnumber the physical ones of the context's partition, so that they take turns (R340). -/
def takesTurns (s : State) (space : Nat) (shape : Word) : Bool :=
  4 * (sectorsOf (s.part space).secmask).length < shapeCores shape / 4

/-- Team j of an instance is of the co-scheduled group of team k (R67, R333). In deterministic mode the group of a CLUSTER
instance is that of a logical cluster, as is any group where clusters take turns, and it holds one team of each logical core.
(DEDUCED, log entry 56.) -/
def coScheduled (s : State) (r : Rec) (d : Desc) (k j : Nat) : Bool :=
  let n := shapeCores r.shape
  match d.place, r.det with
  | 0, _ => j == k
  | 2, false => j / 4 == k / 4
  | _, false => true
  | p, true => j / n == k / n &&
      ((p != 2 && !takesTurns s r.space r.shape) || (teamCurve r.shape j).1 == (teamCurve r.shape k).1)

/-- Two teams are of one group. -/
def inGroup (s : State) (t u : Team) : Bool :=
  u.inst == t.inst && match s.teamRec? t with
    | some r => coScheduled s r t.desc t.t u.t
    | none => t.desc.place != 0 || u.uid == t.uid

end Sys2Proof.Machine
end

