-- ==== Sys2Proof/Machine/Save.lean ====
section
/-! DEFINITION. The save area: its bytes, the images of R295 to R298, R377 and R378, saving and restoring a
team (R376, R379), and stopping a context (R373, R374). -/

namespace Sys2Proof.Machine

/-! ### Bytes of the save area -/

/-- A run inside one 64 KiB page of the save area, by its offset from SAVEBASE. A run that does not translate
for a store is not written (DESIGN CHOICE, log entry 9); one that meets a freeze waits for its end (R356). -/
def saveWrite (s : State) (space off : Nat) (bs : List Byte) : State :=
  match s.ctx? space with
  | none => s
  | some c =>
    match rangeCheck c (c.savebase + BitVec.ofNat 64 off) .store with
    | .error _ => s
    | .ok ia =>
      match translate s space ia .store false with
      | (s, .ok t) =>
        conflicts (pwrite (dropDirty s space ia bs.length (fun _ => true)) (ownerKey s space t.leaf) t.pa bs) none
          (fun _ => true) space ia bs.length t.pa
      | (s, .frozen _) => { s with saveQ := s.saveQ ++ [(space, off, bs)] }
      | (s, .fail _) => s

/-- A page of the save area stands frozen, so that what is written there waits. -/
def saveFrozen (s : State) (space off : Nat) : Bool :=
  match s.ctx? space with
  | none => false
  | some c =>
    match rangeCheck c (c.savebase + BitVec.ofNat 64 off) .store with
    | .error _ => false
    | .ok ia => match lookup s space ia .store false with | .frozen _ => true | _ => false

/-- The writes that waited are made once their page is no longer frozen, in their order. -/
def saveDrain (s : State) : State :=
  if s.saveQ.isEmpty then s
  else s.saveQ.foldl (fun s x => saveWrite s x.1 x.2.1 x.2.2) { s with saveQ := [] }

/-- Bytes over which the writes that wait are laid. -/
def saveOverlay (s : State) (space off : Nat) (bs : List Byte) : List Byte :=
  s.saveQ.foldl (fun bs w =>
    if w.1 == space && w.2.1 < off + bs.length && off < w.2.1 + w.2.2.length then
      bs.zipIdx.map (fun x =>
        if w.2.1 ≤ off + x.2 then (w.2.2[off + x.2 - w.2.1]?).getD x.1 else x.1)
    else bs) bs

/-- The frame that a frozen leaf names: its bytes do not change before the unfreeze but by the writes that wait. -/
def frozenTrans (s : State) (space ia : Nat) : Option Trans :=
  match walk s space ia with
  | .ok x =>
    match leafCheck s space ia .load false (x.1, clearBit x.2.1 59, x.2.2) with
    | .ok t => some t
    | _ => none
  | .error _ => none

/-- The same, read as the given core sees it. Bytes that do not translate are free values (DESIGN CHOICE, log entry 9). A
frozen page is read as it will stand at the unfreeze. -/
def saveRead (s : State) (core : Nat) (fused : Bool) (space off n : Nat) : State × List Byte :=
  let free (s : State) : State × List Byte :=
    ({ s with freeCtr := s.freeCtr + n },
     (List.range n).map (fun k => (Config.freeWord (s.freeCtr + k)).setWidth 8))
  match s.ctx? space with
  | none => free s
  | some c =>
    match rangeCheck c (c.savebase + BitVec.ofNat 64 off) .load with
    | .error _ => free s
    | .ok ia =>
      match translate s space ia .load false with
      | (s, .ok t) => (s, saveOverlay s space off (readBytes s core fused space ia n t))
      | (s, .frozen _) =>
        match frozenTrans s space ia with
        | some t => (s, saveOverlay s space off (readBytes s core fused space ia n t))
        | none => free s
      | (s, .fail _) => free s

/-- A run of zeros: the reserved bytes of an image are written as zero. -/
def saveZero (s : State) (space off n : Nat) : State :=
  (List.range ((n + 1023) / 1024)).foldl (fun s k =>
    saveWrite s space (off + 1024 * k) (List.replicate (min 1024 (n - 1024 * k)) 0)) s

/-- A longer run, in pieces of 1 KiB. -/
def saveWriteLong (s : State) (space off : Nat) (m : Cells 8) (n : Nat) : State :=
  (List.range ((n + 1023) / 1024)).foldl (fun s k =>
    saveWrite s space (off + 1024 * k) (cread m (1024 * k) (min 1024 (n - 1024 * k)))) s

def saveReadLong (s : State) (core space off n : Nat) : State × Cells 8 :=
  (List.range ((n + 1023) / 1024)).foldl (fun x k =>
    let r := saveRead x.1 core false space (off + 1024 * k) (min 1024 (n - 1024 * k))
    (r.1, memPut x.2 (1024 * k) r.2)) (s, [])

/-! ### Offsets, R295 and R296 -/

def slotOff (t : Team) (w : Nat) : Nat := t.frameF + 0x10000 + 0x8000 * w
def scratchOff (t : Team) : Nat := t.frameF + 0x10000 + 0x8000 * t.desc.limit
def frameSize (d : Desc) : Nat :=
  (0x10000 + 0x8000 * d.limit + 1024 * d.scrK + 1024 * d.tileK + 65535) / 65536 * 65536

/-- Bytes of a frame's pixel-store spill block, R377. -/
def spillSize (word : Word) : Nat :=
  8192 * ((word.extractLsb' 8 8).toNat + 1) * ((word.extractLsb' 0 8).toNat + 1)

/-- What lies in a context's save area: offset and size of the context record area (R373), the debug block (R383),
the team frames and the spill blocks. -/
def saveBlocks (s : State) (c : Context) : List (Nat × Nat) :=
  let dblk := (c.dbgctl.extractLsb' 0 16).toNat
  [(0, 65536)] ++ (if dblk = 0 then [] else [(65536 * dblk, 65536)]) ++
  (s.teams.filter (fun t => t.space == c.space && t.st != .gone)).flatMap (fun t =>
    (t.frameF, frameSize t.desc) ::
      (if t.frame.st == .empty then [] else [(t.frame.spill, spillSize t.frame.word)]))

/-- The lowest multiple of 64 KiB from 64 KiB upward at which `n` bytes fit below `lim`, clear of every block (R295). -/
def roomAmong (bs : List (Nat × Nat)) (lim n : Nat) : Option Nat :=
  let ok (a : Nat) : Bool := 65536 ≤ a && a + n ≤ lim && bs.all (fun b => a + n ≤ b.1 || b.1 + b.2 ≤ a)
  (bs.map (fun b => (b.1 + b.2 + 65535) / 65536 * 65536)).foldl (fun m a =>
    if ok a then (match m with | some x => some (min x a) | none => some a) else m) none

def saveRoom (s : State) (c : Context) (n : Nat) : Option Nat := roomAmong (saveBlocks s c) (65536 * c.savesz.toNat) n

def laneCode : LaneSt → Nat | .ready => 0 | .filed => 1 | .blocked => 2 | .halted => 3 | .exited => 4
def laneOfCode (n : Nat) : LaneSt :=
  match n with | 1 => .filed | 2 => .blocked | 3 => .halted | 4 => .exited | _ => .ready

/-- A lane-table entry; an EXITED lane's holds state 4 and PC 0 (R296). -/
def laneEntry (st : LaneSt) (pc : Pc) : Nat :=
  if st == .exited then 4 * 2 ^ 56 else laneCode st * 2 ^ 56 + pc.toNat

def bytesOf (ws : List (Nat × Nat)) : List Byte := ws.flatMap (fun x => leBytes x.1 x.2)

/-- The lane table as a save writes it: each lane in the state it holds. -/
def laneTable (w : Warp) : List Byte := bytesOf (w.lanes.map (fun l => (8, laneEntry l.st l.pc)))

/-- The region table: the listed slots with entry PC and counter, every other entry zero (R298). -/
def regionTable (rs : List (Nat × Pc × Word)) : List Byte :=
  (List.range 32).flatMap (fun l =>
    match rs.find? (fun r => r.1 == l) with
    | some r => leBytes 8 r.2.1.toNat ++ leBytes 8 r.2.2.toNat
    | none => leBytes 16 0)

/-! ### The images -/

def tileWord (e : TileEnt) : Nat :=
  (match e.st with | .empty => 0 | .filling => 1 | .ready => 2 | .draining => 3)
  + (if e.keep then 4 else 0) + (if e.arm then 8 else 0) + (if e.pend.isSome then 16 else 0)
def tileOfWord (x : Nat) (pend : Option Delivery) : TileEnt where
  st := match x % 4 with | 0 => .empty | 1 => .filling | 2 => .ready | _ => .draining
  keep := x / 4 % 2 = 1
  arm := x / 8 % 2 = 1
  pend := if x / 16 % 2 = 1 then pend else none

def ringBytes (r : Ring) : List Byte :=
  leBytes 8 ((List.range r.slots.length).foldl (fun acc j =>
    acc + (match r.slots[j]? with
      | some x => (x.1 + (if x.2 then 32 else 0)) * 2 ^ (6 * j) | none => 0)) 0)
  ++ leBytes 1 r.prod ++ leBytes 1 r.prodPh.toNat ++ leBytes 1 r.cons ++ leBytes 1 r.expPh.toNat
  ++ leBytes 1 r.count ++ leBytes 1 r.depth ++ leBytes 2 0

def ringOfBytes (bs : List Byte) : Ring :=
  let x := leNat (bs.take 8)
  let at_ (k : Nat) : Nat := ((bs[k]?).getD 0).toNat
  { slots := (List.range (min (at_ 13) 8)).map (fun j => (x / 2 ^ (6 * j) % 32, x / 2 ^ (6 * j + 5) % 2 = 1))
    prod := at_ 8, prodPh := at_ 9 % 2 = 1, cons := at_ 10, expPh := at_ 11 % 2 = 1
    count := at_ 12, depth := at_ 13 }

/-- Lanes of a warp that have arrived at a barrier (R183). -/
def barMask (w : Warp) (n : Fin 8) : BitVec 32 :=
  maskOf ((w.slots.filter (fun x => x.2.st == .blocked && x.2.wait == .bar n)).map (·.1))

def reasonCode : SaveReason → Nat | .preempt => 1 | .ctxsave => 2 | .pagefault => 3 | .stop => 4

/-- Bits of an element type, R54. -/
def typeBits (ty : Nat) : Nat :=
  match ty with
  | 0 => 32 | 1 => 16 | 2 => 16 | 3 => 8 | 4 => 8 | 5 => 6 | 6 => 6 | 7 => 4 | 8 => 8 | 9 => 8 | 10 => 8
  | 11 => 16 | 12 => 32 | 13 => 8 | 14 => 24 | _ => 0

/-- Elements of w bits packed from bit 0 upward (R54). -/
def packElems (w : Nat) (m : Cells 32) (n : Nat) : List Byte :=
  let x := (List.range n).foldr (fun k acc => (cget m k).toNat % 2 ^ w + 2 ^ w * acc) 0
  leBytes ((n * w + 7) / 8) x
def unpackElems (w n : Nat) (bs : List Byte) : Cells 32 :=
  let x := leNat bs
  (List.range n).foldl (fun m k => cset m k (BitVec.ofNat 32 (x / 2 ^ (k * w) % 2 ^ w))) []

/-- Bits of a scale entry: E8M0 has 8, W24 has 24 (R53, R54). -/
def scaleBits (sc : Nat) : Nat := match sc with | 1 => 8 | 2 => 24 | _ => 0

/-- The header of a team image, R377. -/
def imageHeader (s : State) (t : Team) (completed : Bool) (reason : SaveReason) : List Byte :=
  let i := s.inst? t.inst
  let r := s.teamRec? t
  leBytes 4 (1 + (if completed then 2 ^ 16 else 0) + reasonCode reason * 2 ^ 24)
  ++ leBytes 4 (t.space % 65536) ++ leBytes 4 t.t ++ leBytes 4 ((i.map (·.node)).getD 0)
  ++ leBytes 4 ((r.map (fun r => r.idx.toNat)).getD 0) ++ leBytes 4 ((r.map (fun r => r.queue % 1024)).getD 0)
  ++ leBytes 8 s.clock.toNat ++ leBytes 32 0

/-- A Luna command, R242. -/
def EngOp.luna (o : EngOp) : Bool := match o.ins with | .mlw .. | .mma .. | .mq .. => true | _ => false
/-- The engine operations of a team that a save suspends, and the Luna commands that it freezes, R376. -/
def suspended (s : State) (uid : Nat) : List EngOp := s.ops.filter (fun o => o.team == uid && !o.luna)
def frozenLuna (s : State) (uid : Nat) : List EngOp := s.ops.filter (fun o => o.team == uid && o.luna)

/-- The warp context of a warp of a team, R50. -/
def Team.ctxOf (t : Team) (w : Nat) : Nat := ((t.warps[w]?).map (·.ctx)).getD 0

/-- One suspended operation, R377: its opaque image names the operation in State.ops (DESIGN CHOICE, log entry 10). -/
def opImage (t : Team) (o : EngOp) : List Byte :=
  leBytes 4 ((o.bits.extractLsb' 2 10).toNat + t.ctxOf o.warp * 2 ^ 10 + o.lane * 2 ^ 16
    + (o.tiles.headD 0) * 2 ^ 21 + 2 ^ 31) ++ leBytes 4 o.pos ++ leBytes 8 o.va.toNat ++ leBytes 48 o.id

/-- The runs of a team image, R377. The opaque images name operations whose contents stay in State.ops (DESIGN CHOICE,
log entry 10). (DESIGN CHOICE, log entry 16.) -/
def imageRuns (s : State) (t : Team) (reason : SaveReason) : List (Nat × List Byte) :=
  let luna := frozenLuna s t.uid
  [ (0x0000, imageHeader s t false reason),
    (0x0040, bytesOf (t.ttab.map (fun e => (4, tileWord e)))),
    (0x00C0, (cread t.tsh 0 32).flatMap (fun x => leBytes 8 x.toNat)),
    (0x01C0, t.rings.flatMap ringBytes),
    (0x0A40, leBytes 4 (match t.frame.st with | .empty => 0 | .opened => 1 | .closed => 2)
      ++ leBytes 4 t.frame.word.toNat
      ++ leBytes 8 (if t.frame.st == .empty then 0
          else ((s.ctx? t.space).map (fun c => c.savebase.toNat + t.frame.spill)).getD 0)),
    (0x0A80, t.ttab.flatMap (fun e => match e.pend with
      | some d => leBytes 8 d.va.toNat ++ leBytes 8 d.ext | none => leBytes 16 0)),
    (0x0D80, ((suspended s t.uid).take 16).flatMap (opImage t)),
    (0x2000, bytesOf (if t.weight.valid
      then [(4, t.weight.k), (4, t.weight.n), (4, t.weight.ty), (4, t.weight.sc), (4, 1)]
      else [(4, 0), (4, 0), (4, 0), (4, 0), (4, 0)])),
    (0x2040, if t.weight.valid then packElems (typeBits t.weight.ty) t.weight.elems (t.weight.k * t.weight.n) else []),
    (0xA040, if t.weight.valid
      then packElems (scaleBits t.weight.sc) t.weight.scales ((t.weight.k + 31) / 32 * t.weight.n) else []),
    (0xA800, leBytes 4 0x00000101 ++ leBytes 4 (8 * luna.length) ++ luna.flatMap (fun o => leBytes 8 o.id)) ]
  ++ t.warps.flatMap (fun w => (List.range 8).map (fun n => (0x0240 + 256 * n + 4 * w.ctx, leBytes 4 (barMask w (Fin.ofNat 8 n)).toNat)) ++
    [(0x0C80 + 4 * w.ctx, [w.q0, w.q1, w.q2, w.q3].map (fun q => BitVec.ofNat 8 q.length)),
     (0xC000 + 96 * w.ctx, bytesOf ((w.stack.drop 8).map (fun e => (4, e.2.toNat))))])

/-- The runs of a warp slot that a save writes, R296 and R378. -/
def slotRuns (win : Nat) (w : Warp) : List (Nat × List Byte) :=
  [ (0x0280, laneTable w),
    (0x0380, w.stack.flatMap (fun e => leBytes 8 (e.1.toNat + ((List.range 32).countP (fun k => e.2.getLsbD k) - 1) * 2 ^ 56))),
    (0x0480, (w.stack.take 8).flatMap (fun e => leBytes 4 e.2.toNat)),
    (0x6800, (List.range 73).flatMap (fun k => leBytes 4 (windowRead win w (0x6000 + 4 * k)).toNat)),
    (0x7000, ([w.q0, w.q1, w.q2, w.q3].flatMap (fun q =>
      (q.flatMap (fun f => leBytes 8 f.toNat)) ++ leBytes (128 - 8 * q.length) 0))),
    (0x7200, bytesOf (w.lanes.map (fun l => (4, l.phases.toNat)))),
    (0x7280, bytesOf (w.lanes.map (fun l => (4, l.tstat.toNat)))),
    (0x7300, bytesOf ([0, 1, 2, 3].map (fun k => (4, (cget w.qdest k).toNat)) ++
      [(4, w.tmrcmp.toNat), (4, (if w.sup then 4 else 0) + (if w.sbusy then 2 else 0) + (if w.ubusy then 1 else 0)),
       (8, w.active.toNat)])) ]
  ++ (List.range (8 * win)).map (fun n => (0x0800 + 128 * n, w.lanes.flatMap (fun l => leBytes 4 (l.rdV n).toNat)))

/-! ### Store hashes, R394 -/

def crcStep (c : DWord) : DWord :=
  if c.getLsbD 63 then (c <<< 1) ^^^ 0x42F0E1EBA9EA3693 else c <<< 1
def crcByte (c : DWord) (b : Byte) : DWord :=
  let x := c ^^^ (b.setWidth 64 <<< 56)
  (List.range 8).foldl (fun x _ => crcStep x) x
def crcBytes (c : DWord) (bs : List Byte) : DWord := bs.foldl crcByte c

/-- A performed global store counts into its lane's hash. -/
def countStore (va : DWord) (width data : Nat) (l : Lane) : Lane :=
  { l with
    crc := crcBytes l.crc (leBytes 8 va.toNat ++ leBytes 1 width ++ leBytes width data)
    stores := l.stores + 1 }

/-- The same of a store that a commit has made. -/
def countTry (team warp : Nat) (s : State) (x : TryStore) : State :=
  s.modLane team warp x.slot (countStore x.va x.width x.data.toNat)

/-! ### Saving a team, R376 to R380 -/

/-- Writes a pending result's registers, R198, R223. A latch is marked valid when the result arrives, also where the lane has
meanwhile issued in another group (DESIGN CHOICE, log entry 64). -/
def applyResult (s : State) (r : Result) : State :=
  let word (k : Nat) : Word := r.val.extractLsb' (32 * k) 32
  let live (c : Nat) : List Nat := (List.range c).filter (fun k => !r.dead.getLsbD k)
  let s := match r.latch with
    | some b => s.modLane r.team r.warp r.lane (fun l => { l with bp := l.bp.set b (some (word 0)) })
    | none => s
  match r.dst with
  | none => s
  | some (.v n, c) => s.modLane r.team r.warp r.lane (fun l =>
      (live c).foldl (fun l k => l.wrV (n.val + k) (word k)) l)
  | some (.s n, c) => s.modWarp r.team r.warp (fun w =>
      (live c).foldl (fun w k => w.wrS (n.val + k) (word k)) w)

/-- The lane goes back to the region entry that its access carries, R368. Commits that its hash was to count after its
accesses are counted now (R394). -/
def toRegion (s : State) (a : Access) : State :=
  let mine (b : Access) : Bool := b.team == a.team && b.warp == a.warp && b.lane == a.lane
  let s := (s.accs.filter mine).foldl (fun s b => b.after.foldl (countTry a.team a.warp) s) s
  { s with accs := s.accs.map (fun b => if mine b then { b with after := [] } else b) }.modLane a.team a.warp a.lane (fun l =>
    { l.dropLatches.release s.cycle with
      pc := a.regionPc
      ords := match a.ord with | some x => min l.ords x.2 | none => l.ords })

/-- The lane has not issued an access that was not sent: it stands at that instruction again, in which it still waits
(R18, R301). -/
def unissue (s : State) (a : Access) : State :=
  s.modLane a.team a.warp a.lane (fun l =>
    { l.enter .blocked s.cycle with
      wait := .retry
      pc := a.pc
      regionCnt := l.regionCnt - 1
      ords := match a.ord with | some x => min l.ords x.2 | none => l.ords })

/-- Accesses of a warp, or of a whole team, that were not sent are withdrawn. -/
def withdrawUnsent (s : State) (p : Access → Bool) : State :=
  let s := (s.accs.filter (fun a => p a && a.unsent)).foldl unissue s
  { s with accs := s.accs.filter (fun a => !(p a && a.unsent)) }

def modLife (s : State) (uid n : Nat) (f : TileLife → TileLife) : State :=
  s.modTeam uid (fun t => { t with lives := t.lives.modify n f })

/-- What the lanes of a warp wait for on tiles, with the cycles that they have waited, once for each instruction that waits. -/
def tileWaits (now : Nat) (w : Warp) : List (Pc × Nat × Nat) :=
  (w.lanes.filterMap (fun l => match l.under, l.wait with
    | .blocked, .tile n => some (l.pc, n, if l.st == .halted then l.since else now - l.since)
    | _, _ => none)).eraseDups

/-- The cycles of waits for tiles that end for a warp join the tiles' operand waits (R389). -/
def countWaits (s : State) (uid wi : Nat) : State :=
  match s.warp? uid wi with
  | some w => (tileWaits s.cycle w).foldl (fun s x => modLife s uid x.2.1 (fun l => { l with wait := l.wait + x.2.2 })) s
  | none => s

/-- The lanes of a warp that is stopped for a save: latches go, a lane that waits on another agent tries its
instruction afresh; arrivals at barriers stand (R376, R48). The cycles that it has waited are kept (R27).
(DEDUCED, log entry 75.) -/
def pauseLane (now : Nat) (l : Lane) : Lane :=
  let l : Lane := { l.dropLatches with since := if l.st == .halted then l.since else now - l.since }
  match l.wait with
  | .bar _ => l
  | _ => { l with wait := .retry }

/-- A member's RROT that still waits for the others (R67), an insertion that found its bucket full (R261), or a CLOSE
that waits for its frame (R279): its instruction issues afresh. -/
def EngOp.undone (o : EngOp) : Bool :=
  match o.ins with | .rrot .. => o.pos != 1 | .voxin .. => o.pos == 2 | .binClose .. => true | _ => false

/-- The pixel store as bytes: ID, then depth, of each pixel in row order. (DESIGN CHOICE, log entry 16.) -/
def pixelBytes (pix : Cells 64) (n : Nat) : Cells 8 :=
  (List.range n).foldl (fun m k => writeLE m (8 * k) 8 (~~~(cget pix k)).toNat) []

/-- The frame is written, the core's resources are free, and the team is SAVED. (DEDUCED, log entry 19.) -/
def saveTeam (s : State) (uid : Nat) (reason : SaveReason) (pooled : Bool) : State :=
  match s.team? uid with
  | none => s
  | some t0 =>
    -- an active TRY aborts with PREEMPT
    let s := (List.range t0.warps.length).foldl (fun s w => abortTry s uid w 5 0 0) s
    -- results that have come in are written; accesses not performed restart from their region entries; a multicast
    -- suspended at its first beat asks afresh after the restore
    let s := (s.results.filter (fun r => r.team == uid)).foldl applyResult s
    let s := withdrawUnsent s (fun a => a.team == uid)
    let regions := (s.accs.filter (fun a => a.team == uid)).map
      (fun a => (a.warp, a.lane, a.regionPc, a.regionCnt))
    let s := (s.accs.filter (fun a => a.team == uid)).foldl toRegion s
    let s := { s with
      accs := s.accs.filter (fun a => a.team != uid)
      results := s.results.filter (fun r => r.team != uid)
      flits := s.flits.filter (fun f => f.team != uid)
      ops := s.ops.filter (fun o => !(o.team == uid && o.undone))
      mcasts := s.mcasts.filter (fun m => !m.left.isEmpty || !s.ops.any (fun o => o.team == uid && o.id == m.op))
      leaves := s.leaves.filter (fun r => r.team != uid)
      bins := s.bins.filter (fun b => b.team != uid) }
    let s := (List.range t0.warps.length).foldl (fun s w => countWaits s uid w) s
    let s := s.modTeam uid (fun t => { t with
      warps := t.warps.map (fun w => { w with
        lanes := w.lanes.map (pauseLane s.cycle), epoch := w.epoch + 1, st := if w.st == .live then .stopped else w.st })
      st := .saved pooled, reason := reason, saving := none, grants := [], pooledAt := s.mesh })
    match s.team? uid with
    | none => s
    | some t =>
      let s := saveZero s t.space t.frameF 0x10000
      let s := (List.range t.warps.length).foldl (fun s k => saveZero s t.space (slotOff t k + 0x280) 0x7D80) s
      let s := (imageRuns s t reason).foldl (fun s r => saveWrite s t.space (t.frameF + r.1) r.2) s
      let s := t.warps.zipIdx.foldl (fun s x =>
        (slotRuns t.desc.win x.1).foldl (fun s r => saveWrite s t.space (slotOff t x.2 + r.1) r.2) s) s
      let s := if reason == .pagefault then
          t.warps.zipIdx.foldl (fun s x =>
            saveWrite s t.space (slotOff t x.2 + 0x80)
              (regionTable ((regions.filter (fun r => r.1 == x.2)).map (·.2)))) s
        else s
      let s := saveWriteLong s t.space (scratchOff t) t.scratch (1024 * t.desc.scrK)
      let s := saveWriteLong s t.space (scratchOff t + 1024 * t.desc.scrK) t.tileMem (1024 * t.desc.tileK)
      if t.frame.st == .empty then s
      else saveWriteLong s t.space t.frame.spill (pixelBytes t.frame.pix (spillSize t.frame.word / 8)) (spillSize t.frame.word)

def isSaved (t : Team) : Bool := match t.st with | .saved _ => true | _ => false

/-- The teams of the co-scheduled group of a team: its instance's teams on one sector, cluster or ring, R67,
R333; a team of an ANY instance stands alone. -/
def groupOf (s : State) (t : Team) : List Nat :=
  if t.desc.place = 0 then [t.uid] else (s.teams.filter (inGroup s t)).map (·.uid)

/-- The running members of a team's group. (DEDUCED, log entry 37.) -/
def runningGroup (s : State) (t : Team) : List Nat :=
  (groupOf s t).filter (fun u => match s.team? u with | some x => x.st == .running | none => false)

/-- Skipper's operations of R376, which a frozen page suspends: the need of their beats. -/
def skipperNeed (i : Instr) : Option Need :=
  match i with
  | .cpyin .. | .mcast .. | .tarm .. => some .load
  | .cpyout .. => some .store
  | _ => none

def AccOp.need : AccOp → Need | .load => .load | .store => .store | .atom _ | .cas => .atomic

/-- The place of an access through a SYN page, which other addresses may name too (R359). -/
def synPlace (s : State) (a : Access) : Option Nat :=
  match (s.team? a.team).map (fun t => lookup s t.space a.ia a.op.need true) with
  | some (.ok tr) => if leafSyn tr.leaf then some tr.pa else none
  | _ => none

/-- Two accesses of one team share a byte, by one address or through SYN pages. -/
def sharesByte (s : State) (a b : Access) : Bool :=
  (b.ia < a.ia + a.width && a.ia < b.ia + b.width) ||
  match synPlace s a, synPlace s b with
  | some p, some q => q < p + a.width && p < q + b.width
  | _, _ => false

/-- Accesses of one lane are performed in program order, and those of one instruction in ascending lane order (R221): none
before an earlier one of its lane that has not been performed or whose fault has still to be taken, nor before one of the
same instruction to the same bytes. -/
def earliest (s : State) (a : Access) : Bool :=
  (match s.accs.find? (fun b => b.team == a.team && b.warp == a.warp && b.lane == a.lane) with
   | some b => b.id == a.id
   | none => false) &&
  !s.accs.any (fun b => b.id < a.id && b.group == a.group && b.team == a.team && b.fault.isNone && sharesByte s a b)

/-- A multicast's beat of the line of an access has still to leave, and the access is merged into it (R72). -/
def inWindow? (s : State) (a : Access) : Bool :=
  s.mcasts.any (fun m => m.merged.any (fun x => !x.isOp && x.op == a.id))

/-- The access can move now: no gate, rank or merge window holds it, and its page is not frozen under
FMODE = 0. -/
def movable (s : State) (a : Access) : Bool :=
  a.fault.isNone && !a.gated && earliest s a && !inWindow? s a &&
  match s.team? a.team with
  | some t => lookup s t.space a.ia a.op.need true != .frozen false
  | none => true

/-- The record's log mode: 0 none, 1 REC, 2 PLAY. -/
def logMode (s : State) (t : Team) : Nat := ((s.teamRec? t).map (·.log)).getD 0

/-- The access goes to a quadrant (R393) without being strong: of an UNCACHED or a SYN page. -/
def plainAtQuadrant (s : State) (t : Team) (a : Access) : Bool :=
  a.scope.isNone &&
  match lookup s t.space a.ia a.op.need true with
  | .ok tr => leafUnc tr.leaf || leafSyn tr.leaf
  | _ => false

/-- Such an access of a replayed record waits in its point's gate. -/
def atGate (s : State) (t : Team) (a : Access) : Bool := logMode s t == 2 && plainAtQuadrant s t a

/-- A save waits for the access: it is sent and can move, and neither the write-backs of its release (R227, R356) nor a byte
that cannot be read (R375, R416) hold it. -/
def saveAwaits (s : State) (a : Access) : Bool :=
  a.ord.isNone && movable s a &&
  match s.team? a.team with
  | some t => !meetsBad s t.space a.ia a.width a.op.need && !atGate s t a && !(match a.rel with | some x => relFrozen s t x | none => false)
  | none => true

/-- Cecropia asks the host agent for a page that is not mapped: it lies in a unified range, and the agent has not declined
it (R369). -/
def hostPage (s : State) (space ia : Nat) : Bool :=
  (match s.ctx? space with | some x => unified x ia | none => false) && !s.pagesDeclined.contains (space, ia / 65536)

/-- The first beat of a Skipper operation that does not translate waits: on a frozen page, or for one of the host's; or a beat
cannot be read. -/
def beatFrozen (s : State) (o : EngOp) : Bool :=
  match s.team? o.team, skipperNeed o.ins with
  | some t, some need =>
    ((o.ias.drop o.pos).findSome? (fun ia =>
      match lookup s t.space ia need false with
      | .ok _ => if meetsBad s t.space ia (64 - ia % 64) need then some true else none
      | .frozen _ => some true
      | .fail sub => some (sub == 0 && hostPage s t.space ia))).getD false
  | _, _ => false

/-- A multicast that has served its mask and its receivers is complete, though an operation of another team still
reads from it. -/
def EngOp.served (o : EngOp) : Bool := match o.ins with | .mcast .. => o.charge == 0 | _ => false

/-- A multicast fills a tile of the team, and does not itself stand still. -/
def receives (s : State) (uid : Nat) : Bool :=
  s.mcasts.any (fun m => m.receivers.any (fun x => x.1 == uid) &&
    match s.op? m.op with | some o => !o.stuck && !beatFrozen s o | none => true)

/-- The owner of a page of the save area has no key (NOKEY, R350). -/
def saveNoKey (s : State) (space off : Nat) : Bool :=
  match s.ctx? space with
  | none => false
  | some c =>
    match rangeCheck c (c.savebase + BitVec.ofNat 64 off) .load with
    | .error _ => false
    | .ok ia => lookup s space ia .load false == .fail 5

/-- Every page of the team's frame has its key: after a partition's keys are gone the restore waits for them (R408). -/
def frameKeyed (s : State) (t : Team) : Bool :=
  (List.range (frameSize t.desc / 65536)).all (fun k => !saveNoKey s t.space (t.frameF + 65536 * k)) &&
  (t.frame.st == .empty || (List.range ((spillSize t.frame.word + 65535) / 65536)).all (fun k =>
    !saveNoKey s t.space (t.frame.spill + 65536 * k)))

/-- A page of the team's frame stands frozen. -/
def frameFrozen (s : State) (t : Team) : Bool :=
  (List.range (frameSize t.desc / 65536)).any (fun k => saveFrozen s t.space (t.frameF + 65536 * k)) ||
  (t.frame.st != .empty && (List.range ((spillSize t.frame.word + 65535) / 65536)).any (fun k =>
    saveFrozen s t.space (t.frame.spill + 65536 * k)))

/-- What a save of a team waits for: accesses that can be performed, results and traps that still come, Skipper, stream
vector and VOXIN operations (R303, R376), a multicast into its tiles (R63), and a freeze of its frame (R356). An
operation that stands at a frozen page or that a fault stopped is suspended at that beat. -/
def saveWaits (s : State) (uid : Nat) : Bool :=
  s.accs.any (fun a => a.team == uid && saveAwaits s a) ||
  (match s.team? uid with
   | some t => t.warps.any (fun w => w.trap.isSome) || frameFrozen s t
   | none => false) ||
  receives s uid ||
  s.ops.any (fun o => o.team == uid && !o.stuck && !o.undone && !o.served && !beatFrozen s o && (match o.ins with
    | .cpyin .. | .cpyout .. | .mcast .. | .rrot .. | .tarm .. | .vadd .. | .vsub .. | .vmul .. | .vfma ..
    | .vmax .. | .vmin .. | .vred .. | .vcvt .. | .vqnt .. | .vdeq .. | .vcpy .. | .voxin .. => true
    | _ => false))

/-! ### Stopping a context, R373, R374 -/

/-- The stop record. -/
def stopBytes (s : State) (cause sub : Byte) (addr : DWord) (f ctx : Nat) : List Byte :=
  leBytes 4 (1 + cause.toNat * 2 ^ 8 + sub.toNat * 2 ^ 16) ++ leBytes 4 0 ++ leBytes 8 addr.toNat
  ++ leBytes 8 s.clock.toNat ++ leBytes 4 f ++ leBytes 4 ctx

/-- The context has been stopped, or is being stopped. -/
def Context.halted (c : Context) : Bool := c.stopped || c.stopping.isSome

/-- TAIL of each queue of a context, R321. -/
def queueTails (s : State) (space : Nat) : List (Nat × Nat) :=
  let p := s.part space
  ((List.range (p.qlast + 1 - p.qfirst)).map (fun k => s.qTable.toNat + 64 * (p.qfirst + k))).filterMap (fun pa =>
    if readPa s (pa + 0xC) 2 = space % 65536 then some (space, pa + 0x10) else none)

/-- The last part of a stop: once no admitted record of the context is left, the stop record is written. -/
def writeStop (s : State) (space : Nat) : State :=
  match (s.ctx? space).bind (·.stopping) with
  | none => s
  | some i =>
    if s.recs.any (fun r => r.space == space && !r.ended) then s
    else
      let s := s.modCtx space (fun c => { c with stopped := true, stopping := none, defer := none })
      let s := saveWrite s space 0 (stopBytes s i.cause i.sub i.addr i.frame i.ctx)
      { s with tails := queueTails s space ++ s.tails.filter (fun x => x.1 != space) }

/-- The teams of the context that are still to be saved. -/
def toStop (s : State) (space : Nat) : List Nat :=
  (s.teams.filter (fun t => t.space == space && (t.st == .running || t.st == .placed))).map (·.uid)

/-- The parts of a stop in their order, as far as they can go: every RUNNING team is saved and held, as by CTXSAVE, and SAVED
teams become held; the admitted records are marked to complete STOPPED; the stop record is written. -/
def stopStep (s : State) (space : Nat) : State :=
  if !((s.ctx? space).bind (·.stopping)).isSome || (toStop s space).any (fun u => saveWaits s u) then s
  else
    let s := (toStop s space).foldl (fun s u => saveTeam s u .stop false) s
    writeStop { s with
      teams := s.teams.map (fun (t : Team) => if t.space == space && t.st == TeamSt.saved true then { t with st := .saved false } else t)
      recs := s.recs.map (fun (r : Rec) => if r.space == space then { r with stopped := true } else r) } space

/-- A context is stopped, R374: no warp of it issues any more, and its teams are saved once the units of R376 allow. A
context that is already being stopped keeps its first cause. (DEDUCED, log entry 19.) -/
def stopContext (s : State) (space : Nat) (cause sub : Byte) (addr : DWord) (f ctx : Nat) : State :=
  match s.ctx? space with
  | none => s
  | some c =>
    if c.halted then s
    else
      let s := s.modCtx space (fun c => { c with stopping := some ⟨cause, sub, addr, f, ctx⟩ })
      let s := { s with teams := s.teams.map (fun (t : Team) =>
        if t.space == space && t.st == .running then { t with saving := some { reason := .stop, team := 0, warp := 0, pc := 0 } } else t) }
      stopStep s space

end Sys2Proof.Machine
end

