-- ==== Sys2Proof/Machine/Ops.lean ====
section
/-! DEFINITION. What every meaning shares: taking a trap (R299 to R302) and returning from one (R312), the
lockstep arrangement (R29), what an issue group does lane by lane or warp by warp (R10, R11, R24, R48 to R52,
R161, R192, R305), and the end of a step. -/

namespace Sys2Proof.Machine

/-! ### The end of a step -/

/-- Every context that met an unreachable package (R416) or an uncorrectable error (R375) stops with MCHECK,
subcode 0. -/
def stopLost (s : State) : State :=
  if s.lost.isEmpty then s
  else { s.lost.foldl (fun s x => stopContext s x.1 0x16 0 (BitVec.ofNat 64 x.2) 0 0) s with lost := [] }

/-- The outcome of a step: the next state, unless an access met no memory. (DEDUCED, log entry 62.) -/
def finish (s : State) : Host.Outcome State Fault Refusal :=
  let s := stopLost (saveDrain s)
  match s.halt with
  | some f => .fault f
  | none => .next s

/-! ### Cause codes, R365 -/

def cTRAP : Byte := 0x01
def cBRK : Byte := 0x02
def cILLOP : Byte := 0x03
def cROLE : Byte := 0x04
def cSTALE : Byte := 0x05
def cPAYLOAD : Byte := 0x06
def cALIGN : Byte := 0x07
def cSPAD : Byte := 0x08
def cWSPACE : Byte := 0x09
def cEMIT : Byte := 0x0A
def cPOINTS : Byte := 0x0B
def cARITH : Byte := 0x0C
def cRANGE : Byte := 0x10
def cXLATE : Byte := 0x11
def cTIMER : Byte := 0x13
def cDOUBLE : Byte := 0x14
def cSTEP : Byte := 0x15
def cMCHECK : Byte := 0x16
def cRESTORE : Byte := 0x17

/-- The user traps of R300. -/
def userTrap (c : Byte) : Bool := 1 ≤ c && c ≤ 0x0C

/-- The ILEN code of an instruction's length in bytes, R297. -/
def ilenOf (len : Nat) : BitVec 2 := match len with | 8 => 1 | 12 => 2 | 16 => 3 | _ => 0

/-! ### Lockstep, R29 -/

/-- The lanes of a mask as slots. -/
def slotsOf (m : BitVec 32) : List Nat := (List.range 32).filter (fun k => m.getLsbD k)

/-- Masks of some lanes by PC, lowest PC first. -/
def byPc (w : Warp) (slots : List Nat) : List (Pc × BitVec 32) :=
  slots.foldl (fun acc k => ins acc ((w.lanes[k]?).map (·.pc) |>.getD 0) k) []
where
  /-- adds a slot to the group of its PC -/
  ins (acc : List (Pc × BitVec 32)) (pc : Pc) (k : Nat) : List (Pc × BitVec 32) :=
    match acc with
    | [] => [(pc, BitVec.ofNat 32 (2 ^ k))]
    | (q, m) :: r =>
      if q = pc then (q, m ||| BitVec.ofNat 32 (2 ^ k)) :: r
      else if pc < q then (pc, BitVec.ofNat 32 (2 ^ k)) :: (q, m) :: r
      else (q, m) :: ins r pc k

def stackMask (w : Warp) : BitVec 32 := w.stack.foldl (fun m e => m ||| e.2) 0
/-- Live lanes of the running side. -/
def runningSide (w : Warp) : List Nat := slotsOf (w.liveMask &&& ~~~stackMask w)

/-- The stack after the PCs of lanes have moved: a side that has ended gives way to the top entry; a side that diverges is
pushed but for its lowest PC, and an entry whose lanes have moved apart holds one entry for each PC; entries at the running PC
merge. -/
def relock (w : Warp) : Warp :=
  if !w.lockstep then w
  else
    let st := w.stack.flatMap (fun e => byPc w (slotsOf (e.2 &&& w.liveMask)))
    let w := { w with stack := st }
    let w := if (runningSide w).isEmpty then { w with stack := st.drop 1 } else w
    match byPc w (runningSide w) with
    | [] => w
    | (p0, _) :: rest =>
      let st := rest ++ w.stack
      { w with stack := st.dropWhile (fun e => e.1 == p0) }

/-! ### Trap entry, R300 to R302 -/

def trapFrame (s : State) (t : Team) (w : Warp) (ti : TrapInfo) (sup : Bool) : List Byte :=
  leBytes 4 (ti.ilen.toNat * 2 ^ 19 + (if sup then 2 ^ 18 else 0) + ti.kind.toNat * 2 ^ 16
    + ti.sub.toNat * 2 ^ 8 + ti.cause.toNat)
  ++ leBytes 4 ti.lanes.toNat ++ leBytes 8 ti.pc.toNat ++ leBytes 8 ti.va.toNat ++ leBytes 8 ti.ia.toNat
  ++ leBytes 16 ti.insn.toNat ++ leBytes 8 s.clock.toNat ++ leBytes 4 (w.rdS 63).toNat
  ++ leBytes 4 (t.space % 65536 * 2 ^ 16 + ti.tile.val * 2 ^ 6 + w.ctx)

/-- The lane table as a trap writes it: live lanes READY. -/
def trapLaneTable (w : Warp) : List Byte :=
  bytesOf (w.lanes.map (fun l => (8, laneEntry (if l.st == .exited then .exited else .ready) l.pc)))

/-- What a lane leaves behind when its warp enters a handler (R301): waits are withdrawn, the PC becomes the
vector, latches are lost. -/
def vectorLane (vec : Pc) (now : Nat) (l : Lane) : Lane :=
  if l.st == .exited then l
  else { l.dropLatches with st := .ready, wait := .retry, pc := vec, since := now, stepped := false, stepWait := false }

/-- A team takes back the grant of a full-array RROT that has done nothing (R301). -/
def giveBack (s : State) (o : EngOp) : State :=
  if o.lapse = 0 then s else s.modTeam o.team (fun t => { t with grants := t.grants ++ [(4, o.lapse)] })

/-- Instructions that a lane of the warp had begun and that have done nothing: bin entries, bounced flits,
leave requests, ordered and gated accesses not yet sent (R301). An access that was sent is performed. -/
def withdraw (s : State) (uid w : Nat) : State :=
  let s := withdrawUnsent (unfile s uid w) (fun a => a.team == uid && a.warp == w)
  let s := (s.ops.filter (fun o => o.team == uid && o.warp == w && o.undone)).foldl giveBack s
  { s with
    flits := s.flits.filter (fun f => !(f.team == uid && f.warp == w))
    ops := s.ops.filter (fun o => !(o.team == uid && o.warp == w && o.undone))
    leaves := s.leaves.filter (fun r => !(r.team == uid && r.warp == w)) }

/-- The lane has an access that has faulted. -/
def laneFaulted (s : State) (uid wi slot : Nat) : Bool :=
  s.accs.any (fun b => b.team == uid && b.warp == wi && b.lane == slot && b.fault.isSome)

/-- A load or atomic whose value will still come: it has been sent, and no fault of its lane stands before it. -/
def owed (s : State) (a : Access) : Bool := a.op != .store && !a.unsent && !laneFaulted s a.team a.warp a.lane

/-- R301: results of a warp that is about to enter a handler are outstanding. -/
def mustDrain (s : State) (uid wi : Nat) : Bool :=
  s.accs.any (fun a => a.team == uid && a.warp == wi && owed s a) ||
  s.results.any (fun r => r.team == uid && r.warp == wi) ||
  s.ops.any (fun o => o.team == uid && o.warp == wi && o.owes)

/-- The warp cannot enter its handler yet: results are outstanding, or its frame stands frozen (R301, R356). -/
def mustWait (s : State) (uid wi : Nat) : Bool :=
  mustDrain s uid wi || (match s.team? uid with | some t => saveFrozen s t.space (slotOff t wi) | none => false)

/-! ### Late faults, R368 and R369 -/

/-- A fault that a page-fault save resolves: FROZEN, or NOTMAPPED in a unified range unless the host agent has
declined the page. -/
def savedFault (s : State) (a : Access) : Bool :=
  match a.fault, s.team? a.team with
  | some (c, sub), some t =>
    c == cXLATE && (sub == 3 || (sub == 0 && hostPage s t.space a.ia))
  | _, _ => false

/-- The trap of a warp's late faults: the lowest faulting lane decides, and the lanes with its cause and subcode
share it. -/
def lateTrap (fs : List Access) (a : Access) : TrapInfo :=
  let same := fs.filter (fun b => b.fault == a.fault)
  let range := match a.fault with | some (c, _) => c == cRANGE | none => false
  { cause := (a.fault.map (·.1)).getD 0, sub := (a.fault.map (·.2)).getD 0, kind := 1
    lanes := maskOf (same.map (·.lane)), pc := a.pc, ilen := ilenOf a.len, insn := a.bits
    va := a.va, ia := if range then 0 else BitVec.ofNat 64 a.ia, tile := 0
    regions := same.map (fun b => (b.lane, b.regionPc, b.regionCnt)) }

/-- The oldest faulted access of each lane, lanes ascending. -/
def faultsOf (s : State) (team warp : Nat) : List Access :=
  (List.range 32).filterMap (fun k =>
    s.accs.find? (fun a => a.team == team && a.warp == warp && a.lane == k && a.fault.isSome))

/-- Faults that have come in when the warp enters a handler for another cause: those of one cause are held pending (R302),
and every other faulting lane stands at its region entry, where its access is made again. (DEDUCED, log entry 12.) -/
def holdLate (s : State) (uid wi : Nat) : State :=
  let fs := faultsOf s uid wi
  let rest (s : State) : State :=
    { s with accs := s.accs.filter (fun a => !(a.team == uid && a.warp == wi && fs.any (fun b => b.lane == a.lane))) }
  match fs.find? (fun a => !savedFault s a) with
  | none => rest (fs.foldl toRegion s)
  | some a =>
    rest (((fs.filter (fun b => b.fault != a.fault)).foldl toRegion s).modWarp uid wi (fun w =>
      { w with pend := w.pend ++ [lateTrap fs a] }))

/-- The lanes of a late region fault stand at the region entries that their accesses carried, R368. -/
def toEntries (ti : TrapInfo) (w : Warp) : Warp :=
  if ti.kind = 1 then
    ti.regions.foldl (fun w r => w.modLane r.1 (fun l => if l.live then { l with pc := r.2.1 } else l)) w
  else w

/-- The entry of R300 into one of the two frames. (DEDUCED, log entry 55.) -/
def enterFrame (s : State) (uid wi : Nat) (ti : TrapInfo) (sup : Bool) : State :=
  let s := (holdLate (withdraw (countWaits s uid wi) uid wi) uid wi).modWarp uid wi (toEntries ti)
  match s.team? uid, s.warp? uid wi with
  | some t, some w =>
    let c := s.ctx? t.space
    let f := slotOff t wi + (if sup then 0x40 else 0)
    let vec : Pc := ((c.map (fun (c : Context) => if sup then c.svec else c.uvec)).getD 0).setWidth 56
    let regions := if ti.kind = 1 then ti.regions
      else (slotsOf ti.lanes).map (fun k =>
        (k, ((w.lanes[k]?).map (·.regionPc)).getD 0, ((w.lanes[k]?).map (·.regionCnt)).getD 0))
    let s := match ti.op with
      | some o => s.modOp o (fun x => { x with handler := some wi })
      | none => s
    let s := saveWrite s t.space f (trapFrame s t w ti sup)
    let s := saveWrite s t.space (slotOff t wi + 0x80) (regionTable regions)
    let s := saveWrite s t.space (slotOff t wi + 0x280) (trapLaneTable w)
    s.modWarp uid wi (fun w =>
      { w with
        sup := sup
        sbusy := w.sbusy || sup
        ubusy := w.ubusy || !sup
        s := (w.wrS 63 (BitVec.ofNat 32 f)).s
        stack := []
        epoch := w.epoch + 1
        lanes := w.lanes.map (vectorLane vec s.cycle) })
  | _, _ => s

/-- Routing (R300) and double traps (R302). A trap waits for what R301 names: a precise one in `trap`, any other among
those held pending, which also wait while SBUSY = 1. (DEDUCED, log entries 12 and 36.) -/
def takeTrap (s : State) (uid wi : Nat) (ti : TrapInfo) : State :=
  match s.team? uid, s.warp? uid wi with
  | some t, some w =>
    let uvec := ((s.ctx? t.space).map (·.uvec)).getD 0
    if ti.kind != 0 && (w.sbusy || mustWait s uid wi) then
      s.modWarp uid wi (fun w => { w with pend := w.pend ++ [ti] })
    else if mustWait s uid wi then s.modWarp uid wi (fun w => { w with trap := some ti })
    else if userTrap ti.cause && uvec != 0 && !w.sup then
      if w.ubusy then enterFrame s uid wi { ti with cause := cDOUBLE, sub := ti.cause } true
      else enterFrame s uid wi ti false
    else if w.sbusy then stopContext s t.space cDOUBLE ti.cause ti.ia t.frameF w.ctx
    else enterFrame s uid wi ti true
  | _, _ => s

/-- A trap of an instruction, or a late fault: inside an active TRY it is not delivered (R192). -/
def raiseTrap (s : State) (uid wi : Nat) (ti : TrapInfo) : State :=
  match s.warp? uid wi with
  | some w =>
    if 0 < w.tx.depth && ti.cause != cSTEP && ti.cause != cTIMER then abortTry s uid wi 4 ti.cause.toNat ti.sub.toNat
    else takeTrap s uid wi ti
  | none => s

/-! ### Return from a trap, R312 -/

/-- ERET's effect for one warp: SUP selects the frame; s63 and the PCs come from the save area. Lanes that a handler's REFORM
filed leave their bins, and the lanes that issued it count it (R186). (DEDUCED, log entry 55.) -/
def returnFrom (s : State) (uid wi : Nat) (act : List Nat) : State :=
  let s := unfile s uid wi
  match s.team? uid, s.warp? uid wi with
  | some t, some w =>
    let f := slotOff t wi + (if w.sup then 0x40 else 0)
    let r := saveRead s t.core t.desc.fused t.space (f + 0x38) 4
    let q := saveRead r.1 t.core t.desc.fused t.space (slotOff t wi + 0x280) 256
    let pcOf (k : Nat) : Pc := BitVec.ofNat 56 (leNat (q.2.drop (8 * k) |>.take 7))
    q.1.modWarp uid wi (fun w => relock
      { w with
        sbusy := w.sbusy && !w.sup
        ubusy := w.ubusy && w.sup
        sup := false
        epoch := w.epoch + 1
        s := (w.wrS 63 (BitVec.ofNat 32 (leNat r.2))).s
        lanes := w.lanes.zipIdx.map (fun x =>
          if x.1.st == .exited then x.1
          else { x.1.dropLatches with
            pc := pcOf x.2, st := .ready, wait := .retry, since := s.cycle, stepped := false, stepWait := false
            regionCnt := if act.contains x.2 then x.1.regionCnt + 1 else x.1.regionCnt }) })
  | _, _ => s

/-! ### Results of the lanes of an issue group -/

/-- What a lane's instruction writes when it completes; `pc` is absent when the lane goes on to the next
instruction. `upd` is what it does to the lane beside its registers. -/
structure Eff where
  regs : List (Reg × Word) := []
  latch : Option (Fin 4 × Word) := none
  preds : List (Fin 8 × Bool) := []
  pc : Option Pc := none
  upd : Lane → Lane := id
  /-- it issues with effect for the lane, so that the region counter counts it (R186) -/
  count : Bool := true

inductive LaneRes
  /-- the instruction completes for the lane -/
  | done (e : Eff)
  /-- it traps; `after` for TRAP and BRK, which count and resume after themselves (R186, R366) -/
  | trap (cause sub : Byte) (va ia : DWord) (after : Bool)
  /-- it waits -/
  | wait (w : Wait)
  /-- the lane stands where it stood, or has been moved by a rollback -/
  | stay

/-- The effect of a lane that completes. -/
def LaneRes.eff? : LaneRes → Option Eff | .done e => some e | _ => none
/-- It goes on after the instruction: completed, or trapped after it. -/
def LaneRes.passed : LaneRes → Bool | .done _ => true | .trap _ _ _ _ after => after | _ => false
/-- Cause, subcode, VA and IA of a lane that traps. -/
def LaneRes.trap? : LaneRes → Option (Byte × Byte × DWord × DWord) | .trap c sub va ia _ => some (c, sub, va, ia) | _ => none
def ill (x : Ill) : LaneRes := .trap cILLOP (illCode x) 0 0 false
def trapped (c sub : Byte) : LaneRes := .trap c sub 0 0 false

/-- A lane with what its instruction sees: the state of its warp before any lane of the group writes. -/
structure Lc where
  is : Issue
  tm : Team
  wi : Nat
  w : Warp
  slot : Nat
  l : Lane
  /-- active slots of the warp in the group, ascending -/
  act : List Nat

def Lc.src (c : Lc) (r : Src) : Word := readSrc c.w c.l r
def Lc.srcI (c : Lc) (r : SrcI) : Word := readSrcI c.w c.l r
def Lc.pair (c : Lc) (r : Src) : DWord := readPair c.w c.l r
def Lc.next (c : Lc) : Pc := c.is.pc + BitVec.ofNat 56 c.is.len
/-- The target of a displacement, R154. -/
def Lc.target (c : Lc) (disp : Word) : Pc := c.is.pc + 4 * disp.signExtend 56
def Lc.space (c : Lc) : Nat := c.tm.space

/-- Dst of R12 and R46. -/
def dst1 (h : Hdr) (d : Reg) (x : Word) : Eff :=
  { regs := if h.nw then [] else [(d, x)], latch := h.latch.map (fun b => (b, x)) }
/-- n consecutive registers, R149. -/
def dstN (h : Hdr) (d : Reg) (n : Nat) (x : Nat) : Eff :=
  { regs := if h.nw then [] else (List.range n).map (fun k => (regAfter d k, BitVec.ofNat 32 (x / 2 ^ (32 * k)))) }
def dst2 (h : Hdr) (d : Reg) (x : DWord) : Eff := dstN h d 2 x.toNat
def dstP (h : Hdr) (p : Fin 8) (b : Bool) : Eff := { preds := if h.nw then [] else [(p, b)] }

/-- One register written, of the lane or of the warp. -/
def Lane.put (l : Lane) (r : Reg × Word) : Lane := match r.1 with | .v n => l.wrV n.val r.2 | .s _ => l
def Warp.put (w : Warp) (r : Reg × Word) : Warp := match r.1 with | .s n => w.wrS n.val r.2 | .v _ => w
def Lane.putP (l : Lane) (p : Fin 8 × Bool) : Lane := l.wrP p.1 p.2
def Lane.putBp (l : Lane) (b : Option (Fin 4 × Word)) : Lane :=
  match b with | some x => { l with bp := l.bp.set x.1 (some x.2) } | none => l

/-- Registers and predicates of one lane; s-registers are the warp's. -/
def effLane (e : Eff) (l : Lane) : Lane := ((e.preds.foldl Lane.putP (e.regs.foldl Lane.put l))).putBp e.latch
def effWarp (e : Eff) (w : Warp) : Warp := e.regs.foldl Warp.put w

def Eff.writesS (e : Eff) : Bool := e.regs.any (fun r => r.1.isS)

/-- A wait whose instruction is tried afresh. (DEDUCED, log entry 11.) -/
def polled : Wait → Bool
  | .retry | .result | .tile _ | .phase | .spawn | .leave _ => true
  | _ => false

/-- One lane after the instruction: R17, R48, R186. -/
def commitLane (is : Issue) (now : Nat) (r : LaneRes) (l : Lane) : Lane :=
  match r with
  | .done e =>
    let l := effLane e l
    let l := { l with
      pc := e.pc.getD (is.pc + BitVec.ofNat 56 is.len)
      regionCnt := if e.count then l.regionCnt + 1 else l.regionCnt
      group := is.id, groupN := is.lanes.length, st := .ready, wait := .retry, since := now }
    e.upd l
  | .trap _ _ _ _ after =>
    if after then { l with
      pc := is.pc + BitVec.ofNat 56 is.len, regionCnt := l.regionCnt + 1, st := .ready, wait := .retry, since := now }
    else { l with st := .ready, wait := .retry, since := now }
  | .wait w =>
    let l := if polled w then l else { l with group := is.id, groupN := is.lanes.length }
    { l with st := .blocked, wait := w, since := if l.st == .blocked && l.wait == w then l.since else now }
  | .stay => l

def resOf (rs : List ((Nat × Nat) × LaneRes)) (wi slot : Nat) : LaneRes :=
  match rs.find? (fun r => r.1 == (wi, slot)) with
  | some r => r.2
  | none => .stay

/-- What an outstanding result of a lane no longer writes once a later instruction of the lane, or for s-registers of the
warp, has written the same registers and latch: words, and the latch (R46, R52, R223). -/
def overtaken (uid wi slot : Nat) (rs : List Reg) (latch : Option (Fin 4)) (team warp lane : Nat)
    (dst : Option (Reg × Nat)) (dead : BitVec 4) (lt : Option (Fin 4)) : BitVec 4 × Option (Fin 4) :=
  if team == uid && warp == wi then
    let mine := lane == slot
    (match dst with
     | some (d, _) => if mine || d.isS then dead ||| wordsIn dst rs else dead
     | none => dead,
     if mine && lt.isSome && lt == latch then none else lt)
  else (dead, lt)

/-- Registers and the latch that the instruction writes take the later value: what is still outstanding no longer writes
them. -/
def overtake (s : State) (uid wi slot : Nat) (rs : List Reg) (latch : Option (Fin 4)) : State :=
  if rs.isEmpty && latch.isNone then s
  else
    let f := overtaken uid wi slot rs latch
    { s with
      accs := s.accs.map (fun a =>
        let r := f a.team a.warp a.lane a.dst a.dead a.latch
        { a with dead := r.1, latch := r.2 })
      results := s.results.map (fun a =>
        let r := f a.team a.warp a.lane a.dst a.dead a.latch
        { a with dead := r.1, latch := r.2 })
      ops := s.ops.map (fun a =>
        let r := f a.team a.warp a.lane a.dst a.dead a.latch
        { a with dead := r.1, latch := r.2 }) }

/-- The registers of an effect. -/
def Eff.written (e : Eff) : List Reg := e.regs.map (·.1)

/-- The s-registers of a warp after the writes of its lowest lane that writes one, R51, and the mark of R52, which a write to s0
sets too, though R43 discards it. Where the lowest active lane traps or waits, the value is that of the lowest lane that
completes. (DESIGN CHOICE, log entry 65.) -/
def commitS (is : Issue) (e : Option Eff) (wi : Nat) (w : Warp) : Warp :=
  match e with
  | some e =>
    let whole := w.slots.all (fun x => !x.2.live || is.lanes.contains (wi, x.1))
    let w := effWarp e w
    { w with uconflict := w.uconflict || !whole }
  | none => w

/-- R385: whether the lane has issued in user mode since it last stopped, which an instruction that traps does not count
(R386), and has passed its breakpoint; one that waits has issued when its instruction has. -/
def passLane (sup : Bool) (r : LaneRes) (l : Lane) : Lane :=
  if sup then l
  else if r.passed then { l with stepped := l.stepped || r.trap?.isNone, bpPass := none }
  else match r with
    | .wait x => if polled x then l else { l with stepWait := true, bpPass := none }
    | _ => l

/-- The warp's lanes and its s-registers: R51 and R52 let the lowest lane's value stand, and mark a write by a
group that does not hold every live lane. -/
def commitWarp (is : Issue) (now : Nat) (rs : List ((Nat × Nat) × LaneRes)) (wi : Nat) (w : Warp) : Warp :=
  let mine := rs.filter (fun r => r.1.1 == wi)
  if mine.isEmpty then w
  else
    relock { commitS is ((mine.filterMap (fun r => r.2.eff?)).find? Eff.writesS) wi w with
      lanes := w.lanes.zipIdx.map (fun x => passLane w.sup (resOf rs wi x.2) (commitLane is now (resOf rs wi x.2) x.1)) }

/-- The trap of one warp: the lowest trapping slot decides, and the lanes with its cause and subcode share it;
another cause traps again later (R299). -/
def warpTrap (is : Issue) (mine : List (Nat × LaneRes)) : Option TrapInfo :=
  match mine.findSome? (fun r => r.2.trap?) with
  | none => none
  | some (c, sub, va, ia) =>
    let same (r : LaneRes) : Bool := match r.trap? with | some x => x.1 == c && x.2.1 == sub | none => false
    some { cause := c, sub, kind := 0, lanes := maskOf ((mine.filter (fun r => same r.2)).map (·.1)), pc := is.pc
           ilen := ilenOf is.len, insn := is.bits, va, ia, tile := 0, regions := [] }

/-- The traps of a group's warps, in the group's order. -/
def trapWarps (is : Issue) (rs : List ((Nat × Nat) × LaneRes)) (s : State) : State :=
  ((rs.map (fun r => r.1.1)).eraseDups).foldl (fun s wi =>
    match warpTrap is ((rs.filter (fun r => r.1.1 == wi)).map (fun r => (r.1.2, r.2))) with
    | some ti => raiseTrap s is.team wi ti
    | none => s) s

/-- The results of a group's lanes take effect. -/
def commit (s : State) (is : Issue) (rs : List ((Nat × Nat) × LaneRes)) : State :=
  let s := rs.foldl (fun s r =>
    match r.2.eff? with
    | some e => overtake s is.team r.1.1 r.1.2 e.written (e.latch.map (·.1))
    | none => s) s
  let s := s.modTeam is.team (fun t =>
    { t with warps := t.warps.zipIdx.map (fun x => commitWarp is s.cycle rs x.2 x.1) })
  trapWarps is rs { s with cur := none }

/-! ### Issuing -/

/-- R48: latches survive only from one instruction to the next of one and the same set of lanes. -/
def sameGroup (t : Team) (lanes : List (Nat × Nat)) : Bool :=
  match lanes with
  | [] => true
  | x :: _ =>
    match (t.warps[x.1]?).bind (fun w => w.lanes[x.2]?) with
    | none => false
    | some l0 =>
      l0.group != 0 && l0.groupN == lanes.length &&
      lanes.all (fun k => match (t.warps[k.1]?).bind (fun w => w.lanes[k.2]?) with
        | some l => l.group == l0.group | none => false)

/-- The guard of a lane of the group holds (R11). -/
def guarded (t : Team) (h : Hdr) (k : Nat × Nat) : Bool :=
  match (t.warps[k.1]?).bind (fun w => w.lanes[k.2]?) with | some l => guardHolds l h.g | none => false

/-- The lane context of a member of the group. -/
def laneCtx (t : Team) (is : Issue) (act : List (Nat × Nat)) (x : Nat × Nat) : Option Lc :=
  match t.warps[x.1]? with
  | none => none
  | some w =>
    match w.lanes[x.2]? with
    | none => none
    | some l => some { is, tm := t, wi := x.1, w, slot := x.2, l, act := (act.filter (fun a => a.1 == x.1)).map (·.2) }

/-- What the checks after step 8 answer for one active lane; `pre` is the entry's own check, STALE is last
(R161). -/
def issueCheck (i : Instr) (h : Hdr) (pre : Lc → Option LaneRes) (c : Lc) : Option LaneRes :=
  let x := info i
  if x.quiet then none
  else match operandIll c.tm.desc.win h x with
  | some e => some (ill e)
  | none =>
    if (match x.role with | some r => c.w.role != r | none => false) then some (trapped cROLE 0)
    else match pre c with
    | some r => some r
    | none => if staleSrc c.l x then some (trapped cSTALE 0) else none

/-- What holds a group back: a turn or a gate of an access not yet sent, or else a result that it needs. -/
def holdWait (s : State) (uid : Nat) (lanes : List (Nat × Nat)) : Wait :=
  if s.accs.any (fun a => a.team == uid && a.unsent && lanes.contains (a.warp, a.lane)) then .retry else .result

/-- The lanes of a group that a result or an access of one of them holds back: the whole group is BLOCKED, so that what it issues
does not depend on the order in which results come (R18, R343). (DEDUCED, log entry 72.) -/
def holdGroup (s : State) (is : Issue) : State :=
  is.lanes.foldl (fun s' k => s'.modLane is.team k.1 k.2 (fun l =>
    { l with
      st := .blocked, wait := holdWait s is.team is.lanes
      since := if l.st == .blocked then l.since else s.cycle })) s

/-- The lanes of the group, with their latches as R48 leaves them; none when it is held back. -/
def takeGroup (s : State) (is : Issue) (x : Info) : State × List (Nat × Nat) :=
  if is.lanes.any (fun k => gated s is.team k.1 k.2 x) then (holdGroup s is, [])
  else match s.team? is.team with
  | none => (s, is.lanes)
  | some t =>
    if sameGroup t is.lanes then (s, is.lanes)
    else (is.lanes.foldl (fun s k => s.modLane is.team k.1 k.2 (fun l => { l with bp := noLatches })) s, is.lanes)

/-- LDW or STW to a register of another warp, R192: its address names another warp context. -/
def Lc.foreign (c : Lc) (i : Instr) : Bool :=
  match i with
  | .ldw _ _ ad | .stw _ ad _ =>
    let wa : Int := (c.src ad.base).toNat + (ad.off.getD 0).toInt
    !staleSrc c.l { srcs := [(ad.base, 1)] } && 0 ≤ wa && wa < 0x200000 && wa.toNat / 0x8000 != c.w.ctx
  | _ => false

/-- The code with which an instruction aborts an active TRY for a lane, R192. -/
def txCode (i : Instr) (c : Lc) : Option Nat := if c.foreign i then some 7 else (info i).tx

/-- Warps of the group in an active TRY that the instruction aborts (R192); their lanes go no further. -/
def txAborts (i : Instr) (s : State) (cs : List Lc) : State × List Nat :=
  ((cs.filter (fun c => 0 < c.w.tx.depth)).filterMap (fun c => (txCode i c).map (fun k => (c, k)))).foldl (fun r x =>
    if r.2.contains x.1.wi then r else (abortTry r.1 x.1.is.team x.1.wi x.2 0 0, x.1.wi :: r.2)) (s, [])

/-- R49: when one active lane's latch is invalid, no lane writes. -/
def staleStop (chk : List ((Nat × Nat) × Option LaneRes)) : Bool :=
  chk.any (fun r => match r.2.bind LaneRes.trap? with | some x => x.1 == cSTALE | none => false)

/-- The warp has been neither rolled back nor sent elsewhere since its results were computed. -/
def untouched (t : Team) (s : State) (wi : Nat) : Bool :=
  (t.warps[wi]?).map (·.epoch) == (s.warp? t.uid wi).map (·.epoch)

/-- Lanes whose instruction itself moved their warp have issued, R385. -/
def stepMoved (t : Team) (rs : List ((Nat × Nat) × LaneRes)) (s : State) : State :=
  rs.foldl (fun s r =>
    if untouched t s r.1.1 || ((t.warps[r.1.1]?).map (·.sup)).getD true then s
    else s.modLane t.uid r.1.1 r.1.2 (fun l => { l with stepped := l.live })) s

/-- The common course of an instruction: waits, guards, an active TRY, the checks, then `body` on the lanes
that pass them, and the results. -/
def issueWith (i : Instr) (h : Hdr) (s0 : State) (pre : State → Lc → Option LaneRes)
    (body : State → List Lc → State × List ((Nat × Nat) × LaneRes)) : State :=
  match s0.cur with
  | none => s0
  | some is0 =>
    let r := takeGroup s0 is0 (info i)
    let is := { is0 with lanes := r.2 }
    match r.1.team? is.team with
    | none => { r.1 with cur := none }
    | some t =>
      let act := r.2.filter (guarded t h)
      let idle := (r.2.filter (fun k => !act.contains k)).map (fun k => (k, LaneRes.done { count := false }))
      let all := act.filterMap (laneCtx t is act)
      let q := txAborts i r.1 all
      let lcs := all.filter (fun c => !q.2.contains c.wi)
      let idle := idle.filter (fun k => !q.2.contains k.1.1)
      let gone := (all.filter (fun c => q.2.contains c.wi)).map (fun c => ((c.wi, c.slot), LaneRes.stay))
      let chk := lcs.map (fun c => ((c.wi, c.slot), issueCheck i h (pre q.1) c))
      let stop := staleStop chk
      let bad := chk.filterMap (fun r => r.2.map (fun x => (r.1, x)))
      let ok := lcs.filter (fun c => !bad.any (fun b => b.1 == (c.wi, c.slot)))
      if stop then commit (stepMoved t gone q.1) is (bad ++ ok.map (fun c => ((c.wi, c.slot), LaneRes.stay)) ++ idle)
      else
        let b := body q.1 ok
        commit (stepMoved t (gone ++ b.2) b.1) is ((bad ++ b.2 ++ idle).filter (fun r => untouched t b.1 r.1.1))

/-- Each active lane in ascending order, as long as its warp has not been rolled back; every lane reads the registers of the
state before the instruction. -/
def foldLanes (f : State → Lc → State × LaneRes) (s : State) (cs : List Lc) : State × List ((Nat × Nat) × LaneRes) :=
  cs.foldl (fun acc c =>
    if untouched c.tm acc.1 c.wi then
      let r := f acc.1 c
      (r.1, acc.2 ++ [((c.wi, c.slot), r.2)])
    else acc) (s, [])

/-- Every lane of the group reads before any lane acts on what it has read (R10). -/
def readThenAct {α : Type} (read : State → Lc → State × α) (act : State → Lc → α → State × LaneRes) (s : State)
    (cs : List Lc) : State × List ((Nat × Nat) × LaneRes) :=
  let r := cs.foldl (fun acc c =>
    if untouched c.tm acc.1 c.wi then
      let r := read acc.1 c
      (r.1, acc.2 ++ [(c, r.2)])
    else acc) (s, [])
  r.2.foldl (fun acc x =>
    if untouched x.1.tm acc.1 x.1.wi then
      let r := act acc.1 x.1 x.2
      (r.1, acc.2 ++ [((x.1.wi, x.1.slot), r.2)])
    else acc) (r.1, [])

/-- Each warp once, with its lowest active lane's operands; the result is that of all its active lanes. -/
def foldWarps (f : State → Lc → State × LaneRes) (s : State) (cs : List Lc) : State × List ((Nat × Nat) × LaneRes) :=
  ((cs.map (·.wi)).eraseDups).foldl (fun acc wi =>
    match cs.filter (fun c => c.wi == wi) with
    | [] => acc
    | c :: rest =>
      if untouched c.tm acc.1 wi then
        let r := f acc.1 c
        (r.1, acc.2 ++ (c :: rest).map (fun d => ((d.wi, d.slot), r.2)))
      else acc) (s, [])

/-- A computation on registers alone (R197). -/
def pureLanes (i : Instr) (h : Hdr) (s : State) (f : Lc → LaneRes) : Host.Outcome State Fault Refusal :=
  finish (issueWith i h s (fun _ _ => none) (foldLanes (fun s c => (s, f c))))

/-- An instruction that acts for each active lane, in ascending warp and slot order. -/
def perLane (i : Instr) (h : Hdr) (s : State) (f : State → Lc → State × LaneRes) : Host.Outcome State Fault Refusal :=
  finish (issueWith i h s (fun _ _ => none) (foldLanes f))

/-- An instruction whose lanes read memory or the scratchpad and then write there (R10). -/
def perLaneRead {α : Type} (i : Instr) (h : Hdr) (s : State) (read : State → Lc → State × α)
    (act : State → Lc → α → State × LaneRes) : Host.Outcome State Fault Refusal :=
  finish (issueWith i h s (fun _ _ => none) (readThenAct read act))

/-- An instruction that acts once for each warp, in ascending order (R235, R305). -/
def perWarp (i : Instr) (h : Hdr) (s : State) (pre : State → Lc → Option LaneRes)
    (f : State → Lc → State × LaneRes) : Host.Outcome State Fault Refusal :=
  finish (issueWith i h s pre (foldWarps f))

/-- An event that is not enabled does nothing. -/
def event (s : State) (f : State → State) : Host.Outcome State Fault Refusal := finish (f s)

end Sys2Proof.Machine
end

