-- ==== Sys2Proof/Machine/Fence.lean ====
section
/-! DEFINITION. Releases with their write-backs and the deferred write faults that these meet (R84, R88 to R90,
R371, R372), stamp records, debug events and store hashes (R386, R389, R390, R394), halting and retiring. -/

namespace Sys2Proof.Machine

/-! ### The debug block, R383, R384 -/

def Context.right (c : Context) : Bool := c.dbgctl.getLsbD 31
def Context.brkEn (c : Context) : Bool := c.dbgctl.getLsbD 30
def Context.bpEn (c : Context) : Bool := c.dbgctl.getLsbD 29
def Context.haltEv (c : Context) : Bool := c.dbgctl.getLsbD 28
def ctxRight (s : State) (space : Nat) : Bool := ((s.ctx? space).map Context.right).getD false

/-- The lanes of a warp that have just issued under STEP (R385). One that waits in the instruction counts when a stop halts the
warp; a trap of a step comes after the instruction. (DEDUCED, log entry 26.) -/
def stepLanes (s : State) (t : Team) (w : Warp) : List (Nat × Lane) :=
  let halts := ((s.ctx? t.space).map Context.haltEv).getD false
  if ctxRight s t.space && w.stepBit && !w.sup then
    w.slots.filter (fun x => x.2.live && (x.2.stepped || (x.2.stepWait && halts)))
  else []

/-- Offset of the debug block from SAVEBASE. -/
def Context.dblk (c : Context) : Option Nat :=
  let n := (c.dbgctl.extractLsb' 0 16).toNat
  if n = 0 then none else some (65536 * n)

/-- A number read from the save area as memory holds it. -/
def saveNat (s : State) (space off n : Nat) : State × Nat :=
  let r := saveRead s Config.cores false space off n
  (r.1, leNat r.2)

/-- One stamp record into the ring, or one drop, R390. -/
def stampRecord (s : State) (space : Nat) (bs : List Byte) : State :=
  match (s.ctx? space).bind Context.dblk with
  | none => s
  | some d =>
    let w := saveNat s space (d + 0x1200) 4
    let a := saveNat w.1 space (d + 0x1204) 4
    if (w.2 + 2 ^ 32 - a.2) % 2 ^ 32 < 896 then
      let s := saveWrite a.1 space (d + 0x2000 + 64 * (w.2 % 896)) bs
      saveWrite s space (d + 0x1200) (leBytes 4 (w.2 + 1))
    else
      let x := saveNat a.1 space (d + 0x1208) 4
      saveWrite x.1 space (d + 0x1208) (leBytes 4 (x.2 + 1))

/-- The record layout of R389. -/
def stampBytes (s : State) (t : Team) (kind warp tile : Nat) (fs : List Nat) : List Byte :=
  let node := ((s.inst? t.inst).map (·.node)).getD 0
  let r := s.teamRec? t
  leBytes 4 (kind * 2 ^ 28 + node % 4096 * 2 ^ 16 + warp * 2 ^ 10 + tile) ++ leBytes 4 t.t
  ++ (List.range 6).flatMap (fun k => leBytes 8 ((fs[k]?).getD 0))
  ++ leBytes 8 (((r.map (·.queue)).getD 0) % 1024 * 2 ^ 16 + ((r.map (fun r => r.idx.toNat)).getD 0) % 65536)

def stamp (s : State) (t : Team) (kind warp tile : Nat) (fs : List Nat) : State :=
  stampRecord s t.space (stampBytes s t kind warp tile fs)

/-! ### The hash of a warp, R394 -/

def warpHash (w : Warp) : DWord := crcBytes 0 (w.lanes.flatMap (fun l => leBytes 8 l.crc.toNat))
def warpStores (w : Warp) : Nat := w.lanes.foldl (fun n l => n + l.stores.toNat) 0

/-! ### Halting, R17, R385 -/

/-- A HALTED lane keeps the cycles that it had waited, which alone R27 counts. -/
def haltLane (now : Nat) (l : Lane) : Lane :=
  if l.st == .exited || l.st == .halted then l
  else { l.dropLatches with held := l.st, st := .halted, since := now - l.since }
/-- The whole warp becomes HALTED; a halt stops the warp (R37). -/
def haltWarp (now : Nat) (w : Warp) : Warp := { w with st := .stopped, lanes := w.lanes.map (haltLane now) }
/-- A debug stop: it holds the warp until RESUME or a revocation. -/
def debugHalt (now : Nat) (w : Warp) : Warp := { haltWarp now w with dbgHalt := true }
def resumeLane (now : Nat) (l : Lane) : Lane :=
  if l.st == .halted then { l.dropLatches with st := l.held, since := now - l.since } else l
def resumeWarp (now : Nat) (w : Warp) : Warp :=
  { w with st := if w.st == .stopped then .live else w.st, lanes := w.lanes.map (resumeLane now) }

/-! ### Retiring, R36 to R38 -/

/-- Warps whose last lane has exited are free again and leave a HASH record; a team without a live warp is
ENDING. Faults held for a retired warp go to the lowest live warp of the team; an engine fault that finds none stops the
context (R370). -/
def retireWarps (s : State) (uid : Nat) : State :=
  match s.team? uid with
  | none => s
  | some t =>
    let done := t.warps.zipIdx.filter (fun x => x.1.st != .free && !x.1.lanes.any (fun l => l.live))
    if done.isEmpty then s
    else
      let s := done.foldl (fun s x => stamp s t 4 x.2 0 [(warpHash x.1).toNat, warpStores x.1]) s
      let held := done.flatMap (fun x => x.1.pend)
      let s := done.foldl (fun s x => s.modWarp uid x.2 (fun w =>
        { w with st := .free, trap := none, pend := [], tx := TryState.none, stack := [], armed := false, fired := false })) s
      let gone (w : Nat) : Bool := done.any (fun x => x.2 == w)
      let orphan (o : EngOp) : EngOp := if o.team == uid && gone o.warp then { o with dst := none, latch := none } else o
      let s := { s with
        results := s.results.filter (fun r => !(r.team == uid && gone r.warp))
        ops := s.ops.map orphan }
      let heir := t.warps.zipIdx.find? (fun x => x.1.st == .live && x.1.lanes.any (fun l => l.live))
      let s := s.modTeam uid (fun t =>
        if t.st == .running && !t.warps.any (fun w => w.st != .free) then { t with st := .ending } else t)
      match heir with
      | some x => s.modWarp uid x.2 (fun w => { w with pend := w.pend ++ held })
      | none =>
        match held.find? (fun (ti : TrapInfo) => ti.kind == 3) with
        | some ti => stopContext s t.space ti.cause ti.sub ti.ia t.frameF 0
        | none => s

/-! ### Deferred write faults, R371, R372 -/

/-- The first free entry of the deferred-write log. -/
def freeLogEntry (s : State) (space : Nat) : State × Option Nat :=
  (List.range 64).foldl (fun r k =>
    match r.2 with
    | some _ => r
    | none =>
      let x := saveNat r.1 space (0x100 + 256 * k) 4
      (x.1, if x.2 = 0 then some k else none)) (s, none)

/-- Data and mask of a dirty line. -/
def lineData (ds : List DirtyByte) : List Byte :=
  (List.range 128).map (fun k => ((ds.find? (fun d => d.ia % 128 == k)).map (·.val)).getD 0)
def lineMask (ds : List DirtyByte) : Nat :=
  (List.range 128).foldl (fun m k => if ds.any (fun d => d.ia % 128 == k) then m + 2 ^ k else m) 0

/-- The live warps of a context but one become STOPPED, their lanes HALTED (R17, R372). -/
def stopOthers (s : State) (space uid wi : Nat) : State :=
  { s with teams := s.teams.map (fun t =>
      if t.space == space && t.st == .running then
        { t with warps := t.warps.zipIdx.map (fun x =>
            if x.1.st == .live && !(t.uid == uid && x.2 == wi) then haltWarp s.cycle x.1 else x.1) }
      else t) }

/-- A rejected line goes into its owner's log, and the attributed warp traps to SVEC; without a fence, or
without a free entry, the context stops. -/
def deferLine (s : State) (x : Nat × Nat × Nat) (sub : Byte) (at_ : Option FenceAt) : State :=
  let space := x.2.1
  let ds := s.l1.filter (fun d => d.core == x.1 && d.space == space && d.ia / 128 == x.2.2)
  let ia := x.2.2 * 128
  let s := dropDirty s space ia 128 (fun c => c == x.1)
  let tm := at_.bind (fun a => s.team? a.team)
  let f := (tm.map (·.frameF)).getD 0
  let wc := ((at_.bind (fun a => s.warp? a.team a.warp)).map (·.ctx)).getD 0
  let r := freeLogEntry s space
  match r.2 with
  | none =>
    let s := r.1.modCtx space (fun c => { c with faultBuf := c.faultBuf ++ [(ia, lineMask ds, memPut [] 0 (lineData ds))] })
    stopContext s space cXLATE sub (BitVec.ofNat 64 ia) f wc
  | some k =>
    let off := 0x100 + 256 * k
    let s := saveWrite r.1 space off
      (leBytes 4 1 ++ leBytes 4 (space % 65536) ++ leBytes 8 ia
        ++ leBytes 8 ((at_.map (fun a => a.pc.toNat)).getD 0) ++ leBytes 4 f ++ leBytes 4 wc ++ leBytes 16 (lineMask ds))
    let s := saveWrite s space (off + 0x80) (lineData ds)
    match at_ with
    | none => stopContext s space cXLATE sub (BitVec.ofNat 64 ia) f wc
    | some a =>
      let s := stopOthers s space a.team a.warp
      let s := s.modCtx space (fun c => { c with defer := some a })
      let va := ((s.ctx? space).map (fun c => c.savebase + BitVec.ofNat 64 off)).getD 0
      takeTrap s a.team a.warp
        { cause := cXLATE, sub, kind := 2, lanes := maskOf a.lanes, pc := a.pc, ilen := ilenOf a.len, insn := a.bits
          va, ia := BitVec.ofNat 64 ia, tile := 0, regions := [] }

/-- IA of a log entry. -/
def entryIa (s : State) (space k : Nat) : State × Nat := saveNat s space (0x100 + 256 * k + 8) 8

/-- A log entry written through the mapping in force, or the subcode with which it faults again; the replay has waited for an
unfreeze (`replayFrozen`). -/
def replayEntry (s : State) (space k : Nat) : State × Option Byte :=
  let off := 0x100 + 256 * k
  let ia := entryIa s space k
  let mask := saveNat ia.1 space (off + 0x20) 16
  let data := saveRead mask.1 Config.cores false space (off + 0x80) 128
  match translate data.1 space ia.2 .store false with
  | (s, .ok t) =>
    let s := (List.range 128).foldl (fun s j =>
      if mask.2 / 2 ^ j % 2 = 1 then
        conflicts (pwrite s (ownerKey s space t.leaf) (t.pa + j) [(data.2[j]?).getD 0]) none (fun _ => true) space (ia.2 + j) 1
          (t.pa + j)
      else s) s
    (saveWrite s space off (leBytes 4 2), none)
  | (s, .fail sub) => (s, some sub)
  | (s, .frozen _) => (s, none)

/-- Held entries of the log. -/
def heldEntries (s : State) (space : Nat) : List Nat :=
  (List.range 64).filter (fun k => (saveNat s space (0x100 + 256 * k) 4).2 = 1)

/-- A held entry's page stands frozen: the replay waits (R356). -/
def replayFrozen (s : State) (space : Nat) : Bool :=
  (heldEntries s space).any (fun k => freezes s (translate s space (entryIa s space k).2 .store false))

/-- Every held entry in log order, up to the first that faults again. -/
def replayLog (s : State) (space : Nat) : State × Option (Nat × Byte) :=
  (heldEntries s space).foldl (fun r k =>
    match r.2 with
    | some _ => r
    | none =>
      match replayEntry r.1 space k with
      | (s, none) => (s, none)
      | (s, some sub) => (s, some (k, sub))) (s, none)

/-- The replay that follows the attributed warp's ERET: the stopped warps resume when it is complete; an entry
that faults again traps the warp again, as its fence did (an entry of another fence has ILEN 0 and so PC 0, R297). -/
def replayAfter (s : State) (space : Nat) (a : FenceAt) : State :=
  match replayLog s space with
  | (s, none) =>
    let s := s.modCtx space (fun c => { c with defer := none })
    { s with teams := s.teams.map (fun t =>
        if t.space == space && t.st == .running then { t with warps := t.warps.map (fun w =>
          if w.st == .stopped && !w.dbgHalt then resumeWarp s.cycle w else w) } else t) }
  | (s, some (k, sub)) =>
    let off := 0x100 + 256 * k
    let ia := entryIa s space k
    let pc := saveNat ia.1 space (off + 0x10) 8
    let own := pc.2 == a.pc.toNat
    takeTrap pc.1 a.team a.warp
      { cause := cXLATE, sub, kind := 2, lanes := maskOf a.lanes, pc := if own then a.pc else 0
        ilen := if own then ilenOf a.len else 0, insn := if own then a.bits else 0
        va := ((s.ctx? space).map (fun c => c.savebase + BitVec.ofNat 64 off)).getD 0
        ia := BitVec.ofNat 64 ia.2, tile := 0, regions := [] }

/-! ### Releases, R84, R89 -/

inductive RelRes | ok | wait | fault
deriving DecidableEq, Repr

/-- Writes back some dirty lines, each rejected one handled by `bad`. -/
def writeBackAll (s : State) (lines : List (Nat × Nat × Nat)) (bad : State × RelRes → (Nat × Nat × Nat) → Byte → State × RelRes) :
    State × RelRes :=
  lines.foldl (fun r x =>
    if r.2 == .fault then r
    else match writeBackLine r.1 x with
      | (s, .ok) => (s, r.2)
      | (s, .wait) => (s, .wait)
      | (s, .fail sub) => bad (s, r.2) x sub) (s, .ok)

/-- Writes back, for a release of a scope by a warp, the dirty lines of its address space that its core's L1,
or the fused L1, holds, and at .D and wider every line of its sector's slices (R69). A line behind a freeze makes the release
wait (R356); a rejected line is a deferred write fault attributed to it, one of another context's to no fence. An action of the
node's directories that a peer cannot take stops the context (R416). (DEDUCED, log entry 17.) -/
def release (s : State) (a : FenceAt) (scope : Scope) : State × RelRes :=
  match s.team? a.team with
  | none => (s, .ok)
  | some t =>
    let bad (r : State × RelRes) (x : Nat × Nat × Nat) (sub : Byte) : State × RelRes :=
      if x.2.1 == t.space then (deferLine r.1 x sub (some a), .fault) else (deferLine r.1 x sub none, r.2)
    let r := if writesBack t.desc.fused scope
      then writeBackAll s ((dirtyLines s (releaseCores t.core t.desc.fused)).filter (fun x => x.2.1 == t.space)) bad
      else (s, .ok)
    let r := if r.2 != .ok || !beyondSector scope then r
      else writeBackAll r.1 (dirtyLines r.1 [slicesOf (sectorOf t.core)]) bad
    if r.2 == .ok && peerMisses r.1 scope then ({ r.1 with lost := r.1.lost ++ [(t.space, 0)] }, .wait) else r

def Lc.fence (c : Lc) : FenceAt := ⟨c.is.team, c.wi, c.act, c.is.pc, c.is.len, c.is.bits⟩

/-- Every dirty line of some cores and of the slices of their sectors, with no fence to attribute a fault to: at a fork, an
instance's end, a MAPSYNC or an eviction (R371). False when a line waits. (DEDUCED, log entry 17.) -/
def flushCores (s : State) (cores : List Nat) (space : Nat) : State × Bool :=
  let flush (r : State × Bool) (holders : List Nat) : State × Bool :=
    ((dirtyLines r.1 holders).filter (fun x => x.2.1 == space)).foldl (fun r x =>
      match writeBackLine r.1 x with
      | (s, .ok) => (s, r.2)
      | (s, .wait) => (s, false)
      | (s, .fail sub) => (deferLine s x sub none, r.2)) r
  flush (flush (s, true) cores) ((cores.map (fun c => slicesOf (sectorOf c))).eraseDups)

end Sys2Proof.Machine
end

