-- ==== Sys2Proof/Machine/Num.lean ====
section
/-! DEFINITION. Exact values and the formats of R97 to R108: decoding a pattern, one rounding of an exact
value, and the sign and special-value rules of R98, R105 and R211. -/

namespace Sys2Proof.Machine

/-! ### Exact values -/

/-- A NaN, an infinity, or ± m · 2^e; a zero keeps its sign. -/
inductive Val
  | nan
  | inf (neg : Bool)
  | fin (neg : Bool) (m : Nat) (e : Int)
deriving DecidableEq, Repr

def Val.zero (neg : Bool) : Val := .fin neg 0 0
def Val.ofInt (x : Int) : Val := .fin (x < 0) x.natAbs 0

def Val.isNan : Val → Bool | .nan => true | _ => false
def Val.isInf : Val → Bool | .inf _ => true | _ => false
def Val.isZero : Val → Bool | .fin _ m _ => m == 0 | _ => false
def Val.negative : Val → Bool | .nan => false | .inf n => n | .fin n _ _ => n

def Val.neg : Val → Val | .nan => .nan | .inf n => .inf !n | .fin n m e => .fin (!n) m e
def Val.abs : Val → Val | .nan => .nan | .inf _ => .inf false | .fin _ m e => .fin false m e
def Val.scale (v : Val) (k : Int) : Val := match v with | .fin n m e => .fin n m (e + k) | x => x

/-- The value as an integer multiple of a power of two. -/
structure Dy where
  m : Int
  e : Int
deriving DecidableEq, Repr

def Dy.zero : Dy := ⟨0, 0⟩
def Dy.add (x y : Dy) : Dy :=
  if x.m = 0 then y else if y.m = 0 then x
  else
    let e := min x.e y.e
    ⟨x.m * 2 ^ (x.e - e).toNat + y.m * 2 ^ (y.e - e).toNat, e⟩
def Dy.neg (x : Dy) : Dy := ⟨-x.m, x.e⟩
def Dy.mul (x y : Dy) : Dy := ⟨x.m * y.m, x.e + y.e⟩
def Dy.toVal (x : Dy) : Val := .fin (x.m < 0) x.m.natAbs x.e
/-- The finite part of a value. -/
def Val.dy : Val → Dy
  | .fin n m e => ⟨if n then -(m : Int) else m, e⟩
  | _ => Dy.zero

/-- A product: ∞ × 0 is NaN, the sign is the exclusive or of the factors' (R211). -/
def Val.mul : Val → Val → Val
  | .nan, _ | _, .nan => .nan
  | .inf n, .inf k => .inf (n != k)
  | .inf n, .fin k m _ | .fin k m _, .inf n => if m = 0 then .nan else .inf (n != k)
  | .fin n m e, .fin k m' e' => .fin (n != k) (m * m') (e + e')

/-- The sum of some terms with the zero rule of R105: infinities of both signs give NaN; a zero sum of zeros of
one sign keeps it, any other zero sum is +0, or −0 under RD. -/
def sumTerms (rm : Rm) (ts : List Val) : Val :=
  if ts.any Val.isNan then .nan
  else if ts.any (fun t => t == .inf false) then (if ts.any (fun t => t == .inf true) then .nan else .inf false)
  else if ts.any (fun t => t == .inf true) then .inf true
  else
    let x := ts.foldl (fun acc t => acc.add t.dy) Dy.zero
    if x.m = 0 then
      if ts.all (fun t => t.isZero && t.negative) then .zero true
      else if ts.all (fun t => t.isZero && !t.negative) then .zero false
      else .zero (rm == .rd)
    else x.toVal

/-- R13: an exact zero rounds to +0 where the entry states no IEEE sign rules. -/
def Val.plusZero : Val → Val
  | .fin neg m e => .fin (neg && m != 0) m e
  | v => v

/-- The order of two values that are not NaN, −0 and +0 equal. -/
def Val.cmp (x y : Val) : Ordering :=
  match x, y with
  | .inf n, .inf k => if n == k then .eq else if n then .lt else .gt
  | .inf n, _ => if n then .lt else .gt
  | _, .inf k => if k then .gt else .lt
  | x, y =>
    let d := x.dy.add y.dy.neg
    if d.m < 0 then .lt else if d.m = 0 then .eq else .gt

/-! ### Rounding, R13 -/

/-- Whether the remainder r of a division by d pushes the quotient q away from zero. -/
def roundsUp (rm : Rm) (neg : Bool) (q r d : Nat) : Bool :=
  match rm with
  | .rn => d < 2 * r || (d == 2 * r && q % 2 == 1)
  | .rna => d ≤ 2 * r
  | .rz => false
  | .ru => 0 < r && !neg
  | .rd => 0 < r && neg

/-- n / d rounded to an integer. -/
def roundDiv (rm : Rm) (neg : Bool) (n d : Nat) : Nat :=
  n / d + (if roundsUp rm neg (n / d) (n % d) d then 1 else 0)

/-- (n / d) · 2^k as numerator and denominator. -/
def shiftFrac (n d : Nat) (k : Int) : Nat × Nat :=
  if 0 ≤ k then (n * 2 ^ k.toNat, d) else (n, d * 2 ^ (-k).toNat)

/-- m · 2^e rounded to an integer. -/
def roundInt (rm : Rm) (neg : Bool) (m : Nat) (e : Int) : Nat :=
  let x := shiftFrac m 1 e
  roundDiv rm neg x.1 x.2

/-! ### Formats, R97, R99 -/

/-- What the all-ones exponent means. -/
inductive Special | ieee | nanOnly | none
deriving DecidableEq, Repr

structure Fmt where
  ebits : Nat
  fbits : Nat
  bias : Nat
  special : Special
deriving DecidableEq, Repr

def fp32 : Fmt := ⟨8, 23, 127, .ieee⟩
def fp16 : Fmt := ⟨5, 10, 15, .ieee⟩
def bf16 : Fmt := ⟨8, 7, 127, .ieee⟩
def e4m3 : Fmt := ⟨4, 3, 7, .nanOnly⟩
def e5m2 : Fmt := ⟨5, 2, 15, .ieee⟩
def e3m2 : Fmt := ⟨3, 2, 3, .none⟩
def e2m3 : Fmt := ⟨2, 3, 1, .none⟩
def e2m1 : Fmt := ⟨2, 1, 1, .none⟩

def Fmt.width (f : Fmt) : Nat := 1 + f.ebits + f.fbits
/-- The pattern of the largest finite magnitude. -/
def Fmt.maxFin (f : Fmt) : Nat :=
  match f.special with
  | .ieee => (2 ^ f.ebits - 1) * 2 ^ f.fbits - 1
  | .nanOnly => 2 ^ (f.ebits + f.fbits) - 2
  | .none => 2 ^ (f.ebits + f.fbits) - 1
/-- The NaN that an instruction delivers, R98. -/
def Fmt.canonNan (f : Fmt) : Nat :=
  match f.special with
  | .ieee => (2 ^ f.ebits - 1) * 2 ^ f.fbits + 2 ^ (f.fbits - 1)
  | .nanOnly => 2 ^ (f.ebits + f.fbits) - 1
  | .none => 0
def Fmt.infPat (f : Fmt) : Nat := (2 ^ f.ebits - 1) * 2 ^ f.fbits
def Fmt.signed (f : Fmt) (neg : Bool) (x : Nat) : Nat := if neg then x + 2 ^ (f.ebits + f.fbits) else x

def Fmt.decode (f : Fmt) (x : Nat) : Val :=
  let neg := x / 2 ^ (f.ebits + f.fbits) % 2 = 1
  let e := x / 2 ^ f.fbits % 2 ^ f.ebits
  let m := x % 2 ^ f.fbits
  let fin : Val :=
    if e = 0 then .fin neg m (1 - (f.bias : Int) - f.fbits)
    else .fin neg (2 ^ f.fbits + m) ((e : Int) - f.bias - f.fbits)
  if e = 2 ^ f.ebits - 1 then
    match f.special with
    | .ieee => if m = 0 then .inf neg else .nan
    | .nanOnly => if m = 2 ^ f.fbits - 1 then .nan else fin
    | .none => fin
  else fin

/-- The exponent of the leading bit of (n / d) · 2^e, n and d not 0. -/
def leadExp (n d : Nat) (e : Int) : Int :=
  let l : Int := (Nat.log2 n : Int) - Nat.log2 d
  let x := shiftFrac n d (-l)
  (if x.1 < x.2 then l - 1 else l) + e

/-- The magnitude pattern of (n / d) · 2^e rounded once, with no bound on the exponent. -/
def Fmt.roundMag (f : Fmt) (rm : Rm) (neg : Bool) (n d : Nat) (e : Int) : Nat :=
  if n = 0 then 0
  else
    let top := max (leadExp n d e) (1 - (f.bias : Int))
    let x := shiftFrac n d (e - (top - f.fbits))
    (top + f.bias - 1).toNat * 2 ^ f.fbits + roundDiv rm neg x.1 x.2

/-- R13's overflow column. -/
def overflowsToInf (rm : Rm) (neg : Bool) : Bool :=
  match rm with | .rn | .rna => true | .rz => false | .ru => !neg | .rd => neg

/-- Overflow, R106: formats without an infinity, and .SAT, deliver the largest finite value. -/
def Fmt.overflow (f : Fmt) (rm : Rm) (sat neg : Bool) : Nat :=
  if f.special == .ieee && !sat && overflowsToInf rm neg then f.infPat else f.maxFin

/-- (n / d) · 2^e rounded once into a format, R106. A nonzero value that rounds to zero keeps its sign. (DESIGN CHOICE, log
entry 79.) -/
def Fmt.roundQ (f : Fmt) (rm : Rm) (sat neg : Bool) (n d : Nat) (e : Int) : Nat :=
  let x := f.roundMag rm neg n d e
  f.signed neg (if f.maxFin < x then f.overflow rm sat neg else x)

/-- A value converted into a format, R98, R106. -/
def Fmt.convert (f : Fmt) (rm : Rm) (sat : Bool) : Val → Nat
  | .nan => f.canonNan
  | .inf neg => f.signed neg (if f.special == .ieee && !sat then f.infPat else f.maxFin)
  | .fin neg m e => f.roundQ rm sat neg m 1 e
def Fmt.round (f : Fmt) (rm : Rm) (v : Val) : Nat := f.convert rm false v

/-! ### FP32 words -/

def f32 (x : Word) : Val := fp32.decode x.toNat
def toF32 (rm : Rm) (v : Val) : Word := BitVec.ofNat 32 (fp32.round rm v)
def canonNan32 : Word := 0x7FC00000

/-- SAT of R210, on a pattern of the format. -/
def Fmt.clamp01 (f : Fmt) (x : Nat) : Nat :=
  match f.decode x with
  | .nan => 0
  | v => if v.negative || v.isZero then 0 else if v.cmp (.fin false 1 0) == .gt then f.bias * 2 ^ f.fbits else x

/-- The modifiers of R210: the absolute value, then negation. -/
def modify (abs neg : Bool) (v : Val) : Val :=
  let v := if abs then v.abs else v
  if neg then v.neg else v

/-! ### MXINT8 and integers, R99, R106, R107 -/

/-- A value rounded to a multiple of 2^−6 and saturated, R106. -/
def toMxint8 (rm : Rm) : Val → Nat
  | .nan => 0
  | .inf neg => if neg then 0x80 else 0x7F
  | .fin neg m e =>
    let k := roundInt rm neg m (e + 6)
    if neg then (256 - min k 128) % 256 else min k 127

/-- A float rounded to an integer and saturated between bounds, R107. -/
def toIntSat (rm : Rm) (lo hi : Int) : Val → Int
  | .nan => 0
  | .inf neg => if neg then lo else hi
  | .fin neg m e =>
    let k : Int := roundInt rm neg m e
    max lo (min (if neg then -k else k) hi)

/-! ### Scales, R101, R102 -/

def e8m0 (x : Nat) : Val := if x % 256 = 255 then .nan else .fin false 1 ((x % 256 : Nat) - 127)
def w24 (x : Nat) : Val :=
  let e := x / 65536 % 256
  if e = 255 then .nan
  else if e = 0 then .fin false (x % 65536) (-126 - 16)
  else .fin false (65536 + x % 65536) ((e : Int) - 127 - 16)

/-! ### Element types of R54 -/

/-- The floating format of an element type. -/
def fmtOf : Nat → Option Fmt
  | 0 => some fp32 | 1 => some bf16 | 2 => some fp16 | 3 => some e4m3 | 4 => some e5m2
  | 5 => some e3m2 | 6 => some e2m3 | 7 => some e2m1 | _ => none

/-- x read as two's complement of n bits. -/
def signedNat (x n : Nat) : Int := if x % 2 ^ n < 2 ^ (n - 1) then ((x % 2 ^ n : Nat) : Int) else ((x % 2 ^ n : Nat) : Int) - 2 ^ n

/-- The exact value of an element of a type. -/
def elemVal (ty x : Nat) : Val :=
  match fmtOf ty with
  | some f => f.decode x
  | none =>
    match ty with
    | 8 => (Val.ofInt (signedNat x 8)).scale (-6)
    | 9 => .ofInt (signedNat x 8)
    | 10 => .ofInt (x % 256 : Nat)
    | 11 => .ofInt (signedNat x 16)
    | 12 => .ofInt (signedNat x 32)
    | 13 => e8m0 x
    | 14 => w24 x
    | _ => .zero false

/-- A value as an element of a type, R106, R107; MXINT8 and the integers saturate, and .SAT acts on E5M2. -/
def toElem (ty : Nat) (rm : Rm) (sat : Bool) (v : Val) : Nat :=
  match fmtOf ty with
  | some f => f.convert rm (sat && ty == 4) v
  | none =>
    match ty with
    | 8 => toMxint8 rm v
    | 9 => (toIntSat rm (-128) 127 v % 256).toNat
    | 10 => (toIntSat rm 0 255 v % 256).toNat
    | 11 => (toIntSat rm (-32768) 32767 v % 65536).toNat
    | 12 => (toIntSat rm (-(2 ^ 31)) (2 ^ 31 - 1) v % 2 ^ 32).toNat
    | _ => 0

/-- Whether every value of one element type is a value of another, so that R106 converts exactly. -/
def widens (src dst : Nat) : Bool :=
  match fmtOf src, fmtOf dst with
  | some f, some g =>
    f == g || (f.fbits ≤ g.fbits && f.ebits ≤ g.ebits && (g.special == .ieee || g.special == f.special))
  | none, some g => src == 8 && 7 ≤ g.fbits
  | _, none => false

/-- R106, R107: a conversion between element types; a widening is exact, and a narrowing rounds, an exact zero to
+0 (R13). -/
def convElem (src dst : Nat) (rm : Rm) (sat : Bool) (v : Val) : Nat :=
  toElem dst rm sat (if widens src dst then v else v.plusZero)

/-- The pattern of a NaN element, R98: of R106's NaN column where the format has none. -/
def nanElem (ty : Nat) : Nat := match fmtOf ty with | some f => f.canonNan | none => 0

/-- ± (n / d) · 2^e as an element of a floating or MXINT8 type, R106: the source divided by its scale. -/
def toElemQ (ty : Nat) (rm : Rm) (sat neg : Bool) (n d : Nat) (e : Int) : Nat :=
  match fmtOf ty with
  | some f => f.roundQ rm (sat && ty == 4) neg n d e
  | none =>
    let x := shiftFrac n d (e + 6)
    let k := roundDiv rm neg x.1 x.2
    if neg then (256 - min k 128) % 256 else min k 127

/-- The largest finite value of an element type. -/
def maxElem (ty : Nat) : Val :=
  match fmtOf ty with
  | some f => f.decode f.maxFin
  | none => .fin false 127 (-6)

/-- emax of R108. -/
def emaxOf (ty : Nat) : Int := match ty with | 3 => 8 | 4 => 15 | 5 => 4 | 6 => 2 | 7 => 2 | _ => 0

/-- The scale that R108 chooses for the values of a block: E8M0 (kind 1) or W24 (kind 2). -/
def chooseScale (kind ty : Nat) (vs : List Val) : Nat :=
  if vs.any (fun v => v.isNan || v.isInf) then (if kind = 1 then 0xFF else 0xFF0000)
  else
    let amax := vs.foldl (fun (a : Val) v => if a.cmp v.abs == .lt then v.abs else a) (Val.zero false)
    match amax, maxElem ty with
    | .fin _ m e, .fin _ m' e' =>
      if kind = 1 then
        if m = 0 then 0x7F
        else (max 0 (min ((Nat.log2 m : Int) + e - emaxOf ty + 127) 0xFE)).toNat
      else (⟨8, 16, 127, .ieee⟩ : Fmt).roundMag .rn false m m' (e - e')
    | _, _ => 0

/-- The value of a scale entry of a kind; 1 without a scale. -/
def scaleVal (kind x : Nat) : Val := match kind with | 1 => e8m0 x | 2 => w24 x | _ => .fin false 1 0

/-- An element divided by its scale and rounded, R106, R108; an exact zero rounds to +0 (R13). A NaN scale gives
the NaN pattern; by a zero scale no quotient exists, and the pattern is a free value (log entry 3). -/
def quantElem (ty : Nat) (rm : Rm) (sat : Bool) (v s : Val) : Nat :=
  match v.plusZero, s with
  | _, .nan => nanElem ty
  | .fin neg m e, .fin _ m' e' =>
    if m' = 0 then (Config.quantByZero ty neg m e).toNat else toElemQ ty rm sat neg m m' (e - e')
  | v, _ => toElem ty rm sat v

end Sys2Proof.Machine
end

