-- ==== Sys2Proof/Machine/Flags.lean ====
section
/-! DEFINITION. The device has no condition flags: comparisons write predicates. The comparisons of R178, R206
and R213 and the class mask of R214. -/

namespace Sys2Proof.Machine

/-- Comparison of two 32-bit values, R178 and R206. -/
def compareInt (c : Cond) (u : Bool) (x y : Word) : Bool :=
  match c with
  | .eq => x == y
  | .ne => x != y
  | .lt => if u then x.ult y else x.slt y
  | .le => if u then x.ule y else x.sle y
  | .gt => if u then y.ult x else y.slt x
  | .ge => if u then y.ule x else y.sle x
  | .un => false

/-- Comparison of two FP32 values, R213. -/
def compareFloat (c : Cond) (x y : Word) : Bool :=
  if (f32 x).isNan || (f32 y).isNan then c == .ne || c == .un
  else
    let o := (f32 x).cmp (f32 y)
    match c with
    | .eq => o == .eq
    | .ne => o != .eq
    | .lt => o == .lt
    | .le => o != .gt
    | .gt => o == .gt
    | .ge => o != .lt
    | .un => false

/-- The one-hot class of an FP32 pattern, R214. -/
def floatClass (x : Word) : Word :=
  match f32 x with
  | .nan => if x.getLsbD 22 then 0x200 else 0x100
  | .inf neg => if neg then 0x001 else 0x080
  | .fin neg m _ =>
    if m = 0 then (if neg then 0x008 else 0x010)
    else if x.extractLsb' 23 8 == 0 then (if neg then 0x004 else 0x020)
    else (if neg then 0x002 else 0x040)

end Sys2Proof.Machine
end

