-- ==== Sys2Proof/Machine/Control.lean ====
section
/-! DEFINITION. Page 0 (R177 to R196): branches, lane flow, collectives, barriers and phases, EMIT, REGION, BRK
and speculation. -/

namespace Sys2Proof.Machine

abbrev Out := Host.Outcome State Fault Refusal

/-! ### Branches, calls and returns, R178 -/

def execNop (h : Hdr) (s : State) : Out := pureLanes (.nop h) h s (fun _ => .done {})

def execBra (h : Hdr) (disp : Word) (s : State) : Out :=
  pureLanes (.bra h disp) h s (fun c => .done { pc := some (c.target disp) })

def execBrc (h : Hdr) (cond : Cond) (u : Bool) (a : Src) (disp : Word) (s : State) : Out :=
  pureLanes (.brc h cond u a disp) h s (fun c =>
    .done { pc := if compareInt cond u (c.src a) 0 then some (c.target disp) else none })

/-- A jump to the pair A, R146 and R178. -/
def jumpTo (t : DWord) : LaneRes :=
  if t.extractLsb' 0 2 != 0 then trapped cALIGN 1
  else if t.extractLsb' 56 8 != 0 then .trap cRANGE 0 t 0 false
  else .done { pc := some (t.setWidth 56) }

def execJmpi (h : Hdr) (a : Src) (s : State) : Out := pureLanes (.jmpi h a) h s (fun c => jumpTo (c.pair a))
def execRet (h : Hdr) (a : Src) (s : State) : Out := pureLanes (.ret h a) h s (fun c => jumpTo (c.pair a))

def execCall (h : Hdr) (d : Reg) (disp : Word) (s : State) : Out :=
  pureLanes (.call h d disp) h s (fun c =>
    .done { dst2 h d (c.next.setWidth 64) with pc := some (c.target disp) })

/-! ### Lane flow, R179, R21 to R24, R28, R36 -/

/-- Whether a bin holds enough lanes to be drawn, R23. -/
def filledEnough (t : Team) (slots : List (Nat × Nat)) : Bool := t.desc.fill ≤ slots.length

/-- Files one lane into the bin of its team and PC, R21 and R22; a slot for which a lane already waits is that lane's.
`none`: no bin is free. -/
def fileLane (s : State) (t : Team) (wi slot : Nat) (pc : Pc) : Option (State × Bool) :=
  let at_ (b : Bin) : Bool := b.core == t.core && b.team == t.uid && b.pc == pc
  match s.bins.find? at_ with
  | some b =>
    if b.slots.any (fun x => x.1 == slot) || b.waiting.any (fun x => x.1 == slot) then
      some ({ s with bins := s.bins.map (fun c =>
        if at_ c then { c with
          waiting := c.waiting ++ [(slot, wi)]
          drawable := c.drawable || c.slots.any (fun x => x.1 == slot) } else c) }, false)
    else
      let slots := b.slots ++ [(slot, wi)]
      some ({ s with bins := s.bins.map (fun c =>
        if at_ c then { c with
          slots := slots
          oldest := if b.slots.isEmpty then s.cycle else b.oldest
          drawable := b.drawable || filledEnough t slots } else c) }, true)
  | none =>
    match (List.range 32).find? (fun n => !s.bins.any (fun b => b.core == t.core && b.num == n)) with
    | none => none
    | some n =>
      some ({ s with bins := s.bins ++
        [⟨t.core, n, t.uid, pc, [(slot, wi)], [], s.cycle, filledEnough t [(slot, wi)]⟩] }, true)

def execReform (h : Hdr) (s : State) : Out :=
  perLane (.reform h) h s (fun s c =>
    if c.w.lockstep || c.w.sup then (s, .done { upd := Lane.dropLatches })
    else match fileLane s c.tm c.wi c.slot c.next with
    | some (s, true) => (s, .done { upd := fun l => { l.dropLatches with st := .filed } })
    | some (s, false) => (s, .wait .binSlot)
    | none => (bumpCore s c.tm.core 0, .done { upd := Lane.dropLatches }))

def execYield (h : Hdr) (s : State) : Out :=
  pureLanes (.yield h) h s (fun _ => .done { upd := fun l => { l.dropLatches with skip := 65 } })

/-- After an issue: warps and the team of the group retire. -/
def retireAfter (s0 s : State) : State :=
  match s0.cur with
  | some is => retireWarps s is.team
  | none => s

def execExit (h : Hdr) (s : State) : Out :=
  finish (retireAfter s (issueWith (.exit h) h s (fun _ _ => none)
    (foldLanes (fun s _ => (s, .done { upd := fun l => { l with st := .exited } })))))

/-! ### SPAWN, R32 to R35, R180 -/

/-- A lane as it is created, R44 and R186. -/
def newLane (live : Bool) (pc : Pc) (now : Nat) : Lane where
  st := if live then .ready else .exited
  wait := .retry
  held := .ready
  pc := if live then pc else 0
  v := []
  p := 0
  bp := noLatches
  regionPc := pc
  regionCnt := 0
  phases := 0
  ords := 0
  tstat := 0
  crc := 0
  stores := 0
  bpPass := none
  skip := 0
  since := now
  group := 0
  groupN := 0
  stepped := false
  stepWait := false
  asked := none

/-- A warp as it is created in a context: R35, R44, R50, R292. -/
def newWarp (ctx idx : Nat) (role : Role) (det : Bool) (lanes : List Lane) : Warp where
  st := .live
  ctx := ctx
  idx := idx
  role := role
  lanes := lanes
  s := []
  lockstep := false
  uconflict := false
  stepBit := false
  det := det
  sup := false
  sbusy := false
  ubusy := false
  qdest := []
  tmrcmp := 0
  armed := false
  fired := false
  active := 0
  q0 := []
  q1 := []
  q2 := []
  q3 := []
  stack := []
  tx := TryState.none
  trap := none
  pend := []
  fenceMap := none
  dbgHalt := false
  epoch := 0
  ran := true

/-- The free context of lowest number, R35. (DEDUCED, log entry 33.) -/
def freeContext (t : Team) : Option (Nat × Warp) :=
  (t.warps.zipIdx.map (fun x => (x.2, x.1))).foldl (fun acc x =>
    if x.2.st == .free then
      match acc with
      | some b => if x.2.ctx < b.2.ctx then some x else acc
      | none => some x
    else acc) none

/-- The warp that a SPAWN by the active lanes of a warp creates, R35. -/
def spawned (c : Lc) (n : Warp) (first : Nat) (pc : Pc) (now : Nat) : Warp :=
  newWarp n.ctx n.idx c.w.role c.w.det (c.w.lanes.zipIdx.map (fun x =>
    let l := newLane (c.act.contains x.2) pc now
    if c.act.contains x.2 then (List.range 8).foldl (fun l j => l.wrV j (x.1.rdV (first + j))) l else l))

def execSpawn (h : Hdr) (form : SpawnForm) (a : Fin 192) (disp : Word) (s : State) : Out :=
  perWarp (.spawn h form a disp) h s (fun _ _ => none) (fun s c =>
    match (s.team? c.is.team).bind freeContext with
    | some (k, n) =>
      (s.modWarp c.is.team k (fun _ => spawned c n a.val (c.target disp) s.cycle),
       .done { (match form with | .try_ p => dstP h p true | _ => ({} : Eff)) with upd := Lane.dropLatches })
    | none =>
      match form with
      | .try_ p => (s, .done { dstP h p false with upd := Lane.dropLatches })
      | _ => (s, .wait .spawn))

/-! ### Collectives, R181 and R182 -/

def execElect (h : Hdr) (pd : Fin 8) (s : State) : Out :=
  pureLanes (.elect h pd) h s (fun c => .done (dstP h pd (c.act.head? == some c.slot)))

/-- The votes of the active lanes of a warp, with their slots. -/
def votes (c : Lc) (ps : PSrc) : List (Nat × Bool) :=
  c.act.map (fun k => (k, ((c.w.lanes[k]?).map (fun l => readPs l ps)).getD false))

def execVote (h : Hdr) (op : VoteOp) (ps : PSrc) (s : State) : Out :=
  pureLanes (.vote h op ps) h s (fun c =>
    let vs := votes c ps
    match op with
    | .all p => .done (dstP h p (vs.all (·.2)))
    | .any p => .done (dstP h p (vs.any (·.2)))
    | .eq p => .done (dstP h p (vs.all (·.2) || !vs.any (·.2)))
    | .ballot d => .done (dst1 h d (maskOf ((vs.filter (·.2)).map (·.1)))))

/-- The source slot of SHFL for slot l with control b. -/
def shflSlot (mode : ShflMode) (l : Nat) (b : Word) : Nat :=
  let g := 2 ^ min (b.toNat % 8) 5
  match mode with
  | .pick => b.toNat % 32
  | .rot => (l + b.toNat % 32) % 32
  | .rev => Nat.xor l (g - 1)
  | .seg => g * (l / g)

def execShfl (h : Hdr) (mode : ShflMode) (d : Reg) (a : Src) (b : SrcI) (s : State) : Out :=
  pureLanes (.shfl h mode d a b) h s (fun c =>
    let k := shflSlot mode c.slot (c.srcI b)
    .done (dst1 h d (if c.act.contains k then ((c.w.lanes[k]?).map (fun l => readSrc c.w l a)).getD 0 else c.src a)))

/-- The value of each KIND, R182. (DESIGN CHOICE, log entry 6.) -/
def idValue (s : State) (c : Lc) (k : IdKind) : Nat :=
  let i := s.inst? c.tm.inst
  match k with
  | .lane => c.slot
  | .warp => c.w.idx
  | .ctx => c.w.ctx
  | .core => c.tm.core % 16
  | .sector => c.tm.core / 16
  | .pkg => s.pkg.val
  | .team => c.tm.t
  | .nteams => c.tm.desc.nt
  | .lcore =>
    match s.teamRec? c.tm with
    | some r => if r.det then c.tm.t % shapeCores r.shape else c.tm.core
    | none => c.tm.core
  | .depth => (i.map (·.depth)).getD 0

def execGetid (h : Hdr) (kind : IdKind) (d : Reg) (s : State) : Out :=
  pureLanes (.getid h kind d) h s (fun c => .done (dst1 h d (BitVec.ofNat 32 (idValue s c kind))))

/-! ### BAR and PHASE, R183, R184, R84, R85 -/

def execBar (h : Hdr) (n : Fin 8) (s : State) : Out := pureLanes (.bar h n) h s (fun _ => .wait (.bar n))

/-- The lane has arrived at a barrier: it is BLOCKED there, and a HALTED lane has not arrived (R183). -/
def Lane.arrived (l : Lane) (n : Fin 8) : Bool := l.st == .blocked && l.wait == .bar n

/-- Every live lane of every LIVE or STOPPED warp has arrived. -/
def barComplete (t : Team) (n : Fin 8) : Bool :=
  t.warps.any (fun w => w.st != .free) &&
  t.warps.all (fun w => w.st == .free || w.lanes.all (fun l => !l.live || l.arrived n))

/-- A lane whose waiting instruction of `len` bytes completes (R186); HALTED, it stays so (R17). A step stop that its issue
would have made and that has not been made is due now (R385). -/
def completeLane (len now : Nat) (l : Lane) : Lane :=
  { l.release now with
    pc := l.pc + BitVec.ofNat 56 len
    regionCnt := l.regionCnt + 1
    stepped := l.stepped || l.stepWait
    stepWait := false }

def execBarrierCompletion (team : Nat) (n : Fin 8) (s : State) : Out :=
  event s (fun s =>
    match s.team? team with
    | some t =>
      if barComplete t n then
        s.modTeam team (fun t => { t with warps := t.warps.map (fun w =>
          { w with lanes := w.lanes.map (fun l => if l.live then completeLane 8 s.cycle l else l) }) })
      else s
    | none => s)

/-- A warp's PHASE count and a team's phase number, R184: the least among live lanes and live warps. -/
def minNat : List Nat → Option Nat
  | [] => none
  | x :: xs => match minNat xs with | none => some x | some y => some (min x y)
def warpPhase (w : Warp) : Option Nat := minNat ((w.lanes.filter (·.live)).map (fun l => l.phases.toNat))
def phaseNumber (t : Team) : Option Nat := minNat ((t.warps.filter (fun w => w.st != .free)).filterMap warpPhase)

/-- Team indices at ±1 in either dimension of the logical shape, R85 and R337. -/
def neighbours (t : Team) : List Nat :=
  let row := t.desc.row
  let x := t.t % row
  (if 0 < x then [t.t - 1] else []) ++ (if x + 1 < row && t.t + 1 < t.desc.nt then [t.t + 1] else [])
  ++ (if row ≤ t.t then [t.t - row] else []) ++ (if t.t + row < t.desc.nt then [t.t + row] else [])

/-- The neighbour with an index has reached GONE. -/
def neighbourGone (s : State) (t : Team) (k : Nat) : Bool :=
  match s.inst? t.inst with
  | some i => i.hasPlaced k && !s.teams.any (fun u => u.inst == t.inst && u.t == k)
  | none => true

/-- The least phase number heard from a neighbour that still limits the team. -/
def leastHeard (s : State) (t : Team) : Option Nat :=
  minNat (((neighbours t).filter (fun k => !neighbourGone s t k)).map (fun k =>
    ((t.heard.find? (fun x => x.1 == k)).map (·.2)).getD 0))

/-- R85: the PHASE that raises a count to c waits. -/
def phaseWaits (s : State) (t : Team) (c : Nat) : Bool :=
  0 < t.desc.lead && match leastHeard s t with | some m => m + t.desc.lead < c | none => false

/-- Lanes of each warp pass PHASE together: the write-backs of R84 are made once for the warp's issue. -/
def execPhase (h : Hdr) (scope : Scope) (s : State) : Out :=
  finish (issueWith (.phase h scope) h s (fun _ _ => none) (fun s cs =>
    let held := cs.filter (fun c => phaseWaits s c.tm (c.l.phases.toNat + 1))
    let go := cs.filter (fun c => !phaseWaits s c.tm (c.l.phases.toNat + 1))
    let r := foldWarps (fun s c =>
      match release s c.fence scope with
      | (s, .ok) => (s, .done { upd := fun l => { l with phases := l.phases + 1, ords := 0 } })
      | (s, .wait) => (s, .wait .phase)
      | (s, .fault) => (s, .stay)) s go
    (r.1, r.2 ++ held.map (fun c => ((c.wi, c.slot), LaneRes.wait .phase)))))

def execPhaseNumberExchange (team neighbour : Nat) (s : State) : Out :=
  event s (fun s =>
    match s.team? team, s.team? neighbour with
    | some t, some u =>
      if t.inst == u.inst && (neighbours t).contains u.t then
        match phaseNumber u with
        | some n => if t.heard.contains (u.t, n) then s else s.modTeam team (fun t => { t with heard := (u.t, n) :: t.heard.filter (fun x => x.1 != u.t) })
        | none => s
      else s
    | _, _ => s)

/-! ### EMIT and REGION, R185, R186 -/

/-- Pending records that count against an edge's room: all of them, or in deterministic mode the team's own
against its share (R331, R341). (DESIGN CHOICE, log entry 32.) -/
def edgeFull (s : State) (r : Rec) (t : Team) (node : Nat) (e : Edge) : Bool :=
  let on := s.emitted.filter (fun x => x.job == r.id && x.node == node && x.edge == e.num)
  if r.det then e.cap / t.desc.nt ≤ (on.filter (fun x => x.team == some t.uid)).length else e.cap ≤ on.length

def State.modNode (s : State) (rec node : Nat) (f : Node → Node) : State :=
  s.modRec rec (fun r => { r with nodes := r.nodes.modify node f })

/-- Bytes at a VA of a context, written as the save area is, page by page. -/
def writeVa (s : State) (space va : Nat) (bs : List Byte) : State :=
  let n := min bs.length (65536 - va % 65536)
  let off (va : Nat) : Nat := match s.ctx? space with | some c => (BitVec.ofNat 64 va - c.savebase).toNat | none => 0
  let s := if n = 0 then s else saveWrite s space (off va) (bs.take n)
  if n < bs.length then saveWrite s space (off (va + n)) (bs.drop n) else s

/-- The record takes the lowest free place of the edge's storage (R331). (DESIGN CHOICE, log entry 32.) -/
def appendRecord (s : State) (space : Nat) (e : Edge) (x : Emitted) : State :=
  let on := s.emitted.filter (fun y => y.job == x.job && y.node == x.node && y.edge == x.edge && y.team.isNone)
  let slot := ((List.range (on.length + 1)).find? (fun k => !on.any (fun y => y.slot == k))).getD 0
  writeVa { s with emitted := s.emitted ++ [{ x with slot, team := none }] } space (e.base.toNat + 4 * e.sw * slot) x.bytes

def emitOne (h : Hdr) (edge : Fin 8) (pd : Fin 8) (a : Word) (s : State) (c : Lc) : State × LaneRes :=
  if a.toNat % 4 != 0 then (s, trapped cALIGN 0)
  else match s.teamRec? c.tm, s.inst? c.tm.inst with
  | some r, some i =>
    match ((r.nodes[i.node]?).map (·.edges)).bind (fun es => es.find? (fun e => e.num == edge.val && e.base != 0)) with
    | none => (s, trapped cEMIT 1)
    | some e =>
      let size := 4 * e.sw
      if 1024 * c.tm.desc.scrK < a.toNat + size then (s, trapped cSPAD 0)
      else if e.target == i.node && i.depth == e.maxd then
        let s := s.modNode r.id i.node (fun n => { n with ovf := n.ovf + 1 })
        if c.tm.desc.trapOvf then (s, trapped cEMIT 0) else (s, .done (dstP h pd false))
      else if edgeFull s r c.tm i.node e then
        (s.modNode r.id i.node (fun n => { n with fullc := n.fullc + 1 }), .done (dstP h pd false))
      else
        match release s c.fence (if c.tm.desc.nscope then .n else .d) with
        | (s, .fault) => (s, .stay)
        | (s, q) =>
          let s := scratchMeets s c.is.team none a.toNat size false
          let scratch := ((s.team? c.is.team).map (·.scratch)).getD []
          let x : Emitted :=
            { job := r.id, node := i.node, edge := e.num, target := e.target
              depth := if e.target == i.node then i.depth + 1 else 0
              team := if r.det then some c.tm.uid else none
              bytes := cread scratch a.toNat size, slot := 0
              rel := if q == .wait then some (c.tm.core, c.tm.desc.fused) else none }
          (if r.det then { s with emitted := s.emitted ++ [x] } else appendRecord s c.space e x, .done (dstP h pd true))
  | _, _ => (s, trapped cEMIT 1)

/-- DESIGN CHOICE, log entry 32. -/
def execEmit (h : Hdr) (edge : Fin 8) (pd : Fin 8) (a : Src) (s : State) : Out :=
  perLane (.emit h edge pd a) h s (fun s c => emitOne h edge pd (c.src a) s c)

def execRegion (h : Hdr) (s : State) : Out :=
  pureLanes (.region h) h s (fun c => .done { upd := fun l => { l with regionPc := c.next, regionCnt := 1 } })

/-! ### BRK, R187, R385 -/

/-- The warp is halted, and each active lane leaves an event; or the trap of R187. -/
def execBrk (h : Hdr) (code : Byte) (s : State) : Out :=
  finish (
    let s' := issueWith (.brk h code) h s (fun _ _ => none) (foldLanes (fun s c =>
      let right := ((s.ctx? c.space).map (fun x => x.right && x.brkEn)).getD false
      if right && !c.w.sup then
        ({ s with events := s.events ++ [⟨c.space, c.is.team, c.wi, c.slot, 2, code.toNat, c.next, s.clock.toNat⟩] },
         .done { upd := fun l => { l with st := .halted, held := .ready, since := 0 } })
      else (s, .trap cBRK code 0 0 true)))
    match s.cur with
    | some is => s'.modTeam is.team (fun t => { t with warps := t.warps.map (fun w =>
        if w.st == .live && w.lanes.any (fun l => l.st == .halted) then debugHalt s.cycle w else w) })
    | none => s')

/-! ### Speculation, R188 to R196 -/

/-- A live lane of the warp waits in BAR, PHASE or SPAWN.WAIT. -/
def waitsInside (w : Warp) : Bool :=
  w.lanes.any (fun l => l.under == .blocked && match l.wait with | .bar _ | .phase | .spawn => true | _ => false)

/-- The checkpoint of a warp's live lanes, R189: the lanes of the TRY's issue group stand at the next instruction, which counts
it for the active ones (R186), and every other lane where it stands. -/
def checkpoint (c : Lc) (target : Pc) (start : Nat) : TryState :=
  { TryState.none with
    depth := 1
    target := target
    members := maskOf c.act
    start := start
    ckS := c.w.s
    ckLanes := (c.w.slots.filter (fun x => x.2.live)).map (fun x =>
      ⟨x.1, x.2.v, x.2.p, x.2.regionPc, if c.act.contains x.1 then x.2.regionCnt + 1 else x.2.regionCnt,
       if c.is.lanes.contains (c.wi, x.1) then c.next else x.2.pc⟩) }

def execTryOpen (h : Hdr) (disp : Word) (s : State) : Out :=
  perWarp (.tryOpen h disp) h s (fun _ _ => none) (fun s c =>
    if c.w.tx.depth = 0 then
      let s := s.modWarp c.is.team c.wi (fun w => { w with
        tx := checkpoint c (c.target disp) s.serial
        lanes := w.lanes.map (fun l => if l.live then { l with tstat := 0 } else l) })
      if waitsInside c.w then (abortTry s c.is.team c.wi 8 0 0, .stay) else (s, .done {})
    else if c.w.tx.depth = 4 then (abortTry s c.is.team c.wi 6 0 0, .stay)
    else (s.modWarp c.is.team c.wi (fun w => { w with tx := { w.tx with depth := w.tx.depth + 1 } }), .done {}))

/-- The translation of a buffered byte, which its probe made (R190); a freeze does not change it. -/
def commitTrans (s : State) (t : Team) (a : Nat) : Option Trans :=
  match lookup s t.space a .store false with
  | .ok tr => some tr
  | .frozen _ => frozenTrans s t.space a
  | .fail _ => none

/-- A buffered byte of a page that no L1 holds is performed at the memory side. -/
def commitsAtMem (s : State) (t : Team) (b : TryByte) : Bool :=
  match commitTrans s t b.addr with | some tr => leafUnc tr.leaf || leafSyn tr.leaf | none => false

/-- Such a byte waits there behind a freeze, and the whole commit with it (R94, R356). -/
def commitWaits (s : State) (t : Team) (w : Warp) : Bool :=
  w.tx.bytes.any (fun b => b.glob && commitsAtMem s t b &&
    match lookup s t.space b.addr .store false with | .frozen _ => true | _ => false)

/-- One buffered byte reaches its core's point of coherence for .T; pages that no L1 holds take it in memory. -/
def commitByte (t : Team) (s : State) (b : TryByte) : State :=
  if !b.glob then s
  else
    match commitTrans s t b.addr with
    | some tr =>
      if leafUnc tr.leaf || leafSyn tr.leaf then
        noteWrite (storeMem s t.core t.desc.fused t.space b.addr [b.val] tr) (t.l1Core b.addr) t.space b.addr 1
      else storeL1 s t.core t.desc.fused t.space b.addr [b.val]
    | none => storeL1 s t.core t.desc.fused t.space b.addr [b.val]

/-- The other TRYs that meet a committed byte where it is performed. -/
def commitConflict (t : Team) (wi : Nat) (s : State) (b : TryByte) : State :=
  if !b.glob then s
  else
    let dom (c : Nat) : Bool := commitsAtMem s t b || c == t.l1Core b.addr
    match commitTrans s t b.addr with
    | some tr => conflicts s (some (t.uid, wi)) dom t.space b.addr 1 tr.pa
    | none => conflictWith s (some (t.uid, wi)) dom t.space b.addr 1

/-- The last store that a lane has outstanding. -/
def lastStore (s : State) (uid wi slot : Nat) : Option Nat :=
  ((s.accs.filter (fun a => a.team == uid && a.warp == wi && a.lane == slot && a.op != .load)).getLast?).map (·.id)

/-- A committed store counts into its lane's hash, in program order: after those that the lane has outstanding (R394). -/
def countCommitted (uid wi : Nat) (s : State) (x : TryStore) : State :=
  match lastStore s uid wi x.slot with
  | some id => { s with accs := s.accs.map (fun a => if a.id == id then { a with after := a.after ++ [x] } else a) }
  | none => countTry uid wi s x

/-- The leaf of a buffered block's page is updated for the store (R353), and the page is about to hold its bytes dirty. -/
def commitLeaf (t : Team) (s : State) (block : Nat) : State :=
  match translate s t.space (32 * block) .store false with
  | (s, .ok tr) => if leafUnc tr.leaf || leafSyn tr.leaf then s else remember s t.space (32 * block) tr
  | (s, _) => s

/-- The outermost commit of R195: the leaves of the stores are updated first (R353); the bytes appear as one event, other
speculation that meets them aborts, and the stores count into the hashes. -/
def commitTry (s : State) (t : Team) (wi : Nat) (w : Warp) : State :=
  let s := w.tx.entries.foldl (commitLeaf t) s
  -- an update of an entry that the TRY itself has read aborts it (R191)
  if ((s.warp? t.uid wi).map (fun w => w.tx.depth == 0)).getD true then s
  else
    let s := w.tx.bytes.foldl (commitByte t) s
    let s := w.tx.stores.foldl (countCommitted t.uid wi) s
    let s := s.modWarp t.uid wi (fun w => { w with tx := TryState.none })
    w.tx.bytes.foldl (commitConflict t wi) s

def tcommitOne (lane : Bool) (s : State) (c : Lc) : State × LaneRes :=
  if c.w.tx.depth = 0 then (s, .done {})
  else if c.w.tx.depth = 1 then
    if c.w.tx.laneFlag && !lane then (abortTry s c.is.team c.wi 9 0 0, .stay)
    else if commitWaits s c.tm c.w then (s, .wait .retry)
    else (commitTry s c.tm c.wi c.w, .done {})
  else (s.modWarp c.is.team c.wi (fun w => { w with tx := { w.tx with depth := w.tx.depth - 1 } }), .done {})

def execTcommit (h : Hdr) (s : State) : Out := perWarp (.tcommit h) h s (fun _ _ => none) (tcommitOne false)
def execTcommitLane (h : Hdr) (s : State) : Out := perWarp (.tcommitLane h) h s (fun _ _ => none) (tcommitOne true)

def execTabort (h : Hdr) (value : Byte) (s : State) : Out :=
  perWarp (.tabort h value) h s (fun _ _ => none) (fun s c =>
    if c.w.tx.depth = 0 then (s, .done {}) else (abortTry s c.is.team c.wi 1 value.toNat 0, .stay))

/-- The lanes that abort alone, R194: their bytes go back, the others' stand. (DEDUCED, log entry 15.) -/
def laneAbort (s : State) (c : Lc) (value : Byte) : State :=
  let tx := c.w.tx
  let mine (b : TryByte) : Bool := match b.writer with | some k => c.act.contains k | none => false
  let blocks := (tx.bytes.filter mine).map (fun b => (b.glob, b.addr / 32))
  if tx.touched.any (fun x => blocks.contains (x.1, x.2.1) && !c.act.contains x.2.2) then
    abortTry s c.is.team c.wi 2 0 0
  else
    let old (a : Nat) : Byte := ((tx.undo.find? (fun g => g.1 == a / 1024)).map (fun g => cget g.2 a)).getD 0
    let s := s.modTeam c.is.team (fun t => { t with scratch :=
      (tx.bytes.filter (fun b => mine b && !b.glob)).foldl (fun m b => cset m b.addr (old b.addr)) t.scratch })
    s.modWarp c.is.team c.wi (fun w => { w with
      tx := { w.tx with
        bytes := w.tx.bytes.filter (fun b => !mine b)
        stores := w.tx.stores.filter (fun x => !c.act.contains x.slot)
        laneFlag := true }
      lanes := w.lanes.zipIdx.map (fun x =>
        match w.tx.ckLanes.find? (fun k => k.slot == x.2) with
        | some k =>
          if c.act.contains x.2 then { x.1.dropLatches with
            v := k.v, p := k.p, regionPc := k.regionPc, regionCnt := k.regionCnt, pc := w.tx.target
            tstat := tstatWord 1 value.toNat 0, st := .ready, wait := .retry, since := s.cycle
            stepped := x.1.stepped || !w.sup, stepWait := false }
          else x.1
        | none => x.1) })

/-- DEDUCED, log entry 15. -/
def execTabortLane (h : Hdr) (value : Byte) (s : State) : Out :=
  perWarp (.tabortLane h value) h s (fun _ _ => none) (fun s c =>
    if c.w.tx.depth = 0 then (s, .done {}) else (laneAbort s c value, .stay))

/-- R196: DEPTH is the warp's. -/
def tstatValue (c : Lc) : Word := c.l.tstat ||| BitVec.ofNat 32 (c.w.tx.depth * 2 ^ 8)

def execTstat (h : Hdr) (d : Reg) (s : State) : Out :=
  pureLanes (.tstat h d) h s (fun c => .done (dst1 h d (tstatValue c)))

/-! ### Bins, R22, R23, R28 -/

/-- The oldest entry has waited more than the team's age limit. -/
def execBinAgeExpiry (core bin : Nat) (s : State) : Out :=
  event s (fun s => { s with bins := s.bins.map (fun b =>
    let age := ((s.team? b.team).map (fun t => t.desc.age)).getD 256
    if b.core == core && b.num == bin && !b.slots.isEmpty && age < s.cycle - b.oldest
    then { b with drawable := true } else b) })

/-- The oldest entry has waited more than 512 cycles. -/
def execBinFixedAgeExpiry (core bin : Nat) (s : State) : Out :=
  event s (fun s => { s with bins := s.bins.map (fun b =>
    if b.core == core && b.num == bin && !b.slots.isEmpty && 512 < s.cycle - b.oldest
    then { b with drawable := true } else b) })

/-- A lane that waited for its slot is filed in the first cycle after the slot frees (R22); of several, the one that waited
first (DESIGN CHOICE, log entry 66). Its warp in lockstep or in a handler, REFORM is a NOP (R29). -/
def fileWaiting (s : State) (b : Bin) : State :=
  match b.waiting.find? (fun x => !b.slots.any (fun y => y.1 == x.1)) with
  | none => s
  | some x =>
    let at_ (c : Bin) : Bool := c.core == b.core && c.num == b.num
    let w := s.warp? b.team x.2
    let nop := (w.map (·.sup)).getD false || (w.map (·.lockstep)).getD false
    let slots := if nop then b.slots else b.slots ++ [x]
    let rest := b.waiting.filter (fun y => y != x)
    let full := match s.team? b.team with | some t => filledEnough t slots | none => false
    let bins := s.bins.map (fun c => if at_ c then { c with
      slots := slots, waiting := rest
      oldest := if b.slots.isEmpty then s.cycle else b.oldest
      drawable := !slots.isEmpty && (b.drawable && !b.slots.isEmpty || full || rest.any (fun y => slots.any (fun z => z.1 == y.1))) } else c)
    let s := { s with bins := bins.filter (fun c => !(c.slots.isEmpty && c.waiting.isEmpty)) }
    s.modLane b.team x.2 x.1 (fun l =>
      let l := (completeLane 8 s.cycle l).dropLatches
      if nop then l else l.enter .filed s.cycle)

/-- Every lane of a bin whose slot is free is filed. -/
def fileFree (s : State) (core num : Nat) : State :=
  match s.bins.find? (fun b => b.core == core && b.num == num) with
  | none => s
  | some b => b.waiting.foldl (fun s _ =>
      match s.bins.find? (fun c => c.core == core && c.num == num) with | some c => fileWaiting s c | none => s) s

def execBinSlotFile (core bin : Nat) (s : State) : Out :=
  event s (fun s =>
    match s.bins.find? (fun b => b.core == core && b.num == bin) with
    | some b => fileWaiting s b
    | none => s)

/-- The skip of a warp's lanes ends when no issue decision is left (R28). -/
def execYieldSkipExpiry (team warp : Nat) (s : State) : Out :=
  event s (fun s => s.modWarp team warp (fun w =>
    { w with lanes := w.lanes.map (fun l => if l.skip = 1 then { l with skip := 0 } else l) }))

end Sys2Proof.Machine
end

