-- ==== Sys2Proof/Machine/Access.lean ====
section
/-! DEFINITION. Accesses of lanes: addresses and their checks (R222, R60, R61, R345), the scratchpad, accesses
inside a TRY (R190, R191), the performance of an access at its point (R80 to R87, R221 to R230), ordered and
replayed accesses (R342, R393). -/

namespace Sys2Proof.Machine

/-! ### Addresses, R222 -/

def Lc.ea (c : Lc) (ad : Addr) : DWord := c.pair ad.base + (ad.off.getD 0).signExtend 64
/-- A 32-bit address plus its offset, computed exactly. -/
def Lc.offset (c : Lc) (ad : Addr) : Int := (c.src ad.base).toNat + (ad.off.getD 0).toInt

/-- The IA of an aligned global address, or the trap. -/
def globalCheck (s : State) (space : Nat) (ea : DWord) (n : Nat) (need : Need) : Except LaneRes Nat :=
  if ea.toNat % n != 0 then .error (.trap cALIGN 0 ea 0 false)
  else match s.ctx? space with
  | none => .error (.trap cRANGE 1 ea 0 false)
  | some x =>
    match rangeCheck x ea need with
    | .error sub => .error (.trap cRANGE sub ea 0 false)
    | .ok ia => .ok ia

/-- The offset of an aligned scratchpad access, or the trap. -/
def scratchCheck (t : Team) (off : Int) (n : Nat) : Except LaneRes Nat :=
  if off % n != 0 then .error (trapped cALIGN 0)
  else if off < 0 || 1024 * (t.desc.scrK : Int) < off + n then .error (trapped cSPAD 0)
  else .ok off.toNat

/-! ### Results of loads -/

/-- The n bytes of a load as the registers hold them. -/
def loadVal (signed : Bool) (n : Nat) (bs : List Byte) : BitVec 128 :=
  if signed then BitVec.ofInt 128 (toSigned (leNat bs) (8 * n)) else BitVec.ofNat 128 (leNat bs)

/-- The destination of a lane's outstanding result: an s-register takes the lowest active lane's (R51). -/
def Lc.outDst (c : Lc) (h : Hdr) (d : Reg) (n : Nat) : Option (Reg × Nat) :=
  if h.nw then none
  else if d.isS && c.act.head? != some c.slot then none
  else some (d, n)

/-- R52, for a result that is written later. -/
def markUniform (s : State) (c : Lc) (dst : Option (Reg × Nat)) : State :=
  match dst with
  | some (.s _, _) =>
    if c.w.slots.all (fun x => !x.2.live || c.is.lanes.contains (c.wi, x.1)) then s
    else s.modWarp c.is.team c.wi (fun w => { w with uconflict := true })
  | _ => s

def addResult (s : State) (team warp lane : Nat) (load acq : Bool) (dst : Option (Reg × Nat)) (latch : Option (Fin 4))
    (val : BitVec 128) (dead : BitVec 4 := 0) : State :=
  { s with
    results := s.results ++ [⟨s.serial, load, team, warp, lane, dst, latch, val, acq, dead⟩]
    serial := s.serial + 1 }

/-- The registers of an outstanding destination. -/
def dstRegs (dst : Option (Reg × Nat)) : List Reg :=
  match dst with | some (d, n) => (List.range n).map (regAfter d) | none => []

/-- A lane issues an instruction whose result comes later: what is still outstanding for the same registers and latch no
longer writes them (R223), and R52 has its mark. -/
def Lc.claim (c : Lc) (s : State) (dst : Option (Reg × Nat)) (latch : Option (Fin 4)) : State :=
  markUniform (overtake s c.is.team c.wi c.slot (dstRegs dst) latch) c dst

/-- An outstanding result for the lane's register d. -/
def Lc.later (c : Lc) (h : Hdr) (s : State) (d : Reg) (n : Nat) (load acq : Bool) (val : BitVec 128) : State :=
  let dst := c.outDst h d n
  addResult (c.claim s dst h.latch) c.is.team c.wi c.slot load acq dst h.latch val

/-! ### The scratchpad, R61, R190, R191 -/

def scratchRead (s : State) (uid off n : Nat) : List Byte := cread (((s.team? uid).map (·.scratch)).getD []) off n
def scratchPut (s : State) (uid off : Nat) (bs : List Byte) : State :=
  s.modTeam uid (fun t => { t with scratch := memPut t.scratch off bs })

/-- The lane touched these blocks since its TRY began. -/
def touch (tx : TryState) (glob : Bool) (a n slot : Nat) : TryState :=
  { tx with touched := (blocks32 a n).foldl (fun l b =>
      if l.contains (glob, b, slot) then l else (glob, b, slot) :: l) tx.touched }

/-- Bytes written take their last writer. -/
def txWrite (tx : TryState) (glob : Bool) (a : Nat) (bs : List Byte) (slot : Nat) : TryState :=
  { tx with bytes := bs.zipIdx.map (fun x => ⟨glob, a + x.2, x.1, some slot⟩) ++
      tx.bytes.filter (fun b => !(b.glob == glob && a ≤ b.addr && b.addr < a + bs.length)) }

/-- A scratchpad load by a lane. -/
def scratchLoad (s : State) (c : Lc) (off n : Nat) : State × List Byte :=
  let s := scratchMeets s c.is.team (some c.wi) off n false
  let s := s.modWarp c.is.team c.wi (fun w =>
    if w.tx.depth = 0 then w
    else { w with tx := { touch w.tx false off n c.slot with
      readGrans := (granules off n).foldl (fun l g => if l.contains g then l else g :: l) w.tx.readGrans } })
  (s, scratchRead s c.is.team off n)

/-- A scratchpad store by a lane; inside a TRY the granule is saved first, and a seventeenth one overflows. -/
def scratchStore (s : State) (c : Lc) (off : Nat) (bs : List Byte) : State × Bool :=
  let s := scratchMeets s c.is.team (some c.wi) off bs.length true
  match s.warp? c.is.team c.wi with
  | none => (s, false)
  | some w =>
    if w.tx.depth = 0 then (scratchPut s c.is.team off bs, true)
    else
      let new := (granules off bs.length).filter (fun g => !w.tx.undo.any (fun u => u.1 == g))
      if 16 < w.tx.undo.length + new.length then (abortTry s c.is.team c.wi 3 0 0, false)
      else
        let scratch := ((s.team? c.is.team).map (·.scratch)).getD []
        let old := new.map (fun g => (g, scratch.filter (fun x => x.1 / 1024 == g)))
        let s := s.modWarp c.is.team c.wi (fun w =>
          { w with tx := txWrite { touch w.tx false off bs.length c.slot with undo := old ++ w.tx.undo } false off bs c.slot })
        (scratchPut s c.is.team off bs, true)

/-! ### Global accesses inside a TRY, R190 -/

/-- What a probe answers: the translation, a wait, the abort that has been made, or the subcode of a fault that a page-fault
save resolves. -/
inductive Probe | ok (t : Trans) | wait | aborted | saved (sub : Byte)

/-- The translation of an access inside a TRY. A fault aborts the TRY, but for one of a read that a page-fault save
resolves (R192, R357, R369). -/
def probe (s : State) (c : Lc) (ia n : Nat) (need : Need) : State × Probe :=
  match translateFor s c.space ia n need true with
  | (s, .ok t) => (s, .ok t)
  | (s, .frozen false) => (s, .wait)
  | (s, .frozen true) =>
    if need == .store then (abortTry s c.is.team c.wi 4 cXLATE.toNat 3, .aborted) else (s, .saved 3)
  | (s, .fail sub) =>
    if need != .store && sub == 0 && hostPage s c.space ia then (s, .saved 0)
    else (abortTry s c.is.team c.wi 4 cXLATE.toNat sub.toNat, .aborted)

/-- Buffered bytes over the others. -/
def overlay (tx : TryState) (ia : Nat) (bs : List Byte) : List Byte :=
  bs.zipIdx.map (fun x => ((tx.bytes.find? (fun b => b.glob && b.addr == ia + x.2)).map (·.val)).getD x.1)

/-- The bytes as a lane of the warp reads them. Inside a TRY they are its own over the others, and join the read set. -/
def laneBytes (s : State) (c : Lc) (ia n : Nat) (t : Trans) : State × List Byte :=
  let bs := readBytes s c.tm.core c.tm.desc.fused c.space ia n t
  match s.warp? c.is.team c.wi with
  | none => (s, bs)
  | some w =>
    if w.tx.depth = 0 then (s, bs)
    else
      (s.modWarp c.is.team c.wi (fun w => { w with tx := { touch w.tx true ia n c.slot with
        readLines := (linesOf ia n).foldl (fun l x => if l.contains x then l else x :: l) w.tx.readLines } }),
       overlay w.tx ia bs)

inductive Loaded | got (bs : List Byte) | wait | aborted | saved (sub : Byte)

def tryLoad (s : State) (c : Lc) (ia n : Nat) : State × Loaded :=
  match probe s c ia n .load with
  | (s, .wait) => (s, .wait)
  | (s, .aborted) => (s, .aborted)
  | (s, .saved sub) => (s, .saved sub)
  | (s, .ok t) =>
    let r := laneBytes s c ia n t
    (r.1, .got r.2)

/-- A store is probed and then buffered; a sixty-fifth block overflows. -/
def tryStore (s : State) (c : Lc) (va : DWord) (ia n : Nat) (bs : List Byte) : State × LaneRes :=
  match probe s c ia n .store with
  | (s, .wait) => (s, .wait .retry)
  | (s, .aborted) | (s, .saved _) => (s, .stay)
  | (s, .ok _) =>
    match s.warp? c.is.team c.wi with
    | none => (s, .stay)
    | some w =>
      let new := (blocks32 ia n).filter (fun b => !w.tx.entries.contains b)
      if 64 < w.tx.entries.length + new.length then (abortTry s c.is.team c.wi 3 0 0, .stay)
      else
        (s.modWarp c.is.team c.wi (fun w =>
          { w with tx := txWrite { touch w.tx true ia n c.slot with
              entries := new ++ w.tx.entries
              stores := w.tx.stores ++ [⟨c.slot, va, n, BitVec.ofNat 128 (leNat bs)⟩] } true ia bs c.slot }), .done {})

/-! ### Points of performance, R68, R86, R392 -/

/-- The exclusive or of the k-bit groups of a number, of at most `fuel` groups. -/
def fold (k : Nat) : Nat → Nat → Nat
  | 0, _ => 0
  | f + 1, a => Nat.xor (a % 2 ^ k) (fold k f (a / 2 ^ k))

/-- HASH_ALL within a partition's sectors, R407; with all eight it is the fold of R68. -/
def hashAll (mask : Byte) (a : Nat) : Nat :=
  let f := fold 7 7 a
  let ss := sectorsOf mask
  16 * ((ss[f / 16 % ss.length]?).getD 0) + f % 16

/-- The home slice of a line for a core; a logged access takes HASH_SECTOR as HASH_ALL. -/
def homeSlice (mask : Byte) (core : Nat) (logged : Bool) (leaf : BitVec 128) (ia : Nat) : Nat :=
  let a := ia / 128
  match (leaf.extractLsb' 56 2).toNat with
  | 1 => if logged then hashAll mask a else 16 * sectorOf core + fold 4 12 a
  | 2 => (leaf.extractLsb' 105 7).toNat
  | _ => hashAll mask a

/-- The point at which a strong access is performed, numbered as the streams of R392: a slice, or the quadrant
of the core's base die. -/
def pointOf (mask : Byte) (core : Nat) (logged : Bool) (leaf : BitVec 128) (ia : Nat) (scope : Scope) : Nat :=
  if scope == .n || scope == .y || leafUnc leaf || leafSyn leaf then 128 + sectorOf core / 2
  else homeSlice mask core logged leaf ia

/-- A strong access is performed beyond the core's L1, R86. -/
def beyondL1 (fused : Bool) (scope : Option Scope) : Bool :=
  match scope with
  | none => false
  | some .w | some .t => false
  | some .c => !fused
  | some _ => true

/-! ### Recording and replay, R392, R393 -/

/-- The log descriptor's stream base and size in bytes; none without a debug block or once LOST is set. -/
def streamAt (s : State) (space stream : Nat) : State × Option (Nat × Nat) :=
  match s.ctx? space with
  | none => (s, none)
  | some c =>
    match c.dblk with
    | none => (s, none)
    | some d =>
      let va := saveNat s space (d + 0x1300) 8
      let sz := saveNat va.1 space (d + 0x1308) 4
      (sz.1, some (va.2 + 4096 * sz.2 * stream, 4096 * sz.2))

/-- Sets a flag of the log descriptor: 1 LOST, 2 DIVERGED, 3 DONE. -/
def logFlag (s : State) (space bit : Nat) : State :=
  match (s.ctx? space).bind Context.dblk with
  | none => s
  | some d =>
    let f := saveNat s space (d + 0x130C) 4
    saveWrite f.1 space (d + 0x130C) (leBytes 4 (Nat.lor f.2 (2 ^ bit)))
def logHas (s : State) (space bit : Nat) : Bool :=
  match (s.ctx? space).bind Context.dblk with
  | none => false
  | some d => (saveNat s space (d + 0x130C) 4).2 / 2 ^ bit % 2 = 1

/-- The log's bytes lie at a VA of the context; the offset from SAVEBASE that the save-area operations take. -/
def vaOff (s : State) (space va : Nat) : Nat :=
  match s.ctx? space with
  | some c => (BitVec.ofNat 64 va - c.savebase).toNat
  | none => 0

/-- The chunk's lane: NODE, t, WARP and slot above COUNT. -/
def chunkLane (node t warp slot : Nat) : Nat := node % 4096 * 2 ^ 27 + t % 65536 * 2 ^ 11 + warp * 2 ^ 5 + slot

/-- The stream at a point, as far as it is read: count of chunks. -/
def chunkCount (s : State) (space base : Nat) : Nat := (saveNat s space (vaOff s space base) 8).2
def chunkAt (s : State) (space base k : Nat) : Nat := (saveNat s space (vaOff s space (base + 8 + 8 * k)) 8).2

/-- The position in a stream of a record: under PLAY the chunk and the accesses of it that have passed, under REC 1 when the
stream has found no room. -/
def logPos (s : State) (job stream : Nat) : Nat × Nat :=
  match s.logs.find? (fun x => x.job == job && x.stream == stream) with
  | some x => (x.chunk, x.used)
  | none => (0, 0)
def setLogPos (s : State) (job stream chunk used : Nat) : State :=
  { s with logs := ⟨job, stream, chunk, used⟩ :: s.logs.filter (fun x => !(x.job == job && x.stream == stream)) }

/-- REC: the access joins its point's stream. A stream that has once found no room records nothing more. -/
def recordAccess (s : State) (t : Team) (warp slot point : Nat) : State :=
  match streamAt s t.space point with
  | (s, none) => s
  | (s, some (base, size)) =>
    let lane := chunkLane (((s.inst? t.inst).map (·.node)).getD 0) t.t warp slot
    let n := chunkCount s t.space base
    let last := chunkAt s t.space base (n - 1)
    let job := ((s.teamRec? t).map (·.id)).getD 0
    if (logPos s job point).2 = 1 then s
    else if 0 < n && last / 2 ^ 25 == lane && last % 2 ^ 25 + 1 < 2 ^ 25 then
      saveWrite s t.space (vaOff s t.space (base + 8 * n)) (leBytes 8 (last + 1))
    else if size < 16 + 8 * n then setLogPos (logFlag s t.space 1) job point 0 1
    else
      let s := saveWrite s t.space (vaOff s t.space (base + 8 + 8 * n)) (leBytes 8 (lane * 2 ^ 25 + 1))
      saveWrite s t.space (vaOff s t.space base) (leBytes 8 (n + 1))

/-! ### Performing an access -/

/-- The value that an atomic writes, R228. -/
def atomNew (op : Nat) (unsigned : Bool) (n : Nat) (old b : Nat) : Nat :=
  let bits := 8 * n
  let key (x : Nat) : Int := if unsigned then (x % 2 ^ bits : Nat) else toSigned x bits
  match op with
  | 0 => (old + b) % 2 ^ bits
  | 1 => if key old ≤ key b then old else b
  | 2 => if key old ≤ key b then b else old
  | 3 => Nat.land old b
  | 4 => Nat.lor old b
  | 5 => Nat.xor old b
  | 6 => b
  | _ => (toF32 .rn (sumTerms .rn [f32 (BitVec.ofNat 32 old), f32 (BitVec.ofNat 32 b)])).toNat

def dropAccess (s : State) (id : Nat) : State := { s with accs := s.accs.filter (fun a => a.id != id) }
def faultAccess (s : State) (id : Nat) (cause sub : Byte) : State :=
  { s with accs := s.accs.map (fun a => if a.id == id then { a with fault := some (cause, sub) } else a) }

/-- Where an access is performed: an L1, the home slice of the core's sector, or the memory side. -/
inductive Place | l1 | slice | mem
deriving DecidableEq, Repr

/-- R69, R70, R86, R230, R392. -/
def placeOf (fused : Bool) (mode : Nat) (a : Access) (leaf : BitVec 128) : Place :=
  let strong := a.scope.isSome
  let beyond := beyondL1 fused a.scope || (strong && (a.ord.isSome || mode != 0))
  if leafUnc leaf || leafSyn leaf then .mem
  else if !beyond then .l1
  else if leafSector leaf && mode == 0 && !beyondSector (a.scope.getD .d) then .slice
  else .mem

/-- Words of a destination that no later instruction has overtaken, as registers. -/
def liveRegs (dst : Option (Reg × Nat)) (dead : BitVec 4) : List Reg :=
  match dst with
  | some (d, n) => ((List.range n).filter (fun k => !dead.getLsbD k)).map (regAfter d)
  | none => []

/-- What the lane, or for s-registers its warp, has outstanding for a register or latch that the access will write: an access
that waits for its turn or in a gate lets that come first (R223). -/
def destAhead (s : State) (a : Access) : Bool :=
  let rs := liveRegs a.dst a.dead
  let before (team warp lane : Nat) (dst : Option (Reg × Nat)) (dead : BitVec 4) (latch : Option (Fin 4)) : Bool :=
    team == a.team && warp == a.warp &&
      ((liveRegs dst dead).any (fun r => rs.contains r && (lane == a.lane || r.isS)) ||
       (lane == a.lane && latch.isSome && latch == a.latch))
  s.accs.any (fun b => b.id != a.id && !b.unsent && before b.team b.warp b.lane b.dst b.dead b.latch) ||
  s.results.any (fun r => before r.team r.warp r.lane r.dst r.dead r.latch) ||
  s.ops.any (fun o => before o.team o.warp o.lane o.dst o.dead o.latch)

/-- Bytes written for a lane at the point that its access names; the store counts into its hash. -/
def storeFor (s : State) (t : Team) (a : Access) (at_ : Place) (bs : List Byte) (tr : Trans) : State :=
  let s := s.modLane a.team a.warp a.lane (countStore a.va a.width (leNat bs))
  let by_ := some (a.team, a.warp)
  match at_ with
  | .mem => memStore s by_ t.core t.desc.fused t.space a.ia bs tr
  | .slice => sliceStore (remember s t.space a.ia tr) by_ t.core t.desc.fused t.space a.ia bs tr
  | .l1 => l1Store (remember s t.space a.ia tr) by_ t.core t.desc.fused t.space a.ia bs tr

/-- The access is performed through its translation, the bytes that it reads being given. -/
def performOn (s : State) (t : Team) (a : Access) (tr : Trans) (old : List Byte) : State :=
  let mode := logMode s t
  let at_ := placeOf t.desc.fused mode a tr.leaf
  let logged := a.scope.isSome || leafUnc tr.leaf || leafSyn tr.leaf
  let s := if mode = 1 && logged then
      recordAccess s t a.warp a.lane (pointOf (s.part t.space).secmask t.core true tr.leaf a.ia (a.scope.getD .d))
    else s
  let result (s : State) (v : BitVec 128) : State := addResult s a.team a.warp a.lane true a.acq a.dst a.latch v a.dead
  let s := dropAccess s a.id
  let s := match a.op with
    | .load => result s (loadVal a.signed a.width old)
    | .store => storeFor s t a at_ (leBytes a.width a.data.toNat) tr
    | .atom op =>
      storeFor (result s (BitVec.ofNat 128 (leNat old))) t a at_
        (leBytes a.width (atomNew op (!a.signed) a.width (leNat old) (a.data.toNat % 2 ^ (8 * a.width)))) tr
    | .cas =>
      let s := result s (BitVec.ofNat 128 (leNat old))
      if leNat old = a.cmp.toNat then storeFor s t a at_ (leBytes a.width a.data.toNat) tr else s
  a.after.foldl (countTry a.team a.warp) s

/-- The access is performed through its translation. -/
def performWith (s : State) (t : Team) (a : Access) (tr : Trans) : State :=
  performOn s t a tr (readBytes s t.core t.desc.fused t.space a.ia a.width tr)

/-- What an access needs of its leaf: an ACAS that will fail counts as a load (R229). -/
def needOf (s : State) (t : Team) (a : Access) : Need :=
  if a.op != .cas then a.op.need
  else match (translate s t.space a.ia .compare true).2 with
  | .ok tr =>
    if leNat (readBytes s t.core t.desc.fused t.space a.ia a.width tr) = a.cmp.toNat then .atomic else .compare
  | _ => .compare

/-- The write-backs that come before the store of an STL (R227); false while a freeze holds one. When one is rejected, the
lanes whose store has not been performed have not issued the STL: they issue it again after the replay (R372). -/
def relFirst (s : State) (a : Access) : State × Bool :=
  match a.rel with
  | none => (s, true)
  | some x =>
    let mine (b : Access) : Bool := b.team == a.team && b.warp == a.warp && b.group == a.group && b.rel.isSome
    let at_ : FenceAt := ⟨a.team, a.warp, (s.accs.filter mine).map (·.lane), a.pc, a.len, a.bits⟩
    match release s at_ x with
    | (s, .ok) => (s, true)
    | (s, .wait) => (s, false)
    | (_, .fault) =>
      let s := (s.accs.filter mine).foldl unissue s
      ((release { s with accs := s.accs.filter (fun b => !mine b) } at_ x).1, false)

/-- A freeze holds the write-backs of the STL. -/
def relHeld (s : State) (a : Access) : Bool :=
  a.rel.isSome && match relFirst s a with | (s', false) => s'.lost == s.lost && s'.accs.any (fun b => b.id == a.id) | _ => false

/-- Translated and performed, or left waiting at a freeze, or faulted (R350, R356, R357). -/
def performAccess (s : State) (a : Access) : State :=
  match s.team? a.team with
  | none => dropAccess s a.id
  | some t =>
    match relFirst s a with
    | (s, false) => s
    | (s, true) =>
      match translateFor s t.space a.ia a.width (needOf s t a) true with
      | (s, .ok tr) => performWith s t a tr
      | (s, .frozen false) => s
      | (s, .frozen true) => faultAccess s a.id cXLATE 3
      | (s, .fail sub) => faultAccess s a.id cXLATE sub

/-! ### Ordered accesses, R342 -/

/-- The key of a team, and K of a lane, as lists in the order of comparison. (DEDUCED, log entry 22.) -/
def teamKey (shape : Word) (t : Nat) : List Nat := [(teamCurve shape t).1, (teamCurve shape t).2, t]
def laneKey (shape : Word) (t : Team) (w : Warp) (slot : Nat) : List Nat := teamKey shape t.t ++ [w.idx, slot]

def listLt : List Nat → List Nat → Bool
  | x :: xs, y :: ys => x < y || (x == y && listLt xs ys)
  | [], _ :: _ => true
  | _, [] => false

/-- The lane has closed phase p: by PHASE or by EXIT. -/
def closed (l : Lane) (p : Nat) : Bool := !l.live || p < l.phases.toNat

/-- Two ORD accesses have one point of performance; one that does not translate may have any. -/
def samePoint (s : State) (t : Team) (a : Access) (u : Team) (b : Access) : Bool :=
  let point (t : Team) (a : Access) : Option Nat :=
    match lookup s t.space a.ia .compare true with
    | .ok tr => some (pointOf (s.part t.space).secmask t.core (logMode s t != 0) tr.leaf a.ia (a.scope.getD .d))
    | _ => none
  match point t a, point u b with
  | some x, some y => x == y
  | _, _ => true

/-- The rank of an ORD access is established and its point has applied every lower rank: every lane has closed the
phases below its own, and every lane with a lower key, of teams still to be placed too, has closed its phase.
(DEDUCED, log entry 22.) -/
def ordReady (s : State) (t : Team) (a : Access) : Bool :=
  match a.ord, s.inst? t.inst, s.teamRec? t, t.warps[a.warp]? with
  | some (p, o), some i, some r, some w =>
    !destAhead s a &&
    let key := laneKey r.shape t w a.lane
    let teams := s.teams.filter (fun u => u.inst == t.inst && u.st != .gone)
    let unplaced := (List.range t.desc.nt).filter (fun k => !i.hasPlaced k)
    unplaced.all (fun k => p = 0 && listLt (teamKey r.shape t.t) (teamKey r.shape k)) &&
    teams.all (fun u => u.warps.all (fun w => w.st == .free || w.slots.all (fun x =>
      (p = 0 || closed x.2 (p - 1)) && (!listLt (laneKey r.shape u w x.1) key || closed x.2 p)))) &&
    s.accs.all (fun b => b.id == a.id ||
      match b.ord, s.team? b.team with
      | some (p', o'), some u =>
        u.inst != t.inst || !samePoint s t a u b ||
        (match u.warps[b.warp]? with
         | some w => !listLt (p' :: (laneKey r.shape u w b.lane ++ [o'])) (p :: (key ++ [o]))
         | none => true)
      | _, _ => true)
  | _, _, _, _ => false

/-! ### Replay gates, R393 -/

/-- Whether a lane that a chunk names can still send its access: it has not exited, or its warp is still to be created. (DEDUCED,
log entry 81.) -/
def laneAwaited (s : State) (job lane : Nat) : Bool :=
  s.teams.any (fun t =>
    (match s.teamRec? t with | some r => r.id == job | none => false) &&
    t.st != .gone && t.warps.any (fun w => w.slots.any (fun x =>
      (if w.st == .free then !w.ran else x.2.live) && chunkLane (((s.inst? t.inst).map (·.node)).getD 0) t.t w.idx x.1 == lane)))
/-- A team that a chunk names is still to be placed. -/
def teamAwaited (s : State) (job lane : Nat) : Bool :=
  match s.rec? job with
  | none => false
  | some r =>
    match r.nodes[lane / 2 ^ 27]? with
    | none => false
    | some n => !n.complete && !s.insts.any (fun i => i.job == job && i.node == lane / 2 ^ 27 && i.hasPlaced (lane / 2 ^ 11 % 65536))

/-- Chunks whose lane can no longer come are skipped, of n chunks; each skip is a divergence. -/
def skipChunks (s : State) (space job stream base n : Nat) : Nat → State
  | 0 => s
  | f + 1 =>
    let pos := logPos s job stream
    let lane := chunkAt s space base pos.1 / 2 ^ 25
    if pos.1 < n && !laneAwaited s job lane && !teamAwaited s job lane then
      skipChunks (setLogPos (logFlag s space 2) job stream (pos.1 + 1) 0) space job stream base n f
    else s

/-- As the expected lane of a stream of a replayed record exits, or its team reaches GONE, its chunk is skipped. -/
def skipGone (s : State) : State :=
  s.recs.foldl (fun s r =>
    if r.log != 2 || r.ended then s
    else (List.range 132).foldl (fun s k =>
      match streamAt s r.space k with
      | (s, some (base, _)) =>
        let n := chunkCount s r.space base
        skipChunks s r.space r.id k base n n
      | (s, none) => s) s) s

/-- An arrival at a replay gate: the next expected access passes, one after the end of the stream passes
ungated, any other waits. -/
def gatePass (s : State) (t : Team) (a : Access) (point : Nat) : State × Bool :=
  if destAhead s a then (s, false)
  else match s.teamRec? t with
  | none => (s, true)
  | some r =>
    match streamAt s t.space point with
    | (s, none) => (s, true)
    | (s, some (base, _)) =>
      let n := chunkCount s t.space base
      let s := skipChunks s t.space r.id point base n n
      let pos := logPos s r.id point
      if n ≤ pos.1 then (logFlag s t.space 2, true)
      else
        let x := chunkAt s t.space base pos.1
        let lane := chunkLane (((s.inst? t.inst).map (·.node)).getD 0) t.t a.warp a.lane
        if x / 2 ^ 25 == lane then
          (if pos.2 + 1 < x % 2 ^ 25 then setLogPos s r.id point pos.1 (pos.2 + 1)
           else setLogPos s r.id point (pos.1 + 1) 0, true)
        else (s, false)

end Sys2Proof.Machine
end

