-- ==== Sys2Proof/Machine/Mem.lean ====
section
/-! DEFINITION. Page 3 but for MCAST (R220 to R232), and the steps of the memory side that end its accesses:
translation walks, arrivals, ordered and gated accesses, late faults and page-fault saves. -/

namespace Sys2Proof.Machine

/-! ### Issuing a global access -/

/-- The next ordinal of an ORD access in deterministic mode, R342. -/
def nextOrd (s : State) (c : Lc) (ord : Bool) : Option (Nat × Nat) :=
  if ord && c.w.det then (s.lane? c.is.team c.wi c.slot).map (fun l => (l.phases.toNat, l.ords)) else none

/-- An access leaves for the memory side, R223, R367. A strong one of a replayed record goes to its gate. One that was not sent
overtakes nothing, so that it can be withdrawn (R301). -/
def sendAccess (s : State) (c : Lc) (a : Access) : State :=
  let gated := a.scope.isSome && logMode s c.tm == 2
  let s := if a.fault.isNone && (a.ord.isSome || gated) then markUniform s c a.dst else c.claim s a.dst a.latch
  let a := { a with
    id := s.serial, group := c.is.id, team := c.is.team, warp := c.wi, lane := c.slot, pc := c.is.pc, len := c.is.len, bits := c.is.bits
    regionPc := c.l.regionPc, regionCnt := c.l.regionCnt, gated := gated }
  let s := { s with accs := s.accs ++ [a], serial := s.serial + 1 }
  if a.ord.isSome then s.modLane c.is.team c.wi c.slot (fun l => { l with ords := l.ords + 1 }) else s

def blankAccess (op : AccOp) (va : DWord) (ia n : Nat) : Access where
  id := 0
  group := 0
  op := op
  team := 0
  warp := 0
  lane := 0
  pc := 0
  len := 0
  bits := 0
  regionPc := 0
  regionCnt := 0
  va := va
  ia := ia
  width := n
  signed := false
  dst := none
  latch := none
  data := 0
  cmp := 0
  scope := none
  acq := false
  ord := none
  gated := false
  fault := none

def signedWidth : Width → Bool | .s8 | .s16 => true | _ => false

/-- LD and LDA of one lane. Inside a TRY an ordinary load is performed as it issues. -/
def loadOne (h : Hdr) (m : AccM) (acq : Bool) (d : Reg) (ad : Addr) (s : State) (c : Lc) : State × LaneRes :=
  let n := widthBytes m.width
  match globalCheck s c.space (c.ea ad) n .load with
  | .error e => (s, e)
  | .ok ia =>
    let a := { blankAccess .load (c.ea ad) ia n with
        signed := signedWidth m.width, dst := c.outDst h d (widthRegs m.width), latch := h.latch
        scope := if m.strong || acq then some m.scope else none, acq := acq }
    if 0 < c.w.tx.depth then
      match tryLoad s c ia n with
      | (s, .got bs) =>
        (c.later h s d (widthRegs m.width) true false (loadVal (signedWidth m.width) n bs), .done {})
      | (s, .wait) => (s, .wait .retry)
      | (s, .aborted) => (s, .stay)
      | (s, .saved sub) => (sendAccess s c { a with fault := some (cXLATE, sub) }, .done {})
    else (sendAccess s c a, .done {})

def execLd (h : Hdr) (m : AccM) (d : Reg) (ad : Addr) (s : State) : Out :=
  perLane (.ld h m d ad) h s (loadOne h m false d ad)

/-- LDA, R227: the acquire takes effect as the value arrives; later accesses of the lane wait for it. -/
def execLda (h : Hdr) (m : AccM) (d : Reg) (ad : Addr) (s : State) : Out :=
  perLane (.lda h m d ad) h s (loadOne h m true d ad)

/-- The data of a store: 1, 2 or 4 registers. -/
def storeData (c : Lc) (m : AccM) (b : Src) : Nat :=
  readRegs c.w c.l b (widthRegs m.width) % 2 ^ (8 * widthBytes m.width)

/-- ST and STL of one lane. The store of an STL comes after the write-backs of its release (R227). -/
def storeOne (m : AccM) (rel : Bool) (ad : Addr) (b : Src) (s : State) (c : Lc) : State × LaneRes :=
  let n := widthBytes m.width
  match globalCheck s c.space (c.ea ad) n .store with
  | .error e => (s, e)
  | .ok ia =>
    if 0 < c.w.tx.depth then tryStore s c (c.ea ad) ia n (leBytes n (storeData c m b))
    else
      (sendAccess s c { blankAccess .store (c.ea ad) ia n with
        data := BitVec.ofNat 128 (storeData c m b), scope := if m.strong || rel then some m.scope else none
        rel := if rel then some m.scope else none }, .done {})

def execSt (h : Hdr) (m : AccM) (ad : Addr) (b : Src) (s : State) : Out :=
  perLane (.st h m ad b) h s (storeOne m false ad b)

/-- DEDUCED, log entry 18. -/
def execStl (h : Hdr) (m : AccM) (ad : Addr) (b : Src) (s : State) : Out :=
  perLane (.stl h m ad b) h s (storeOne m true ad b)

/-! ### Atomics, R228, R229 -/

def atomBytes (m : AtomM) : Nat := if m.w64 then 8 else 4

def atomOne (h : Hdr) (m : AtomM) (op : AccOp) (d : Reg) (ad : Addr) (b : Nat) (cmp : DWord) (s : State) (c : Lc) :
    State × LaneRes :=
  let n := atomBytes m
  match globalCheck s c.space (c.ea ad) n .atomic with
  | .error e => (s, e)
  | .ok ia =>
    (sendAccess s c { blankAccess op (c.ea ad) ia n with
      signed := !m.u, dst := c.outDst h d (n / 4), latch := h.latch, data := BitVec.ofNat 128 b, cmp := cmp
      scope := some m.scope, ord := nextOrd s c m.ord }, .done {})

def atom (op : Nat) (i : Instr) (h : Hdr) (m : AtomM) (d : Reg) (ad : Addr) (b : Src) (s : State) : Out :=
  perLane i h s (fun s c => atomOne h m (.atom op) d ad (readRegs c.w c.l b (atomBytes m / 4)) 0 s c)

def execAtomAdd (h : Hdr) (m : AtomM) (d : Reg) (ad : Addr) (b : Src) (s : State) : Out :=
  atom 0 (.atomAdd h m d ad b) h m d ad b s
def execAtomMin (h : Hdr) (m : AtomM) (d : Reg) (ad : Addr) (b : Src) (s : State) : Out :=
  atom 1 (.atomMin h m d ad b) h m d ad b s
def execAtomMax (h : Hdr) (m : AtomM) (d : Reg) (ad : Addr) (b : Src) (s : State) : Out :=
  atom 2 (.atomMax h m d ad b) h m d ad b s
def execAtomAnd (h : Hdr) (m : AtomM) (d : Reg) (ad : Addr) (b : Src) (s : State) : Out :=
  atom 3 (.atomAnd h m d ad b) h m d ad b s
def execAtomOr (h : Hdr) (m : AtomM) (d : Reg) (ad : Addr) (b : Src) (s : State) : Out :=
  atom 4 (.atomOr h m d ad b) h m d ad b s
def execAtomXor (h : Hdr) (m : AtomM) (d : Reg) (ad : Addr) (b : Src) (s : State) : Out :=
  atom 5 (.atomXor h m d ad b) h m d ad b s
def execAtomXchg (h : Hdr) (m : AtomM) (d : Reg) (ad : Addr) (b : Src) (s : State) : Out :=
  atom 6 (.atomXchg h m d ad b) h m d ad b s
def execAtomFadd (h : Hdr) (m : AtomM) (d : Reg) (ad : Addr) (b : Src) (s : State) : Out :=
  atom 7 (.atomFadd h m d ad b) h m d ad b s

def execAcas (h : Hdr) (m : AtomM) (d : Reg) (ad : Addr) (b n : Src) (s : State) : Out :=
  perLane (.acas h m d ad b n) h s (fun s c =>
    atomOne h m .cas d ad (readRegs c.w c.l n (atomBytes m / 4))
      (BitVec.ofNat 64 (readRegs c.w c.l b (atomBytes m / 4))) s c)

/-! ### Scratchpad and window space, R224 to R226, R56, R57 -/

/-- A strong scratchpad access inside a TRY aborts it; the others are performed as they issue.
(DEDUCED, log entry 58.) -/
def execLds (h : Hdr) (m : AccM) (d : Reg) (ad : Addr) (s : State) : Out :=
  perLane (.lds h m d ad) h s (fun s c =>
    let n := widthBytes m.width
    match scratchCheck c.tm (c.offset ad) n with
    | .error e => (s, e)
    | .ok off =>
      let r := scratchLoad s c off n
      let x := loadVal (signedWidth m.width) n r.2
      if widthRegs m.width = 1 then (r.1, .done (dst1 h d (x.extractLsb' 0 32)))
      else (r.1, .done (dstN h d (widthRegs m.width) x.toNat)))

/-- DEDUCED, log entry 58. -/
def execSts (h : Hdr) (m : AccM) (ad : Addr) (b : Src) (s : State) : Out :=
  perLane (.sts h m ad b) h s (fun s c =>
    let n := widthBytes m.width
    match scratchCheck c.tm (c.offset ad) n with
    | .error e => (s, e)
    | .ok off =>
      match scratchStore s c off (leBytes n (storeData c m b)) with
      | (s, true) => (s, .done {})
      | (s, false) => (s, .stay))

/-- The warp of a window address and the offset in it, or the trap. -/
def windowCheck (c : Lc) (wa : Int) : Except LaneRes (Nat × Nat) :=
  if wa % 4 != 0 then .error (trapped cALIGN 0)
  else if wa < 0 || 0x1FFFFC < wa then .error (trapped cWSPACE 1)
  else
    match c.tm.warps.findIdx? (fun w => w.ctx == wa.toNat / 2 ^ 15) with
    | some k => .ok (k, wa.toNat % 2 ^ 15)
    | none => .error (trapped cWSPACE 0)

/-- DEDUCED, log entry 59. -/
def execLdw (h : Hdr) (d : Reg) (ad : Addr) (s : State) : Out :=
  perLane (.ldw h d ad) h s (fun s c =>
    match windowCheck c (c.offset ad) with
    | .error e => (s, e)
    | .ok (k, off) =>
      match s.warp? c.is.team k with
      | some w => (s, .done (dst1 h d (windowRead c.tm.desc.win w off)))
      | none => (s, .done (dst1 h d 0)))

/-- A write to WSTAT, R50 and R29: UCONFLICT is cleared by a 1, LOCKSTEP is written. Setting LOCKSTEP takes the
warp's FILED lanes out of their bins. -/
def writeWstat (now : Nat) (w : Warp) (x : Word) : Warp :=
  { w with
    uconflict := w.uconflict && !x.getLsbD 1
    lockstep := x.getLsbD 0
    stack := if x.getLsbD 0 then w.stack else []
    lanes := if x.getLsbD 0 && !w.lockstep then
        w.lanes.map (fun l => if l.under == .filed then l.release now else l)
      else w.lanes }

def writePredWord (w : Warp) (k : Fin 8) (x : Word) : Warp :=
  { w with lanes := w.lanes.zipIdx.map (fun l => if l.1.live then l.1.wrP k (x.getLsbD l.2) else l.1) }

/-- A word of a warp's window is written, R56. -/
def windowWrite (win now : Nat) (w : Warp) (off : Nat) (x : Word) : Warp :=
  if off < 0x6000 then
    if off / 128 < 8 * win then w.modLane (off / 4 % 32) (fun l => l.wrV (off / 128) x) else w
  else if off < 0x6100 then w.wrS ((off - 0x6000) / 4) x
  else if off < 0x6120 then writePredWord w (Fin.ofNat 8 ((off - 0x6100) / 4)) x
  else if off = 0x6120 then writeWstat now w x
  else w

/-- FILED lanes of a warp leave the bins' slots; lanes that wait for a slot stay. -/
def unfileSlots (s : State) (uid w : Nat) : State :=
  { s with bins := (s.bins.map (fun (b : Bin) =>
      if b.team == uid && b.slots.any (fun x => x.2 == w) then rebin s { b with slots := b.slots.filter (fun x => x.2 != w) }
      else b)).filter (fun (b : Bin) => !(b.slots.isEmpty && b.waiting.isEmpty)) }

def stwOne (ad : Addr) (b : Src) (s : State) (c : Lc) : State × LaneRes :=
  match windowCheck c (c.offset ad) with
  | .error e => (s, e)
  | .ok (k, off) =>
    let x := c.src b
    let locks := match s.warp? c.is.team k with
      | some w => off = 0x6120 && x.getLsbD 0 && !w.lockstep | none => false
    let s := if locks then unfileSlots s c.is.team k else s
    let s := s.modWarp c.is.team k (fun w => windowWrite c.tm.desc.win s.cycle w off x)
    -- a warp of this issue group is arranged when the group's PCs have moved on
    let s := if locks && !c.is.lanes.any (fun y => y.1 == k) then s.modWarp c.is.team k relock else s
    (s, .done {})

/-- DEDUCED, log entry 59. -/
def execStw (h : Hdr) (ad : Addr) (b : Src) (s : State) : Out := perLane (.stw h ad b) h s (stwOne ad b)

/-! ### FENCE and PREF, R231, R232 -/

/-- The release of R88 and R89; no earlier access of the lane is outstanding as it issues. -/
def execFence (h : Hdr) (scope : Scope) (s : State) : Out :=
  perWarp (.fence h scope) h s (fun _ _ => none) (fun s c =>
    match release s c.fence scope with
    | (s, .ok) => (s, .done {})
    | (s, .wait) => (s, .wait .retry)
    | (s, .fault) => (s, .stay))

/-- The accessed update of R353; nothing else can be seen of a prefetch, and no failure is reported. -/
def prefOne (hint : Hint) (ad : Addr) (s : State) (c : Lc) : State :=
  if hint == .noalloc || ad.base.isLatch || srcOdd ad.base || srcBeyond c.tm.desc.win ad.base 2 then s
  else
    match globalCheck s c.space (c.ea ad) 1 .load with
    | .error _ => s
    | .ok ia => (translate s c.space ia .load false).1

def execPref (h : Hdr) (hint : Hint) (ad : Addr) (s : State) : Out :=
  perLane (.pref h hint ad) h s (fun s c => (prefOne hint ad s c, .done {}))

/-! ### The memory side -/

/-- The access passes the gate of its point, and is performed. -/
def throughGate (s : State) (t : Team) (a : Access) (leaf : BitVec 128) : State :=
  let r := gatePass s t a (pointOf (s.part t.space).secmask t.core true leaf a.ia (a.scope.getD .d))
  if r.2 then performAccess r.1 { a with gated := false } else s

/-- The access that the move names, when neither a gate nor a rank nor a freeze holds it, is translated and performed. -/
def execTranslationWalk (s : State) : Out :=
  event s (fun s =>
    match s.accs.find? (fun a => a.id == s.named) with
    | some a =>
      if !(a.ord.isNone && movable s a && !relHeld s a) then s
      else match s.team? a.team with
      | some t =>
        if !atGate s t a then performAccess s a
        else (match lookup s t.space a.ia a.op.need true with | .ok tr => throughGate s t a tr.leaf | _ => s)
      | none => performAccess s a
    | none => s)

/-- The outstanding result that the move names is written, R198, R223; a lane that waits for it issues again. -/
def arrive (s : State) (load : Bool) : State :=
  match s.results.find? (fun r => r.id == s.named) with
  | some r => if r.load == load then applyResult { s with results := s.results.filter (fun x => x.id != r.id) } r else s
  | none => s

def execLoadDataArrival (s : State) : Out := event s (fun s => arrive s true)
def execResultWriteback (s : State) : Out := event s (fun s => arrive s false)

/-- An ORD access is applied when its rank is established and every lower rank has been applied, R342. -/
def execOrdAccessArrival (acc : Nat) (s : State) : Out :=
  event s (fun s =>
    match s.accs.find? (fun a => a.id == acc) with
    | some a =>
      match s.team? a.team with
      | some t => if a.ord.isSome && movable s a && ordReady s t a then performAccess s a else s
      | none => s
    | none => s)

/-- A gated access reaches its point's gate, R393. One whose translation fails passes, to fault. -/
def execReplayGateArrival (acc : Nat) (s : State) : Out :=
  event s (fun s =>
    match s.accs.find? (fun a => a.id == acc) with
    | some a =>
      match s.team? a.team with
      | some t =>
        if !a.gated || !earliest s a || (a.ord.isSome && !ordReady s t a) then s
        else
          let pass (s : State) : State :=
            { s with accs := s.accs.map (fun b => if b.id == acc then { b with gated := false } else b) }
          match lookup s t.space a.ia a.op.need true with
          | .ok tr => throughGate s t a tr.leaf
          | .frozen false => s
          | _ => pass s
      | none => s
    | none => s)

/-! ### Late faults, R368, R369 -/

/-- No access of the warp can move before its faults are taken, but for those not yet sent, and no result is outstanding. -/
def settled (s : State) (team warp : Nat) : Bool :=
  s.accs.all (fun a => !(a.team == team && a.warp == warp) || a.fault.isSome || a.unsent || !earliest s a) &&
  !s.results.any (fun r => r.team == team && r.warp == warp)

/-- The access was issued inside the warp's active TRY. -/
def Warp.issuedInside (w : Warp) (a : Access) : Bool := 0 < w.tx.depth && w.tx.start ≤ a.id

/-- The fault of an access issued inside an active TRY, of the lowest lane that has one, but for those that a page-fault save
resolves. -/
def insideFault (s : State) (team warp : Nat) (w : Warp) : Option Access :=
  (List.range 32).findSome? (fun k =>
    s.accs.find? (fun a => a.team == team && a.warp == warp && a.lane == k && a.fault.isSome && w.issuedInside a && !savedFault s a))

/-- What the host agent has declined for some faults is forgotten. -/
def forgetDeclined (s : State) (fs : List Access) : State :=
  let gone := fs.map (fun b => ((((s.team? b.team).map (·.space)).getD 0), b.ia / 65536))
  { s with pagesDeclined := s.pagesDeclined.filter (fun (p : Nat × Nat) => !gone.contains p) }

/-- The warp may take its late faults: a precise trap, a step stop and a save of its team come first (R382, R386). -/
def mayTakeLate (s : State) (t : Team) (wi : Nat) (w : Warp) : Bool :=
  settled s t.uid wi && w.st == .live && w.trap.isNone && !w.fired && t.saving.isNone && (stepLanes s t w).isEmpty

/-- The fault of an access issued inside the warp's active TRY aborts it (R192). Otherwise the warp takes the trap of R368 and
every lane with a fault goes to its region entry. A page-fault save has the faults that it resolves. -/
def takeLate (s : State) (team warp : Nat) : State :=
  match s.team? team, s.warp? team warp with
  | some t, some w =>
    let fs := (faultsOf s team warp).filter (fun a => !w.issuedInside a)
    if !mayTakeLate s t warp w then s
    else match insideFault s team warp w with
    | some a =>
      let why : Byte × Byte := a.fault.getD (0, 0)
      abortTry (forgetDeclined s [a]) team warp 4 why.1.toNat why.2.toNat
    | none =>
      match fs.find? (fun a => !savedFault s a) with
      | none => s
      | some a =>
        let s := forgetDeclined s fs
        let s := (fs.filter (fun b => b.fault != a.fault)).foldl toRegion s
        let s := { s with accs := s.accs.filter (fun b =>
          !(b.team == team && b.warp == warp && fs.any (fun f => f.lane == b.lane))) }
        takeTrap s team warp (lateTrap fs a)
  | _, _ => s

def execLateRegionFault (team warp : Nat) (s : State) : Out := event s (fun s => takeLate s team warp)

/-- Every warp of the team is settled: its accesses have been performed, have faulted, or are held. -/
def teamSettled (s : State) (team : Nat) : Bool :=
  s.accs.all (fun a => a.team != team || !saveAwaits s a) && !s.results.any (fun r => r.team == team)

/-- Cecropia has asked the host agent for the page of a fault, or the page is no longer unmapped. -/
def asked (s : State) (space : Nat) (a : Access) : Bool :=
  a.fault != some (cXLATE, 0) || s.link.contains (.preq space (a.ia / 65536 * 65536)) ||
  (match lookup s space a.ia .load true with | .fail sub => sub != 0 | _ => true)

/-- Some teams are saved and pooled until the pages of their faults come back. -/
def savePages (s : State) (us : List Nat) : State :=
  let fs := s.accs.filter (savedFault s)
  us.foldl (fun s u => (saveTeam s u .pagefault true).modTeam u (fun t =>
    { t with pages := ((fs.filter (fun a => a.team == u)).map (fun a => a.ia / 65536)).eraseDups })) s

/-- Accesses of the team await pages, which Cecropia has asked for: it is saved with its co-scheduled group (R67) once the units
of R376 allow, and no warp of the group issues until then. -/
def pageFaultSave (s : State) (team : Nat) : State :=
  match s.team? team with
  | none => s
  | some t =>
    let fs := s.accs.filter (fun a => a.team == team && savedFault s a)
    let us := runningGroup s t
    if t.st != .running || fs.isEmpty || !fs.all (asked s t.space) then s
    else if us.all (fun u => teamSettled s u && !saveWaits s u) then savePages s us
    else us.foldl (fun s u => s.modTeam u (fun t =>
      if t.saving.isSome then t else { t with saving := some { reason := .pagefault, team := 0, warp := 0, pc := 0 } })) s

def execPageFaultSave (team : Nat) (s : State) : Out := event s (fun s => pageFaultSave s team)

end Sys2Proof.Machine
end

