-- ==== Sys2Proof/Machine/Engine.lean ====
section
/-! DEFINITION. What engine operations share: tile shapes (R53 to R55), the tile table and its stamps (R62, R63,
R389), power leave (R318, R410, R411), beats and their translations (R345, R350), engine faults (R370), fork
and join (R92). -/

namespace Sys2Proof.Machine

/-! ### Shapes, R53 to R55 -/

structure Shape where
  ty : Nat
  scale : Nat
  rows : Nat
  cols : Nat
  pitch : Nat
  base : Nat
deriving DecidableEq, Repr

def shapeOf (x : DWord) : Shape where
  ty := (x.extractLsb' 60 4).toNat
  scale := (x.extractLsb' 58 2).toNat
  rows := (x.extractLsb' 46 12).toNat + 1
  cols := (x.extractLsb' 34 12).toNat + 1
  pitch := (x.extractLsb' 18 16).toNat
  base := 64 * (x.extractLsb' 0 18).toNat

def Shape.rb (h : Shape) : Nat := (h.cols * typeBits h.ty + 7) / 8
def Shape.extent (h : Shape) : Nat := (h.rows - 1) * h.pitch + h.rb

/-- The check of R55 against a tile area in KiB. -/
def Shape.ok (h : Shape) (areaK : Nat) : Bool :=
  h.ty != 15 && h.scale != 3 && !(1 < h.rows && h.pitch < h.rb) && h.pitch % 4 == 0 &&
  h.extent ≤ 32768 && h.base + h.extent ≤ 1024 * areaK

def Team.shape (t : Team) (n : Nat) : Shape := shapeOf (cget t.tsh n)
def Team.shapeOk (t : Team) (n : Nat) : Bool := (t.shape n).ok t.desc.tileK
def Team.tile (t : Team) (n : Nat) : TileEnt := (t.ttab[n]?).getD ⟨.empty, false, false, none⟩
def State.tile (s : State) (uid n : Nat) : TileEnt := ((s.team? uid).map (fun t => t.tile n)).getD ⟨.empty, false, false, none⟩

/-- Element (r, c) of a tile: element c of its row, packed from bit 0 of the row (R54). -/
def elemAt (m : Cells 8) (h : Shape) (r c : Nat) : Nat :=
  let b := c * typeBits h.ty
  readLE m (h.base + r * h.pitch + b / 8) ((b % 8 + typeBits h.ty + 7) / 8) / 2 ^ (b % 8) % 2 ^ typeBits h.ty

/-- Writes one element and leaves the other bits of its bytes. -/
def setElem (m : Cells 8) (h : Shape) (r c x : Nat) : Cells 8 :=
  let w := typeBits h.ty
  let b := c * w
  let a := h.base + r * h.pitch + b / 8
  let n := (b % 8 + w + 7) / 8
  let old := readLE m a n
  let rest := old - old / 2 ^ (b % 8) % 2 ^ w * 2 ^ (b % 8)
  writeLE m a n (rest + x % 2 ^ w * 2 ^ (b % 8))

/-! ### The tile table -/

def noLife : TileLife := ⟨0, 0, 0, 0, 0, 0⟩
def setTime (old now : Nat) : Nat := if old = 0 then now else old

/-- A change of state of a tile: a copy-in gives its times, and a return to EMPTY ends the life with a stamp
record (R389). (DEDUCED, log entry 57.) -/
def setTile (s : State) (uid n : Nat) (st : TileSt) (copyIn : Bool) : State :=
  match s.team? uid with
  | none => s
  | some t =>
    let now := s.clock.toNat
    let old := (t.tile n).st
    let life := (t.lives[n]?).getD noLife
    let life := if copyIn && st == .filling then { life with inStart := setTime life.inStart now } else life
    let life := if copyIn && st == .ready then { life with inEnd := setTime life.inEnd now } else life
    let s := s.modTeam uid (fun t => { t with
      ttab := t.ttab.modify n (fun e => { e with st := st })
      lives := t.lives.set n (if st == .empty && old != .empty then noLife else life) })
    if st == .empty && old != .empty then
      stamp s t 1 0 n [life.inStart, life.inEnd, life.wait, life.cStart, life.cEnd, life.outEnd]
    else s

/-- An engine operation that names the tile issues, or joins (R92), in a life of the tile; a copy out joins.
(DEDUCED, log entry 57.) -/
def computeStart (s : State) (uid n : Nat) : State :=
  if (s.tile uid n).st == .empty then s else modLife s uid n (fun l => { l with cStart := setTime l.cStart s.clock.toNat })
def computeEnd (s : State) (uid n : Nat) : State :=
  if (s.tile uid n).st == .empty then s else modLife s uid n (fun l => { l with cEnd := s.clock.toNat })
def copyOutEnd (s : State) (uid n : Nat) : State := modLife s uid n (fun l => { l with outEnd := s.clock.toNat })

/-- A wait on tile n. -/
def waitTile (s : State) (n : Nat) : State × LaneRes := (s, .wait (.tile n))

/-- The first of some tiles that is not in the state an instruction needs. -/
def firstNot (s : State) (uid : Nat) (st : TileSt) (ns : List Nat) : Option Nat :=
  ns.find? (fun n => (s.tile uid n).st != st)

/-! ### Power leave, R318, R410, R411 -/

def chargeOf (kind : Nat) : Nat := match kind with | 1 | 2 => 16 | 3 => 4 | 4 => 8 | _ => 0

/-- Amperes of every grant held: by LEAVE, by a request not yet consumed, by an operation. -/
def heldTotal (s : State) : Nat :=
  s.teams.foldl (fun n t => n + t.grants.foldl (fun n g => n + chargeOf g.1) 0) 0
  + s.leaves.foldl (fun n r => n + if r.forOp then r.got * chargeOf r.kind else 0) 0
  + s.ops.foldl (fun n o => n + o.charge) 0

/-- The request for which the lanes of a warp wait. -/
def leaveFor (s : State) (c : Lc) : Option LeaveReq :=
  c.act.findSome? (fun k =>
    match c.w.lanes[k]? with
    | some l => match l.wait with
      | .leave id => if l.st == .blocked || l.st == .ready then s.leaves.find? (fun r => r.id == id) else none
      | _ => none
    | none => none)

def dropRequest (s : State) (id : Nat) : State := { s with leaves := s.leaves.filter (fun r => r.id != id) }

/-- The warp asks the governor for grants, and its lanes wait for them. -/
def askLeave (s : State) (c : Lc) (forOp : Bool) (kind count : Nat) : State × Wait :=
  ({ s with
    leaves := s.leaves ++ [{ id := s.serial, team := c.is.team, warp := c.wi, pc := c.is.pc, forOp, kind, count, arrived := false, got := 0 }]
    serial := s.serial + 1 }, .leave s.serial)

/-- A grant of a kind that has not lapsed. -/
def usable (s : State) (kind : Nat) (g : Nat × Nat) : Bool := g.1 == kind && s.cycle < g.2

/-- When the grant lapses that a heavy operation is about to take from its team; 0: it takes none. -/
def heldUntil (s : State) (c : Lc) (kind : Nat) : Nat :=
  if (leaveFor s c).isSome then 0
  else (((s.team? c.is.team).bind (fun t => t.grants.find? (usable s kind))).map (·.2)).getD 0

/-- A heavy operation takes a grant: its own or one that the team holds and that has not lapsed. Without one it asks for it
and waits. -/
def takeLeave (s : State) (c : Lc) (kind : Nat) : State × Option Wait :=
  match leaveFor s c with
  | some r => if 0 < r.got then (dropRequest s r.id, none) else (s, some (.leave r.id))
  | none =>
    match s.team? c.is.team with
    | none => (s, none)
    | some t =>
      if t.grants.any (usable s kind) then
        (s.modTeam c.is.team (fun t => { t with grants := t.grants.eraseP (usable s kind) }), none)
      else
        let r := askLeave s c true kind 1
        (r.1, some r.2)

/-! ### Operations -/

def blankOp (i : Instr) (c : Lc) : EngOp where
  id := 0
  ins := i
  team := c.is.team
  warp := c.wi
  lane := c.slot
  pc := c.is.pc
  len := c.is.len
  bits := c.is.bits
  args := []
  ias := []
  tiles := []
  pos := 0
  stuck := false
  charge := 0
  dst := none
  latch := none

/-- The operation begins; what is still outstanding for its status no longer writes it (R223). -/
def addOp (s : State) (o : EngOp) : State :=
  let s := overtake s o.team o.warp o.lane (dstRegs o.dst) o.latch
  { s with ops := s.ops ++ [{ o with id := s.serial }], serial := s.serial + 1 }

/-- The operation may run: no fault holds it, and its team is on its core. -/
def opRuns (s : State) (o : EngOp) : Bool :=
  !o.stuck && match s.team? o.team with | some t => t.st == .running || t.st == .ending | none => false

def EngOp.arg (o : EngOp) (k : Nat) : Nat := (o.args[k]?).getD 0

/-! ### Beats -/

/-- One beat: its VA, its IA, its bytes and where they lie in the tile area. -/
structure Beat where
  va : Nat
  ia : Nat
  len : Nat
  off : Nat
deriving DecidableEq, Repr

/-- [a, a + n) cut at multiples of 64. -/
def pieces64 (a n : Nat) : List (Nat × Nat) :=
  if n = 0 then []
  else (List.range ((a + n - 1) / 64 - a / 64 + 1)).map (fun k =>
    let lo := max a ((a / 64 + k) * 64)
    (lo, min (a + n) ((a / 64 + k + 1) * 64) - lo))

/-- Rows of a copy as beats, IAs still 0; st is a signed stride. -/
def rowBeats (g : DWord) (st : Word) (h : Shape) : List Beat :=
  (List.range h.rows).flatMap (fun i =>
    let a := (g + BitVec.ofNat 64 i * st.signExtend 64).toNat
    (pieces64 a h.rb).map (fun p => ⟨p.1, 0, p.2, h.base + i * h.pitch + (p.1 - a)⟩))

/-- One run as beats. -/
def runBeats (va n off : Nat) : List Beat := (pieces64 va n).map (fun p => ⟨p.1, 0, p.2, off + (p.1 - va)⟩)

/-- R345 for every beat: the IAs, or the trap of the first that fails. -/
def checkBeats (s : State) (space : Nat) (need : Need) (bs : List Beat) : Except LaneRes (List Nat) :=
  match s.ctx? space with
  | none => .error (.trap cRANGE 1 0 0 false)
  | some c =>
    bs.foldr (fun b acc =>
      match rangeCheck c (BitVec.ofNat 64 b.va) need with
      | .error sub => .error (.trap cRANGE sub (BitVec.ofNat 64 b.va) 0 false)
      | .ok ia => acc.map (fun l => ia :: l)) (.ok [])

def withIas (bs : List Beat) (ias : List Nat) : List Beat := (bs.zip ias).map (fun x => { x.1 with ia := x.2 })

inductive BeatRes
  | ok
  | wait
  | fail (sub : Byte)
deriving DecidableEq, Repr

/-- What a beat meets: one that meets an unreachable package or an uncorrectable error is not performed (R375, R416). -/
def beatRes (s : State) (space : Nat) (need : Need) (b : Beat) : BeatRes :=
  match lookup s space b.ia need false with
  | .ok tr => if unreachable s tr.leaf || (need != .store && corrupt s tr.pa b.len) then .wait else .ok
  | .frozen _ => .wait
  | .fail sub => .fail sub

/-- Every beat translates. -/
def allTranslate (s : State) (space : Nat) (need : Need) (bs : List Beat) : Bool := bs.all (fun b => beatRes s space need b == .ok)

/-- Makes numbered beats in their order, each through its own translation, up to the first that does not translate; with
that one's number. -/
def makeBeats (space : Nat) (need : Need) (act : State → Beat → Trans → State) (s : State) (bs : List (Beat × Nat)) :
    State × Option Nat :=
  bs.foldl (fun r x =>
    match r.2 with
    | some _ => r
    | none =>
      match translateFor r.1 space x.1.ia x.1.len need false with
      | (s, .ok tr) => (act s x.1 tr, none)
      | (s, _) => (s, some x.2)) (s, none)

/-- The beats of an operation from the one at which it stands. -/
def beatsFrom (o : EngOp) (bs : List Beat) : List (Beat × Nat) := bs.zipIdx.drop o.pos

/-- Makes the beats of an operation from where it stands, as far as they go; it stands at the one that stopped it, or past
the last, which the answer says. -/
def runBeatsOf (space : Nat) (need : Need) (act : State → Beat → Trans → State) (s : State) (o : EngOp) (bs : List Beat) :
    State × Bool :=
  match makeBeats space need act s (beatsFrom o bs) with
  | (s, some k) => (s.modOp o.id (fun o => { o with pos := k }), false)
  | (s, none) => (s.modOp o.id (fun o => { o with pos := bs.length }), true)

/-- A beat's bytes go from memory to its place in the tile area of a team. -/
def fillFrom (uid : Nat) (s : State) (b : Beat) (tr : Trans) : State :=
  match s.team? uid with
  | none => s
  | some t =>
    let bs := readBytes s t.core t.desc.fused t.space b.ia b.len tr
    s.modTeam uid (fun t => { t with tileMem := memPut t.tileMem b.off bs })

/-- A beat's bytes go from the tile area to memory. -/
def drainTo (uid : Nat) (s : State) (b : Beat) (tr : Trans) : State :=
  match s.team? uid with
  | none => s
  | some t => memStore s none t.core t.desc.fused t.space b.ia (cread t.tileMem b.off b.len) tr

/-! ### Engine faults, R370 -/

def liveWarp (w : Warp) : Bool := w.st != .free && w.lanes.any (fun l => l.live)

/-- The operation stops at a beat; its warp, or the lowest live one, is interrupted at its next issue; a team with
none left stops its context. -/
def engineFault (s : State) (o : EngOp) (cause sub : Byte) (va ia : Nat) (pos : Nat) : State :=
  match s.team? o.team with
  | none => s
  | some t =>
    let s := s.modOp o.id (fun o => { o with stuck := true, pos := pos, va := BitVec.ofNat 64 va, handler := none })
    let ti : TrapInfo :=
      { cause, sub, kind := 3, lanes := maskOf [o.lane], pc := o.pc, ilen := ilenOf o.len, insn := o.bits
        va := BitVec.ofNat 64 va, ia := BitVec.ofNat 64 ia, tile := Fin.ofNat 32 (o.tiles.headD 0), regions := [], op := some o.id }
    let k := if ((t.warps[o.warp]?).map liveWarp).getD false then some o.warp else t.warps.findIdx? liveWarp
    match k with
    | some k => s.modWarp o.team k (fun w => { w with pend := w.pend ++ [ti] })
    | none => stopContext s t.space cause sub (BitVec.ofNat 64 ia) t.frameF (((t.warps[o.warp]?).map (·.ctx)).getD 0)

/-- After the ERET of the handler that took its fault an operation goes on. -/
def resumeOps (s : State) (uid warp : Nat) : State :=
  { s with ops := s.ops.map (fun o =>
      if o.team == uid && o.handler == some warp then { o with stuck := false, handler := none } else o) }

/-! ### Fork, R92 -/

/-- The release of an operation's scope as it issues: the lane waits while a write-back waits. -/
def forkRelease (s : State) (c : Lc) (scope : Scope) (k : State → State × LaneRes) : State × LaneRes :=
  match release s c.fence scope with
  | (s, .ok) => k s
  | (s, .wait) => (s, .wait .retry)
  | (s, .fault) => (s, .stay)

end Sys2Proof.Machine
end

