-- ==== Sys2Proof/Machine/Tiles.lean ====
section
/-! DEFINITION. Page 4 and MCAST (R233 to R241): tile declarations, copies, the masked multicast (R71 to R73), the
ring rotation (R67), stage rings (R65) and message channels (R74 to R76). -/

namespace Sys2Proof.Machine

def tshape : LaneRes := ill .tshape

/-- The issue check TSHAPE of an instruction on some tiles (R55, R161). -/
def shapeCheck (ns : List Nat) (s : State) (c : Lc) : Option LaneRes :=
  match s.team? c.is.team with
  | some t => if ns.all t.shapeOk then none else some tshape
  | none => none

/-! ### Declarations, R236, R237 -/

/-- TFREE's effect: EMPTY, ARM cleared, a pending delivery kept. -/
def freeTile (s : State) (uid n : Nat) : State :=
  let s := s.modTeam uid (fun t => { t with ttab := t.ttab.modify n (fun e => { e with arm := false, keep := false }) })
  if (s.tile uid n).st == .empty then s else setTile s uid n .empty false

def tileIdle (e : TileEnt) : Bool := e.st == .empty || e.st == .ready

def execTdecl (h : Hdr) (t : Fin 32) (src : TdeclSrc) (s : State) : Out :=
  perWarp (.tdecl h t src) h s (fun _ _ => none) (fun s c =>
    if !tileIdle (s.tile c.is.team t.val) then waitTile s t.val
    else
      let x := match src with | .reg a => c.pair a | .imm x => x
      if !(shapeOf x).ok c.tm.desc.tileK then (s, tshape)
      else
        let s := freeTile s c.is.team t.val
        (s.modTeam c.is.team (fun tm => { tm with tsh := cset tm.tsh t.val x }), .done {}))

def execTfree (h : Hdr) (t : Fin 32) (s : State) : Out :=
  perWarp (.tfree h t) h s (fun _ _ => none) (fun s c =>
    if !tileIdle (s.tile c.is.team t.val) then waitTile s t.val
    else (freeTile s c.is.team t.val, .done {}))

def execTstate (h : Hdr) (d : Reg) (t : Fin 32) (s : State) : Out :=
  pureLanes (.tstate h d t) h s (fun c => .done (dst1 h d (BitVec.ofNat 32 (tileWord (c.tm.tile t.val)))))

/-- tshN after a write: a reserved TYPE or SCALE leaves that field as it is (R14, R53, R54; log entry 63). -/
def shapeWrite (old new : DWord) : DWord :=
  let ty : BitVec 4 := new.extractLsb' 60 4
  let sc : BitVec 2 := new.extractLsb' 58 2
  (if ty = 15 then old.extractLsb' 60 4 else ty) ++ (if sc = 3 then old.extractLsb' 58 2 else sc) ++
    new.extractLsb' 0 58

def execMovTshFromS (h : Hdr) (t : Fin 32) (a : Src) (s : State) : Out :=
  perWarp (.movTshFromS h t a) h s (fun _ _ => none) (fun s c =>
    if !tileIdle (s.tile c.is.team t.val) then waitTile s t.val
    else (s.modTeam c.is.team (fun tm => { tm with tsh := cset tm.tsh t.val (shapeWrite (cget tm.tsh t.val) (c.pair a)) }), .done {}))

def execMovSFromTsh (h : Hdr) (d : Reg) (t : Fin 32) (s : State) : Out :=
  perWarp (.movSFromTsh h d t) h s (fun _ _ => none) (fun s c =>
    (s, .done (dst2 h d (((s.team? c.is.team).map (fun tm => cget tm.tsh t.val)).getD 0))))

/-! ### TARM, R63, R73 -/

/-- The pending unicast fill starts. -/
def startFill (i : Instr) (c : Lc) (t : Nat) (p : Delivery) (h : Shape) (s : State) : State × LaneRes :=
  match checkBeats s c.space .load (runBeats p.va.toNat p.ext h.base) with
  | .error e => (s, e)
  | .ok ias =>
    let s := s.modTeam c.is.team (fun tm => { tm with
      ttab := tm.ttab.modify t (fun e => { e with pend := none, arm := false }) })
    let s := setTile s c.is.team t .filling true
    (addOp s { blankOp i c with args := [p.va.toNat, p.ext], ias := ias, tiles := [t] }, .done {})

def execTarm (h : Hdr) (t : Fin 32) (s : State) : Out :=
  perWarp (.tarm h t) h s (shapeCheck [t.val]) (fun s c =>
    match s.team? c.is.team with
    | none => (s, .stay)
    | some tm =>
      let e := tm.tile t.val
      if e.st != .empty then waitTile s t.val
      else
        match e.pend with
        | none => (s.modTeam c.is.team (fun tm => { tm with ttab := tm.ttab.modify t.val (fun e => { e with arm := true }) }), .done {})
        | some p =>
          if p.ext == (tm.shape t.val).extent then startFill (.tarm h t) c t.val p (tm.shape t.val) s
          else (s.modTeam c.is.team (fun tm => { tm with ttab := tm.ttab.modify t.val (fun e => { e with pend := none }) }), ill .mcast))

/-! ### Copies, R238 -/

def cpyScope (m : CpyM) : Scope := m.scope.getD .d

def cpyAddr (c : Lc) (ad : Addr) : DWord := c.pair ad.base + (ad.off.getD 0).signExtend 64

/-- The beats of a copy operation. -/
def copyBeats (t : Team) (o : EngOp) : List Beat :=
  withIas (rowBeats (BitVec.ofNat 64 (o.arg 0)) (BitVec.ofNat 32 (o.arg 1)) (t.shape (o.tiles.headD 0))) o.ias

/-- The bytes, by IA, that the team's core reads as its own writes have left them (R92). -/
def ownBytes (s : State) (t : Team) : Cells 8 :=
  let dirty := (s.l1.filter (fun d => d.space == t.space && d.core == t.l1Core d.ia)).map (·.ia)
  let noted := (s.mcasts.filter (fun m => m.space == t.space)).flatMap (fun m => (m.wrote.filter (fun x => x.1 == t.l1Core x.2)).map (·.2))
  (dirty ++ noted).foldl (fun m a => cset m a 1) []

/-- CPYIN reads at its fork what translates then (R92, R93); the rest is read as it comes to translate. -/
def fillRun (s : State) (o : EngOp) : State × Bool :=
  match s.team? o.team with
  | none => (s, false)
  | some t => runBeatsOf t.space .load (fillFrom o.team) s o (copyBeats t o)

/-- The operation that has just begun. -/
def newest (s : State) (f : EngOp → State) : State :=
  match s.op? (s.serial - 1) with | some o => f o | none => s

def copyOne (i : Instr) (out free : Bool) (m : CpyM) (t : Nat) (ad : Addr) (b : Src) (s : State) (c : Lc) :
    State × LaneRes :=
  match s.team? c.is.team with
  | none => (s, .stay)
  | some tm =>
    let g := cpyAddr c ad
    let st := c.src b
    let e := tm.tile t
    let bs := rowBeats g st (tm.shape t)
    if g.toNat % 4 != 0 || st.toNat % 4 != 0 then (s, .trap cALIGN 0 g 0 false)
    else if e.st != (if out then TileSt.ready else TileSt.empty) then waitTile s t
    else if !out && e.arm then (s, ill .tarmed)
    else
      match checkBeats s c.space (if out then .store else .load) bs with
      | .error e => (s, e)
      | .ok ias =>
        forkRelease s c (cpyScope m) (fun s =>
          let s := if out then s.modTeam c.is.team (fun tm => { tm with
              ttab := tm.ttab.modify t (fun e => { e with keep := !free }) }) else s
          let s := setTile s c.is.team t (if out then .draining else .filling) (!out)
          let s := addOp (computeStart s c.is.team t) { blankOp i c with
            args := [g.toNat, st.toNat], ias := ias, tiles := [t], kept := if out then none else some (ownBytes s tm) }
          (if out then s else newest s (fun o => (fillRun s o).1), .done {}))

def execCpyin (h : Hdr) (m : CpyM) (t : Fin 32) (ad : Addr) (b : Src) (s : State) : Out :=
  perWarp (.cpyin h m t ad b) h s (shapeCheck [t.val]) (copyOne (.cpyin h m t ad b) false false m t.val ad b)
def execCpyout (h : Hdr) (free : Bool) (m : CpyM) (t : Fin 32) (ad : Addr) (b : Src) (s : State) : Out :=
  perWarp (.cpyout h free m t ad b) h s (shapeCheck [t.val]) (copyOne (.cpyout h free m t ad b) true free m t.val ad b)

/-! ### What merged requesters receive, R72 -/

/-- The multicast's beat that holds an IA. -/
def Mcast.beatAt (m : Mcast) (ia : Nat) : Option Nat := m.ias.findIdx? (fun x => x / 64 == ia / 64)
def Mcast.hasLeft (m : Mcast) (k : Nat) : Bool := m.left.any (fun x => x.1 == k)
def Mcast.allLeft (m : Mcast) : Bool := (List.range m.ias.length).all m.hasLeft
def Mcast.joined (m : Mcast) (op : Nat) (isOp : Bool) : Option Merged := m.merged.find? (fun x => x.op == op && x.isOp == isOp)

/-- The multicast, and its beat, through which beat k of an operation, at an IA, is obtained. -/
def through (s : State) (op k ia : Nat) : Option (Mcast × Nat) :=
  s.mcasts.findSome? (fun m =>
    match m.joined op true, m.beatAt ia with
    | some x, some j => if x.missed.contains k then none else some (m, j)
    | _, _ => none)

/-- Some beat of the operation still comes through a multicast. -/
def awaitsBeat (s : State) (o : EngOp) (bs : List Beat) : Bool :=
  bs.zipIdx.any (fun x => match through s o.id x.2 x.1.ia with | some (m, j) => !m.hasLeft j | none => false)

/-- The operation missed the beat, and reads it afresh (R72). -/
def missedBeat (s : State) (op k : Nat) : Bool :=
  s.mcasts.any (fun m => match m.joined op true with | some x => x.missed.contains k | none => false)

def State.mcast? (s : State) (id : Nat) : Option Mcast := s.mcasts.find? (fun m => m.id == id)
def State.modMcast (s : State) (id : Nat) (f : Mcast → Mcast) : State :=
  { s with mcasts := s.mcasts.map (fun m => if m.id == id then f m else m) }

/-- A multicast that has served its mask and its receivers is over: its grant is free. -/
def endMcast (s : State) (mc : Nat) : State :=
  match s.mcast? mc with
  | none => s
  | some m =>
    let served := m.allLeft && m.mask == 0 && m.receivers.isEmpty
    if served && m.merged.isEmpty then
      let s := match s.op? m.op with | some o => computeEnd s o.team m.tile | none => s
      { s.dropOp m.op with mcasts := s.mcasts.filter (fun x => x.id != mc) }
    else if served then s.modOp m.op (fun o => { o with charge := 0 })
    else s

/-- It has what it needed of the multicasts that it joined. -/
def leaveMerges (s : State) (op : Nat) : State :=
  let rest := s.mcasts.map (fun (m : Mcast) => { m with merged := m.merged.filter (fun x => !(x.isOp && x.op == op)) })
  (rest.map (fun m => m.id)).foldl endMcast { s with mcasts := rest }

/-- The bytes of the beats that came through multicasts are in the tile, but for those that the core's own writes decide, which
stand as the fork read them (R92). -/
def fillMerged (s : State) (o : EngOp) (bs : List Beat) : State :=
  let put (m : Mcast) (b : Beat) (mem : Cells 8) : Cells 8 :=
    (List.range b.len).foldl (fun mem k =>
      if cget (o.kept.getD []) (b.ia + k) = 1 then mem else cset mem (b.off + k) (cget m.data (b.ia + k))) mem
  bs.zipIdx.foldl (fun s x =>
    match through s o.id x.2 x.1.ia with
    | some (m, _) => s.modTeam o.team (fun t => { t with tileMem := put m x.1 t.tileMem })
    | none => s) s

/-! ### The end of a copy -/

/-- Which kind an operation on the list is. -/
def isCpyin : Instr → Bool | .cpyin .. => true | _ => false
def isCpyout : Instr → Option Bool | .cpyout _ free .. => some free | _ => none
def isTarm : Instr → Bool | .tarm .. => true | _ => false
def isMcast : Instr → Bool | .mcast .. => true | _ => false
def isRrot : Instr → Option (Bool × Bool) | .rrot _ ring dn _ => some (ring, dn) | _ => none

/-- A merged copy is whole once its beats through multicasts have come and those that it missed have been read, after the last
beat. -/
def endMerge (s : State) (t : Team) (o : EngOp) : State × Bool :=
  let bs := copyBeats t o
  if awaitsBeat s o bs then (s, false)
  else
    match makeBeats t.space .load (fillFrom o.team) s (bs.zipIdx.filter (fun x => missedBeat s o.id x.2)) with
    | (_, some _) => (s, false)
    | (s, none) => (leaveMerges (fillMerged s o bs) o.id, true)

/-- Every beat is in the tile, and the tile is READY. -/
def execCpyinCompletion (op : Nat) (s : State) : Out :=
  event s (fun s =>
    match s.op? op with
    | some o =>
      if !(isCpyin o.ins && opRuns s o) then s
      else match fillRun s o with
      | (s, false) => s
      | (s, true) =>
        match s.team? o.team with
        | some t =>
          match endMerge s t o with
          | (s, true) => setTile (computeEnd (s.dropOp op) o.team (o.tiles.headD 0)) o.team (o.tiles.headD 0) .ready true
          | (s, false) => s
        | none => s
    | none => s)

/-- The beats are written, in their order, and the tile has its state after the copy. -/
def execCpyoutCompletion (op : Nat) (s : State) : Out :=
  event s (fun s =>
    match s.op? op with
    | some o =>
      match s.team? o.team, isCpyout o.ins with
      | some t, some free =>
        if !opRuns s o then s
        else match runBeatsOf t.space .store (drainTo o.team) s o (copyBeats t o) with
        | (s, false) => s
        | (s, true) =>
          let n := o.tiles.headD 0
          let s := computeEnd (copyOutEnd (s.dropOp op) o.team n) o.team n
          let s := s.modTeam o.team (fun t => { t with ttab := t.ttab.modify n (fun e => { e with keep := false }) })
          setTile s o.team n (if free then .empty else .ready) false
      | _, _ => s
    | none => s)

/-! ### Masked multicast, R71 to R73, R233 -/

def mcastBeats (o : EngOp) : List Beat := withIas (runBeats (o.arg 0) (o.arg 2) 0) o.ias

def execMcast (h : Hdr) (t : Fin 32) (a b : Src) (s : State) : Out :=
  perWarp (.mcast h t a b) h s (shapeCheck [t.val]) (fun s c =>
    match s.team? c.is.team with
    | none => (s, .stay)
    | some tm =>
      let ea := c.pair a
      let m := (c.src b).toNat % 65536
      let e := (tm.shape t.val).extent
      if ea.toNat % 64 != 0 then (s, .trap cALIGN 0 ea 0 false)
      else if 32768 < e || m = 0 then (s, ill .mcast)
      else
        match checkBeats s c.space .load (runBeats ea.toNat e 0) with
        | .error e => (s, e)
        | .ok ias =>
          forkRelease s c .d (fun s =>
            match takeLeave s c 3 with
            | (s, some w) => (s, .wait w)
            | (s, none) => (addOp (computeStart s c.is.team t.val) { blankOp (.mcast h t a b) c with
              args := [ea.toNat, m, e, t.val], ias := ias, tiles := [t.val], charge := 4 }, .done {})))

/-- The home slices of a range, as its pages stand; a page that does not translate counts as HASH_ALL. -/
def homesOf (s : State) (t : Team) (ias : List Nat) : List Nat :=
  ias.map (fun ia =>
    let leaf := match lookup s t.space ia .load false with | .ok tr => tr.leaf | _ => 0
    homeSlice (s.part t.space).secmask t.core false leaf ia)

/-- The windows of an operation's lines open. -/
def openMcast (s : State) (t : Team) (o : EngOp) : State :=
  { s with
    mcasts := s.mcasts ++ [{
      id := s.serial, op := o.id, inst := t.inst, sector := sectorOf t.core, space := t.space
      va := BitVec.ofNat 64 (o.arg 0), ias := o.ias, ext := o.arg 2, tile := o.arg 3
      mask := BitVec.ofNat 16 (o.arg 1), opened := s.mesh, homes := homesOf s t o.ias, left := [], data := []
      receivers := [], merged := [] }]
    serial := s.serial + 1 }

def hasWindow (s : State) (op : Nat) : Bool := s.mcasts.any (fun m => m.op == op)

def execMcastRequestArrival (op : Nat) (s : State) : Out :=
  event s (fun s =>
    match s.op? op with
    | some o =>
      match s.team? o.team with
      | some t => if isMcast o.ins && opRuns s o && !hasWindow s op then openMcast s t o else s
      | none => s
    | none => s)

/-- The mesh cycle in which a beat may leave: its slice sends one a cycle from the end of the window on. -/
def Mcast.due (m : Mcast) (k : Nat) : Nat :=
  m.opened + 64 + (m.homes.take k).countP (fun h => h == (m.homes[k]?).getD 0)

/-- The first beat of the line of beat k. -/
def Mcast.lineFirst (m : Mcast) (k : Nat) : Nat :=
  let line := (m.ias[k]?).getD 0 / 128
  (m.ias.findIdx? (fun x => x / 128 == line)).getD k

/-- A requester's beats that the multicast's range covers, with those of them that have left. -/
def coveredBeats (m : Mcast) (ias : List Nat) : List (Nat × Bool) :=
  ias.zipIdx.filterMap (fun x => (m.beatAt x.1).map (fun j => (x.2, m.hasLeft j)))

def mergeOp (s : State) (mc : Nat) (core : Nat) (o : EngOp) (cov : List (Nat × Bool)) : State :=
  s.modMcast mc (fun m => { m with merged := m.merged ++ [⟨core, o.id, true, (cov.filter (·.2)).map (·.1)⟩] })

/-- Beats that an MCAST reads by itself, for its core has written bytes of them since their line began to leave (R92). -/
def ownBeats (m : Mcast) (t : Team) (o : EngOp) (cov : List (Nat × Bool)) : List (Nat × Bool) :=
  if isMcast o.ins then
    cov.map (fun x => (x.1, x.2 || m.wrote.any (fun y => y.1 == t.l1Core y.2 && y.2 / 64 == ((o.ias[x.1]?).getD 0) / 64)))
  else cov

/-- Every beat of the line of beat k has left. -/
def Mcast.lineLeft (m : Mcast) (k : Nat) : Bool :=
  (List.range m.ias.length).all (fun j => m.lineFirst j != m.lineFirst k || m.hasLeft j)

/-- A CPYIN, or an MCAST whose own window has not opened, that names lines of the range is merged: it has the beats that have
not left through the multicast and reads those that it missed afresh; after the last beat it is served on its own (R72). So
is a plain read, named by its access, until its line's last beat has left. (DEDUCED, log entry 52.) -/
def execMergeRequestArrival (mc op : Nat) (s : State) : Out :=
  event s (fun s =>
    match s.mcast? mc with
    | none => s
    | some m =>
      match s.op? op with
      | some o =>
        match s.team? o.team with
        | none => s
        | some t =>
          let cov := coveredBeats m o.ias
          let fits := t.space == m.space && sectorOf t.core == m.sector && o.id != m.op && opRuns s o &&
            (isCpyin o.ins || (isMcast o.ins && !hasWindow s op))
          if !fits || (m.joined op true).isSome || !cov.any (fun x => !x.2) then s
          else
            let s := mergeOp s mc t.core o (ownBeats m t o cov)
            if isMcast o.ins then openMcast s t o else s
      | none =>
        match s.accs.find? (fun a => a.id == op) with
        | some a =>
          match s.team? a.team, m.beatAt a.ia with
          | some t, some j =>
            if t.space == m.space && sectorOf t.core == m.sector && a.op == .load && a.scope.isNone && movable s a &&
              (m.joined op false).isNone && !m.lineLeft j then
              let missed := if m.hasLeft (m.lineFirst j) && m.hasLeft j then [j] else []
              s.modMcast mc (fun m => { m with merged := m.merged ++ [⟨t.core, op, false, missed⟩] })
            else s
          | _, _ => s
        | none => s)

/-- A plain read that joined late takes the bytes that its line held as the first beat left, but for those that its core's own
writes decide. -/
def lateRead (m : Mcast) (s : State) (a : Access) : State :=
  match s.team? a.team with
  | none => s
  | some t =>
    match translateFor s t.space a.ia a.width .load true with
    | (s, .ok tr) =>
      performOn s t a tr ((readBytes s t.core t.desc.fused t.space a.ia a.width tr).zipIdx.map (fun x =>
        if ownByte s t.core t.desc.fused t.space (a.ia + x.2) then x.1 else cget m.data (a.ia + x.2)))
    | _ => performAccess s a

/-- As beat k leaves, the plain reads merged for it are performed: at its line's first beat all of them, later those that joined
late and did not miss it, and after the line's last beat those that did, afresh. One that can no longer move is served on its
own. -/
def performMerged (s : State) (mc k : Nat) : State :=
  match s.mcast? mc with
  | none => s
  | some m =>
    let first := m.lineFirst k == k
    let due (a : Access) : Bool :=
      match m.joined a.id false, m.beatAt a.ia with
      | some x, some j => m.lineFirst j == m.lineFirst k && (first || j == k && x.missed.isEmpty || m.lineLeft k && !x.missed.isEmpty)
      | _, _ => false
    let late (a : Access) : Bool := !first && ((m.joined a.id false).map (fun x => x.missed.isEmpty)).getD false
    let now := s.accs.filter due
    let s := s.modMcast mc (fun m => { m with merged := m.merged.filter (fun x => x.isOp || !now.any (fun a => a.id == x.op)) })
    now.foldl (fun s a => if !movable s a then s else if late a then lateRead m s a else performAccess s a) s

/-- Beat k leaves, if it can: through a multicast that it joined, or in its turn. The line is read at its home slice as its
first beat leaves, and its other beats carry what was read then. -/
def leaveBeat (mc k : Nat) (s : State) : State :=
  match s.mcast? mc with
  | none => s
  | some m =>
    let ia := (m.ias[k]?).getD 0
    let go (s : State) (bs : List Byte) : State :=
      s.modMcast mc (fun m => { m with left := m.left ++ [(k, s.mesh)], data := memPut m.data ia bs })
    if m.hasLeft k then s
    else match through s m.op k ia with
    | some (m', j) => if m'.hasLeft j then performMerged (go s (cread m'.data ia 64)) mc k else s
    | none =>
      if s.mesh < m.due k then s
      else if m.lineFirst k != k then (if m.hasLeft (m.lineFirst k) then performMerged (go s (cread m.data ia 64)) mc k else s)
      else
        match s.op? m.op with
        | none => s
        | some o =>
          let core := ((s.team? o.team).map (·.core)).getD 0
          let n := 64 * (m.ias.filter (fun x => x / 128 == ia / 128)).length
          match translateFor s m.space ia n .load false with
          | (s, .ok tr) => performMerged (go s (sliceBytes s core m.space ia n tr)) mc k
          | (s, _) => s

/-- The beats that are due leave. A multicast whose last beat has left needs nothing more of those that it joined. -/
def execMergeWindowClose (mc : Nat) (s : State) : Out :=
  event s (fun s =>
    match s.mcast? mc with
    | none => s
    | some m =>
      if !((s.op? m.op).map (opRuns s)).getD false then s
      else
        let s := (List.range m.ias.length).foldl (fun s k => leaveBeat mc k s) s
        if ((s.mcast? mc).map Mcast.allLeft).getD false then endMcast (leaveMerges s m.op) mc else s)

/-- The receiver at a core: of the instance's teams that stand on it until they are GONE (R38), the one with the lowest index. -/
def receiverAt (s : State) (inst core : Nat) : Option Team :=
  (s.teams.filter (fun t => t.inst == inst && t.core == core && (t.st == .placed || t.st == .running || t.st == .ending))).foldl
    (fun acc t => match acc with | some b => if t.t < b.t then some t else acc | none => some t) none

/-- A core is dropped from the mask, R73. A core without a team keeps the deliveries of each instance for itself, so that one
instance's neither replaces nor counts against another's (DESIGN CHOICE, log entry 76). -/
def dropDelivery (s : State) (m : Mcast) (core : Nat) : State :=
  let d : Delivery := ⟨m.space, m.va, m.ias.headD 0, m.ext⟩
  match receiverAt s m.inst core with
  | some t =>
    let s := if (t.tile m.tile).pend.isSome then bumpCore s core 8 else s
    s.modTeam t.uid (fun t => { t with ttab := t.ttab.modify m.tile (fun e => { e with pend := some d }) })
  | none =>
    let old := s.coreDels.any (fun x => x.core == core && x.inst == m.inst && x.tile == m.tile)
    let s := if old then bumpCore s core 8 else s
    { s with coreDels := ⟨core, m.inst, m.tile, d⟩ ::
        s.coreDels.filter (fun x => !(x.core == core && x.inst == m.inst && x.tile == m.tile)) }

def execMcastFirstBeatArrival (mc core : Nat) (s : State) : Out :=
  event s (fun s =>
    match s.mcast? mc with
    | none => s
    | some m =>
      if m.left.isEmpty || sectorOf core != m.sector || !m.mask.getLsbD (core % 16) then s
      else
        let s := s.modMcast mc (fun m => { m with mask := m.mask &&& ~~~BitVec.ofNat 16 (2 ^ (core % 16)) })
        match receiverAt s m.inst core with
        | some t =>
          let e := t.tile m.tile
          if e.st == .empty && e.arm && t.shapeOk m.tile && (t.shape m.tile).extent == m.ext then
            let s := s.modTeam t.uid (fun t => { t with ttab := t.ttab.modify m.tile (fun e => { e with arm := false }) })
            let s := setTile s t.uid m.tile .filling true
            s.modMcast mc (fun m => { m with receivers := m.receivers ++ [(t.uid, core)] })
          else endMcast (dropDelivery s m core) mc
        | none => endMcast (dropDelivery s m core) mc)

/-- A receiver, or a tile filled on arming, is whole. -/
def execMcastDeliveryComplete (mc core : Nat) (s : State) : Out :=
  event s (fun s =>
    match s.mcast? mc with
    | some m =>
      match m.receivers.find? (fun x => x.2 == core) with
      | some x =>
        if !m.allLeft || !((s.team? x.1).map (fun t => t.st == .running || t.st == .ending)).getD false then s
        else
          let s := s.modTeam x.1 (fun t => { t with
            tileMem := memPut t.tileMem (t.shape m.tile).base ((m.ias.flatMap (fun ia => cread m.data ia 64)).take m.ext) })
          let s := setTile s x.1 m.tile .ready true
          endMcast (s.modMcast mc (fun m => { m with receivers := m.receivers.filter (fun y => y != x) })) mc
      | none => s
    | none =>
      match s.op? mc with
      | some o =>
        match s.team? o.team with
        | some t =>
          let n := o.tiles.headD 0
          let bs := withIas (runBeats (o.arg 0) (o.arg 1) (t.shape n).base) o.ias
          if !(isTarm o.ins && t.core == core && opRuns s o) then s
          else match runBeatsOf t.space .load (fillFrom o.team) s o bs with
          | (s, true) => setTile (s.dropOp mc) o.team n .ready true
          | (s, false) => s
        | none => s
      | none => s)

/-! ### Ring rotation, R67, R239 -/

/-- Teams of the member's ring in ring order: its cluster, or the launch's list, whose member k holds team k (R335). -/
def ringOf (s : State) (t : Team) (ring : Bool) : List Team :=
  let all := s.teams.filter (fun u => inGroup s t u && !isSaved u)
  if ring then (List.range (t.desc.rlen)).filterMap (fun k => all.find? (fun u => u.t == k))
  else
    (List.range 4).filterMap (fun k => all.find? (fun u => u.core == t.core / 4 * 4 + k))

def rrotOp (s : State) (uid n : Nat) : Option EngOp :=
  s.ops.find? (fun o => o.team == uid && (isRrot o.ins).isSome && o.tiles == [n] && o.pos == 0)

/-- A member issues: its lanes wait until every member has issued with its tile READY. An operation whose
comparison failed (position 2) makes its lanes trap. -/
def rrotOne (i : Instr) (ring dn : Bool) (n : Nat) (s : State) (c : Lc) : State × LaneRes :=
  match s.team? c.is.team with
  | none => (s, .stay)
  | some tm =>
    let failed (o : EngOp) : Bool := o.team == c.is.team && o.warp == c.wi && o.pc == c.is.pc && o.pos == 2 && (isRrot o.ins).isSome
    if s.ops.any failed then ({ s with ops := s.ops.filter (fun o => !failed o) }, ill .rshape)
    else if !tm.shapeOk n then (s, tshape)
    else if tm.desc.place != (if ring then 3 else 2) || (ring && tm.desc.rlen < 2) then (s, ill .rshape)
    else
      let full := ring && tm.desc.rlen == 16
      forkRelease s c .t (fun s0 =>
        match (if full then takeLeave s0 c 4 else (s0, none)) with
        | (s, some w) => (s, .wait w)
        | (s, none) =>
          (addOp s { blankOp i c with
             args := [dn.toNat], tiles := [n], charge := if full then 8 else 0, lapse := if full then heldUntil s0 c 4 else 0 },
           .wait (.engine s.serial)))

def execRrot (h : Hdr) (ring dn : Bool) (t : Fin 32) (s : State) : Out :=
  perWarp (.rrot h ring dn t) h s (fun _ _ => none) (rrotOne (.rrot h ring dn t) ring dn t.val)

/-- Lanes that wait for an operation try again, or complete. -/
def wakeOp (s : State) (o : EngOp) (done : Bool) : State :=
  s.modWarp o.team o.warp (fun w => { w with lanes := w.lanes.map (fun l =>
    if l.waitsFor (.engine o.id) then
      (if done then completeLane o.len s.cycle l else { l with wait := .retry })
    else l) })

/-- Members and their operations, once every member has issued with a READY tile. (DEDUCED, log entry 51.) -/
def rotationAt (s : State) (t : Team) (n : Nat) : Option (List (Team × EngOp)) :=
  match rrotOp s t.uid n with
  | none => none
  | some o =>
    let ring := match isRrot o.ins with | some (r, _) => r | none => false
    let ms := (ringOf s t ring).filterMap (fun u => (rrotOp s u.uid n).map (fun o => (u, o)))
    let size := if ring then t.desc.rlen else 4
    if ms.length == size && ms.all (fun x => (x.1.tile n).st == .ready && x.1.st == .running) then some ms else none

/-- Members agree: every tile goes to FILLING and takes its predecessor's bytes; otherwise every member's lanes
are to trap. (DEDUCED, log entry 51.) -/
def rotate (s : State) (ms : List (Team × EngOp)) (n : Nat) : State :=
  let ext (x : Team × EngOp) : Nat := (x.1.shape n).extent
  match ms with
  | [] => s
  | m :: _ =>
    if ms.all (fun x => ext x == ext m && x.2.arg 0 == m.2.arg 0) then
      let k := ms.length
      let from_ (j : Nat) : Nat := if m.2.arg 0 = 1 then (j + 1) % k else (j + k - 1) % k
      ms.zipIdx.foldl (fun s x =>
        let src := (ms[from_ x.2]?).getD x.1
        let bs := cread src.1.tileMem (src.1.shape n).base (ext m)
        let s := s.modTeam x.1.1.uid (fun t => { t with tileMem := memPut t.tileMem (t.shape n).base bs })
        let s := setTile s x.1.1.uid n .filling false
        let since := ((s.lane? x.1.1.uid x.1.2.warp x.1.2.lane).map (·.since)).getD s.cycle
        let s := modLife (computeStart s x.1.1.uid n) x.1.1.uid n (fun l => { l with wait := l.wait + (s.cycle - since) })
        wakeOp (s.modOp x.1.2.id (fun o => { o with pos := 1 })) x.1.2 true) s
    else
      ms.foldl (fun s x => wakeOp (s.modOp x.2.id (fun o => { o with pos := 2 })) x.2 false) s

def execRrotRotation (inst : Nat) (t : Fin 32) (s : State) : Out :=
  event s (fun s =>
    match (s.teams.filter (fun u => u.inst == inst)).findSome? (fun u => rotationAt s u t.val) with
    | some ms => rotate s ms t.val
    | none => s)

def execRrotCompletion (team : Nat) (t : Fin 32) (s : State) : Out :=
  event s (fun s =>
    match s.ops.find? (fun o => o.team == team && (isRrot o.ins).isSome && o.tiles == [t.val] && o.pos == 1) with
    | some o =>
      if opRuns s o then setTile (computeEnd (s.dropOp o.id) team t.val) team t.val .ready false else s
    | none => s)

/-! ### Stage rings, R64, R65, R240 -/

def Team.ring (t : Team) (r : Nat) : Ring := (t.rings[r]?).getD ⟨[], 0, false, 0, false, 0, 0⟩
def State.modRing (s : State) (uid r : Nat) (f : Ring → Ring) : State :=
  s.modTeam uid (fun t => { t with rings := t.rings.modify r f })

def Ring.push (r : Ring) (n : Nat) : Ring :=
  let next := r.prod + 1
  { r with
    slots := r.slots.set r.prod (n, r.prodPh), count := r.count + 1
    prod := if next = r.depth then 0 else next, prodPh := if next = r.depth then !r.prodPh else r.prodPh }
def Ring.pop (r : Ring) : Ring :=
  let next := r.cons + 1
  { r with
    count := r.count - 1
    cons := if next = r.depth then 0 else next, expPh := if next = r.depth then !r.expPh else r.expPh }

/-- The issue check RING. -/
def ringCheck (r : Nat) (s : State) (c : Lc) : Option LaneRes :=
  if ((s.team? c.is.team).map (fun t => (t.ring r).depth == 0)).getD false then some (ill .ring) else none

def execRpush (h : Hdr) (r : Fin 8) (src : RpSrc) (s : State) : Out :=
  perWarp (.rpush h r src) h s (ringCheck r.val) (fun s c =>
    match s.team? c.is.team with
    | none => (s, .stay)
    | some t =>
      let g := t.ring r.val
      if g.count = g.depth then (s, .wait .retry)
      else
        let n := match src with | .tile n => n.val | .reg b => (c.src b).toNat % 32
        (s.modRing c.is.team r.val (fun g => g.push n), .done {}))

def execRpop (h : Hdr) (d : Reg) (r : Fin 8) (s : State) : Out :=
  perWarp (.rpop h d r) h s (ringCheck r.val) (fun s c =>
    match s.team? c.is.team with
    | none => (s, .stay)
    | some t =>
      let g := t.ring r.val
      let slot := (g.slots[g.cons]?).getD (0, !g.expPh)
      if slot.2 != g.expPh then (s, .wait .retry)
      else (s.modRing c.is.team r.val Ring.pop, .done (dst1 h d (BitVec.ofNat 32 slot.1))))

/-! ### Message channels, R74 to R76, R241 -/

def Warp.chan (w : Warp) (k : Nat) : List DWord := match k with | 0 => w.q0 | 1 => w.q1 | 2 => w.q2 | _ => w.q3
def Warp.setChan (w : Warp) (k : Nat) (q : List DWord) : Warp :=
  match k with | 0 => { w with q0 := q } | 1 => { w with q1 := q } | 2 => { w with q2 := q } | _ => { w with q3 := q }

/-- One flit of each active lane; the lane waits until it is accepted. -/
def execMovQFromV (h : Hdr) (q : Fin 4) (a : Src) (s : State) : Out :=
  perLane (.movQFromV h q a) h s (fun s c =>
    let dest := cget c.w.qdest q.val
    if !dest.getLsbD 31 then (s, ill .qoff)
    else
      ({ s with
        flits := s.flits ++ [⟨s.serial, c.space, c.is.team, c.wi, c.slot, q.val, dest, c.pair a, false⟩]
        serial := s.serial + 1 }, .wait (.flit s.serial)))

def execMovVFromQ (h : Hdr) (d : Reg) (q : Fin 4) (s : State) : Out :=
  perLane (.movVFromQ h d q) h s (fun s c =>
    match s.warp? c.is.team c.wi with
    | none => (s, .stay)
    | some w =>
      match w.chan q.val with
      | [] => (s, .wait .retry)
      | x :: rest => (s.modWarp c.is.team c.wi (fun w => w.setChan q.val rest), .done (dst2 h d x)))

/-- What meets a flit at its destination: a buffer with or without room, a SAVED team, or nobody of its space. A flit for any
context that a SAVED team holds there bounces, a free one too (DESIGN CHOICE, log entry 77). -/
inductive FlitTo | room (team warp : Nat) | full | nobody
deriving DecidableEq, Repr

def flitTo (s : State) (f : Flit) : FlitTo :=
  let core := 16 * (f.dest.extractLsb' 12 3).toNat + (f.dest.extractLsb' 8 4).toNat
  let ctx := (f.dest.extractLsb' 2 6).toNat
  let chan := (f.dest.extractLsb' 0 2).toNat
  let at_ (t : Team) : Option (Nat × Warp) :=
    if t.core == core then (t.warps.zipIdx.map (fun x => (x.2, x.1))).find? (fun x => x.2.ctx == ctx) else none
  let on := s.teams.filter (fun t => t.st == .running || t.st == .placed || t.st == .ending)
  match on.findSome? (fun t => (at_ t).map (fun x => (t, x))) with
  | some (t, k, w) =>
    if t.space != f.space || w.st == .free then .nobody
    else if (w.chan chan).length < 16 then .room t.uid k else .full
  | none =>
    if s.teams.any (fun t => t.space == f.space && (match t.st with | .saved _ => true | _ => false) && (at_ t).isSome)
    then .full else .nobody

def acceptFlit (s : State) (f : Flit) : State :=
  let s := { s with flits := s.flits.filter (fun x => x.id != f.id) }
  s.modLane f.team f.warp f.lane (fun l => if l.waitsFor (.flit f.id) then completeLane 8 s.cycle l else l)

/-- A flit reaches its receiver (R75, R76). -/
def arriveFlit (s : State) (f : Flit) : State :=
  match flitTo s f with
  | .room t k =>
    let s := s.modWarp t k (fun w => w.setChan (f.dest.extractLsb' 0 2).toNat
      (w.chan (f.dest.extractLsb' 0 2).toNat ++ [f.payload]))
    acceptFlit s f
  | .full => { s with flits := s.flits.map (fun x => if x.id == f.id then { x with bounced := true } else x) }
  | .nobody =>
    acceptFlit (bumpCore s (16 * (f.dest.extractLsb' 12 3).toNat + (f.dest.extractLsb' 8 4).toNat) 16) f

/-- Flits of one channel arrive in the order sent. -/
def firstOfChannel (s : State) (f : Flit) : Bool :=
  match s.flits.find? (fun x => x.team == f.team && x.warp == f.warp && x.chan == f.chan && x.dest == f.dest) with
  | some x => x.id == f.id
  | none => false

/-- A flit of the mesh that may be next arrives: which of several senders' it is, the move names (R76). -/
def execFlitArrival (s : State) : Out :=
  event s (fun s =>
    match s.flits.find? (fun f => f.id == s.named) with
    | some f => if !f.bounced && firstOfChannel s f then arriveFlit s f else s
    | none => s)

/-- A sending port tries its bounced flit again, the one that the move names. -/
def execFlitRetry (s : State) : Out :=
  event s (fun s =>
    match s.flits.find? (fun f => f.id == s.named) with
    | some f => if f.bounced && firstOfChannel s f then arriveFlit s f else s
    | none => s)

end Sys2Proof.Machine
end

