-- ==== Sys2Proof/Machine/Matrix.lean ====
section
/-! DEFINITION. Luna (R242 to R251): parameter blocks, the latched weight set, the exact block accumulation of R109
to R111, and quantisation. -/

namespace Sys2Proof.Machine

/-! ### Accumulation, R109 to R111 -/

/-- One block's effect on an accumulator: element pairs and the two scales. -/
def blockStep (acc : Word) (es : List (Val × Val)) (sa sw : Val) : Word :=
  let ps := es.map (fun x => x.1.mul x.2)
  if (f32 acc).isNan || es.any (fun x => x.1.isNan || x.2.isNan) || sa.isNan || sw.isNan then canonNan32
  else if ps.any Val.isNan || (ps.any (· == .inf false) && ps.any (· == .inf true)) then canonNan32
  else
    let zero := sa.isZero || sw.isZero
    match ps.find? Val.isInf with
    | some v => if zero then canonNan32 else toF32 .rn (sumTerms .rn [f32 acc, v])
    | none =>
      let x := ps.foldl (fun a p => a.add p.dy) Dy.zero
      let v : Val := if x.m = 0 || zero then .zero false else ((x.mul sa.dy).mul sw.dy).toVal
      toF32 .rn (sumTerms .rn [f32 acc, v])

/-- The blocks of K elements in ascending order; `el b` gives the element pairs of block b. -/
def accumulate (k : Nat) (el : Nat → List (Val × Val)) (sa sw : Nat → Val) (acc : Word) : Word :=
  (List.range ((k + 31) / 32)).foldl (fun a b => blockStep a (el b) (sa b) (sw b)) acc

/-! ### Formats, R246 -/

/-- The class of a TYPE and SCALE: BF16, FP16, FP8, MX8/6, MX4, MXI. -/
def classOf (ty scale : Nat) : Option Nat :=
  if scale = 0 then
    match ty with | 1 => some 1 | 2 => some 2 | 3 | 4 => some 3 | _ => none
  else
    match ty with | 3 | 4 | 5 | 6 => some 4 | 7 => some 5 | 8 => some 6 | _ => none

def legalPair (a w : Nat) : Bool :=
  a == w || (a == 4 && w == 5) || (a == 5 && w == 4)

/-! ### Parameter blocks, R243 to R245 -/

structure Params where
  sat : Bool
  rm : Rm
  za : Bool
  dt : Nat
  sc : Nat
  st : Nat
  k : Nat
  m : Nat
  n : Nat
deriving DecidableEq, Repr

def rmOf : Nat → Rm | 1 => .rz | 2 => .ru | 3 => .rd | 4 => .rna | _ => .rn

/-- Which bits of the first three words a command may use. -/
def paramMask (cmd : Nat) : Nat × Nat × Nat :=
  match cmd with
  | 0 => (0x00001F1F, 0x0FFF0000, 0x00000FFF)
  | 1 => (0x011F1F1F, 0x0FFF0FFF, 0)
  | _ => (0x1E1F1F1F, 0x00000FFF, 0x00000FFF)

/-- The block of command 0 MLW, 1 MMA, 2 MQ with its overrides; none when a bit marked 0 or a reserved rounding
mode is set. (DEDUCED, log entry 23.) -/
def params (cmd : Nat) (x : MpExt) (bs : List Byte) : Option Params :=
  let w (k : Nat) : Nat := leNat ((bs.drop (4 * k)).take 4)
  let m := paramMask cmd
  if Nat.land (w 0) m.1 != w 0 || Nat.land (w 1) m.2.1 != w 1 || Nat.land (w 2) m.2.2 != w 2 ||
     (bs.drop 12).any (· != 0) || 4 < nbits (w 0) 27 25 then none
  else some {
    sat := nbits (w 0) 28 28 = 1, rm := rmOf (nbits (w 0) 27 25), za := nbits (w 0) 24 24 = 1
    dt := nbits (w 0) 20 16, sc := nbits (w 0) 12 8, st := nbits (w 0) 4 0
    k := (if x.ko then x.kovr.toNat else nbits (w 1) 27 16) + 1
    m := (if x.mo then x.movr.toNat else nbits (w 1) 11 0) + 1
    n := nbits (w 2) 11 0 + 1 }

def blocksOf (k : Nat) : Nat := (k + 31) / 32

/-- K, N, type and scale of the weight set that the next command of the team uses: that of its last MLW in issue
order (R247). -/
def latched (s : State) (t : Team) : Option (Nat × Nat × Nat × Nat) :=
  match (s.ops.filter (fun o => o.team == t.uid && match o.ins with | .mlw .. => true | _ => false)).getLast? with
  | some o => some (o.arg 0, o.arg 1, (shapeOf (BitVec.ofNat 64 (o.arg 2))).ty, (shapeOf (BitVec.ofNat 64 (o.arg 2))).scale)
  | none => if t.weight.valid then some (t.weight.k, t.weight.n, t.weight.ty, t.weight.sc) else none

/-- A scale tile fits the kind that it serves. -/
def scaleTileOk (h : Shape) (kind : Nat) : Bool := h.ty == (if kind = 1 then 13 else 14)

/-- Rules of R245 from step 4: for MLW (0), MMA (1) and MQ (2). -/
def lunaCheck (s : State) (t : Team) (cmd : Nat) (p : Params) : Option Ill :=
  let st := t.shape p.st
  let dt := t.shape p.dt
  let sc := t.shape p.sc
  let served := if cmd = 2 then dt.scale else st.scale
  let use := served != 0
  let named := [p.st] ++ (if cmd = 0 then [] else [p.dt]) ++ (if use then [p.sc] else [])
  let small (h : Shape) (r c : Nat) : Bool := h.rows < r || h.cols < c
  let scBad := if use then !scaleTileOk sc served || p.st == p.sc || (cmd != 0 && p.dt == p.sc) else p.sc != 0
  let dtBad := cmd != 0 && p.dt == p.st
  if !named.all (fun n => t.shapeOk n) then some .tshape
  else match cmd with
  | 0 =>
    if (classOf st.ty st.scale).isNone then some .mxcombo
    else if small st p.k p.n || (use && small sc (blocksOf p.k) p.n) || scBad || 128 < p.k || 128 < p.n then some .tshape
    else none
  | 1 =>
    match latched s t, classOf st.ty st.scale with
    | some (k, n, ty, scale), some a =>
      match classOf ty scale with
      | some w =>
        if !legalPair a w || dt.ty != 0 || dt.scale != 0 then some .mxcombo
        else if small st p.m p.k || small dt p.m n || (use && small sc p.m (blocksOf p.k)) || scBad || dtBad || k < p.k then some .tshape
        else none
      | none => some .mxcombo
    | _, _ => some .mxcombo
  | _ =>
    if st.ty != 0 || st.scale != 0 || (classOf dt.ty dt.scale).isNone then some .mxcombo
    else if small st p.m p.n || small dt p.m p.n || (use && small sc p.m (blocksOf p.n)) || scBad || dtBad then some .tshape
    else none

/-- The check of R157 and the reading of the block. (DEDUCED, log entry 23.) -/
def readParams (s : State) (c : Lc) (cmd : Nat) (x : MpExt) : State × Except LaneRes Params :=
  if 1024 * c.tm.desc.scrK < x.pbo.toNat + 64 then (s, .error (trapped cSPAD 0))
  else
    let s := scratchMeets s c.is.team (some c.wi) x.pbo.toNat 64 false
    match params cmd x (scratchRead s c.is.team x.pbo.toNat 64) with
    | some p => (s, .ok p)
    | none => (s, .error (ill .rsvfield))

/-- Source tiles stay READY; destinations go to FILLING at issue. -/
def fillTiles (s : State) (uid : Nat) (ns : List Nat) : State := ns.foldl (fun s n => setTile s uid n .filling false) s
def readyTiles (s : State) (uid : Nat) (ns : List Nat) : State :=
  ns.foldl (fun s n => setTile s uid n .ready false) s
def startAll (s : State) (uid : Nat) (ns : List Nat) : State := ns.foldl (fun s n => computeStart s uid n) s
def endAll (s : State) (uid : Nat) (ns : List Nat) : State := ns.foldl (fun s n => computeEnd s uid n) s

def tshNat (t : Team) (n : Nat) : Nat := (cget t.tsh n).toNat

/-- The course of a Luna command at issue: the checks, the tiles, power leave of a kind, the operation. The last
list names the destination tiles. -/
def lunaOne (i : Instr) (cmd : Nat) (x : MpExt) (s : State) (c : Lc) : State × LaneRes :=
  match readParams s c cmd x with
  | (s, .error e) => (s, e)
  | (s, .ok p) =>
    match s.team? c.is.team with
    | none => (s, .stay)
    | some t =>
      match lunaCheck s t cmd p with
      | some e => (s, ill e)
      | none =>
        let served := if cmd = 2 then (t.shape p.dt).scale else (t.shape p.st).scale
        let use := served != 0
        let dsts := match cmd with | 0 => [] | 1 => [p.dt] | _ => p.dt :: (if use then [p.sc] else [])
        let tiles := ([p.st] ++ (if use then [p.sc] else []) ++ dsts).eraseDups
        match firstNot s c.is.team .ready tiles with
        | some n => waitTile s n
        | none =>
          let kind := match cmd with | 0 => 1 | 1 => if 128 < p.m then 2 else 0 | _ => 0
          match (if kind = 0 then (s, none) else takeLeave s c kind) with
          | (s, some w) => (s, .wait w)
          | (s, none) =>
            let n := match cmd with | 1 => ((latched s t).map (fun l => l.2.1)).getD 0 | _ => p.n
            let kn := if cmd = 0 then (p.k, p.n) else (p.m, p.k)
            let s := startAll (fillTiles s c.is.team dsts) c.is.team tiles
            (addOp s { blankOp i c with
              args := [kn.1, kn.2, tshNat t p.st, tshNat t p.dt, tshNat t p.sc, n, use.toNat, p.za.toNat, p.sat.toNat,
                match p.rm with | .rn => 0 | .rz => 1 | .ru => 2 | .rd => 3 | .rna => 4]
              tiles := dsts ++ tiles.filter (fun n => !dsts.contains n), charge := chargeOf kind }, .done {})

def execMlw (h : Hdr) (x : MpExt) (s : State) : Out :=
  perWarp (.mlw h x) h s (fun _ _ => none) (lunaOne (.mlw h x) 0 x)
def execMma (h : Hdr) (x : MpExt) (s : State) : Out :=
  perWarp (.mma h x) h s (fun _ _ => none) (lunaOne (.mma h x) 1 x)
def execMq (h : Hdr) (x : MpExt) (s : State) : Out :=
  perWarp (.mq h x) h s (fun _ _ => none) (lunaOne (.mq h x) 2 x)

/-! ### Completion -/

def lunaCmd : Instr → Option Nat | .mlw .. => some 0 | .mma .. => some 1 | .mq .. => some 2 | _ => none

/-- A team's Luna commands complete in the order in which they issued, R247. -/
def lunaReady (s : State) (o : EngOp) (cmd : Nat) : Bool :=
  lunaCmd o.ins == some cmd && opRuns s o &&
  match s.ops.find? (fun x => x.team == o.team && (lunaCmd x.ins).isSome) with
  | some x => x.id == o.id
  | none => false

def EngOp.shapeArg (o : EngOp) (k : Nat) : Shape := shapeOf (BitVec.ofNat 64 (o.arg k))

/-- The rows [0, m) by columns [0, n) of an element tile, as a table by r · n + c. -/
def readMatrix (m : Cells 8) (h : Shape) (rows cols : Nat) : Cells 32 :=
  (List.range (rows * cols)).foldl (fun acc k =>
    cset acc k (BitVec.ofNat 32 (elemAt m h (k / cols) (k % cols)))) []

def execMlwLatch (op : Nat) (s : State) : Out :=
  event s (fun s =>
    match s.op? op with
    | some o =>
      if !lunaReady s o 0 then s
      else
        let k := o.arg 0
        let n := o.arg 1
        let w := o.shapeArg 2
        let s := s.modTeam o.team (fun t => { t with weight :=
          { valid := true, k := k, n := n, ty := w.ty, sc := w.scale
            elems := readMatrix t.tileMem w k n
            scales := if o.arg 6 = 1 then readMatrix t.tileMem (o.shapeArg 4) (blocksOf k) n else [] } })
        endAll (s.dropOp op) o.team o.tiles
    | none => s)

/-- The output element (i, j) of an MMA. -/
def mmaElem (t : Team) (o : EngOp) (i j : Nat) : Word :=
  let k := o.arg 1
  let a := o.shapeArg 2
  let w := t.weight
  let acc : Word := if o.arg 7 = 1 then 0 else BitVec.ofNat 32 (elemAt t.tileMem (o.shapeArg 3) i j)
  let el (b : Nat) : List (Val × Val) := (List.range (min 32 (k - 32 * b))).map (fun x =>
    (elemVal a.ty (elemAt t.tileMem a i (32 * b + x)), elemVal w.ty (cget w.elems ((32 * b + x) * w.n + j)).toNat))
  let sa (b : Nat) : Val := if o.arg 6 = 1 then scaleVal a.scale (elemAt t.tileMem (o.shapeArg 4) i b) else scaleVal 0 0
  let sw (b : Nat) : Val := scaleVal w.sc (cget w.scales (b * w.n + j)).toNat
  accumulate k el sa sw acc

def execMmaCompletion (op : Nat) (s : State) : Out :=
  event s (fun s =>
    match s.op? op with
    | some o =>
      if !lunaReady s o 1 then s
      else
        let put (t : Team) (m : Cells 8) (x : Nat) : Cells 8 :=
          setElem m (o.shapeArg 3) (x / o.arg 5) (x % o.arg 5) (mmaElem t o (x / o.arg 5) (x % o.arg 5)).toNat
        let fill (t : Team) : Team := { t with tileMem := (List.range (o.arg 0 * o.arg 5)).foldl (put t) t.tileMem }
        let s := s.modTeam o.team fill
        readyTiles (endAll (s.dropOp op) o.team o.tiles) o.team (o.tiles.take 1)
    | none => s)

/-- Row i of an MQ, block by block: the scale entry, then the elements. -/
def mqBlock (t : Team) (o : EngOp) (i b : Nat) (m : Cells 8) : Cells 8 :=
  let n := o.arg 5
  let f := o.shapeArg 2
  let e := o.shapeArg 3
  let cols := (List.range (min 32 (n - 32 * b))).map (fun x => 32 * b + x)
  let vs := cols.map (fun c => elemVal 0 (elemAt t.tileMem f i c))
  let sc := if e.scale = 0 then 0 else chooseScale e.scale e.ty vs
  let m := if e.scale = 0 then m else setElem m (o.shapeArg 4) i b sc
  (cols.zip vs).foldl (fun m x =>
    setElem m e i x.1 (quantElem e.ty (rmOf (o.arg 9)) (o.arg 8 = 1) x.2 (scaleVal e.scale sc))) m

def execMqCompletion (op : Nat) (s : State) : Out :=
  event s (fun s =>
    match s.op? op with
    | some o =>
      if !lunaReady s o 2 then s
      else
        let n := o.arg 5
        let rows := o.arg 0
        let nb := blocksOf n
        let put (t : Team) (m : Cells 8) (x : Nat) : Cells 8 := mqBlock t o (x / nb) (x % nb) m
        let fill (t : Team) : Team := { t with tileMem := (List.range (rows * nb)).foldl (put t) t.tileMem }
        let s := s.modTeam o.team fill
        readyTiles (endAll (s.dropOp op) o.team o.tiles) o.team (o.tiles.take (if o.arg 6 = 1 then 2 else 1))
    | none => s)

end Sys2Proof.Machine
end

