-- ==== Sys2Proof/Machine/Vector.lean ====
section
/-! DEFINITION. The stream vector unit (R252 to R257): its issue checks, and the iterations that its completion
performs. -/

namespace Sys2Proof.Machine

/-! ### Minimum and maximum, R212 -/

/-- The order of R212: −0 below +0. -/
def valLess (x y : Val) : Bool :=
  match x.cmp y with
  | .lt => true
  | .gt => false
  | .eq => x.isZero && y.isZero && x.negative && !y.negative

def valMinMax (max : Bool) (x y : Val) : Val :=
  if x.isNan then y
  else if y.isNan then x
  else if valLess x y != max then x else y

/-! ### Issue -/

def floatType (h : Shape) : Bool := h.ty ≤ 2 && h.scale == 0
def mxType (h : Shape) : Bool := 3 ≤ h.ty && h.ty ≤ 8 && (h.scale == 1 || h.scale == 2)
def cvtType (h : Shape) : Bool := (h.ty ≤ 4 || (9 ≤ h.ty && h.ty ≤ 12)) && h.scale == 0

/-- What a stream-vector instruction names: its fields, tiles and the kind of its check. -/
structure VsArgs where
  m : VsM
  d : Nat
  a : Nat
  /-- a B tile -/
  b : Option Nat
deriving DecidableEq, Repr

/-- The format rules of R254 to R257. -/
def vsFormats (i : Instr) (d a : Shape) (b : Option Shape) : Bool :=
  match i with
  | .vred .. => floatType d && floatType a
  | .vcvt .. => cvtType d && cvtType a
  | .vqnt .. => floatType a && mxType d && (match b with | some b => scaleTileOk b d.scale | none => false)
  | .vdeq .. => floatType d && mxType a && (match b with | some b => scaleTileOk b a.scale | none => false)
  | .vcpy .. => typeBits d.ty == typeBits a.ty
  | _ => floatType d && floatType a && (match b with | some b => floatType b | none => true)

/-- Elements of the D, A and B vectors, R253. -/
def vsLens (i : Instr) (d a : Shape) : Nat × Nat × Nat :=
  match i with
  | .vred .. => (1, a.cols, 0)
  | .vqnt .. | .vdeq .. => (d.cols, d.cols, (d.cols + 31) / 32)
  | .vcvt .. | .vcpy .. => (d.cols, d.cols, 0)
  | _ => (d.cols, d.cols, d.cols)

/-- The vector of `len` elements at a signed offset lies within the tile. -/
def vecInside (h : Shape) (len : Nat) (off : Int) : Bool :=
  0 ≤ off && off + ((len * typeBits h.ty + 7) / 8 : Nat) ≤ h.extent

/-- Both ends of an operand's walk lie within the tile, R253. -/
def walkInside (h : Shape) (len n : Nat) (step : BitVec 12) : Bool :=
  vecInside h len 0 && vecInside h len ((n - 1 : Nat) * step.toInt)

/-- Tiles that the instruction writes. -/
def vsDsts (i : Instr) (x : VsArgs) : List Nat :=
  match i, x.b with
  | .vqnt .., some b => [x.d, b]
  | _, _ => [x.d]

/-- The count of R156. -/
def vsCount (c : Lc) (m : VsM) : Nat := if m.cnt = 0 then (c.w.rdS m.sreg.val).toNat else m.cnt.toNat

def vsTiles (i : Instr) (x : VsArgs) : List Nat := (vsDsts i x ++ [x.a] ++ x.b.toList).eraseDups

/-- The issue checks: count, shapes, formats, extents (R156, R55, R254 to R257, R253). (DEDUCED, log entry 14.) -/
def vsCheck (i : Instr) (x : VsArgs) (s : State) (c : Lc) : Option LaneRes :=
  match s.team? c.is.team with
  | none => none
  | some t =>
    let n := vsCount c x.m
    let d := t.shape x.d
    let a := t.shape x.a
    let b := x.b.map t.shape
    let lens := vsLens i d a
    if 4095 < n then some (ill .vcount)
    else if !(vsTiles i x).all (fun k => t.shapeOk k) then some tshape
    else if !vsFormats i d a b || (match i with | .vqnt .. => x.b == some x.d | _ => false) then some (ill .mxcombo)
    else if n = 0 then none
    else if walkInside d lens.1 n x.m.sd && walkInside a lens.2.1 n x.m.sa &&
        (match b with | some b => walkInside b lens.2.2 n x.m.sb | none => true) then none
    else some tshape

/-- The issue of one warp that passes the checks; its tiles are READY first (R63). -/
def vsOne (i : Instr) (x : VsArgs) (scalar : Option Src) (s : State) (c : Lc) : State × LaneRes :=
  match s.team? c.is.team with
  | none => (s, .stay)
  | some t =>
    let n := vsCount c x.m
    let tiles := vsTiles i x
    if n = 0 then (s, .done {})
    else match firstNot s c.is.team .ready tiles with
    | some k => waitTile s k
    | none =>
      let s := startAll (fillTiles s c.is.team (vsDsts i x)) c.is.team tiles
      (addOp s { blankOp i c with
        args := [n, tshNat t x.d, tshNat t x.a, (x.b.map (tshNat t)).getD 0, ((scalar.map c.src).getD 0).toNat]
        tiles := vsDsts i x ++ tiles.filter (fun k => !(vsDsts i x).contains k) }, .done {})

def vsRun (i : Instr) (h : Hdr) (x : VsArgs) (scalar : Option Src) (s : State) : Out :=
  perWarp i h s (vsCheck i x) (vsOne i x scalar)

/-- The element-wise opcodes with a tile or a scalar B. -/
def vsBin (i : Instr) (h : Hdr) (m : VsM) (d a : Fin 32) (b : VsB) (s : State) : Out :=
  match b with
  | .tile t => vsRun i h ⟨m, d.val, a.val, some t.val⟩ none s
  | .scalar r => vsRun i h ⟨m, d.val, a.val, none⟩ (some r) s

def execVadd (h : Hdr) (m : VsM) (nb : Bool) (d a : Fin 32) (b : VsB) (s : State) : Out :=
  vsBin (.vadd h m nb d a b) h m d a b s
def execVsub (h : Hdr) (m : VsM) (nb : Bool) (d a : Fin 32) (b : VsB) (s : State) : Out :=
  vsBin (.vsub h m nb d a b) h m d a b s
def execVmul (h : Hdr) (m : VsM) (nb : Bool) (d a : Fin 32) (b : VsB) (s : State) : Out :=
  vsBin (.vmul h m nb d a b) h m d a b s
def execVfma (h : Hdr) (m : VsM) (nb : Bool) (d a : Fin 32) (b : VsB) (s : State) : Out :=
  vsBin (.vfma h m nb d a b) h m d a b s
def execVmax (h : Hdr) (m : VsM) (nb : Bool) (d a : Fin 32) (b : VsB) (s : State) : Out :=
  vsBin (.vmax h m nb d a b) h m d a b s
def execVmin (h : Hdr) (m : VsM) (nb : Bool) (d a : Fin 32) (b : VsB) (s : State) : Out :=
  vsBin (.vmin h m nb d a b) h m d a b s
def execVred (h : Hdr) (m : VsM) (rop : RedOp) (d a : Fin 32) (s : State) : Out :=
  vsRun (.vred h m rop d a) h ⟨m, d.val, a.val, none⟩ none s
def execVcvt (h : Hdr) (m : VsM) (sat : Bool) (d a : Fin 32) (s : State) : Out :=
  vsRun (.vcvt h m sat d a) h ⟨m, d.val, a.val, none⟩ none s
def execVqnt (h : Hdr) (m : VsM) (sat : Bool) (d a b : Fin 32) (s : State) : Out :=
  vsRun (.vqnt h m sat d a b) h ⟨m, d.val, a.val, some b.val⟩ none s
def execVdeq (h : Hdr) (m : VsM) (d a b : Fin 32) (s : State) : Out :=
  vsRun (.vdeq h m d a b) h ⟨m, d.val, a.val, some b.val⟩ none s
def execVcpy (h : Hdr) (m : VsM) (d a : Fin 32) (s : State) : Out :=
  vsRun (.vcpy h m d a) h ⟨m, d.val, a.val, none⟩ none s

/-! ### Iterations -/

/-- The tile's vector of iteration i as a row of its own. -/
def vecAt (h : Shape) (step : BitVec 12) (i : Nat) : Shape := { h with base := ((h.base : Int) + i * step.toInt).toNat }

/-- The exact elements of a vector. -/
def vecVals (m : Cells 8) (h : Shape) (len : Nat) : List Val :=
  (List.range len).map (fun c => elemVal h.ty (elemAt m h 0 c))

def putVec (m : Cells 8) (h : Shape) (xs : List Nat) : Cells 8 :=
  xs.zipIdx.foldl (fun m x => setElem m h 0 x.2 x.1) m

/-- What the element-wise opcodes compute, R254. -/
def vsElem (i : Instr) (rm : Rm) (a b d : Val) : Val :=
  match i with
  | .vadd .. => sumTerms rm [a, b]
  | .vsub .. => sumTerms rm [a, b.neg]
  | .vmul .. => a.mul b
  | .vfma .. => sumTerms rm [a.mul b, d]
  | .vmax .. => valMinMax true a b
  | _ => valMinMax false a b

/-- The element as the destination holds it, of source types `ta` and `tb`: rounded once, or, for the extremes, the chosen
source converted under R106. -/
def vsOut (i : Instr) (rm : Rm) (ta tb td : Nat) (a b d : Val) : Nat :=
  let v := vsElem i rm a b d
  match i with
  | .vmax .. | .vmin .. => convElem (if v == a then ta else tb) td rm false v
  | _ => toElem td rm false v

def negatesB : Instr → Bool
  | .vadd _ _ nb .. | .vsub _ _ nb .. | .vmul _ _ nb .. | .vfma _ _ nb .. | .vmax _ _ nb .. | .vmin _ _ nb .. => nb
  | _ => false

def redVal (rop : RedOp) (rm : Rm) (vs : List Val) : Val :=
  match rop, vs with
  | .sum, vs => sumTerms rm vs
  | _, [] => .zero false
  | .max, v :: r => r.foldl (valMinMax true) v
  | .min, v :: r => r.foldl (valMinMax false) v

/-- R255: the sum has R105's zero, the extreme is converted under R106. -/
def redElem (src dst : Nat) (rop : RedOp) (rm : Rm) (vs : List Val) : Nat :=
  match rop with
  | .sum => toElem dst rm false (redVal .sum rm vs)
  | rop => convElem src dst rm false (redVal rop rm vs)

/-- The blocks of VQNT: scale entries and elements. -/
def quantVec (ty kind : Nat) (rm : Rm) (sat : Bool) (vs : List Val) : List Nat × List Nat :=
  let block (k : Nat) : List Val := (vs.drop (32 * k)).take 32
  let scales := (List.range ((vs.length + 31) / 32)).map (fun k => chooseScale kind ty (block k))
  (scales, vs.zipIdx.map (fun x =>
    quantElem ty rm sat x.1 (scaleVal kind ((scales[x.2 / 32]?).getD 0))))

def vsFields : Instr → Option VsM
  | .vadd _ m .. | .vsub _ m .. | .vmul _ m .. | .vfma _ m .. | .vmax _ m .. | .vmin _ m .. | .vred _ m ..
  | .vcvt _ m .. | .vqnt _ m .. | .vdeq _ m .. | .vcpy _ m .. => some m
  | _ => none

/-- One iteration: every source is read before the destination is written (R253). -/
def vsIter (o : EngOp) (m : VsM) (mem : Cells 8) (i : Nat) : Cells 8 :=
  let d := vecAt (o.shapeArg 1) m.sd i
  let a := vecAt (o.shapeArg 2) m.sa i
  let b := vecAt (o.shapeArg 3) m.sb i
  let lens := vsLens o.ins d a
  let va := vecVals mem a lens.2.1
  match o.ins with
  | .vred _ _ rop .. => putVec mem d [redElem a.ty d.ty rop m.rm va]
  | .vcvt _ _ sat .. => putVec mem d (va.map (convElem a.ty d.ty m.rm sat))
  | .vcpy .. => putVec mem d ((List.range lens.1).map (fun c => elemAt mem a 0 c))
  | .vqnt _ _ sat .. =>
    let q := quantVec d.ty d.scale m.rm sat va
    putVec (putVec mem d q.2) b q.1
  | .vdeq .. =>
    putVec mem d (va.zipIdx.map (fun x => toElem d.ty m.rm false
      (x.1.mul (scaleVal a.scale (elemAt mem b 0 (x.2 / 32)))).plusZero))
  | ins =>
    let scalar := match ins with
      | .vadd _ _ _ _ _ (.scalar _) | .vsub _ _ _ _ _ (.scalar _) | .vmul _ _ _ _ _ (.scalar _)
      | .vfma _ _ _ _ _ (.scalar _) | .vmax _ _ _ _ _ (.scalar _) | .vmin _ _ _ _ _ (.scalar _) => true
      | _ => false
    let bv (c : Nat) : Val :=
      let v := if scalar then f32 (BitVec.ofNat 32 (o.arg 4)) else elemVal b.ty (elemAt mem b 0 c)
      if negatesB ins then v.neg else v
    putVec mem d (va.zipIdx.map (fun x =>
      vsOut ins m.rm a.ty (if scalar then 0 else b.ty) d.ty x.1 (bv x.2) (elemVal d.ty (elemAt mem d 0 x.2))))

/-- After the last iteration the destinations turn READY. -/
def execStreamVectorCompletion (op : Nat) (s : State) : Out :=
  event s (fun s =>
    match s.op? op with
    | some o =>
      match vsFields o.ins with
      | some m =>
        if !opRuns s o then s
        else
          let n := o.arg 0
          let fill (t : Team) : Team := { t with tileMem := (List.range n).foldl (vsIter o m) t.tileMem }
          let s := s.modTeam o.team fill
          let dsts := match o.ins with | .vqnt .. => 2 | _ => 1
          readyTiles (endAll (s.dropOp op) o.team o.tiles) o.team (o.tiles.take dsts)
      | none => s
    | none => s)

end Sys2Proof.Machine
end

