-- ==== Sys2Proof/Machine/Points.lean ====
section
/-! DEFINITION. The point unit: VOXIN's insertions and BEVPOOL's pooling (R258 to R264) over the records of R139
to R141. -/

namespace Sys2Proof.Machine

/-! ### The header, R140, R259, R260 -/

structure PointHeader where
  px : Nat
  ch : Nat
  w : Nat
  h : Nat
  map : Nat
  cap : Nat
  bkt : Nat
deriving DecidableEq, Repr

/-- R121: bits [63:48] repeat bit 47. -/
def signRepeats (x : Nat) : Bool := x / 2 ^ 47 == 0 || x / 2 ^ 47 == 2 ^ 17 - 1

def PointHeader.bsz (p : PointHeader) : Nat := 8 + p.cap * (8 + 4 * p.ch)

/-- The header's fields, or none when it is malformed; the bits of the word at 0x14 that R140 does not list count as
reserved. (DESIGN CHOICE, log entry 80.) -/
def pointHeader (areaK : Nat) (bs : List Byte) : Option PointHeader :=
  let f (off n : Nat) : Nat := leNat ((bs.drop off).take n)
  let p : PointHeader :=
    { px := f 0x10 4 % 32, ch := nbits (f 0x10 4) 9 8 + 1, w := f 0x14 4 % 4096 + 1, h := nbits (f 0x14 4) 27 16 + 1
      map := f 0x18 8, cap := f 0x20 4, bkt := f 0x24 4 }
  let descBad := !signRepeats (f 0 8) || !signRepeats (f 8 8) || f 0x10 4 / 1024 != 0 || nbits (f 0x10 4) 7 5 != 0 ||
    24 < p.px || f 0x14 4 / 2 ^ 28 != 0 || nbits (f 0x14 4) 15 12 != 0 || p.map % 64 != 0
  if descBad || p.cap = 0 || 64 < p.cap || p.bkt % 8 != 0 || (bs.drop 0x30).any (· != 0) ||
     1024 * areaK < p.bkt + p.h * p.w * p.bsz
  then none else some p

/-- R259's checks of the header's place at issue. -/
def headerTrap (t : Team) (off : Nat) : Option LaneRes :=
  if off % 64 != 0 then some (trapped cALIGN 0)
  else if 1024 * t.desc.scrK < off + 64 then some (trapped cSPAD 0)
  else none

def scratchNat (s : State) (uid off n : Nat) : Nat := leNat (scratchRead s uid off n)

/-- CRC-32C of R139 over some bytes. -/
def crc32c (bs : List Byte) : Word :=
  let step (c : Word) : Word := if c.getLsbD 0 then (c >>> 1) ^^^ 0x82F63B78 else c >>> 1
  ~~~(bs.foldl (fun c b => (List.range 8).foldl (fun c _ => step c) (c ^^^ b.setWidth 32)) 0xFFFFFFFF)

/-! ### VOXIN, R261 to R263 -/

/-- An entry of a bucket: KEY, INDEX and features. -/
abbrev Entry := List Word

/-- What an insertion does to a bucket: the entries from some index on, the new COUNT, the drop, the code. -/
structure Insertion where
  start : Nat
  entries : List Entry
  count : Nat
  dropped : Bool
  code : Nat
deriving DecidableEq, Repr

def Entry.key (e : Entry) : Nat := (e.headD 0).toNat

/-- The capped insertion of R261 among the valid entries. -/
def insertCapped (cap : Nat) (es : List Entry) (new : Entry) : Insertion :=
  let n := es.length
  let less := es.countP (fun e => Entry.key e < Entry.key new)
  if es.any (fun e => Entry.key e == Entry.key new) then ⟨n, [], n, true, 2⟩
  else if n < cap then ⟨less, new :: es.drop less, n + 1, false, 0⟩
  else if Entry.key new < Entry.key (es.getLastD []) then ⟨less, new :: (es.drop less).dropLast, n, true, 1⟩
  else ⟨n, [], n, true, 2⟩

def readEntryAt (s : State) (uid : Nat) (p : PointHeader) (base e : Nat) : Entry :=
  (List.range (2 + p.ch)).map (fun k => BitVec.ofNat 32 (scratchNat s uid (base + 8 + e * (8 + 4 * p.ch) + 4 * k) 4))

/-- Scratchpad bytes written by a unit of the team's core. -/
def unitStore (s : State) (uid off : Nat) (bs : List Byte) : State :=
  scratchPut (scratchMeets s uid none off bs.length true) uid off bs

def unitAdd (s : State) (uid off : Nat) : State := unitStore s uid off (leBytes 4 (scratchNat s uid off 4 + 1))

def voxStatus (key code : Nat) : Word := BitVec.ofNat 32 (key * 256 + code)

/-- One insertion: the new state and the status, or none for a full bucket under NOCAP. -/
def insertPoint (s : State) (t : Team) (off : Nat) (nocap : Bool) (rec : List Byte) : State × Option Word :=
  let s := scratchMeets s t.uid none off 64 false
  match pointHeader t.desc.scrK (scratchRead s t.uid off 64) with
  | none => (s, some (voxStatus 0 4))
  | some p =>
    let word (k : Nat) : Nat := leNat ((rec.drop (4 * k)).take 4)
    let w := toSigned (word 0) 32 / 2 ^ p.px
    let y := toSigned (word 1) 32 / 2 ^ p.px
    if w < 0 || (p.w : Int) ≤ w || y < 0 || (p.h : Int) ≤ y then (unitAdd s t.uid (off + 0x2C), some (voxStatus 0 3))
    else
      let k := y.toNat * p.w + w.toNat
      let base := p.bkt + k * p.bsz
      let s := scratchMeets s t.uid none base 4 false
      let n := scratchNat s t.uid base 4
      -- no entry at or beyond COUNT is read (R260)
      let s := if nocap || p.cap < n then s else scratchMeets s t.uid none (base + 8) (n * (8 + 4 * p.ch)) false
      let new : Entry := [crc32c (leBytes 4 (word 3)), BitVec.ofNat 32 (word 3)]
        ++ (List.range p.ch).map (fun j => BitVec.ofNat 32 (word (4 + j)))
      if p.cap < n then (s, some (voxStatus 0 4))
      else if nocap && n = p.cap then (s, none)
      else
        let i := if nocap then ⟨n, [new], n + 1, false, 0⟩
          else insertCapped p.cap ((List.range n).map (readEntryAt s t.uid p base)) new
        let s := i.entries.zipIdx.foldl (fun s e =>
          unitStore s t.uid (base + 8 + (i.start + e.2) * (8 + 4 * p.ch)) (e.1.flatMap (fun x => leBytes 4 x.toNat))) s
        let s := if i.count != n then unitStore s t.uid base (leBytes 4 i.count) else s
        let s := if i.dropped then unitAdd s t.uid (off + 0x28) else s
        (s, some (voxStatus k i.code))

def isVoxin : Instr → Option Bool | .voxin _ nocap .. => some nocap | _ => none

/-- The record that the insertion reads. -/
def voxinBeats (o : EngOp) : List Beat := withIas [⟨o.arg 1, 0, 32, 0⟩] o.ias

/-- The record is read, at the fork when it translates then (R92, R93): once it has been, argument 3 is 1 and argument 4 its
bytes. -/
def voxinRead (s : State) (o : EngOp) : State × Bool :=
  if o.arg 3 = 1 then (s, true)
  else
    match s.team? o.team, voxinBeats o with
    | some t, [b] =>
      match translateFor s t.space b.ia 32 .load false with
      | (s, .ok tr) =>
        let x := leNat (readBytes s t.core t.desc.fused t.space b.ia 32 tr)
        (s.modOp o.id (fun o => { o with args := o.args.take 3 ++ [1, x] }), true)
      | (s, _) => (s, false)
    | _, _ => (s, false)

/-- The lanes of one instruction, by its issue group, reach the point unit in their order (R221, R261). -/
def voxinFirst (s : State) (o : EngOp) : Bool :=
  match s.ops.find? (fun x => x.team == o.team && x.arg 2 == o.arg 2 && !x.stuck && x.pos == 0 && (isVoxin x.ins).isSome) with
  | some x => x.id == o.id
  | none => false

def voxinReady (s : State) (o : EngOp) : Bool :=
  (isVoxin o.ins).isSome && o.pos == 0 && opRuns s o && voxinFirst s o

/-- An insertion of this lane that found its bucket full. -/
def voxinFailed (c : Lc) (o : EngOp) : Bool :=
  o.team == c.is.team && o.warp == c.wi && o.lane == c.slot && o.pc == c.is.pc && o.pos == 2 &&
  match o.ins with | .voxin .. => true | _ => false

def voxinOne (h : Hdr) (nocap : Bool) (d : Reg) (a b : Src) (s : State) (c : Lc) : State × LaneRes :=
  let ea := c.pair a
  let off := (c.src b).toNat
  if s.ops.any (voxinFailed c) then
    ({ s with ops := s.ops.filter (fun o => !voxinFailed c o) }, trapped 0x0B 0)
  else match headerTrap c.tm off with
  | some r => (s, r)
  | none =>
    match globalCheck s c.space ea 32 .load with
    | .error e => (s, e)
    | .ok ia =>
      forkRelease s c .d (fun s =>
        let dst := c.outDst h d 1
        let id := s.serial
        let s := addOp (markUniform s c dst) { blankOp (.voxin h nocap d a b) c with
          args := [off, ea.toNat, c.is.id, 0, 0], ias := [ia], dst := dst, latch := h.latch }
        (newest s (fun o => (voxinRead s o).1), if nocap then .wait (.engine id) else .done {}))

/-- DEDUCED, log entry 14. -/
def execVoxin (h : Hdr) (nocap : Bool) (d : Reg) (a b : Src) (s : State) : Out :=
  perLane (.voxin h nocap d a b) h s (voxinOne h nocap d a b)

/-- A status reaches the lane's register. -/
def giveStatus (s : State) (o : EngOp) (x : Word) : State :=
  applyResult s ⟨0, false, o.team, o.warp, o.lane, o.dst, o.latch, x.setWidth 128, false, o.dead⟩

def execVoxinInsertion (op : Nat) (s : State) : Out :=
  event s (fun s =>
    match s.op? op with
    | some o =>
      match s.team? o.team, isVoxin o.ins with
      | some t, some nocap =>
        if !voxinReady s o then s
        else match voxinRead s o with
        | (s, false) => s
        | (s, true) =>
          let x := ((s.op? op).map (fun o => o.arg 4)).getD 0
          match insertPoint s t (o.arg 0) nocap (leBytes 32 x) with
          | (s, some x) =>
            let s := giveStatus (s.dropOp op) o x
            if nocap then wakeOp s o true else s
          | (s, none) => wakeOp (s.modOp op (fun o => { o with pos := 2, dst := none, latch := none })) o false
      | _, _ => s
    | none => s)

/-! ### BEVPOOL, R264 -/

def mapBytes (p : PointHeader) : Nat := 4 * (p.h * p.w * p.ch)

/-- The beats of an operation with TOT = 0: the map, then the completion word. -/
def poolBeats (map bytes word : Nat) : List Beat := runBeats map bytes 0 ++ [⟨word, 0, 4, 0⟩]

/-- Bytes of a bucket of an operation, R260. -/
def EngOp.bucket (o : EngOp) (k : Nat) : Nat := o.arg 4 + k * (8 + o.arg 3 * (8 + 4 * o.arg 2))

/-- A number of the scratchpad as an operation sees it: as it stood at its fork (R92, R93). -/
def heldNat (s : State) (o : EngOp) (off n : Nat) : Nat :=
  match o.kept with
  | some m => leNat (cread m off n)
  | none => scratchNat s o.team off n

/-- The pooling begins, and reads at its fork the counts of the buckets and the entries below them (R92, R93, R260). -/
def addPool (s : State) (o : EngOp) : State :=
  let s := (List.range (o.arg 1)).foldl (fun s k =>
    let s := scratchMeets s o.team none (o.bucket k) 4 false
    let n := min (scratchNat s o.team (o.bucket k) 4) (o.arg 3)
    scratchMeets s o.team none (o.bucket k + 8) (n * (8 + 4 * o.arg 2)) false) s
  addOp s { o with kept := (s.team? o.team).map (·.scratch) }

def bevpoolOne (h : Hdr) (sum clr : Bool) (tgt : BevTgt) (a : Src) (s : State) (c : Lc) : State × LaneRes :=
  let off := (c.src a).toNat
  let i : Instr := .bevpool h sum clr tgt a
  match s.team? c.is.team with
  | none => (s, .stay)
  | some t =>
    match headerTrap t off with
    | some r => (s, r)
    | none =>
      let s := scratchMeets s c.is.team (some c.wi) off 64 false
      match pointHeader t.desc.scrK (scratchRead s c.is.team off 64) with
      | none => (s, tshape)
      | some p =>
        let args := [off, p.h * p.w, p.ch, p.cap, p.bkt, p.map]
        match tgt with
        | .mem b =>
          let word := c.pair b
          if word.toNat % 4 != 0 then (s, .trap cALIGN 0 word 0 false)
          else match checkBeats s c.space .store (poolBeats p.map (mapBytes p) word.toNat) with
          | .error e => (s, e)
          | .ok ias =>
            forkRelease s c .d (fun s => (addPool s { blankOp i c with args := args ++ [word.toNat], ias := ias }, .done {}))
        | .tile d =>
          let sh := t.shape d.val
          if !t.shapeOk d.val || sh.ty != 0 || sh.scale != 0 || sh.rows < p.h * p.w || sh.cols < p.ch then (s, tshape)
          else match firstNot s c.is.team .ready [d.val] with
          | some n => waitTile s n
          | none =>
            let s := computeStart (fillTiles s c.is.team [d.val]) c.is.team d.val
            (addPool s { blankOp i c with args := args ++ [0, tshNat t d.val], tiles := [d.val] }, .done {})

def execBevpool (h : Hdr) (sum clr : Bool) (tgt : BevTgt) (a : Src) (s : State) : Out :=
  perWarp (.bevpool h sum clr tgt a) h s (match tgt with | .tile d => shapeCheck [d.val] | .mem _ => fun _ _ => none)
    (bevpoolOne h sum clr tgt a)

def bevFields : Instr → Option (Bool × Bool × Bool)
  | .bevpool _ sum clr (.mem _) _ => some (sum, clr, true)
  | .bevpool _ sum clr (.tile _) _ => some (sum, clr, false)
  | _ => none

def bevBeats (o : EngOp) : List Beat :=
  withIas (poolBeats (o.arg 5) (4 * (o.arg 1 * o.arg 2)) (o.arg 6)) o.ias

/-- The pooled value of channel c of bucket k. -/
def poolValue (s : State) (o : EngOp) (sum : Bool) (k c : Nat) : Word :=
  let size := 8 + 4 * o.arg 2
  let base := o.bucket k
  let n := min (heldNat s o base 4) (o.arg 3)
  let vs := (List.range n).map (fun e => f32 (BitVec.ofNat 32 (heldNat s o (base + 8 + e * size + 8 + 4 * c) 4)))
  if n = 0 then 0 else toF32 .rn (redVal (if sum then .sum else .max) .rn vs)

/-- CLR: the counts of every bucket and the header's counters. -/
def clearBuckets (s : State) (o : EngOp) : State :=
  let s := (List.range (o.arg 1)).foldl (fun s k =>
    unitStore s o.team (o.bucket k) (leBytes 4 0)) s
  unitStore s o.team (o.arg 0 + 0x28) (leBytes 8 0)

def execBevpoolCompletion (op : Nat) (s : State) : Out :=
  event s (fun s =>
    match s.op? op with
    | some o =>
      match s.team? o.team, bevFields o.ins with
      | some t, some (sum, clr, mem) =>
        if !opRuns s o then s
        else
          let vals := (List.range (o.arg 1)).flatMap (fun k => (List.range (o.arg 2)).map (fun c => poolValue s o sum k c))
          let filled := (List.range (o.arg 1)).countP (fun k => heldNat s o (o.bucket k) 4 != 0)
          let clear (s : State) : State := if clr then clearBuckets s o else s
          if mem then
            let bytes := memPut [] 0 (vals.flatMap (fun x => leBytes 4 x.toNat))
            let bs := bevBeats o
            let last := bs.length - 1
            let put (bytes : Cells 8) (s : State) (b : Beat) (tr : Trans) : State :=
              memStore s none t.core t.desc.fused t.space b.ia (cread bytes b.off b.len) tr
            match makeBeats t.space .store (put bytes) s ((bs.zipIdx.take last).drop o.pos) with
            | (s, some k) => s.modOp op (fun o => { o with pos := k })
            | (s, none) =>
              let s := s.modOp op (fun o => { o with pos := last })
              if !allTranslate s t.space .store (bs.drop last) then s
              else
                ((makeBeats t.space .store (put (memPut [] 0 (leBytes 4 (2 ^ 31 + filled)))) (clear s) (bs.zipIdx.drop last)).1).dropOp op
          else
            let sh := o.shapeArg 7
            let n := o.tiles.headD 0
            let fill (t : Team) : Team := { t with tileMem := vals.zipIdx.foldl (fun m x =>
              setElem m sh (x.2 / o.arg 2) (x.2 % o.arg 2) x.1.toNat) t.tileMem }
            let s := clear (s.modTeam o.team fill)
            setTile (computeEnd (s.dropOp op) o.team n) o.team n .ready false
      | _, _ => s
    | none => s)

end Sys2Proof.Machine
end

