-- ==== Sys2Proof/Machine/Nested.lean ====
section
/-! DEFINITION. Scenes of nested boxes (R121 to R133): their records and when these are malformed, the exact frame of a
box, and the exact tests of rays. All geometry is held in one frame: the world, in units of 2^−32 world units, in
which R124 and R125 make every coordinate an integer. -/

namespace Sys2Proof.Machine

/-! ### Exact vectors and fractions -/

structure Vec3 where
  x : Int
  y : Int
  z : Int
deriving DecidableEq, Repr

def Vec3.map2 (f : Int → Int → Int) (a b : Vec3) : Vec3 := ⟨f a.x b.x, f a.y b.y, f a.z b.z⟩
def Vec3.add : Vec3 → Vec3 → Vec3 := Vec3.map2 (· + ·)
def Vec3.sub : Vec3 → Vec3 → Vec3 := Vec3.map2 (· - ·)
def Vec3.scale (k : Int) (a : Vec3) : Vec3 := ⟨k * a.x, k * a.y, k * a.z⟩
def Vec3.dot (a b : Vec3) : Int := a.x * b.x + a.y * b.y + a.z * b.z
def Vec3.cross (a b : Vec3) : Vec3 := ⟨a.y * b.z - a.z * b.y, a.z * b.x - a.x * b.z, a.x * b.y - a.y * b.x⟩
def Vec3.all (p : Int → Bool) (a : Vec3) : Bool := p a.x && p a.y && p a.z

/-- A fraction with a positive denominator. -/
structure Frac where
  n : Int
  d : Nat
deriving DecidableEq, Repr

def frac (n d : Int) : Frac := if d < 0 then ⟨-n, d.natAbs⟩ else ⟨n, d.natAbs⟩
def Frac.lt (a b : Frac) : Bool := a.n * b.d < b.n * a.d
def Frac.eq (a b : Frac) : Bool := a.n * b.d == b.n * a.d

/-! ### Reading records -/

/-- Why a read of a record has no answer yet: a frozen page, or a failed check with cause, subcode, VA and IA. -/
inductive Stall
  | wait
  | fault (cause sub : Byte) (va ia : Nat)
deriving DecidableEq, Repr

/-- A computation that reads memory, and one that may end at a malformed record, named by its address. One that stalls
ends with the state that its reads have left. -/
abbrev ReadM := StateT State (Except (State × Stall))
abbrev SceneM := ExceptT Nat ReadM

/-- A reader of some bytes at a VA. -/
abbrev Reader := Nat → Nat → ReadM (List Byte)

/-- The read of an engine at its core (R345, R350, R370). -/
def engineRead (t : Team) : Reader := fun va n s =>
  match s.ctx? t.space with
  | none => .error (s, .fault cRANGE 1 va 0)
  | some c =>
    match rangeCheck c (BitVec.ofNat 64 va) .load with
    | .error sub => .error (s, .fault cRANGE sub va 0)
    | .ok ia =>
      match translateFor s t.space ia n .load false with
      | (s, .ok tr) => .ok (readBytes s t.core t.desc.fused t.space ia n tr, s)
      | (s, .frozen _) => .error (s, .wait)
      | (s, .fail sub) => .error (s, .fault cXLATE sub va ia)

/-- The read of a lane (R266): inside a TRY it joins the read set and sees the warp's own bytes (R190). -/
def laneRead (c : Lc) : Reader := fun va n s =>
  match s.ctx? c.space with
  | none => .error (s, .fault cRANGE 1 va 0)
  | some x =>
    match rangeCheck x (BitVec.ofNat 64 va) .load with
    | .error sub => .error (s, .fault cRANGE sub va 0)
    | .ok ia =>
      match translateFor s c.space ia n .load true with
      | (s, .ok tr) =>
        let r := laneBytes s c ia n tr
        .ok (r.2, r.1)
      | (s, .frozen false) => .error (s, .wait)
      | (s, .frozen true) => .error (s, .fault cXLATE 3 va ia)
      | (s, .fail sub) => .error (s, .fault cXLATE sub va ia)

/-! ### Scene headers and boxes, R122 to R125 -/

structure SceneHdr where
  w : Vec3
  root : Nat
  g : Nat
deriving DecidableEq, Repr

def field (bs : List Byte) (off n : Nat) : Nat := leNat ((bs.drop off).take n)

/-- A header whose ROOT has a bit outside [55:6] is itself malformed. (DESIGN CHOICE, log entry 21.) -/
def parseHeader (bs : List Byte) : Option SceneHdr :=
  let root := field bs 0x18 8
  let g := field bs 0x20 4
  if !(signRepeats (field bs 0 8) && signRepeats (field bs 8 8) && signRepeats (field bs 16 8)) || root % 64 != 0 ||
     2 ^ 56 ≤ root || g < 1 || 16 < g || (bs.drop 0x24).any (· != 0) then none
  else some ⟨⟨toSigned (field bs 0 8) 48, toSigned (field bs 8 8) 48, toSigned (field bs 16 8) 48⟩, root, g⟩

/-- A header at an address that is no multiple of 64 is malformed; lanes have trapped before (DEDUCED, log entry 21). -/
def sceneHeader (rd : Reader) (va : Nat) : SceneM SceneHdr := do
  if va % 64 ≠ 0 then throwThe Nat va
  let bs ← ExceptT.lift (rd va 64)
  match parseHeader bs with
  | some h => pure h
  | none => throwThe Nat va

structure BoxRec where
  va : Nat
  leaf : Bool
  shift : Nat
  ext : Nat
  off : Vec3
  count : Nat
  child : Nat
  prim : Nat
  id : Nat
  links : List Int
  parent : Int
deriving DecidableEq, Repr

/-- The fields of a box record, R123. -/
def boxOf (va : Nat) (bs : List Byte) : BoxRec :=
  let a := field bs 0 8
  let b := field bs 8 8
  { va, leaf := nbits a 63 62 == 1, shift := nbits a 61 58, ext := nbits a 57 52
    off := ⟨nbits a 15 0, nbits a 31 16, nbits a 47 32⟩, count := nbits b 63 56, child := nbits b 55 0
    prim := field bs 0x14 4, id := field bs 0x10 4
    links := (List.range 6).map (fun k => toSigned (field bs (0x18 + 4 * k) 4) 32)
    parent := toSigned (field bs 0x30 4) 32 }

/-- A box record by itself; none when its own fields are malformed (R125). -/
def parseBox (va : Nat) (bs : List Byte) : Option BoxRec :=
  let a := field bs 0 8
  let r := boxOf va bs
  if 1 < nbits a 63 62 || nbits a 51 48 != 0 || 37 < r.ext || field bs 0x34 4 != 0 ||
     (0 < r.count && r.child % 64 != 0) || (!r.leaf && r.prim != 0) then none
  else some r

/-- The address `k` records of 64 bytes away. -/
def recordAt (va : Nat) (k : Int) : Nat := (((va : Int) + 64 * k) % 2 ^ 64).toNat

/-- A record's CHILD array holds an address. -/
def BoxRec.holds (p : BoxRec) (va : Nat) : Bool :=
  !p.leaf && p.child ≤ va && va < p.child + 64 * p.count && (va - p.child) % 64 == 0

/-- A box at an address that is no multiple of 64, which a program may write to PBOX, is malformed; lanes have trapped before
(DEDUCED, log entry 21). -/
def readBox (rd : Reader) (va : Nat) : SceneM BoxRec := do
  if va % 64 ≠ 0 then throwThe Nat va
  let bs ← ExceptT.lift (rd va 64)
  match parseBox va bs with
  | some r => pure r
  | none => throwThe Nat va

/-- What R125 asks of a box beside its own fields and its place in its parent. -/
def BoxRec.standsAt (r : BoxRec) (root : Nat) : Bool :=
  if r.va = root then r.parent == 0 && r.shift == 0 && r.off == ⟨0, 0, 0⟩ else r.parent != 0

/-- The record that PARENT of a box names; one that does not hold the box makes the box the malformed record (R125). -/
def readParent (rd : Reader) (r : BoxRec) : SceneM BoxRec := do
  let va := recordAt r.va r.parent
  let bs ← ExceptT.lift (rd va 64)
  if !(boxOf va bs).holds r.va then throwThe Nat r.va
  match parseBox va bs with
  | some p => pure p
  | none => throwThe Nat va

/-- The records from the root down to a box, through PARENT, with at most `fuel` levels above it. -/
def climb (rd : Reader) (root start : Nat) : (fuel : Nat) → BoxRec → List BoxRec → SceneM (List BoxRec)
  | 0, r, acc => do
    if !r.standsAt root then throwThe Nat r.va
    if r.va ≠ root then throwThe Nat start
    pure (r :: acc)
  | f + 1, r, acc => do
    if !r.standsAt root then throwThe Nat r.va
    if r.va = root then pure (r :: acc)
    else
      let p ← readParent rd r
      climb rd root start f p (r :: acc)

/-- A box in the world: its origin, the base-2 logarithm of its unit, and its accumulated shift (R124). -/
structure BoxAt where
  r : BoxRec
  org : Vec3
  lg : Nat
  acc : Nat
deriving DecidableEq, Repr

def BoxAt.q (b : BoxAt) : Int := 2 ^ (b.lg + b.r.ext)
/-- The side of the cube. -/
def BoxAt.side (b : BoxAt) : Int := 1023 * b.q
/-- The leaf's grid exponent g, up to the constant 32. -/
def BoxAt.grid (b : BoxAt) : Nat := b.lg + b.r.ext

/-- The cube lies within the 48-bit world. -/
def BoxAt.inWorld (b : BoxAt) : Bool :=
  b.org.all (fun x => -(2 ^ 79) ≤ x && x + b.side ≤ (2 ^ 47 - 1) * 2 ^ 32)
def BoxAt.within (b p : BoxAt) : Bool :=
  (b.org.sub p.org).all (fun x => 0 ≤ x && x + b.side ≤ p.side)

def placeRoot (h : SceneHdr) (r : BoxRec) : BoxAt := ⟨r, Vec3.scale (2 ^ 32) h.w, 32 + h.g, 0⟩
def placeChild (h : SceneHdr) (p : BoxAt) (r : BoxRec) : BoxAt :=
  ⟨r, p.org.add (Vec3.scale (2 ^ (p.lg + (p.r.ext - 6))) r.off), 32 + h.g - (p.acc + r.shift), p.acc + r.shift⟩

/-- Boxes of a path placed one in another, the deepest first; or the first malformed one. -/
def placePath (h : SceneHdr) : List BoxRec → List BoxAt → Except Nat (List BoxAt)
  | [], acc => .ok acc
  | r :: rest, acc =>
    match acc with
    | [] =>
      let b := placeRoot h r
      if b.inWorld then placePath h rest [b] else .error r.va
    | p :: _ =>
      let b := placeChild h p r
      if b.acc ≤ 32 && b.within p && b.inWorld then placePath h rest (b :: acc) else .error r.va

/-- The box at an address with its ancestors, itself first, under a header. Of several malformed records the one is named
that is met first: the fields of each record and its place in its parent's array from the box upward, then the cubes from
the root downward (DEDUCED, log entry 21). -/
def pathFrom (rd : Reader) (h : SceneHdr) (va : Nat) : SceneM (List BoxAt) := do
  let r ← readBox rd va
  let rs ← climb rd h.root va 32 r []
  match placePath h rs [] with
  | .ok bs => pure bs
  | .error a => throwThe Nat a

/-- The header is read first. -/
def pathTo (rd : Reader) (scene va : Nat) : SceneM (SceneHdr × List BoxAt) := do
  let h ← sceneHeader rd scene
  let bs ← pathFrom rd h va
  pure (h, bs)

/-! ### Triangles, R127 -/

structure Tri where
  v0 : Vec3
  v1 : Vec3
  v2 : Vec3
  user : Nat
deriving DecidableEq, Repr

/-- Counts of a vertex field. -/
def vertexOf (x : Nat) : Vec3 := ⟨nbits x 9 0, nbits x 19 10, nbits x 29 20⟩
def vertexField (v : Vec3) : Nat := v.x.toNat + v.y.toNat * 2 ^ 10 + v.z.toNat * 2 ^ 20

def triAddr (b : BoxRec) (i : Nat) : Nat := b.child + 16 * i

def readTriWord (rd : Reader) (b : BoxRec) (i : Nat) : SceneM Nat := do
  let bs ← ExceptT.lift (rd (triAddr b i) 16)
  if nbits (leNat bs) 95 90 ≠ 0 then throwThe Nat (triAddr b i)
  pure (leNat bs)

def triOf (b : BoxAt) (w : Nat) : Tri :=
  let v (k : Nat) : Vec3 := b.org.add (Vec3.scale b.q (vertexOf (w / 2 ^ (30 * k))))
  ⟨v 0, v 1, v 2, nbits w 127 96⟩

/-! ### Rays, R128 to R131 -/

structure Ray where
  o : Vec3
  d : Vec3
  lim : Option Frac
deriving DecidableEq, Repr

/-- t of R128. -/
def readT (bs : List Byte) (off : Nat) : Frac :=
  let e := toSigned (field bs (off + 6) 2) 16
  let n := toSigned (field bs (off + 8) 8 + field bs (off + 16) 4 * 2 ^ 64) 96
  let d := field bs off 6
  if 0 ≤ e then ⟨n * 2 ^ e.toNat, d⟩ else ⟨n, d * 2 ^ (-e).toNat⟩

/-- The ray record in world units of 2^−32; none when it is MALFORMED. -/
def parseRay (bs : List Byte) : Option Ray :=
  let dRepeats (off : Nat) : Bool := let x := field bs off 4; x / 2 ^ 23 == 0 || x / 2 ^ 23 == 2 ^ 9 - 1
  let w := field bs 0x24 4
  if !(signRepeats (field bs 0 8) && signRepeats (field bs 8 8) && signRepeats (field bs 16 8)) ||
     !(dRepeats 0x18 && dRepeats 0x1C && dRepeats 0x20) || 1 < w || (w == 1 && field bs 0x28 6 % 2 == 0) then none
  else some {
    o := Vec3.scale (2 ^ 32) ⟨toSigned (field bs 0 8) 48, toSigned (field bs 8 8) 48, toSigned (field bs 16 8) 48⟩
    d := Vec3.scale (2 ^ 32)
      ⟨toSigned (field bs 0x18 4) 24, toSigned (field bs 0x1C 4) 24, toSigned (field bs 0x20 4) 24⟩
    lim := if w = 1 then some (readT bs 0x28) else none }

/-- The interval of t in which one coordinate lies in [lo, lo + side]: none when it never does; an absent bound is
none. -/
def slab (o d lo side : Int) : Option (Option (Frac × Frac)) :=
  if d = 0 then (if lo ≤ o && o ≤ lo + side then some none else none)
  else
    let a := frac (lo - o) d
    let b := frac (lo + side - o) d
    some (some (if Frac.lt b a then (b, a) else (a, b)))

/-- The ray meets the closed cube at some t with 0 ≤ t, below the limit (R130, R271). -/
def meetsCube (ray : Ray) (b : BoxAt) : Bool :=
  match slab ray.o.x ray.d.x b.org.x b.side, slab ray.o.y ray.d.y b.org.y b.side, slab ray.o.z ray.d.z b.org.z b.side with
  | some i, some j, some k =>
    let is := [i, j, k].filterMap id
    let lo := is.foldl (fun m x => if Frac.lt m x.1 then x.1 else m) ⟨0, 1⟩
    is.all (fun x => !Frac.lt x.2 lo) && (match ray.lim with | some l => Frac.lt lo l | none => true)
  | _, _, _ => false

def signOf (x : Int) : Int := if 0 < x then 1 else if x < 0 then -1 else 0
/-- key(e) of R130. -/
def edgeKey (e : Vec3) : Int := if e.z ≠ 0 then signOf e.z else if e.y ≠ 0 then signOf e.y else signOf e.x

/-- The hit parameter of a triangle in lowest terms, and whether σ is negative (R130). -/
def triHit (ray : Ray) (t : Tri) : Option (Frac × Bool) :=
  let w (a b : Vec3) : Int := ray.d.dot ((a.sub ray.o).cross (b.sub ray.o))
  let es := [(t.v0, t.v1), (t.v1, t.v2), (t.v2, t.v0)]
  let sum := es.foldl (fun x e => x + w e.1 e.2) 0
  let σ := signOf sum
  if sum = 0 || !es.all (fun e => 0 < σ * w e.1 e.2 || (w e.1 e.2 == 0 && 0 < σ * edgeKey (e.2.sub e.1))) then none
  else
    let n := (t.v1.sub t.v0).cross (t.v2.sub t.v0)
    let x := frac ((t.v0.sub ray.o).dot n) (ray.d.dot n)
    if x.n ≤ 0 then none
    else
      let g := Nat.gcd x.n.natAbs x.d
      some (⟨x.n / g, x.d / g⟩, σ < 0)

/-- The number of factors 2 of a positive number. -/
def twos : (fuel n : Nat) → Nat
  | 0, _ => 0
  | f + 1, n => if n % 2 = 0 then twos f (n / 2) + 1 else 0

/-- The 24 bytes of a positive t in the canonical form of R128, low first: TDEN and TEXP, TNUM, TF32. -/
def tBytes (t : Frac) : List Byte :=
  let n := t.n.natAbs
  let a := twos n.log2 n
  let b := twos t.d.log2 t.d
  let e : Int := (a : Int) - b
  leBytes 6 (t.d / 2 ^ b) ++ leBytes 2 (e % 65536).toNat ++ leBytes 12 (n / 2 ^ a)
  ++ leBytes 4 (fp32.roundQ .rn false false n t.d 0)

end Sys2Proof.Machine
end

