-- ==== Sys2Proof/Machine/Geometry.lean ====
section
/-! DEFINITION. Page 6 over scenes: the traversal record and its batches (R268 to R273), SPAWNRAY (R274), BOXIN
(R275), EDGE (R276), SNAP (R277, R132) and ANIM (R137, R138, R282). -/

namespace Sys2Proof.Machine

/-! ### The traversal record, R268, R269 -/

/-- A number of the record's image, whose byte 0 is key 0. -/
def tget (r : Cells 8) (off n : Nat) : Nat := readLE r off n
def tput (r : Cells 8) (off n x : Nat) : Cells 8 := writeLE r off n x
/-- Bits [hi:lo] of the word at 0x50 replaced. -/
def tputBits (r : Cells 8) (hi lo x : Nat) : Cells 8 :=
  let w := tget r 0x50 4
  tput r 0x50 4 (w - nbits w hi lo * 2 ^ lo + x % 2 ^ (hi + 1 - lo) * 2 ^ lo)

def tState (r : Cells 8) : Nat := nbits (tget r 0x50 4) 1 0
def tSp (r : Cells 8) : Nat := nbits (tget r 0x50 4) 15 12
def tGen (r : Cells 8) : Nat := nbits (tget r 0x50 4) 11 8
def tHit (r : Cells 8) : Bool := nbits (tget r 0x50 4) 4 4 == 1
def tNode (r : Cells 8) : Bool := nbits (tget r 0x50 4) 5 5 == 1

/-- A malformed traversal record. -/
def tBad (areaK : Nat) (r : Cells 8) : Bool :=
  let w := tget r 0x50 4
  let stk := tget r 0x4C 4
  w / 65536 != 0 || nbits w 7 6 != 0 || nbits w 3 2 != 0 || tState r == 3 || 8 < tSp r || 3 < tget r 0x74 4 ||
  tget r 0xA4 4 / 2 != 0 || stk % 64 != 0 || 1024 * areaK < stk + 1024

def traceStatus (r : Cells 8) (code : Nat) : Word :=
  BitVec.ofNat 32 (code + (tHit r).toNat * 2 ^ 4 + tGen r * 2 ^ 8 + tSp r * 2 ^ 12)

def rayOf (r : Cells 8) : Option Ray := parseRay (cread r 0 64)

/-- What an action or a step leaves: the record, and the batch's code when it has ended. -/
abbrev Traced := Cells 8 × Option Nat

/-- MALFORMED with BAD. -/
def traceBad (r : Cells 8) (addr : Nat) : Traced := (tput r 0x78 8 addr, some 4)

/-! ### The walk, R271, R272 -/

/-- Candidate(tri) of R272: the record with its candidate area written. -/
def candidate (r : Cells 8) (ray : Ray) (b : BoxAt) (i : Nat) (t : Tri) : Option (Cells 8) :=
  match triHit ray t with
  | none => none
  | some (x, back) =>
    let prim := (b.r.prim + i) % 2 ^ 32
    let hp := tget r 0x5C 4
    let wins := match ray.lim with
      | none => true
      | some l => x.lt l || (tHit r && x.eq l && (prim < hp || (prim == hp && b.r.id < tget r 0x58 4)))
    if !wins then none
    else
      let at_ (o d : Int) : Nat := (((o * x.d + x.n * d) / (x.d * 2 ^ 32)) % 2 ^ 64).toNat
      let r := cwrite r 0x80 (tBytes x)
      let r := tput (tput r 0x98 4 b.r.id) 0x9C 4 prim
      let r := tput (tput r 0xA0 4 t.user) 0xA4 4 back.toNat
      some (tput (tput (tput r 0xA8 8 (at_ ray.o.x ray.d.x)) 0xB0 8 (at_ ray.o.y ray.d.y)) 0xB8 8 (at_ ray.o.z ray.d.z))

/-- The position's mode. -/
def tMode (r : Cells 8) (m : Nat) : Traced := (tput r 0x74 4 m, none)

/-- ENTER at PBOX: BAD is the malformed record, PBOX or an ancestor of it (R125). -/
def enterAt (rd : Reader) (r : Cells 8) (ray : Ray) (h : SceneHdr) : ReadM Traced := do
  let pbox := tget r 0x68 8
  match ← (pathFrom rd h pbox).run with
  | .ok (b :: _) =>
    if meetsCube ray b then pure (tMode (tput r 0x70 4 0) (if b.r.leaf then 2 else 1)) else pure (tMode r 3)
  | .ok [] => pure (traceBad r pbox)
  | .error a => pure (traceBad r a)

/-- CHILDREN. A position that names no step of its box is malformed (DEDUCED, log entry 21). -/
def childAt (rd : Reader) (r : Cells 8) : ReadM Traced := do
  let idx := tget r 0x70 4
  match ← (readBox rd (tget r 0x68 8)).run with
  | .error a => pure (traceBad r a)
  | .ok b =>
    if b.leaf then pure (traceBad r b.va)
    else if idx < b.count then pure (tMode (tput r 0x68 8 (recordAt b.child idx)) 0)
    else pure (tMode r 3)

/-- TRIANGLES. A position that names no step of its box is malformed (DEDUCED, log entry 21). -/
def triangleAt (rd : Reader) (r : Cells 8) (ray : Ray) (h : SceneHdr) : ReadM Traced := do
  let idx := tget r 0x70 4
  match ← (pathFrom rd h (tget r 0x68 8)).run with
  | .error a => pure (traceBad r a)
  | .ok [] => pure (traceBad r (tget r 0x68 8))
  | .ok (b :: _) =>
    if !b.r.leaf then pure (traceBad r b.r.va)
    else if b.r.count ≤ idx then pure (tMode r 3)
    else
      match ← (readTriWord rd b.r idx).run with
      | .error a => pure (traceBad r a)
      | .ok w =>
        let r := tput r 0x70 4 (idx + 1)
        match candidate r ray b idx (triOf b w) with
        | some r => pure (tputBits r 1 0 2, some 0)
        | none => pure (r, none)

/-- ASCEND: PARENT of PBOX, then the record there, then whether it holds PBOX. -/
def ascendAt (rd : Reader) (r : Cells 8) (root : Nat) : ReadM Traced := do
  let pbox := tget r 0x68 8
  if pbox = root then pure (tputBits r 1 0 0, some 1)
  else
    match ← (readBox rd pbox).run with
    | .error a => pure (traceBad r a)
    | .ok b =>
      if b.parent = 0 then pure (traceBad r pbox)
      else
        match ← (readBox rd (recordAt pbox b.parent)).run with
        | .error a => pure (traceBad r a)
        | .ok p =>
          if !p.standsAt root then pure (traceBad r p.va)
          else if !p.holds pbox then pure (traceBad r pbox)
          else pure (tMode (tput (tput r 0x68 8 p.va) 0x70 4 ((pbox - p.child) / 64 + 1)) 1)

/-- One step of the loop: ENTER charges the budget for the record that it reads. A scene header or a ray record that has
become malformed since the start ends the batch too (DEDUCED, log entry 21). -/
def traceStep (rd : Reader) (self : Nat) (r : Cells 8) : ReadM Traced := do
  let mode := tget r 0x74 4
  let budget := tget r 0x48 4
  match rayOf r with
  | none => pure (traceBad r self)
  | some ray =>
    if mode = 0 ∧ budget = 0 then pure (r, some 2)
    else
      let r := if mode = 0 then tput (tput r 0x48 4 (budget - 1)) 0x60 4 (tget r 0x60 4 + 1) else r
      match ← (sceneHeader rd (tget r 0x40 8)).run with
      | .error a => pure (traceBad r a)
      | .ok h =>
        match mode with
        | 0 => enterAt rd r ray h
        | 1 => childAt rd r
        | 2 => triangleAt rd r ray h
        | _ => ascendAt rd r h.root

/-! ### The state table, R270 -/

/-- What an instruction does: 0 TRACE.NEW, 1 TRACE, 2 TNEXT, 3 THIT, 4 go on with a batch; its bit is NODE or
END. -/
structure TraceAct where
  kind : Nat
  bit : Bool
deriving DecidableEq, Repr

/-- The position of a ray at the root. -/
def atRoot (r : Cells 8) (root : Nat) : Cells 8 :=
  tputBits (tput (tput (tput r 0x60 4 0) 0x68 8 root) 0x74 4 0) 1 0 1

def traceStart (rd : Reader) (self : Nat) (node : Bool) (r : Cells 8) : ReadM Traced := do
  match ← (sceneHeader rd (tget r 0x40 8)).run with
  | .error a => pure (traceBad r a)
  | .ok h =>
    match rayOf r with
    | none => pure (traceBad r self)
    | some _ => pure (tputBits (tputBits (tputBits (tputBits (atRoot r h.root) 11 8 0) 15 12 0) 4 4 0) 5 5 node.toNat, none)

/-- The top entry becomes the current ray. A malformed scene header ends it before the pop (DEDUCED, log entry 21). -/
def tracePop (rd : Reader) (scratch : Cells 8) (r : Cells 8) : ReadM Traced := do
  match ← (sceneHeader rd (tget r 0x40 8)).run with
  | .error a => pure (traceBad r a)
  | .ok h =>
    let k := tSp r - 1
    let e := tget r 0x4C 4 + 128 * k
    let r := memPut r 0 (cread scratch e 64)
    let r := memPut r 0xC0 (cread scratch (e + 64) 64)
    let r := tputBits (tputBits (tputBits r 11 8 (nbits (tget r 0x54 4) (4 * k + 3) (4 * k))) 15 12 k) 4 4 0
    let r := atRoot r h.root
    if (rayOf r).isNone then pure (traceBad (tputBits r 1 0 0) (2 ^ 63 + e)) else pure (r, none)

/-- The accepted candidate. -/
def traceAccept (r : Cells 8) : Cells 8 :=
  let r := memPut r 0x28 (cread r 0x80 24)
  let r := tput r 0x24 4 (Nat.lor (tget r 0x24 4) 1)
  let r := tput (tput r 0x58 4 (tget r 0x98 4)) 0x5C 4 (tget r 0x9C 4)
  tputBits r 4 4 1

def traceBegin (rd : Reader) (areaK self : Nat) (scratch : Cells 8) (a : TraceAct) (r : Cells 8) : ReadM Traced := do
  if tBad areaK r then pure (traceBad r self)
  else
    match a.kind with
    | 0 => traceStart rd self a.bit r
    | 1 =>
      if tState r = 2 then pure (r, some 0)
      else if tState r = 1 then pure (r, none)
      else if tSp r = 0 then pure (r, some 3)
      else tracePop rd scratch r
    | 2 => if tState r = 2 then pure (tputBits r 1 0 1, none) else pure (r, some 8)
    | 3 =>
      if tState r = 2 then
        let r := traceAccept r
        if a.bit then pure (tputBits r 1 0 0, some 1) else pure (tputBits r 1 0 1, none)
      else pure (r, some 8)
    | _ => pure (r, none)

/-! ### Batches, R273 -/

inductive TraceEnd
  | code (n : Nat)
  | stall (x : Stall)
deriving DecidableEq, Repr

/-- Steps until the batch ends or a read stalls; the record stands at the last completed step. -/
def runTrace (rd : Reader) (self : Nat) : Nat → State → Cells 8 → State × Cells 8 × TraceEnd
  | 0, s, r => (s, r, .stall .wait)
  | f + 1, s, r =>
    match (traceStep rd self r).run s with
    | .error (s, x) => (s, r, .stall x)
    | .ok ((r, some c), s) => (s, r, .code c)
    | .ok ((r, none), s) => runTrace rd self f s r

/-- Steps between two visits are fewer than this. -/
def traceFuel (r : Cells 8) : Nat := 1024 * (tget r 0x48 4 + 2)

def traceAct (o : EngOp) : Option TraceAct :=
  let bit : Bool × Nat := match o.ins with
    | .traceNew _ node .. => (node, 0) | .trace .. => (false, 1) | .tnext .. => (false, 2) | .thit _ fin .. => (fin, 3)
    | _ => (false, 5)
  if bit.2 = 5 then none else some ⟨if o.pos = 0 then bit.2 else 4, bit.1⟩

/-- The scratchpad bytes that a batch reads: its record, and the top entry of the ray stack where it pops one. -/
def batchMeets (s : State) (uid off : Nat) (a : TraceAct) : State :=
  let s := scratchMeets s uid none off 256 false
  if a.kind = 1 then
    let r := memPut [] 0 (scratchRead s uid off 256)
    if tState r = 0 && tSp r != 0 then scratchMeets s uid none (tget r 0x4C 4 + 128 * (tSp r - 1)) 128 false else s
  else s

/-- A batch on the record. -/
def onRecord (uid off : Nat) (o : EngOp) : Bool := o.team == uid && (traceAct o).isSome && o.arg 0 == off

/-- The record as the batches before leave it: that of the last one that has run and is still to write it, or the
scratchpad's. -/
def recordNow (s : State) (uid off : Nat) : Cells 8 :=
  match ((s.ops.filter (onRecord uid off)).filterMap (·.kept)).getLast? with
  | some m => m
  | none => memPut [] 0 (scratchRead s uid off 256)

/-- The batch from where it stands: the state after its reads, the record, its end, and whether its action on the
record is done. One that has run at its fork has its end (R93). -/
def runBatch (s : State) (t : Team) (o : EngOp) (a : TraceAct) : State × Cells 8 × TraceEnd × Bool :=
  match o.kept with
  | some m => (s, m, .code (tget m 256 4), true)
  | none =>
    let s := batchMeets s t.uid (o.arg 0) a
    let rd := engineRead t
    let self := 2 ^ 63 + o.arg 0
    let scratch := ((s.team? t.uid).map (·.scratch)).getD []
    let r := recordNow s t.uid (o.arg 0)
    match (traceBegin rd t.desc.scrK self scratch a r).run s with
    | .error (s, x) => (s, r, .stall x, a.kind == 4)
    | .ok ((r, some c), s) => (s, r, .code c, true)
    | .ok ((r, none), s) =>
      let q := runTrace rd self (traceFuel r) s r
      (q.1, q.2.1, q.2.2, true)

/-- Another batch that has begun on the record and not ended holds it; for a batch that has itself run, only an earlier one does
(R273). -/
def recordHeld (s : State) (uid off id : Nat) : Bool :=
  let ran := ((s.op? id).map (fun o => o.kept.isSome)).getD false
  s.ops.any (fun o => onRecord uid off o && o.id != id && (o.pos != 0 || o.kept.isSome) && (!ran || o.id < id))

/-- The batch at its fork: it observes no write that another lane makes later (R93). One that cannot end yet, or whose record a
batch that stands still holds, reads as it comes to run. (DEDUCED, log entry 24.) -/
def forkBatch (s : State) (o : EngOp) : State :=
  match s.team? o.team, traceAct o with
  | some t, some a =>
    if s.ops.any (fun x => onRecord o.team (o.arg 0) x && x.pos != 0 && x.kept.isNone) then s
    else match runBatch s t o a with
    | (s, r, .code c, _) => s.modOp o.id (fun o => { o with kept := some (tput r 256 4 c) })
    | _ => s
  | _, _ => s

def writeRecord (s : State) (uid off : Nat) (r : Cells 8) : State :=
  if cread r 0 256 == scratchRead s uid off 256 then s else unitStore s uid off (cread r 0 256)

def traceOne (i : Instr) (h : Hdr) (d : Reg) (a : Src) (node : Option Bool) (s : State) (c : Lc) : State × LaneRes :=
  let off := (c.src a).toNat
  if off % 64 != 0 then (s, trapped cALIGN 0)
  else if 1024 * c.tm.desc.scrK < off + 256 then (s, trapped cSPAD 0)
  else
    let s := if node.isNone then scratchMeets s c.is.team none (off + 0x50) 4 false else s
    let node := node.getD (tNode (recordNow s c.is.team off))
    forkRelease s c (if node then .n else .d) (fun s =>
      let dst := c.outDst h d 1
      let s := addOp (markUniform s c dst) { blankOp i c with args := [off], dst := dst, latch := h.latch }
      (newest s (forkBatch s), .done {}))

def execTraceNew (h : Hdr) (node : Bool) (d : Reg) (a : Src) (s : State) : Out :=
  perLane (.traceNew h node d a) h s (traceOne (.traceNew h node d a) h d a (some node))
def execTrace (h : Hdr) (node : Bool) (d : Reg) (a : Src) (s : State) : Out :=
  perLane (.trace h node d a) h s (traceOne (.trace h node d a) h d a none)
def execTnext (h : Hdr) (d : Reg) (a : Src) (s : State) : Out :=
  perLane (.tnext h d a) h s (traceOne (.tnext h d a) h d a none)
def execThit (h : Hdr) (fin : Bool) (d : Reg) (a : Src) (s : State) : Out :=
  perLane (.thit h fin d a) h s (traceOne (.thit h fin d a) h d a none)

/-- A batch that may act now. -/
def batchFree (s : State) (o : EngOp) : Bool := opRuns s o && !recordHeld s o.team (o.arg 0) o.id

def execTraceBatchCompletion (op : Nat) (s : State) : Out :=
  event s (fun s =>
    match s.op? op with
    | some o =>
      match s.team? o.team, traceAct o with
      | some t, some a =>
        if !batchFree s o then s
        else match runBatch s t o a with
        | (s, r, .code c, _) => giveStatus ((writeRecord s o.team (o.arg 0) r).dropOp op) o (traceStatus r c)
        | _ => s
      | _, _ => s
    | none => s)

/-! ### SPAWNRAY, R274 -/

/-- The checks of the record's place, the payload's size and the child's place, in their order. -/
def spawnrayTrap (c : Lc) (a cc n : Nat) : Option LaneRes :=
  let area := 1024 * c.tm.desc.scrK
  if a % 64 != 0 then some (trapped cALIGN 0)
  else if area < a + 256 then some (trapped cSPAD 0)
  else if 4 * c.tm.desc.payW < n then some (trapped cPAYLOAD 0)
  else if n % 4 != 0 then some (trapped cPAYLOAD 1)
  else if cc % 64 != 0 then some (trapped cALIGN 0)
  else if area < cc + 64 + n then some (trapped cSPAD 0)
  else none

/-- The child's bytes and the record as they stand before the instruction (R10); none where a check traps. -/
def spawnrayRead (a cc n : Nat) (s : State) (c : Lc) : State × List Byte × Cells 8 :=
  if (spawnrayTrap c a cc n).isSome then (s, [], [])
  else
    let s := scratchMeets (scratchMeets s c.is.team none cc (64 + n) false) c.is.team none a 256 false
    (s, scratchRead s c.is.team cc (64 + n), memPut [] 0 (scratchRead s c.is.team a 256))

/-- The fields of the record in which a push leaves its mark: what it writes, and the record with them. -/
def spawnrayMark (depth : Nat) (r : Cells 8) : Nat × Nat × Cells 8 × Nat :=
  if depth < tGen r + 1 then (0x64, 2, tput r 0x64 2 (min (tget r 0x64 2 + 1) 0xFFFF), 6)
  else if tSp r = 8 then (0x66, 2, tput r 0x66 2 (min (tget r 0x66 2 + 1) 0xFFFF), 7)
  else
    let k := tSp r
    let gens := tget r 0x54 4
    let r := tput r 0x54 4 (gens - nbits gens (4 * k + 3) (4 * k) * 2 ^ (4 * k) + (tGen r + 1) % 16 * 2 ^ (4 * k))
    (0x50, 8, tputBits r 15 12 (k + 1), 5)

/-- The push of one lane. A record that a lower lane of the instruction names too is read as that lane left it (R273). -/
def spawnrayOne (h : Hdr) (d : Reg) (a cc n : Nat) (again : Bool) (s : State) (c : Lc) (x : List Byte × Cells 8) : State × LaneRes :=
  match spawnrayTrap c a cc n with
  | some r => (s, r)
  | none =>
    if recordHeld s c.is.team a 0 then (s, .wait .retry)
    else
      let r := if again then memPut [] 0 (scratchRead s c.is.team a 256) else x.2
      let give (s : State) (r : Cells 8) (code : Nat) : State × LaneRes :=
        (c.later h s d 1 false false ((traceStatus r code).setWidth 128), .done {})
      if tBad c.tm.desc.scrK r then give s r 4
      else
        match spawnrayMark c.tm.desc.depth r with
        | (off, len, r', code) =>
          let s := if code = 6 then s.modTeam c.is.team (fun t => { t with depthOvf := t.depthOvf + 1 })
            else if code = 5 then unitStore s c.is.team (tget r 0x4C 4 + 128 * tSp r) (x.1 ++ leBytes (64 - n) 0)
            else s
          give (unitStore s c.is.team (a + off) (cread r' off len)) r' code

/-- A lower active lane of the warp, or any lane of a warp before it, names the same record. -/
def namedBefore (h : Hdr) (a : Src) (c : Lc) : Bool :=
  (c.is.lanes.filter (guarded c.tm h)).any (fun k => (k.1 < c.wi || (k.1 == c.wi && k.2 < c.slot)) &&
    match c.tm.warps[k.1]? with
    | some w => (match w.lanes[k.2]? with | some l => readSrc w l a == c.src a | none => false)
    | none => false)

def execSpawnray (h : Hdr) (d : Reg) (a b n : Src) (s : State) : Out :=
  perLaneRead (.spawnray h d a b n) h s (fun s c => spawnrayRead (c.src a).toNat (c.src b).toNat (c.src n).toNat s c)
    (fun s c => spawnrayOne h d (c.src a).toNat (c.src b).toNat (c.src n).toNat (namedBefore h a c) s c)

/-! ### Per-lane record accesses, R266 -/

/-- The check of a lane's block in the scratchpad. -/
def blockTrap (t : Team) (off align n : Nat) : Option LaneRes :=
  if off % align != 0 then some (trapped cALIGN 0)
  else if 1024 * t.desc.scrK < off + n then some (trapped cSPAD 0)
  else none

/-- A global address of a lane that is no multiple of its record's 64 bytes, R60, R222. -/
def alignTrap (va : Nat) : Option LaneRes :=
  if va % 64 != 0 then some (.trap cALIGN 0 (BitVec.ofNat 64 va) 0 false) else none

/-- A record access that fails leaves the instruction without effect: the lane waits at a frozen page; an active TRY
aborts with FAULT, but for a fault that a page-fault save resolves; otherwise the fault is taken late (R368, R369). -/
def recordStall (s : State) (c : Lc) (x : Stall) : State × LaneRes :=
  match x with
  | .wait => (s, .wait .retry)
  | .fault cause sub va ia =>
    if 0 < c.w.tx.depth && !(cause == cXLATE && (sub == 3 || (sub == 0 && hostPage s c.space ia))) then
      (abortTry s c.is.team c.wi 4 cause.toNat sub.toNat, .stay)
    else
      (sendAccess s c { blankAccess .load (BitVec.ofNat 64 va) ia 64 with fault := some (cause, sub) }, .done {})

/-- BAD and a malformed status; a TRY that overflows has been rolled back. -/
def recordBad (h : Hdr) (d : Reg) (n : Nat) (s : State) (c : Lc) (off addr : Nat) (status : Word) : State × LaneRes :=
  match scratchStore s c off (leBytes 8 addr) with
  | (s, true) => (c.later h s d n false false (status.setWidth 128), .done {})
  | (s, false) => (s, .stay)

/-- A 16-byte signed integer of a block. -/
def blockInt (bs : List Byte) (off : Nat) : Int := toSigned (field bs off 16) 128

/-! ### BOXIN, R275 -/

/-- The scene that a lane's block names, with the checks of its operands; or the trap. -/
def blockScene (c : Lc) (va off align n : Nat) (bs : List Byte) : Except LaneRes Nat :=
  match blockTrap c.tm off align n with
  | some r => .error r
  | none =>
    match alignTrap va, alignTrap (field bs 0 8) with
    | some r, _ | none, some r => .error r
    | none, none => .ok (field bs 0 8)

/-- The first n bytes of a lane's block; where an operand traps they are not read. -/
def blockLoad (s : State) (c : Lc) (va off align n total : Nat) : State × List Byte :=
  if (blockTrap c.tm off align total).isSome || va % 64 != 0 then (s, []) else scratchLoad s c off n

def boxinOne (h : Hdr) (d : Reg) (va off : Nat) (s : State) (c : Lc) : State × LaneRes :=
  let b := blockLoad s c va off 64 64 64
  match blockScene c va off 64 64 b.2 with
  | .error r => (b.1, r)
  | .ok scene =>
    match (pathTo (laneRead c) scene va).run b.1 with
    | .error (s, x) => recordStall s c x
    | .ok (.error a, s) => recordBad h d 2 s c (off + 8) a 4
    | .ok (.ok (_, []), s) => recordBad h d 2 s c (off + 8) va 4
    | .ok (.ok (_, x :: _), s) =>
      let p : Vec3 := Vec3.sub ⟨blockInt b.2 0x10, blockInt b.2 0x20, blockInt b.2 0x30⟩ x.org
      let inside := p.all (fun k => 0 ≤ k && k ≤ x.side)
      let grid := inside && p.all (fun k => k % x.q == 0)
      let v := if grid then vertexField ⟨p.x / x.q, p.y / x.q, p.z / x.q⟩ else 0
      (c.later h s d 2 false false (BitVec.ofNat 128 (inside.toNat * 16 + grid.toNat * 32 + v * 2 ^ 32)), .done {})

def execBoxin (h : Hdr) (d : Reg) (a b : Src) (s : State) : Out :=
  perLane (.boxin h d a b) h s (fun s c => boxinOne h d (c.pair a).toNat (c.src b).toNat s c)

/-! ### EDGE, R276 -/

def edgeValue (cov : Bool) (a b p : DWord) : Word :=
  let x (v : DWord) : Int := (v.extractLsb' 0 32).toInt
  let y (v : DWord) : Int := (v.extractLsb' 32 32).toInt
  let e := (x b - x a) * (y p - y a) - (y b - y a) * (x p - x a)
  if cov then
    if 0 < e || (e == 0 && y b < y a) || (e == 0 && y b == y a && x a < x b) then 1 else 0
  else if 0 < e then 1 else if e = 0 then 0 else 0xFFFFFFFF

def execEdge (h : Hdr) (cov : Bool) (d : Reg) (a b p : Src) (s : State) : Out :=
  pureLanes (.edge h cov d a b p) h s (fun c => .done (dst1 h d (edgeValue cov (c.pair a) (c.pair b) (c.pair p))))

/-! ### SNAP, R132, R277 -/

/-- The triangles of a leaf. -/
def leafTris (rd : Reader) (b : BoxAt) : SceneM (List Tri) :=
  (List.range b.r.count).mapM (fun i => do
    let w ← readTriWord rd b.r i
    pure (triOf b w))

/-- The point lies on a face of the closed cube. -/
def onFace (p : Vec3) (b : BoxAt) : Bool :=
  let q := p.sub b.org
  q.all (fun k => 0 ≤ k && k ≤ b.side) && !q.all (fun k => k != 0 && k != b.side)

/-- The point lies on the closed segment. -/
def onSegment (p a b : Vec3) : Bool :=
  let e := b.sub a
  let f := p.sub a
  e.cross f == ⟨0, 0, 0⟩ && 0 ≤ e.dot f && e.dot f ≤ e.dot e

def onTriangle (p : Vec3) (t : Tri) : Bool := onSegment p t.v0 t.v1 || onSegment p t.v1 t.v2 || onSegment p t.v2 t.v0

/-- A vertex of a leaf breaks R132 against a partner. -/
def breaksSnap (a : BoxAt) (p : Vec3) (partner : BoxAt × List Tri) : Bool :=
  let b := partner.1
  a.grid < b.grid && (onFace p b || partner.2.any (onTriangle p)) && !(p.sub b.org).all (fun k => k % b.q == 0)

/-- Partners of a leaf: the leaves that its neighbour links name and those among its parent's children. -/
def partnersOf (rd : Reader) (scene : Nat) (a : BoxAt) (up : List BoxAt) : SceneM (List (BoxAt × List Tri)) := do
  let links := (a.r.links.filter (· != 0)).map (fun k => recordAt a.r.va k)
  let siblings := match up with
    | p :: _ => (List.range p.r.count).map (fun (k : Nat) => recordAt p.r.child k)
    | [] => []
  let found ← ((links ++ siblings).filter (· != a.r.va)).eraseDups.mapM (fun va => do
    let x ← pathTo rd scene va
    match x.2 with
    | b :: _ =>
      if b.r.leaf then
        let ts ← leafTris rd b
        pure [(b, ts)]
      else pure []
    | [] => pure [])
  pure found.flatten

/-- The VIDX of every violating vertex, ascending. A box that is no leaf is malformed (DESIGN CHOICE, log entry 21). -/
def snapCheck (rd : Reader) (scene va : Nat) : SceneM (List Nat) := do
  let x ← pathTo rd scene va
  match x.2 with
  | [] => throwThe Nat va
  | a :: up =>
    if !a.r.leaf then throwThe Nat va
    let ts ← leafTris rd a
    let ps ← partnersOf rd scene a up
    let vs := ts.flatMap (fun t => [t.v0, t.v1, t.v2])
    pure ((vs.zipIdx.filter (fun v => ps.any (breaksSnap a v.1))).map (·.2))

def snapOne (h : Hdr) (d : Reg) (va off : Nat) (s : State) (c : Lc) : State × LaneRes :=
  let b := blockLoad s c va off 64 16 16
  match blockScene c va off 64 16 b.2 with
  | .error r => (b.1, r)
  | .ok scene =>
    match (snapCheck (laneRead c) scene va).run b.1 with
    | .error (s, x) => recordStall s c x
    | .ok (.error a, s) => recordBad h d 1 s c (off + 8) a 4
    | .ok (.ok vs, s) =>
      let st := (if vs.isEmpty then 0 else 10) + min vs.length 255 * 2 ^ 8 + vs.headD 0 * 2 ^ 16
      (c.later h s d 1 false false (BitVec.ofNat 128 st), .done {})

def execSnap (h : Hdr) (d : Reg) (a b : Src) (s : State) : Out :=
  perLane (.snap h d a b) h s (fun s c => snapOne h d (c.pair a).toNat (c.src b).toNat s c)

/-! ### ANIM, R137, R138, R282 -/

/-- What ANIM comes to: the whole triangle record written, or the fine point of an escaped vertex with its axes. -/
inductive Moved
  | record (va : Nat) (w : Nat)
  | escaped (p : Vec3) (axes : Nat)
deriving DecidableEq, Repr

/-- The leaf as R125 judges it: its own fields and kind first, then the header and, by the ancestors, its place and its cube. A
malformed record among these is named before the update record is looked at. (DEDUCED, log entry 21.) -/
def animLeaf (rd : Reader) (f scene : Nat) : SceneM BoxAt := do
  let r ← readBox rd f
  if !r.leaf then throwThe Nat f
  let x ← pathTo rd scene f
  match x.2 with
  | a :: _ => pure a
  | [] => throwThe Nat f

def animRun (rd : Reader) (f scene u uaddr : Nat) : SceneM Moved := do
  let a ← animLeaf rd f scene
  let b := a.r
  let vidx := nbits u 47 32
  if nbits u 127 100 ≠ 0 ∨ nbits u 63 48 ≠ 0 ∨ b.id ≠ nbits u 31 0 ∨ 3 * b.count ≤ vidx then throwThe Nat uaddr
  let w ← readTriWord rd b (vidx / 3)
  let k := vidx % 3
  let old := nbits w (30 * k + 29) (30 * k)
  let n := (vertexOf old).add ⟨toSigned (nbits u 75 64) 12, toSigned (nbits u 87 76) 12, toSigned (nbits u 99 88) 12⟩
  let out (x : Int) : Nat := if 0 ≤ x && x ≤ 1023 then 0 else 1
  let axes := out n.x + 2 * out n.y + 4 * out n.z
  if axes = 0 then pure (.record (triAddr b (vidx / 3)) (w - old * 2 ^ (30 * k) + vertexField n * 2 ^ (30 * k)))
  else pure (.escaped (a.org.add (Vec3.scale a.q n)) axes)

/-- A position that 80 bits do not hold is written with all of its 128 bits (DESIGN CHOICE, log entry 21). -/
def fineBytes (p : Vec3) : List Byte :=
  let i (x : Int) : List Byte := leBytes 16 (x % 2 ^ 128).toNat
  i p.x ++ i p.y ++ i p.z

/-- The 16 bytes of a triangle record are written as one ordinary store. -/
def animStore (s : State) (c : Lc) (va w : Nat) (done : State → State × LaneRes) : State × LaneRes :=
  match s.ctx? c.space with
  | none => recordStall s c (.fault cRANGE 1 va 0)
  | some x =>
    match rangeCheck x (BitVec.ofNat 64 va) .store with
    | .error sub => recordStall s c (.fault cRANGE sub va 0)
    | .ok ia =>
      if 0 < c.w.tx.depth then
        match tryStore s c (BitVec.ofNat 64 va) ia 16 (leBytes 16 w) with
        | (s, .done _) => done s
        | r => r
      else
        match translateFor s c.space ia 16 .store true with
        | (s, .ok tr) =>
          let a := { blankAccess .store (BitVec.ofNat 64 va) ia 16 with team := c.is.team, warp := c.wi, lane := c.slot }
          done (storeFor s c.tm a (placeOf c.tm.desc.fused 0 a tr.leaf) (leBytes 16 w) tr)
        | (s, .frozen false) => (s, .wait .retry)
        | (s, .frozen true) => recordStall s c (.fault cXLATE 3 va ia)
        | (s, .fail sub) => recordStall s c (.fault cXLATE sub va ia)

/-- What a lane's ANIM reads: its update record, and what its update comes to; or the result of a check that fails. -/
inductive AnimRead
  | moved (u : Nat) (m : Except Nat Moved)
  | stall (x : Stall)
  | res (r : LaneRes)

def animRead (f off : Nat) (s : State) (c : Lc) : State × AnimRead :=
  let b := blockLoad s c f off 16 32 80
  match blockScene c f off 16 80 b.2 with
  | .error r => (b.1, .res r)
  | .ok scene =>
    let u := field b.2 0x10 16
    match (animRun (laneRead c) f scene u (2 ^ 63 + off + 0x10)).run b.1 with
    | .error (s, x) => (s, .stall x)
    | .ok (m, s) => (s, .moved u m)

def animAct (h : Hdr) (d : Reg) (off : Nat) (s : State) (c : Lc) (x : AnimRead) : State × LaneRes :=
  match x with
  | .res r => (s, r)
  | .stall x => recordStall s c x
  | .moved u m =>
    let give (st : Nat) (s : State) : State × LaneRes :=
      (c.later h s d 1 false false (BitVec.ofNat 128 (st + nbits u 47 32 * 2 ^ 16)), .done {})
    match m with
    | .error a => recordBad h d 1 s c (off + 8) a (BitVec.ofNat 32 (4 + nbits u 47 32 * 2 ^ 16))
    | .ok (.escaped p axes) =>
      match scratchStore s c (off + 0x20) (fineBytes p) with
      | (s, true) => give (9 + axes * 16) s
      | (s, false) => (s, .stay)
    | .ok (.record va w) => animStore s c va w (give 0)

def execAnim (h : Hdr) (d : Reg) (a b : Src) (s : State) : Out :=
  perLaneRead (.anim h d a b) h s (fun s c => animRead (c.pair a).toNat (c.src b).toNat s c)
    (fun s c => animAct h d (c.src b).toNat s c)

end Sys2Proof.Machine
end

