-- ==== Sys2Proof/Machine/Raster.lean ====
section
/-! DEFINITION. Skink: primitives, coverage and depth (R134 to R136, R278), the raster frame and its states (R279 to
R281). -/

namespace Sys2Proof.Machine

/-! ### Primitives, R134, R278 -/

/-- A vertex in 1/256 pixel with its depth. -/
structure Vert where
  x : Int
  y : Int
  z : Int
deriving DecidableEq, Repr

/-- The snapped coordinate of R134: none for a NaN or an infinity. -/
def snapCoord (w : Nat) : Option Int :=
  match f32 (BitVec.ofNat 32 w) with
  | .fin neg m e => let k : Int := roundInt .rn neg m (e + 8); some (if neg then -k else k)
  | _ => none

/-- The vertices of a primitive record; none when it is REJECTED: a coordinate that is not finite, or an offset from
the anchor that does not fit 24 bits. -/
def vertices (bs : List Byte) : Option (List Vert) :=
  let ax := 256 * toSigned (field bs 0x2C 4) 32
  let ay := 256 * toSigned (field bs 0x30 4) 32
  let fits (k : Int) : Bool := -(2 ^ 23) ≤ k && k < 2 ^ 23
  [0, 12, 24].mapM (fun off =>
    match snapCoord (field bs off 4), snapCoord (field bs (off + 4) 4) with
    | some x, some y => if fits (x - ax) && fits (y - ay) then some ⟨x, y, field bs (off + 8) 4⟩ else none
    | _, _ => none)

/-- E(p) of R135. -/
def edgeFn (a b : Vert) (x y : Int) : Int := (b.x - a.x) * (y - a.y) - (b.y - a.y) * (x - a.x)

/-- Whether the sample is covered, and its depth: the floor of the exact interpolation, clamped (R135, R136). -/
def sampleDepth (v0 v1 v2 : Vert) (x y : Int) : Option Nat :=
  let area := edgeFn v0 v1 v2.x v2.y
  let σ := signOf area
  let side (a b : Vert) : Bool :=
    let e := σ * edgeFn a b x y
    let ex := σ * (b.x - a.x)
    let ey := σ * (b.y - a.y)
    0 < e || (e == 0 && ey < 0) || (e == 0 && ey == 0 && 0 < ex)
  if area = 0 || !(side v0 v1 && side v1 v2 && side v2 v0) then none
  else
    let z := σ * (edgeFn v1 v2 x y * v0.z + edgeFn v2 v0 x y * v1.z + edgeFn v0 v1 x y * v2.z) / (σ * area)
    some (max 0 (min z 0xFFFFFFFF)).toNat

/-! ### The frame, R279 -/

def frameW (word : Word) : Nat := 32 * ((word.extractLsb' 8 8).toNat + 1)
def frameH (word : Word) : Nat := 32 * ((word.extractLsb' 0 8).toNat + 1)

/-- Depth above ID of a pixel; all ones when nothing covers it. -/
def pixelAt (f : RasterFrame) (x y : Nat) : DWord := ~~~(cget f.pix (y * frameW f.word + x))

/-- The nearer depth wins, and on equal depths the lower ID (R136). -/
def compete (f : RasterFrame) (x y depth id : Nat) : RasterFrame :=
  let new : DWord := BitVec.ofNat 64 (depth * 2 ^ 32 + id)
  if new.toNat < (pixelAt f x y).toNat then { f with pix := cset f.pix (y * frameW f.word + x) (~~~new) } else f

/-- Pixels [lo, hi] of one axis that the vertices can cover, inside the frame. -/
def pixelSpan (ks : List Int) (n : Nat) : List Nat :=
  let lo := (ks.foldl min (ks.headD 0)) / 256 - 1
  let hi := (ks.foldl max (ks.headD 0)) / 256 + 1
  let a := (max 0 (min lo n)).toNat
  let b := (max 0 (min (hi + 1) n)).toNat
  (List.range (b - a)).map (fun k => a + k)

def drawPrimitive (f : RasterFrame) (v0 v1 v2 : Vert) (id : Nat) : RasterFrame :=
  (pixelSpan [v0.y, v1.y, v2.y] (frameH f.word)).foldl (fun f (y : Nat) =>
    (pixelSpan [v0.x, v1.x, v2.x] (frameW f.word)).foldl (fun f (x : Nat) =>
      match sampleDepth v0 v1 v2 (256 * (x : Int) + 128) (256 * (y : Int) + 128) with
      | some z => compete f x y z id
      | none => f) f) f

/-- "Add" of R279: the frame and the status code. -/
def addPrimitive (f : RasterFrame) (word : Word) (bs : List Byte) : RasterFrame × Nat :=
  let id := field bs 0x24 4
  if (bs.drop 0x34).any (· != 0) then (f, 4)
  else if word != f.word || id = 0xFFFFFFFF then (f, 11)
  else
    match vertices bs with
    | some [v0, v1, v2] => (drawPrimitive f v0 v1 v2 id, 0)
    | _ => (f, 11)

def isBinClose : Instr → Bool | .binClose .. => true | _ => false
/-- A CLOSE of the team waits for the frame to be resolved. (DEDUCED, log entry 25.) -/
def closePending (s : State) (uid : Nat) : Bool := s.ops.any (fun o => o.team == uid && isBinClose o.ins)

/-- A frame opened with its spill block (R377); none when the save area has no room. -/
def openFrame (s : State) (t : Team) (word : Word) : Option RasterFrame :=
  match s.ctx? t.space with
  | none => none
  | some c => (saveRoom s c (spillSize word)).map (fun f => ⟨.opened, word, [], f⟩)

def binOne (h : Hdr) (d : Reg) (off : Nat) (word : Word) (s : State) (c : Lc) : State × LaneRes :=
  match blockTrap c.tm off 16 64, s.team? c.is.team with
  | some r, _ => (s, r)
  | none, none => (s, .stay)
  | none, some t =>
    let add (f : RasterFrame) : State × LaneRes :=
      let s := scratchMeets s c.is.team none off 64 false
      let r := addPrimitive f word (scratchRead s c.is.team off 64)
      (s.modTeam c.is.team (fun t => { t with frame := r.1 }), .done (dst1 h d (BitVec.ofNat 32 r.2)))
    match t.frame.st with
    | .closed => (s, .wait .retry)
    | .opened => if closePending s c.is.team then (s, .wait .retry) else add t.frame
    | .empty =>
      if word.extractLsb' 16 16 != 0 then (s, .done (dst1 h d 11))
      else match openFrame s t word with
      | none => (s, .wait .retry)
      | some f => add f

/-- DEDUCED, log entry 25. -/
def execBin (h : Hdr) (d : Reg) (a b : Src) (s : State) : Out :=
  perLane (.bin h d a b) h s (fun s c => binOne h d (c.src a).toNat (c.src b) s c)

def execBinClose (h : Hdr) (d : Reg) (s : State) : Out :=
  perWarp (.binClose h d) h s (fun _ _ => none) (fun s c =>
    match s.team? c.is.team with
    | none => (s, .stay)
    | some t =>
      if t.frame.st != .opened then (s, .done (dst1 h d 8))
      else
        (addOp s (blankOp (.binClose h d) c), .wait (.close s.serial)))

/-- The waiting lanes of one CLOSE issue it with OK: what is still outstanding for D and the latch no longer writes them
(R46, R223), and a write of an s-register that is not that of every live lane has its mark (R52). -/
def endClose (s : State) (o : EngOp) : State :=
  match o.ins, s.warp? o.team o.warp with
  | .binClose h d, some w =>
    let slots := (w.slots.filter (fun x => x.2.waitsFor (.close o.id))).map (·.1)
    let dst := if h.nw then none else some (d, 1)
    let part := d.isS && !h.nw && !slots.isEmpty && w.slots.any (fun x => x.2.live && !slots.contains x.1)
    let s := if part then s.modWarp o.team o.warp (fun w => { w with uconflict := true }) else s
    slots.foldl (fun s k =>
      (applyResult (overtake s o.team o.warp k (dstRegs dst) h.latch)
        ⟨0, false, o.team, o.warp, k, dst, h.latch, 0, false, o.dead⟩).modLane o.team o.warp k (completeLane o.len s.cycle))
      (s.dropOp o.id)
  | _, _ => s

/-- Every primitive that the frame includes is resolved: it is CLOSED. -/
def execFrameResolved (team : Nat) (s : State) : Out :=
  event s (fun s =>
    match s.team? team with
    | some t =>
      if t.st == .running && t.frame.st == .opened && closePending s team then
        let s := s.modTeam team (fun t => { t with frame := { t.frame with st := .closed } })
        (s.ops.filter (fun o => o.team == team && isBinClose o.ins)).foldl endClose s
      else s
    | none => s)

def execBinReset (h : Hdr) (d : Reg) (s : State) : Out :=
  perWarp (.binReset h d) h s (fun _ _ => none) (fun s c =>
    match s.team? c.is.team with
    | none => (s, .stay)
    | some t =>
      match t.frame.st with
      | .empty => (s, .done (dst1 h d 0))
      | .opened => (s, .done (dst1 h d 8))
      | .closed =>
        (s.modTeam c.is.team (fun t => { t with frame := ⟨.empty, 0, [], 0⟩ }), .done (dst1 h d 0)))

/-! ### Reading the frame, R281 -/

/-- Covered pixels of a tile. -/
def tileCount (f : RasterFrame) (tx ty : Nat) : Nat :=
  (List.range 1024).countP (fun k => pixelAt f (32 * tx + k % 32) (32 * ty + k / 32) != 0xFFFFFFFFFFFFFFFF)

def execVisres (h : Hdr) (d : Reg) (a : Src) (s : State) : Out :=
  perWarp (.visres h d a) h s (fun _ _ => none) (fun s c =>
    match s.team? c.is.team with
    | none => (s, .stay)
    | some t =>
      let x := c.src a
      let tx := (x.extractLsb' 8 8).toNat
      let ty := (x.extractLsb' 0 8).toNat
      match t.frame.st with
      | .opened => (s, .wait .retry)
      | .empty => (s, .done (dst1 h d 8))
      | .closed =>
        if (t.frame.word.extractLsb' 8 8).toNat < tx || (t.frame.word.extractLsb' 0 8).toNat < ty then (s, .done (dst1 h d 11))
        else (s, .done (dst1 h d (BitVec.ofNat 32 (tileCount t.frame tx ty * 2 ^ 16)))))

def execPidld (h : Hdr) (d : Reg) (a : Src) (s : State) : Out :=
  perLane (.pidld h d a) h s (fun s c =>
    match s.team? c.is.team with
    | none => (s, .stay)
    | some t =>
      let x := (c.src a).toNat % 65536
      let y := (c.src a).toNat / 65536
      match t.frame.st with
      | .opened => (s, .wait .retry)
      | .empty => (s, .done (dst2 h d 0xFFFFFFFFFFFFFFFF))
      | .closed =>
        if frameW t.frame.word ≤ x || frameH t.frame.word ≤ y then (s, .done (dst2 h d 0xFFFFFFFFFFFFFFFF))
        else (s, .done (dst2 h d (pixelAt t.frame x y))))

end Sys2Proof.Machine
end

