-- ==== Sys2Proof/Machine/Fetch.lean ====
section
/-! DEFINITION. Fetching the instruction at a PC (R142 to R147, R345, R350). -/

namespace Sys2Proof.Machine

inductive Fetched
  | instr (len : Nat) (bits : BitVec 128)
  | skip
  /-- the instruction would cross its window: length and the bits that the window holds -/
  | cross (len : Nat) (bits : BitVec 128)
  | fail (cause sub : Byte) (ia : DWord)
  | wait
deriving DecidableEq, Repr

/-- The bytes of the window of a PC, through the context's ranges and page tables; a fetch waits behind a
freeze (R356). -/
def fetch (s : State) (t : Team) (pc : Pc) : State × Fetched :=
  match s.ctx? t.space with
  | none => (s, .fail cRANGE 1 0)
  | some c =>
    match rangeCheck c (pc.setWidth 64) .fetch with
    | .error sub => (s, .fail cRANGE sub 0)
    | .ok ia =>
      match translateFor s t.space ia (min 16 (32 - pc.toNat % 32)) .fetch false with
      | (s, .frozen _) => (s, .wait)
      | (s, .fail sub) => (s, .fail cXLATE sub (BitVec.ofNat 64 ia))
      | (s, .ok tr) =>
        let o := pc.toNat % 32
        let bs := pread s (ownerKey s t.space tr.leaf) tr.pa (min 16 (32 - o))
        let bits := BitVec.ofNat 128 (leNat bs)
        let len := lenBytes (bits.extractLsb' 0 2)
        if len = 4 then (s, .skip)
        else if 32 < o + len then (s, .cross len bits)
        else (s, .instr len (trimBits bits))

end Sys2Proof.Machine
end

