-- ==== Sys2Proof/Machine/Debug.lean ====
section
/-! DEFINITION. Debug stops, events, commands and the revocation of the debug right (R385 to R388). -/

namespace Sys2Proof.Machine

/-! ### Stops, R385 -/

/-- The valid breakpoint that names a PC and a slot. -/
def breakpointOf (s : State) (c : Context) (slot : Nat) (pc : Pc) : Option Nat :=
  match c.dblk with
  | none => none
  | some d => (List.range 8).find? (fun b =>
      let x := (saveNat s c.space (d + 16 * b) 8).2
      let m := (saveNat s c.space (d + 16 * b + 8) 4).2
      x % 2 ^ 56 == pc.toNat && x / 2 ^ 63 == 1 && (m == 0 || m.testBit slot))

/-- The breakpoint at which a lane of a user-mode warp stops before its next instruction; a SKIP word stops none. -/
def stopAt (s : State) (t : Team) (w : Warp) (slot : Nat) (l : Lane) : Option Nat :=
  match s.ctx? t.space with
  | none => none
  | some c =>
    if !(c.right && c.bpEn) || w.sup || !(l.st == .ready || l.st == .filed) then none
    else match breakpointOf s c slot l.pc with
    | none => none
    | some b => if l.bpPass == some (b, l.pc) || (fetch s t l.pc).2 == .skip then none else some b

/-- The length of the instruction in which a lane waits. -/
def waitLen (s : State) (l : Lane) : Nat :=
  match l.wait with | .nocap o | .close o | .engine o => ((s.op? o).map (·.len)).getD 8 | _ => 8

/-- Where a stopped lane goes on: after a step in whose instruction it waits, at the next one. -/
def resumePc (s : State) (kind : Nat) (l : Lane) : Pc :=
  if kind = 3 && !l.stepped then l.pc + BitVec.ofNat 56 (waitLen s l) else l.pc

/-- Some lanes of a warp stop: the warp is halted and each leaves an event, in slot order, or they trap to SVEC.
(DEDUCED, log entry 48.) -/
def stopLanes (s : State) (t : Team) (wi : Nat) (lanes : List (Nat × Lane)) (kind : Nat) (code : Nat → Nat) (sub : Byte) :
    State :=
  let ks := lanes.map (·.1)
  let mark (s : State) : State := s.modWarp t.uid wi (fun w => { w with lanes := w.lanes.zipIdx.map (fun x =>
    if ks.contains x.2 then
      { x.1 with stepped := false, stepWait := false, bpPass := if kind = 1 then some (code x.2, x.1.pc) else x.1.bpPass }
    else x.1) })
  if ((s.ctx? t.space).map Context.haltEv).getD false then
    let evs := lanes.map (fun x =>
      (⟨t.space, t.uid, wi, x.1, kind, code x.1, resumePc s kind x.2, s.clock.toNat⟩ : DebugEvent))
    ({ mark s with events := s.events ++ evs }).modWarp t.uid wi (debugHalt s.cycle)
  else raiseTrap (mark s) t.uid wi
    { cause := cSTEP, sub, kind := 0, lanes := maskOf ks, pc := 0, ilen := 0, insn := 0, va := 0, ia := 0, tile := 0
      regions := [] }

/-- A warp on which a stop can act. -/
def stoppable (t : Team) (w : Warp) : Bool := t.st == .running && t.saving.isNone && w.st == .live && w.trap.isNone

/-- The lanes that stand with the named one at its breakpoint stop with it, after the step stop of the instruction that the
warp has just issued (R386). (DEDUCED, log entry 26.) -/
def execBreakpointStop (team warp : Nat) (lane : Fin 32) (s : State) : Out :=
  event s (fun s =>
    match s.team? team, s.warp? team warp, s.lane? team warp lane.val with
    | some t, some w, some l =>
      if !stoppable t w || (stopAt s t w lane.val l).isNone || (stepLanes s t w).any (·.2.stepped) then s
      else
        let ls := w.slots.filter (fun x => x.2.pc == l.pc && (stopAt s t w x.1 x.2).isSome)
        stopLanes s t warp ls 1 (fun k => (((w.lanes[k]?).bind (stopAt s t w k)).getD 0)) 1
    | _, _, _ => s)

/-- DEDUCED, log entry 26. -/
def execStepStop (team warp : Nat) (s : State) : Out :=
  event s (fun s =>
    match s.team? team, s.warp? team warp with
    | some t, some w =>
      let ls := stepLanes s t w
      if !stoppable t w || ls.isEmpty then s else stopLanes s t warp ls 3 (fun _ => 0) 0
    | _, _ => s)

/-! ### Events, R386 -/

def eventBytes (s : State) (e : DebugEvent) : List Byte :=
  let t := s.team? e.team
  leBytes 4 (e.kind + e.code % 256 * 2 ^ 8 + e.lane * 2 ^ 16 + e.warp * 2 ^ 21)
  ++ leBytes 4 ((t.map (·.frameF)).getD 0 / 65536) ++ leBytes 8 e.pc.toNat ++ leBytes 8 e.time
  ++ leBytes 4 ((t.bind (fun t => (s.inst? t.inst).map (·.node))).getD 0) ++ leBytes 4 ((t.map (·.t)).getD 0)
  ++ leBytes 32 0

/-- The event's ring has room; an event of a context without a debug block is not written. -/
def eventRoom (s : State) (e : DebugEvent) : Bool :=
  match (s.ctx? e.space).bind Context.dblk with
  | none => true
  | some d =>
    let w := (saveNat s e.space (d + 0x80) 4).2
    let a := (saveNat s e.space (d + 0x84) 4).2
    (w + 2 ^ 32 - a) % 2 ^ 32 < 64

def execDebugEventWrite (s : State) : Out :=
  event s (fun s =>
    match s.events.find? (eventRoom s) with
    | none => s
    | some e =>
      let rest := { s with events := s.events.eraseP (eventRoom s) }
      match (s.ctx? e.space).bind Context.dblk with
      | none => rest
      | some d =>
        let w := saveNat rest e.space (d + 0x80) 4
        let s := saveWrite w.1 e.space (d + 0x100 + 64 * (w.2 % 64)) (eventBytes s e)
        saveWrite s e.space (d + 0x80) (leBytes 4 (w.2 + 1)))

/-! ### Commands, R387 -/

/-- The state byte of a lane-table entry of a saved team. -/
def savedCode (t : Team) (wi k : Nat) : Nat := slotOff t wi + 0x280 + 8 * k + 7

/-- HALT in a frame. -/
def savedHalt (s : State) (t : Team) (wi : Nat) : State :=
  (List.range 32).foldl (fun s k =>
    let c := saveNat s t.space (savedCode t wi k) 1
    if c.2 % 8 = 3 || c.2 % 8 = 4 then c.1
    else saveWrite (c.1.modLane t.uid wi k (fun l => { l with held := laneOfCode (c.2 % 8) })) t.space (savedCode t wi k) [3]) s

/-- RESUME in a frame: each HALTED lane's entry takes the state it held. -/
def savedResume (s : State) (t : Team) (wi : Nat) : State :=
  (List.range 32).foldl (fun s k =>
    let c := saveNat s t.space (savedCode t wi k) 1
    if c.2 % 8 = 3 then
      saveWrite c.1 t.space (savedCode t wi k) [BitVec.ofNat 8 (laneCode (((s.lane? t.uid wi k).map (·.held)).getD .ready))]
    else c.1) s

/-- WSTAT.STEP in a frame. -/
def savedStep (s : State) (t : Team) (wi : Nat) (on : Bool) : State :=
  let off := slotOff t wi + 0x6920
  let x := saveNat s t.space off 1
  saveWrite x.1 t.space off [BitVec.ofNat 8 (x.2 - x.2 / 8 % 2 * 8 + (if on then 8 else 0))]

/-- A deferred write fault keeps the warp stopped, R372. -/
def deferHolds (s : State) (t : Team) (wi : Nat) : Bool :=
  match (s.ctx? t.space).bind (·.defer) with | some x => !(x.team == t.uid && x.warp == wi) | none => false

def dropSteps (w : Warp) : Warp := { w with lanes := w.lanes.map (fun l => { l with stepped := false, stepWait := false }) }

def commandHalt (s : State) (t : Team) (wi : Nat) : State :=
  let s := s.modWarp t.uid wi (fun w => { w with dbgHalt := true })
  if isSaved t then savedHalt s t wi else s.modWarp t.uid wi (haltWarp s.cycle)
def commandResume (s : State) (t : Team) (wi : Nat) : State :=
  let s := s.modWarp t.uid wi (fun w => { w with dbgHalt := false })
  if isSaved t then savedResume s t wi
  else if deferHolds s t wi then s else s.modWarp t.uid wi (resumeWarp s.cycle)
def commandStep (on : Bool) (s : State) (t : Team) (wi : Nat) : State :=
  let s := s.modWarp t.uid wi (fun w => dropSteps { w with stepBit := on })
  if isSaved t then savedStep s t wi on else s

/-- The team of a context that has a frame at an offset. -/
def frameTeam (s : State) (space f : Nat) : Option Team :=
  s.teams.find? (fun t => t.space == space && t.frameF == f && t.st != .gone)

/-- The operation that the command word of a context names, once GO has been written. -/
def commandOp (s : State) (space : Nat) : Option Nat :=
  match s.ctx? space with
  | none => none
  | some c =>
    match c.dblk with
    | none => none
    | some d => if c.go then some ((saveNat s space (d + 0x1100) 4).2 % 16) else none

/-- Performs the command word when it names operation `op`; the step of HALT also answers a word that names none. A
RESUME waits until the warp's events are written. (DEDUCED, log entry 49.) -/
def runCommand (op : Nat) (f : State → Team → Nat → State) (s : State) (space : Nat) : State :=
  match commandOp s space, (s.ctx? space).bind Context.dblk with
  | some n, some d =>
    let bad := n = 0 || 4 < n
    let x := saveNat s space (d + 0x1104) 4
    let wi := saveNat x.1 space (d + 0x1108) 4
    let answer (s : State) (r : Nat) : State :=
      (saveWrite s space (d + 0x1100) [BitVec.ofNat 8 (16 * r)]).modCtx space (fun c => { c with go := false })
    if n != op && !(bad && op = 1) then s
    else if !ctxRight s space then answer wi.1 2
    else if bad then answer wi.1 3
    else match frameTeam s space (65536 * x.2) with
    | none => answer wi.1 1
    | some t =>
      match t.warps[wi.2]? with
      | none => answer wi.1 1
      | some w =>
        if w.st == .free || t.st == .ending then answer wi.1 1
        else if op = 2 && s.events.any (fun e => e.team == t.uid && e.warp == wi.2) then s
        else answer (f wi.1 t wi.2) 0
  | _, _ => s

def execHalt (space : Nat) (s : State) : Out := event s (fun s => runCommand 1 commandHalt s space)
def execResume (space : Nat) (s : State) : Out := event s (fun s => runCommand 2 commandResume s space)
def execStepon (space : Nat) (s : State) : Out := event s (fun s => runCommand 3 (commandStep true) s space)
def execStepoff (space : Nat) (s : State) : Out := event s (fun s => runCommand 4 (commandStep false) s space)

/-! ### Revocation, R388 -/

/-- What a revocation does to one warp. -/
def revokeWarp (s : State) (t : Team) (wi : Nat) : State := commandStep false (commandResume s t wi) t wi

def revokeRight (s : State) (space : Nat) : State :=
  let s := s.modCtx space (fun c => { c with dbgctl := c.dbgctl &&& 0x0FFFFFFF })
  let s := { s with events := s.events.filter (fun e => e.space != space) }
  (s.teams.filter (fun t => t.space == space)).foldl (fun s t =>
    (List.range t.warps.length).foldl (fun s k => revokeWarp s t k) s) s

def execDebugRightRevoke (space : Nat) (s : State) : Out := event s (fun s => revokeRight s space)

end Sys2Proof.Machine
end

