-- ==== Sys2Proof/Machine/System.lean ====
section
/-! DEFINITION. Page 7 (R304 to R319) with the writes of system registers (R292, R293, R344, R383), and the governor's
steps (R411). -/

namespace Sys2Proof.Machine

/-! ### Clocks, stamps and traps, R306 to R309 -/

def execRdclk (h : Hdr) (d : Reg) (s : State) : Out := pureLanes (.rdclk h d) h s (fun _ => .done (dst2 h d s.clock))
def execRdtmr (h : Hdr) (d : Reg) (s : State) : Out :=
  pureLanes (.rdtmr h d) h s (fun c => .done (dst2 h d c.w.active))

def execStamp (h : Hdr) (src : RegOrImm) (s : State) : Out :=
  perWarp (.stamp h src) h s (fun _ _ => none) (fun s c =>
    (stamp s c.tm 2 c.wi 0 [c.is.pc.toNat, (maskOf c.act).toNat + (c.srcI src).toNat % 65536 * 2 ^ 32, s.clock.toNat],
     .done {}))

def execTrap (h : Hdr) (code : Option Byte) (s : State) : Out :=
  pureLanes (.trap h code) h s (fun _ => .trap cTRAP (code.getD 0) 0 0 true)

/-! ### The register table, R292 -/

inductive RegAccess | none | ro | rw
deriving DecidableEq, Repr

/-- Access in user and in supervisor mode; absent for a number that is not listed. -/
def regAccess (num : Nat) : Option (RegAccess × RegAccess) :=
  if num < 4 || num = 0x12 || num = 0x20 || num = 0x21 then some (.rw, .rw)
  else if num = 0x10 || num = 0x11 then some (.ro, .ro)
  else if num = 0x22 || num = 0x23 || (0x100 ≤ num && num < 0x120) then some (.none, .rw)
  else if num = 0x24 || num = 0x25 || num = 0x26 || num = 0x30 then some (.ro, .rw)
  else Option.none

def accessOf (c : Lc) (num : Nat) : Option RegAccess := (regAccess num).map (fun x => if c.w.sup then x.2 else x.1)

/-- The trap of a number that is not listed, or that the mode may not name (R310). -/
def regTrap (c : Lc) (num : Nat) : Option LaneRes :=
  match accessOf c num with
  | Option.none => some (ill .rsvfield)
  | some .none => some (ill .priv)
  | some _ => Option.none

def RangeReg.word (r : RangeReg) (k : Nat) : Word := match k with | 0 => r.w0 | 1 => r.w1 | 2 => r.w2 | _ => r.w3
def noRange : RangeReg := ⟨0, 0, 0, 0⟩
def modeWord (w : Warp) : Word :=
  BitVec.ofNat 32 ((if w.sup then 4 else 0) + (if w.sbusy then 2 else 0) + (if w.ubusy then 1 else 0))

/-- The installed value of a register. -/
def regValue (x : Context) (w : Warp) (num : Nat) : Word :=
  if num < 4 then cget w.qdest num
  else if 0x100 ≤ num then ((x.rng[(num - 0x100) / 4]?).getD noRange).word (num % 4)
  else match num with
    | 0x10 => BitVec.ofNat 32 x.space
    | 0x11 => modeWord w
    | 0x12 => w.tmrcmp
    | 0x20 => x.uvec.extractLsb' 0 32
    | 0x21 => x.uvec.extractLsb' 32 32
    | 0x22 => x.svec.extractLsb' 0 32
    | 0x23 => x.svec.extractLsb' 32 32
    | 0x24 => x.savebase.extractLsb' 0 32
    | 0x25 => x.savebase.extractLsb' 32 32
    | 0x26 => x.savesz
    | 0x30 => x.dbgctl
    | _ => 0

/-- A context as it is before anything sets it. -/
def blankContext (space : Nat) : Context where
  space := space
  uvec := 0
  svec := 0
  savebase := 0
  savesz := 0
  dbgctl := 0
  rng := List.replicate 8 noRange
  uvecHi := none
  svecHi := none
  saveHi := none
  rngPend := List.replicate 8 (none, none, none)
  stopped := false
  stopping := none

  faultBuf := []
  defer := none
  go := false

def execMfs (h : Hdr) (d : Reg) (num : Word) (s : State) : Out :=
  pureLanes (.mfs h d num) h s (fun c =>
    match regTrap c num.toNat with
    | some r => r
    | none => .done (dst1 h d (regValue ((s.ctx? c.space).getD (blankContext c.space)) c.w num.toNat)))

/-! ### Writes, R293, R311, R344, R381, R383 -/

/-- A pending half is kept only while it differs from the installed one. -/
def pendHalf (old x : Word) : Option Word := if x = old then none else some x

def hiOf (x : DWord) : Word := x.extractLsb' 32 32

def writeHi (c : Context) (num : Nat) (x : Word) : Context :=
  match num with
  | 0x21 => { c with uvecHi := pendHalf (hiOf c.uvec) x }
  | 0x23 => { c with svecHi := pendHalf (hiOf c.svec) x }
  | 0x25 => { c with saveHi := pendHalf (hiOf c.savebase) x }
  | _ => c

/-- A vector is a multiple of 32, a save-area base of 64 KiB; otherwise nothing is installed. Either way the pending
half is gone. -/
def writeLo (c : Context) (num : Nat) (x : Word) : Context :=
  let both (old : DWord) (hi : Option Word) : DWord := (hi.getD (hiOf old)) ++ x
  match num with
  | 0x20 => { c with uvec := if x.toNat % 32 = 0 then both c.uvec c.uvecHi else c.uvec, uvecHi := none }
  | 0x22 => { c with svec := if x.toNat % 32 = 0 then both c.svec c.svecHi else c.svec, svecHi := none }
  | 0x24 => { c with savebase := if x.toNat % 65536 = 0 then both c.savebase c.saveHi else c.savebase, saveHi := none }
  | _ => c

def rangeAt (c : Context) (i : Nat) : RangeReg := (c.rng[i]?).getD noRange

/-- Words 1 to 3 wait for word 0. -/
def writeRangeWord (c : Context) (i k : Nat) (x : Word) : Context :=
  let r := rangeAt c i
  let x := if k = 1 then x &&& 0xFFFFF01F else x
  { c with rngPend := c.rngPend.modify i (fun p =>
      match k with
      | 1 => (pendHalf r.w1 x, p.2.1, p.2.2)
      | 2 => (p.1, pendHalf r.w2 x, p.2.2)
      | _ => (p.1, p.2.1, pendHalf r.w3 x)) }

/-- Word 0 installs all four unless the value is reserved. -/
def installRange (c : Context) (i : Nat) (x : Word) : Context :=
  let r := rangeAt c i
  let p := (c.rngPend[i]?).getD (none, none, none)
  let new : RangeReg := ⟨x, p.1.getD r.w1, p.2.1.getD r.w2, p.2.2.getD r.w3⟩
  { c with
    rng := if new.reserved then c.rng else c.rng.set i new
    rngPend := c.rngPend.set i (none, none, none) }

/-- DBGCTL, R383, R387, R388. -/
def writeDbgctl (s : State) (space : Nat) (x : Word) : State :=
  if x.getLsbD 27 && x.getLsbD 26 then s
  else
    let s := s.modCtx space (fun c => { c with dbgctl := x &&& 0xFC00FFFF })
    let s := if x.getLsbD 31 then s else revokeRight s space
    if x.getLsbD 25 && x.extractLsb' 0 16 != 0 then s.modCtx space (fun c => { c with go := true }) else s

/-- A write of a register of a context. -/
def writeCtxReg (s : State) (space num : Nat) (x : Word) : State :=
  if num = 0x30 then writeDbgctl s space x
  else if num = 0x26 then s.modCtx space (fun c => { c with savesz := x })
  else if 0x100 ≤ num && num < 0x120 then
    if num % 4 = 0 then s.modCtx space (fun c => installRange c ((num - 0x100) / 4) x)
    else s.modCtx space (fun c => writeRangeWord c ((num - 0x100) / 4) (num % 4) x)
  else if num % 2 = 1 then s.modCtx space (fun c => writeHi c num x)
  else s.modCtx space (fun c => writeLo c num x)

def writeQdest (w : Warp) (k : Nat) (x : Word) : Warp := { w with qdest := cset w.qdest k (x &&& 0x80007FFF) }
/-- A nonzero value arms the timer; 0 disables it. -/
def writeTmrcmp (w : Warp) (x : Word) : Warp := { w with tmrcmp := x, armed := x != 0 }

def execMts (h : Hdr) (num : Word) (a : Src) (s : State) : Out :=
  perWarp (.mts h num a) h s (fun _ c => regTrap c num.toNat) (fun s c =>
    let n := num.toNat
    let x := c.src a
    if accessOf c n != some .rw then (s, .done {})
    else if n < 4 then (s.modWarp c.is.team c.wi (fun w => writeQdest w n x), .done {})
    else if n = 0x12 then (s.modWarp c.is.team c.wi (fun w => writeTmrcmp w x), .done {})
    else (writeCtxReg s c.space n x, .done {}))

/-! The writes themselves, as MTS makes them. -/

def execTmrcmpWrite (team warp : Nat) (x : Word) (s : State) : Out :=
  event s (fun s => s.modWarp team warp (fun w => writeTmrcmp w x))
def execQdestWrite (team warp : Nat) (q : Fin 4) (x : Word) (s : State) : Out :=
  event s (fun s => s.modWarp team warp (fun w => writeQdest w q.val x))
def execHiWordWrite (space : Nat) (num x : Word) (s : State) : Out :=
  event s (fun s => s.modCtx space (fun c => writeHi c num.toNat x))
def execLoWordWrite (space : Nat) (num x : Word) (s : State) : Out :=
  event s (fun s => s.modCtx space (fun c => writeLo c num.toNat x))
def execRangeWord0Install (space : Nat) (i : Fin 8) (x : Word) (s : State) : Out :=
  event s (fun s => s.modCtx space (fun c => installRange c i.val x))
/-- SAVESZ, DBGCTL and words 1 to 3 of the range registers. -/
def execSysregWrite (space : Nat) (num x : Word) (s : State) : Out :=
  event s (fun s =>
    let n := num.toNat
    if n = 0x26 || n = 0x30 || (0x100 ≤ n && n < 0x120 && n % 4 != 0) then writeCtxReg s space n x else s)

/-! ### ERET, R312, R372 -/

/-- The return, with what it waits for: its frame behind a freeze, and the replay that follows it (R356). -/
def eretOne (s : State) (c : Lc) : State × LaneRes :=
  let attributed : Option FenceAt := match (s.ctx? c.space).bind (·.defer) with
    | some x => if c.w.sup && x.team == c.is.team && x.warp == c.wi then some x else none
    | none => none
  if saveFrozen s c.space (slotOff c.tm c.wi) || (attributed.isSome && replayFrozen s c.space) then (s, .wait .retry)
  else
    let s := resumeOps (returnFrom s c.is.team c.wi c.act) c.is.team c.wi
    match attributed with
    | some x => (replayAfter s c.space x, .stay)
    | none => (s, .stay)

def execEret (h : Hdr) (s : State) : Out := perWarp (.eret h) h s (fun _ _ => none) eretOne

/-! ### Translation fences, R313, R314 -/

/-- Scopes below .D act as .D. -/
def mapScope : Scope → Scope | .n => .n | .y => .y | _ => .d

/-- The tables no longer map the entry's page as it does; a supervisor's freeze supersedes the unfrozen entry (R355), Cecropia's
own does not: its write-backs wait for the new frame (R356). -/
def superseded (s : State) (e : TEntry) : Bool :=
  !s.migs.any (fun m => m.space == e.space && m.page == e.page && m.big == e.big) &&
  match walk s e.space e.page with
  | .ok x => x.1 != e.leafPa || x.2.2 != e.big || !sameMapping x.2.1 e.leaf
  | .error _ => true

/-- Cached translations go; of the mappings through which lines stand dirty, those that the fence supersedes are kept for
MAPSYNC's write-backs (R314). (DESIGN CHOICE, log entry 28.) -/
def dropTranslations (s : State) : State :=
  let dirty := s.stored.filter (fun e => s.l1.any (fun d => e.holds d.space d.ia))
  { dropCached s (fun _ => true) with
    oldMaps := dirty.filter (superseded s) ++ s.oldMaps
    stored := dirty.filter (fun e => !superseded s e) }

/-- The host agent's cached answers, and those on their way to it, are invalidated; false while it has not
acknowledged. (DEDUCED, log entry 46.) -/
def hostInvalidate (s : State) (p : TEntry → Bool) : State × Bool :=
  let stale (m : LinkMsg) : Bool := match m with | .xrsp _ _ (some e) _ => p e | _ => false
  let s := { s with link := s.link.filter (fun m => !stale m) }
  if s.invWait then (s, false)
  else if !s.hostCache.any p then (s, true)
  else ({ s with link := s.link ++ (s.hostCache.filter p).map (fun e => LinkMsg.inv e.space e.page), invWait := true }, false)

def fenceMapOne (scope : Scope) (s : State) (c : Lc) : State × LaneRes :=
  match release s c.fence (mapScope scope) with
  | (s, .wait) => (s, .wait .retry)
  | (s, .fault) => (s, .stay)
  | (s, .ok) =>
    let s := dropTranslations s
    let r := if scope == .y then hostInvalidate s (fun _ => true) else (s, true)
    if r.2 then (r.1.modWarp c.is.team c.wi (fun w => { w with fenceMap := some scope }), .done {})
    else (r.1, .wait .retry)

/-- DESIGN CHOICE, log entry 28. -/
def execFenceMap (h : Hdr) (scope : Scope) (s : State) : Out :=
  perWarp (.fenceMap h scope) h s (fun _ _ => none) (fenceMapOne scope)

/-- A dirty line goes to the frame of a mapping that has been superseded, or meets a page that is no longer writable. -/
def syncTo (e : TEntry) (s : State) (x : Nat × Nat × Nat) : State :=
  if readOnly s x e then deferLine s x 1 none else putThrough s x e

/-- A dirty line of a superseded page is written back. -/
def syncLine (s : State) (x : Nat × Nat × Nat) : State :=
  match oldMapOf s x with
  | none => s
  | some e => syncTo e s x

/-- The bytes owed to earlier mappings are written through them. (DESIGN CHOICE, log entry 28.) -/
def payOwed (s : State) : State :=
  s.owed.foldl (fun s x =>
    let keep := s.l1
    let s := { s with l1 := x.2 }
    let s := (dirtyLines s allHolders).foldl (syncTo x.1) s
    { s with l1 := keep }) { s with owed := [] }

def mapsyncOne (s : State) (c : Lc) : State × LaneRes :=
  match (s.warp? c.is.team c.wi).bind (·.fenceMap) with
  | none => (s, .done {})
  | some _ =>
    let s := (dirtyLines s allHolders).foldl syncLine s
    ({ s with oldMaps := [] }, .done {})

def execMapsync (h : Hdr) (s : State) : Out := perWarp (.mapsync h) h s (fun _ _ => none) mapsyncOne

/-! ### Moving teams, R315 to R317, R380 -/

def stDONE : Nat := 0
def stCOMPLETED : Nat := 1
def stNOTEAM : Nat := 2
def stSELF : Nat := 3
def stALIGN : Nat := 4

/-- ALIGN, SELF and NOTEAM, in that order; otherwise the team. (DEDUCED, log entry 49.) -/
def teamAt (s : State) (c : Lc) (f : Nat) : Except Nat Team :=
  if f % 65536 != 0 then .error stALIGN
  else if f = c.tm.frameF then .error stSELF
  else match frameTeam s c.space f with
  | some t => .ok t
  | none => .error stNOTEAM

/-- R380: the header of a team that reached ENDING first. -/
def completedHeader (s : State) (t : Team) (reason : SaveReason) : State :=
  saveWrite s t.space t.frameF (imageHeader s t true reason)

/-- The last warp of a team exited in this very cycle (R40, R380). -/
def endedNow (s : State) (t : Team) : Bool :=
  t.st == .ending && t.warps.any (fun w => w.lanes.any (fun l => l.since == s.cycle))

/-- A pre-emption of a group in the very cycle in which a member's last warp exited writes that member's header only: it is noted
for Hawkmoth, which writes it (R380). -/
def markEnded (s : State) (t : Team) (x : Saving) : State :=
  (groupOf s t).foldl (fun s u =>
    match s.team? u with
    | some m => if endedNow s m then s.modTeam u (fun t => { t with saving := some x }) else s
    | none => s) s

/-- The pre-emption that the lanes of a warp have asked for. -/
def Saving.askedBy (x : Saving) (c : Lc) : Bool := x.team == c.is.team && x.warp == c.wi && x.pc == c.is.pc

/-- The group stops issuing; when its units have finished it is saved. False: it still waits, for them or for the pre-emption
of another agent (R317). A group that holds the issuing team, which issues no more either, is saved by a step of Hawkmoth,
which gives the lanes their status. (DEDUCED, log entry 37.) -/
def preemptGroup (s : State) (c : Lc) (t : Team) (x : Saving) (pooled : Bool) : State × Bool :=
  let us := runningGroup s t
  match t.saving with
  | some y => if y.askedBy c && !us.any (saveWaits s) then (us.foldl (fun s u => saveTeam s u x.reason pooled) s, true) else (s, false)
  | none =>
    let s := markEnded s t x
    if !us.contains c.is.team && !us.any (saveWaits s) then (us.foldl (fun s u => saveTeam s u x.reason pooled) s, true)
    else (us.foldl (fun s u => s.modTeam u (fun t => { t with saving := some x })) s, false)

def moveStatus (h : Hdr) (d : Reg) (code : Nat) : LaneRes := .done (dst1 h d (BitVec.ofNat 32 code))

/-- The lanes wait here for the frame that they have named: they go on apart from lanes that name another. -/
def keepAsked (s : State) (c : Lc) (f : Nat) : State :=
  c.act.foldl (fun s k => s.modLane c.is.team c.wi k (fun l => { l with asked := some (c.is.pc, f) })) s

def preemptOne (h : Hdr) (d : Reg) (hold : Bool) (f : Nat) (s : State) (c : Lc) : State × LaneRes :=
  let reason : SaveReason := if hold then .ctxsave else .preempt
  match teamAt s c f with
  | .error e => (s, moveStatus h d e)
  | .ok t =>
    match t.st with
    | .running =>
      let x : Saving :=
        { reason, team := c.is.team, warp := c.wi, pc := c.is.pc, own := some (c.act, if h.nw then none else some (d, 1), h.latch) }
      match preemptGroup s c t x (!hold) with
      | (s, true) => (s, moveStatus h d stDONE)
      | (s, false) => (keepAsked s c f, .wait .retry)
    | .ending =>
      if endedNow s t then (completedHeader s t reason, moveStatus h d stCOMPLETED) else (s, moveStatus h d stNOTEAM)
    | .saved true =>
      if hold then
        ((groupOf s t).foldl (fun s u => s.modTeam u (fun t => if t.st == .saved true then { t with st := .saved false } else t)) s,
         moveStatus h d stDONE)
      else (s, moveStatus h d stNOTEAM)
    | _ => (s, moveStatus h d stNOTEAM)

def execPreempt (h : Hdr) (d : Reg) (a : Src) (s : State) : Out :=
  perWarp (.preempt h d a) h s (fun _ _ => none) (fun s c => preemptOne h d false (c.src a).toNat s c)
def execCtxsave (h : Hdr) (d : Reg) (a : Src) (s : State) : Out :=
  perWarp (.ctxsave h d a) h s (fun _ _ => none) (fun s c => preemptOne h d true (c.src a).toNat s c)

/-- The lines of the fault buffer are written through the mapping in force, up to the first that faults again; its IA. The
replay has waited for an unfreeze (`loadFrozen`). -/
def replayBuffered (s : State) (space : Nat) : State × Option (Nat × Byte) :=
  match s.ctx? space with
  | none => (s, none)
  | some c =>
    c.faultBuf.foldl (fun r x =>
      match r.2 with
      | some _ => r
      | none =>
        match translate r.1 space x.1 .store false with
        | (s, .ok t) =>
          let s := (List.range 128).foldl (fun s j =>
            if x.2.1.testBit j then
              conflicts (pwrite s (ownerKey s space t.leaf) (t.pa + j) [cget x.2.2 j]) none (fun _ => true) space (x.1 + j) 1 (t.pa + j)
            else s) s
          (s.modCtx space (fun c => { c with faultBuf := c.faultBuf.filter (fun y => y != x) }), none)
        | (s, .fail sub) => (s, some (x.1, sub))
        | (s, .frozen _) => (s, none)) (s, none)

/-- The page of an entry that is still to be replayed stands frozen. -/
def loadFrozen (s : State) (space : Nat) : Bool :=
  replayFrozen s space ||
  (((s.ctx? space).map (·.faultBuf)).getD []).any (fun x => freezes s (translate s space x.1 .store false))

/-- The replay of an unattributed fault's entries at the first CTXLOAD after the stop, R372. False: an entry faulted
again, and the context is stopped anew. -/
def replayAtLoad (s : State) (space : Nat) (c : Lc) : State × Bool :=
  let again (s : State) (ia : Nat) (sub : Byte) : State × Bool :=
    (stopContext s space cXLATE sub (BitVec.ofNat 64 ia) c.tm.frameF c.w.ctx, false)
  match replayLog s space with
  | (s, some (k, sub)) =>
    let ia := entryIa s space k
    again ia.1 ia.2 sub
  | (s, none) =>
    match replayBuffered s space with
    | (s, some (ia, sub)) => again s ia sub
    | (s, none) => (s, true)

/-- The replay of an attributed fault follows its warp's ERET. -/
def loadReplays (s : State) (space : Nat) : Bool := ((s.ctx? space).bind (·.defer)).isNone

def execCtxload (h : Hdr) (d : Reg) (a : Src) (s : State) : Out :=
  perWarp (.ctxload h d a) h s (fun _ _ => none) (fun s c =>
    match release s c.fence .d with
    | (s, .wait) => (keepAsked s c (c.src a).toNat, .wait .retry)
    | (s, .fault) => (s, .stay)
    | (s, .ok) =>
      match teamAt s c (c.src a).toNat with
      | .error e => (s, moveStatus h d e)
      | .ok t =>
        if t.st != .saved false then (s, moveStatus h d stNOTEAM)
        else if loadReplays s c.space && loadFrozen s c.space then (keepAsked s c (c.src a).toNat, .wait .retry)
        else
          let r := if loadReplays s c.space then replayAtLoad s c.space c else (s, true)
          if r.2 then
            (r.1.modTeam t.uid (fun t => { t with st := .saved true, pooledAt := r.1.mesh }), moveStatus h d stDONE)
          else (r.1, .stay))

/-! ### LEAVE and the governor, R318, R410, R411 -/

def leaveOne (x : Word) (s : State) (c : Lc) : State × LaneRes :=
  if !leaveWordOk x then (s, ill .rsvfield)
  else if x = 0 then (s.modTeam c.is.team (fun t => { t with grants := [] }), .done {})
  else match leaveFor s c with
  | some r => if r.count ≤ r.got then (dropRequest s r.id, .done {}) else (s, .wait (.leave r.id))
  | none =>
    let r := askLeave s c false (x.toNat % 16) (x.toNat / 256 % 256)
    (r.1, .wait r.2)

/-- DEDUCED, log entry 20. -/
def execLeave (h : Hdr) (src : RegOrImm) (s : State) : Out :=
  perWarp (.leave h src) h s (fun _ _ => none) (fun s c => leaveOne (c.srcI src) s c)

/-- The oldest request that has not reached the governor's queue reaches it. -/
def execLeaveRequestArrival (s : State) : Out :=
  event s (fun s => { s with leaves := arrive s.leaves })
where
  arrive : List LeaveReq → List LeaveReq
    | [] => []
    | r :: rs => if r.arrived then r :: arrive rs else { r with arrived := true } :: rs

/-- The request at the head of the governor's queue, when its next charge fits. -/
def grantable (s : State) : Option LeaveReq :=
  match s.leaves.find? (fun r => r.got < r.count) with
  | some r => if r.arrived && heldTotal s + chargeOf r.kind ≤ s.heavyB.toNat then some r else none
  | none => none

/-- One grant of a LEAVE joins those that the team holds, at most 255 of a kind, until its lapse. -/
def addGrant (now kind : Nat) (t : Team) : Team :=
  if 255 ≤ t.grants.countP (fun g => g.1 == kind && now < g.2) then t else { t with grants := t.grants ++ [(kind, now + 4096)] }

/-- DEDUCED, log entry 20. -/
def execLeaveGrant (s : State) : Out :=
  event s (fun s =>
    match grantable s with
    | none => s
    | some r =>
      let s := { s with leaves := s.leaves.map (fun x => if x.id == r.id then { x with got := x.got + 1 } else x) }
      if r.forOp then s else s.modTeam r.team (addGrant s.cycle r.kind))

def execGrantLapse (team : Nat) (s : State) : Out :=
  event s (fun s => s.modTeam team (fun t => { t with grants := t.grants.filter (fun g => s.cycle < g.2) }))

/-! ### SETKEY, R319, R412 -/

/-- A strong read of a run inside one line by a lane, whose failure is a late fault (R368).
(DEDUCED, log entry 27.) -/
def readKey (s : State) (c : Lc) (ea : DWord) (ia n : Nat) : State × Except (State × LaneRes) (List Byte) :=
  match translateFor s c.space ia n .load true with
  | (s, .ok t) => (s, .ok (readBytes s c.tm.core c.tm.desc.fused c.space ia n t))
  | (s, .frozen false) => (s, .error (s, .wait .retry))
  | (s, .frozen true) => (s, .error (recordStall s c (.fault cXLATE 3 ea.toNat ia)))
  | (s, .fail sub) => (s, .error (recordStall s c (.fault cXLATE sub ea.toNat ia)))

def setKey (s : State) (space : Nat) (key : BitVec 512) : State :=
  { s with keys := ⟨space, key⟩ :: s.keys.filter (fun k => k.space != space) }

def setkeyOne (h : Hdr) (d : Reg) (ea : DWord) (owner : Word) (s : State) (c : Lc) : State × LaneRes :=
  if owner.extractLsb' 16 16 != 0 then (s, ill .rsvfield)
  else match globalCheck s c.space ea 64 .load with
  | .error e => (s, e)
  | .ok ia =>
    let space := c.space + owner.toNat
    if s.teams.any (fun t => t.space == space && t.st != .gone) then (s, moveStatus h d 6)
    else match readKey s c ea ia 64 with
    | (_, .error r) => r
    | (s, .ok bs) => (setKey s space (BitVec.ofNat 512 (leNat bs)), moveStatus h d 0)

/-- DEDUCED, log entry 27. -/
def execSetkey (h : Hdr) (d : Reg) (a b : Src) (s : State) : Out :=
  perWarp (.setkey h d a b) h s (fun _ c => if c.space % 65536 != 0 then some (ill .priv) else none)
    (fun s c => setkeyOne h d (c.pair a) (c.src b) s c)

end Sys2Proof.Machine
end

