-- ==== Sys2Proof/Machine/Hawk.lean ====
section
/-! DEFINITION. Hawkmoth up to the ready pool: reads of records and descriptors (R421), contexts (R320), queues
(R321 to R323), launch records (R324 to R328, R393), instances (R330, R331) and completion (R325, R329). -/

namespace Sys2Proof.Machine

/-! ### Reads, R421 -/

/-- A load of a context by Hawkmoth inside one page. -/
def hawkRead (space : Nat) : Reader := fun va n s =>
  match s.ctx? space with
  | none => .error (s, .fault cRANGE 1 va 0)
  | some c =>
    match rangeCheck c (BitVec.ofNat 64 va) .load with
    | .error sub => .error (s, .fault cRANGE sub va 0)
    | .ok ia =>
      match translateFor s space ia n .load false with
      | (s, .ok tr) => .ok (readBytes s Config.cores false space ia n tr, s)
      | (s, .frozen _) => .error (s, .wait)
      | (s, .fail sub) => .error (s, .fault cXLATE sub va ia)

/-- A longer run. -/
def hawkBytes (space va n : Nat) : ReadM (List Byte) :=
  (pieces64 va n).foldlM (fun acc p => do
    let bs ← hawkRead space p.1 p.2
    pure (acc ++ bs)) []

def askPage (s : State) (space ia : Nat) : State :=
  if s.link.contains (.preq space (ia / 65536 * 65536)) then s
  else { s with link := s.link ++ [.preq space (ia / 65536 * 65536)] }

/-- A stalled read of an admission is waited for: behind a freeze, or for a page of the host agent (R369). -/
def hawkWaits (s : State) (space : Nat) (x : Stall) : Bool :=
  match x with
  | .wait => true
  | .fault c sub _ ia => c == cXLATE && sub == 0 && hostPage s space ia

/-- The host agent is asked for the page. -/
def hawkAsk (s : State) (space : Nat) (x : Stall) : State :=
  match x with
  | .fault _ _ _ ia => askPage s space ia
  | .wait => s

/-- The answer for a page has been taken: the agent is asked for it afresh the next time. -/
def hawkTaken (s : State) (space : Nat) (x : Stall) : State :=
  match x with
  | .fault _ _ _ ia => { s with pagesDeclined := s.pagesDeclined.filter (fun p => p != (space, ia / 65536)) }
  | .wait => s

/-! ### Contexts, R320 -/

def vectorOk (x : Nat) : Bool := x % 32 == 0

/-- The context that its table entry describes; none for an entry that R320 turns away. -/
def contextOf (s : State) (space : Nat) : Option Context :=
  let p := s.part space
  let base := p.ctxt.toNat + 256 * (space % 65536)
  let w (o n : Nat) : Nat := readPa s (base + o) n
  let rng (i : Nat) : RangeReg :=
    let f (k : Nat) : Word := BitVec.ofNat 32 (w (0x40 + 16 * i + 4 * k) 4)
    ⟨f 0, f 1 &&& 0xFFFFF01F, f 2, f 3⟩
  let rs := (List.range 8).map rng
  let d := w 4 4
  if w 0 4 != 2 ^ 31 || d.testBit 25 || (d.testBit 27 && d.testBit 26) || !vectorOk (w 8 8) || !vectorOk (w 0x10 8) ||
     w 0x18 8 % 65536 != 0 || rs.any RangeReg.reserved || !(spaceEntry s space).getLsbD 63 then none
  else some { blankContext space with
    svec := BitVec.ofNat 64 (w 8 8), uvec := BitVec.ofNat 64 (w 0x10 8), savebase := BitVec.ofNat 64 (w 0x18 8)
    savesz := BitVec.ofNat 32 (w 0x20 4), dbgctl := BitVec.ofNat 32 d &&& 0xFC00FFFF, rng := rs }

/-- The stop record still says ACTIVE, R374. (DEDUCED, log entry 30.) -/
def stopActive (s : State) (c : Context) : Bool := c.stopped && (saveNat s c.space 0 4).2 % 2 = 1

/-- The context holds state, R320: a team placed or saved, an admitted record, or an ACTIVE stop record. -/
def holdsState (s : State) (c : Context) : Bool :=
  c.stopping.isSome || stopActive s c || s.teams.any (fun t => t.space == c.space && t.st != .gone) ||
  s.recs.any (fun r => r.space == c.space && !r.ended)

/-- A context that holds no state is forgotten; of one that was stopped, the TAILs are kept that its next admission waits
for. (DEDUCED, log entry 50.) -/
def forgetContexts (s : State) : State := { s with ctxs := s.ctxs.filter (fun c => c.stopped || holdsState s c) }

/-! ### Queues, R321, R322 -/

structure Queue where
  ring : Nat
  en : Bool
  prio : Nat
  weight : Nat
  lsz : Nat
  asid : Nat
  tail : Nat
  head : Nat
  done : Nat
deriving DecidableEq, Repr

def queuePa (s : State) (n : Nat) : Nat := s.qTable.toNat + 64 * n

/-- The descriptor, when its fields keep to the table. -/
def queueOf (s : State) (n : Nat) : Option Queue :=
  let bs := pread s none (queuePa s n) 64
  let c := field bs 8 4
  let q : Queue :=
    { ring := field bs 0 8, en := c.testBit 31, prio := nbits c 18 16, weight := nbits c 15 8, lsz := nbits c 4 0
      asid := field bs 0xC 2, tail := field bs 0x10 4, head := field bs 0x14 4, done := field bs 0x18 4 }
  if q.ring % 64 != 0 || nbits c 30 19 != 0 || nbits c 7 5 != 0 || q.weight = 0 || q.lsz = 0 || 16 < q.lsz ||
     field bs 0xE 2 != 0 || nbits (field bs 0x1C 4) 15 4 != 0 || (bs.drop 0x20).any (· != 0) then none
  else some q

/-- The enabled partition to which a queue belongs. -/
def queuePart (s : State) (n : Nat) : Option Nat :=
  s.parts.findIdx? (fun p => p.en && !p.closing && p.qfirst ≤ n && n ≤ p.qlast)

def Queue.overrun (q : Queue) : Bool := 2 ^ q.lsz < (q.tail + 2 ^ 32 - q.done) % 2 ^ 32

def queueSpace (s : State) (n : Nat) (q : Queue) : Nat := (queuePart s n).getD 0 * 65536 + q.asid

/-- Instances in the ready pool. -/
def poolCount (s : State) : Nat := (s.insts.filter (·.inPool)).length

/-- The record slot has OVERLAP = 1; or its page is the host agent's, which is still to be asked for it (R421). -/
def overlaps (s : State) (space : Nat) (q : Queue) : Bool :=
  match (hawkRead space (q.ring + 64 * (q.head % 2 ^ q.lsz)) 4).run s with
  | .ok (bs, _) => (leNat bs).testBit 9
  | .error (s', .fault c sub va ia) => hawkWaits s' space (.fault c sub va ia) && !s.link.contains (.preq space (ia / 65536 * 65536))
  | .error (_, .wait) => false

/-- The context was stopped, and admission has not resumed: ACTIVE stands, or no TAIL of its queues has been written since
(R374). (DEDUCED, log entry 30.) -/
def admitHeld (s : State) (c : Context) : Bool :=
  c.stopping.isSome ||
  (c.stopped && (stopActive s c || s.tails.any (fun x => x.1 == c.space)))

def logging (c : Context) : Bool := c.dbgctl.getLsbD 27 || c.dbgctl.getLsbD 26

/-- The queue has a record that R322, R374 and R393 let it admit, and the one before it does not hold it back (R323).
(DEDUCED, log entry 30.) -/
def queueReady (s : State) (n : Nat) : Bool :=
  s.stage == .ready && (queuePart s n).isSome &&
  match queueOf s n with
  | none => false
  | some q =>
    let space := queueSpace s n q
    q.en && q.tail != q.head && !q.overrun &&
    (match s.ctx? space with
     | some c => !admitHeld s c && !(logging c && s.recs.any (fun r => r.space == space && !r.ended))
     | none => true) &&
    (!s.recs.any (fun r => r.queue == n && !r.ended && (r.idx.toNat + 1) % 2 ^ 32 == q.head) || overlaps s space q)

/-- Admission waits while the ready pool is full. -/
def canAdmit (s : State) (n : Nat) : Bool := poolCount s < 4096 && queueReady s n

/-- Queues of the enabled partitions. -/
def servedQueues (s : State) : List Nat :=
  s.parts.flatMap (fun p => if p.en && !p.closing then (List.range (p.qlast + 1 - p.qfirst)).map (fun k => p.qfirst + k) else [])

def queuePrio (s : State) (n : Nat) : Nat := ((queueOf s n).map (·.prio)).getD 0
def queueWeight (s : State) (n : Nat) : Nat := ((queueOf s n).map (·.weight)).getD 0

def maxNat (xs : List Nat) : Nat := xs.foldl max 0

/-- The round of a level; the first starts at queue 0, which has admitted nothing. -/
def roundOf (s : State) (p : Nat) : Round := (s.rounds.find? (fun r => r.prio == p)).getD ⟨p, 0, 0⟩

/-- R323: the highest level with a queue that is ready; in it the queue whose turn it is, else the next in the round,
else the lowest. (DEDUCED, log entry 29.) -/
def pickQueue (s : State) : Option Nat :=
  let ready := (servedQueues s).filter (canAdmit s)
  let top := maxNat (ready.map (queuePrio s))
  let level := ready.filter (fun n => queuePrio s n == top)
  let r := roundOf s top
  if level.contains r.queue && r.count < queueWeight s r.queue then some r.queue
  else match minNat (level.filter (fun n => r.queue < n)) with
  | some n => some n
  | none => minNat level

/-- The round after an admission from queue n: its turn goes on, or another begins; it ends when the queue has no record ready.
(DEDUCED, log entry 29.) -/
def turn (s : State) (n prio : Nat) (again : Bool) : State :=
  let r := roundOf s prio
  let count := if r.queue = n && r.count < queueWeight s n then r.count + 1 else 1
  { s with rounds := ⟨prio, n, if again then count else 256⟩ :: s.rounds.filter (fun x => x.prio != prio) }

/-! ### Launch records and node descriptors, R324 to R328 -/

structure Launch where
  plain : Bool
  nodes : Nat
  count : Nat
  cword : Nat
  nstat : Nat
  overlap : Bool
  det : Bool
  shape : Nat
deriving DecidableEq, Repr

/-- R338. -/
def shapeOk (x : Nat) : Bool :=
  let a := nbits x 2 0
  let b := nbits x 6 4
  x == a + b * 16 + nbits x 10 8 * 256 && 1 ≤ a && 1 ≤ b && a + b ≤ 7

def parseLaunch (bs : List Byte) : Option Launch :=
  let w := field bs 0 4
  let l : Launch :=
    { plain := w % 256 == 1, nodes := field bs 8 8, count := nbits (field bs 4 4) 11 0 + 1, cword := field bs 0x10 8
      nstat := field bs 0x18 8, overlap := w.testBit 9, det := w.testBit 8, shape := field bs 0x20 4 }
  if w / 1024 != 0 || (w % 256 != 1 && w % 256 != 2) || field bs 4 4 / 4096 != 0 || (l.plain && l.count != 1) ||
     l.nodes % 128 != 0 || l.cword % 4 != 0 || l.nstat % 16 != 0 || (bs.drop 0x24).any (· != 0) ||
     (if l.det then !shapeOk l.shape else l.shape != 0) then none
  else some l

/-- Bytes of the store that a team takes, R59. -/
def storeShare (limit win scrK tileK : Nat) : Nat := limit * (1024 * win + 292) + 1024 * (scrK + tileK)
/-- What every resident team together may take: 4 MiB less 512 KiB. -/
def storeMax : Nat := 3670016

def parseDesc (bs : List Byte) : Option Desc :=
  let w (o : Nat) : Nat := field bs o 4
  let b (o hi lo : Nat) : Nat := nbits (w o) hi lo
  let d : Desc :=
    { code := BitVec.ofNat 64 (field bs 0 8), args := BitVec.ofNat 64 (field bs 8 8)
      nt := b 0x10 31 16 + 1, start := b 0x10 14 8, limit := b 0x10 6 0
      lanes := b 0x14 20 16 + 1, win := b 0x14 12 8, argn := b 0x14 5 0
      tileK := b 0x18 27 16, scrK := b 0x18 11 0
      fill := b 0x1C 29 24, lead := b 0x1C 23 20, age := b 0x1C 19 10
      rings := BitVec.ofNat 32 (w 0x20)
      root := b 0x24 31 31 == 1, trapOvf := b 0x24 30 30 == 1, nscope := b 0x24 29 29 == 1
      fused := b 0x24 28 28 == 1, fusedOwn := b 0x24 28 28 == 1
      place := b 0x24 25 24, depth := b 0x24 18 16 + 1, payW := b 0x24 4 0
      roles := BitVec.ofNat 128 (field bs 0x28 16), tiles := BitVec.ofNat 64 (field bs 0x38 8)
      opnd := BitVec.ofNat 64 (field bs 0x40 8), opndK := w 0x48
      nsucc := b 0x4C 31 16, npred := b 0x4C 15 0
      succ := BitVec.ofNat 64 (field bs 0x50 8), edges := BitVec.ofNat 64 (field bs 0x58 8)
      rcores := BitVec.ofNat 64 (field bs 0x60 8), rlen := b 0x68 4 0, row := b 0x6C 15 0 + 1 }
  let zeros := [(0x10, 15, 15), (0x10, 7, 7), (0x14, 31, 21), (0x14, 15, 13), (0x14, 7, 6), (0x18, 31, 28), (0x18, 15, 12),
    (0x1C, 31, 30), (0x1C, 9, 0), (0x24, 27, 26), (0x24, 23, 19), (0x24, 15, 5), (0x68, 31, 5), (0x6C, 31, 16)]
  let ringCores := (List.range d.rlen).map (fun k => nbits (field bs 0x60 8) (4 * k + 3) (4 * k))
  if zeros.any (fun z => b z.1 z.2.1 z.2.2 != 0) || (bs.drop 0x70).any (· != 0) ||
     d.code.toNat % 32 != 0 || d.args.toNat % 4 != 0 || d.start = 0 || d.limit < d.start || 64 < d.limit ||
     d.win = 0 || 24 < d.win || 62 < d.argn || 1024 < d.tileK || 3072 < d.scrK || d.fill = 0 || 32 < d.fill ||
     d.age < 16 || 512 < d.age || (List.range 8).any (fun k => 8 < b 0x20 (4 * k + 3) (4 * k)) || 16 < d.payW ||
     4095 < d.nsucc || 4095 < d.npred || d.rlen = 1 || 16 < d.rlen ||
     1536 < d.limit * d.win || storeMax < storeShare d.limit d.win d.scrK d.tileK ||
     (d.place = 1 && 16 < d.nt) || (d.place = 2 && d.nt % 4 != 0) || (d.fused && d.place != 2) ||
     (d.place = 3 && (d.nt != d.rlen || ringCores.eraseDups.length != d.rlen)) || (0 < d.rlen && d.place != 3) ||
     d.nt % d.row != 0 then none
  else some d

/-- One entry of an edge table; the outer none is a bad field, the inner one an edge that is not declared. -/
def parseEdge (num self : Nat) (bs : List Byte) : Option (Option Edge) :=
  let w (o : Nat) : Nat := field bs o 4
  let e : Edge :=
    { num := num, base := BitVec.ofNat 64 (field bs 0 8), cap := nbits (w 8) 23 0, sw := nbits (w 0xC) 31 24
      maxd := nbits (w 0xC) 23 20, target := nbits (w 0xC) 11 0, batch := nbits (w 0x10) 10 0, inoff := w 0x14 }
  if w 8 / 2 ^ 24 != 0 || nbits (w 0xC) 19 12 != 0 || w 0x10 / 2 ^ 11 != 0 || (bs.drop 0x18).any (· != 0) then none
  else if e.base = 0 then some none
  else if e.base.toNat % 64 != 0 || e.cap = 0 || e.sw = 0 || (if e.target = self then e.maxd = 0 else e.maxd != 0) ||
     e.batch = 0 || 1024 < e.batch || e.inoff % 64 != 0 then none
  else some (some e)

/-- Nodes that a node's successors and edges name; a self-edge is left out. -/
def nodeNext (k : Nat) (n : Node) : List Nat := n.succ ++ (n.edges.map (·.target)).filter (· != k)

/-- Nodes are taken away when nothing that is left leads to them; a cycle stays. -/
def acyclic (ns : List Node) : (fuel : Nat) → List Nat → Bool
  | 0, left => left.isEmpty
  | f + 1, left =>
    let free := left.filter (fun k => !left.any (fun j => match ns[j]? with | some n => (nodeNext j n).contains k | none => false))
    if free.isEmpty then left.isEmpty else acyclic ns f (left.filter (fun k => !free.contains k))

/-- The checks of R327 and R328 that take several nodes. -/
def graphBad (ns : List Node) : Bool :=
  let n := ns.length
  ns.any (fun x => x.succ.any (fun k => n ≤ k)) ||
  ns.any (fun x => x.edges.any (fun e =>
    match ns[e.target]? with
    | none => true
    | some t => 1024 * t.desc.scrK < e.inoff + 64 + 4 * e.sw * e.batch)) ||
  ns.zipIdx.any (fun x =>
    x.1.desc.npred != ns.foldl (fun c y => c + y.succ.count x.2) 0 ||
    (!x.1.desc.root && !ns.any (fun y => y.edges.any (fun e => e.target == x.2)))) ||
  !acyclic ns n (List.range n)

def malformed {α : Type} : SceneM α := throwThe Nat 0

/-- The node at an address, with everything that it names. -/
def readNode (space va self : Nat) : SceneM Node := do
  let bs ← ExceptT.lift (hawkBytes space va 128)
  match parseDesc bs with
  | none => malformed
  | some d => do
    let succ ← ExceptT.lift (hawkBytes space d.succ.toNat (2 * d.nsucc))
    let tab ← ExceptT.lift (if d.edges = 0 then pure [] else hawkBytes space d.edges.toNat 256)
    let _ ← ExceptT.lift (if d.tiles = 0 then pure [] else hawkBytes space d.tiles.toNat 256)
    let _ ← ExceptT.lift (hawkBytes space d.args.toNat (4 * d.argn))
    let es := if d.edges = 0 then [] else (List.range 8).map (fun k => parseEdge k self ((tab.drop (32 * k)).take 32))
    if es.any (·.isNone) then malformed
    else pure (
      { desc := d, edges := es.filterMap (fun e => e.getD none)
        succ := (List.range d.nsucc).map (fun k => field succ (2 * k) 2)
        predsLeft := d.npred, rootDone := false, complete := false, inst := 0, ovf := 0, fullc := 0 } : Node)

/-- R393's checks of the log descriptor. -/
def logBad (s : State) (c : Context) : Bool :=
  let play := c.dbgctl.getLsbD 26
  if !logging c then false
  else match c.dblk with
  | none => play
  | some d =>
    (saveNat s c.space (d + 0x1300) 8).2 % 4096 != 0 || (saveNat s c.space (d + 0x1308) 4).2 = 0 ||
    (play && (saveNat s c.space (d + 0x130C) 4).2.testBit 1)

/-- The whole record, as R327 and R421 check it. -/
def readRecord (space slot : Nat) : SceneM (Launch × List Node) := do
  let bs ← ExceptT.lift (hawkBytes space slot 64)
  match parseLaunch bs with
  | none => malformed
  | some l => do
    let ns ← (List.range l.count).foldlM (fun acc k => do
      let n ← readNode space (l.nodes + 128 * k) k
      pure (acc ++ [n])) []
    if graphBad ns then malformed else pure (l, ns)

/-! ### The end of nodes, R330 -/

/-- An instance of the node is formed and not ended. -/
def liveInst (s : State) (job k : Nat) : Bool := s.insts.any (fun i => i.job == job && i.node == k)

/-- The node has nothing left to run (R330). -/
def nodeOver (s : State) (r : Rec) (k : Nat) (n : Node) : Bool :=
  !n.complete && (!n.desc.root || n.rootDone) && !liveInst s r.id k &&
  !s.emitted.any (fun e => e.job == r.id && e.target == k) &&
  r.nodes.zipIdx.all (fun x => x.2 == k || x.1.complete || !x.1.edges.any (fun e => e.target == k))

/-- Completing one node counts down the nodes of its SUCC. -/
def completeNode (r : Rec) (k : Nat) : Rec :=
  let succ := ((r.nodes[k]?).map (·.succ)).getD []
  { r with nodes := r.nodes.zipIdx.map (fun x =>
      { x.1 with complete := x.1.complete || x.2 == k, predsLeft := x.1.predsLeft - succ.count x.2 }) }

/-- Nodes complete until none is left that can. -/
def settleNodes (s : State) (id : Nat) : (fuel : Nat) → State
  | 0 => s
  | f + 1 =>
    match s.rec? id with
    | none => s
    | some r =>
      match r.nodes.zipIdx.find? (fun x => nodeOver s r x.2 x.1) with
      | some x => settleNodes (s.modRec id (fun r => completeNode r x.2)) id f
      | none => s

/-! ### Admission -/

/-- DONE, ERRIDX and ERRCODE of a queue, R325. -/
def queueDone (s : State) (n idx code : Nat) : State :=
  let pa := queuePa s n
  let s := if code = 0 then s else writePa s (pa + 0x1C) 4 (idx % 65536 * 65536 + code)
  writePa s (pa + 0x18) 4 (readPa s (pa + 0x18) 4 + 1)

/-- Streams start empty under REC; the descriptor names the record. (DEDUCED, log entry 38.) -/
def openLog (s : State) (c : Context) (n idx : Nat) : State :=
  match c.dblk with
  | none => s
  | some d =>
    let rec_ := c.dbgctl.getLsbD 27
    if !logging c then s
    else
      let f := saveNat s c.space (d + 0x130C) 4
      let s := saveWrite f.1 c.space (d + 0x130C) (leBytes 4 (if rec_ then 1 else f.2 % 4 / 2 * 2 + 1))
      if rec_ then
        let s := saveWrite s c.space (d + 0x1310) (leBytes 4 (n % 1024 * 65536 + idx % 65536))
        (List.range 132).foldl (fun s k =>
          match streamAt s c.space k with
          | (s, some (base, _)) => saveWrite s c.space (vaOff s c.space base) (leBytes 8 0)
          | (s, none) => s) s
      else s

def blankRec (id n idx space : Nat) : Rec where
  id := id
  queue := n
  idx := BitVec.ofNat 32 idx
  space := space
  prio := 0
  overlap := false
  det := false
  shape := 0
  cword := 0
  nstat := 0
  nodes := []
  log := 0
  stopped := false
  bad := true
  ended := false

/-- The record's context, created from its table entry when it holds no state. (DEDUCED, log entry 50.) -/
def openContext (s : State) (space : Nat) : Option State :=
  let fresh := (contextOf s space).map (fun c => { s with ctxs := s.ctxs.filter (fun x => x.space != space) ++ [c] })
  match s.ctx? space with
  | some c => if holdsState s c then some (s.modCtx space (fun c => { c with stopped := false })) else fresh
  | none => fresh

/-- HEAD moves on and the record joins the admitted ones, in log mode under REC or PLAY; nodes with nothing to run complete.
(DEDUCED, log entry 38.) -/
def admitRec (s : State) (n : Nat) (q : Queue) (r : Rec) : State :=
  let s := writePa s (queuePa s n + 0x14) 4 (q.head + 1)
  let log := match s.ctx? r.space with
    | some c => if c.dbgctl.getLsbD 27 then 1 else if c.dbgctl.getLsbD 26 then 2 else 0
    | none => 0
  let s := { s with recs := s.recs ++ [{ r with prio := q.prio, log := log }], serial := s.serial + 1 }
  let s := settleNodes s r.id r.nodes.length
  turn s n q.prio (queueReady s n)

/-- A record that fails its checks; its completion word is written when its slot gives one.
(DEDUCED, log entry 31.) -/
def badRec (s : State) (n : Nat) (q : Queue) (space : Nat) : Rec :=
  let cword := match (hawkRead space (q.ring + 64 * (q.head % 2 ^ q.lsz)) 64).run s with
    | .ok (bs, _) => field bs 0x10 8
    | .error _ => 0
  { blankRec s.serial n q.head space with cword := if cword % 4 = 0 then BitVec.ofNat 64 cword else 0 }

def admitQueue (s : State) (n : Nat) (q : Queue) : State :=
  let space := queueSpace s n q
  match openContext s space with
  | none =>
    let s := queueDone (writePa s (queuePa s n + 0x14) 4 (q.head + 1)) n q.head 1
    turn s n q.prio (queueReady s n)
  | some s' =>
    match ((readRecord space (q.ring + 64 * (q.head % 2 ^ q.lsz))).run).run s' with
    | .error (s', x) =>
      if hawkWaits s' space x then hawkAsk s' space x
      else
        let s' := hawkTaken s' space x
        admitRec s' n q (badRec s' n q space)
    | .ok (.error _, s') => admitRec s' n q (badRec s' n q space)
    | .ok (.ok (l, ns), s') =>
      let r : Rec := { blankRec s'.serial n q.head space with
        overlap := l.overlap, det := l.det, shape := BitVec.ofNat 32 l.shape, cword := BitVec.ofNat 64 l.cword
        nstat := BitVec.ofNat 64 l.nstat, nodes := ns, bad := false }
      match s'.ctx? space with
      | none => s'
      | some c =>
        if logBad s' c then admitRec s' n q { r with nodes := [], bad := true }
        else admitRec (openLog s' c n q.head) n q r

/-- R322: an overrun queue admits nothing more. -/
def overrunQueue (s : State) (n : Nat) : State :=
  let pa := queuePa s n
  let s := writePa s (pa + 0x1C) 4 (readPa s (pa + 0x1C) 4 / 16 * 16 + 3)
  writePa s (pa + 8) 4 (readPa s (pa + 8) 4 % 2 ^ 31)

def execRecordAdmission (queue : Nat) (s : State) : Out :=
  event s (fun s =>
    match queueOf s queue with
    | none => s
    | some q =>
      if s.stage == .ready && (queuePart s queue).isSome && q.en && q.overrun then overrunQueue s queue
      else if pickQueue s == some queue then admitQueue s queue q
      else s)

/-! ### Instances, R330, R331 -/

def addInst (s : State) (r : Rec) (node depth inoff : Nat) (input : List (List Byte)) : State :=
  { s with
    insts := s.insts ++ [{ uid := s.serial, job := r.id, node := node, depth := depth, input := input, inoff := inoff
                           nextT := 0, placed := [], gone := 0, inPool := true, pooledAt := s.mesh, det := r.det }]
    serial := s.serial + 1 }

/-- The root instance may start. -/
def rootReady (n : Node) : Bool := n.desc.root && !n.rootDone && n.predsLeft = 0

/-- Records on an edge that an instance may take. -/
def pendingOn (s : State) (r : Rec) (node edge : Nat) : List Emitted :=
  s.emitted.filter (fun e => e.job == r.id && e.node == node && e.edge == edge && e.team.isNone)

/-- R331: a full batch of one depth, or no live instance of a node with an edge into the target. -/
def batchReady (s : State) (r : Rec) (e : Edge) (es : List Emitted) : Bool :=
  !es.isEmpty &&
  ((match r.nodes[e.target]? with | some t => t.predsLeft = 0 | none => false) &&
   (es.any (fun x => e.batch ≤ es.countP (fun y => y.depth == x.depth)) ||
    !r.nodes.zipIdx.any (fun n => n.1.edges.any (fun f => f.target == e.target) && liveInst s r.id n.2)))

/-- The records taken: up to BATCH of the lowest depth, in append order; the rest stay. -/
def takeBatch (n : Nat) (p : Emitted → Bool) : List Emitted → List Emitted × List Emitted
  | [] => ([], [])
  | e :: es =>
    match n with
    | 0 => ([], e :: es)
    | m + 1 =>
      if p e then let r := takeBatch m p es; (e :: r.1, r.2)
      else let r := takeBatch (m + 1) p es; (r.1, e :: r.2)

/-- The delivery acquires what the appends released: the write-backs of their cores come first. False while one waits. -/
def releaseAppends (s : State) (space : Nat) (es : List Emitted) : State × Bool :=
  (es.filterMap (·.rel)).foldl (fun r x =>
    let q := flushCores r.1 (releaseCores x.1 x.2) space
    (q.1, r.2 && q.2)) (s, true)

def formFrom (s : State) (r : Rec) (node : Nat) (e : Edge) : State :=
  let es := pendingOn s r node e.num
  if !batchReady s r e es then s
  else
    let d := (minNat (es.map (·.depth))).getD 0
    let x := takeBatch e.batch (fun y => y.job == r.id && y.node == node && y.edge == e.num && y.team.isNone && y.depth == d) s.emitted
    match releaseAppends s r.space x.1 with
    | (s, false) => s
    | (s, true) => addInst { s with emitted := x.2 } r e.target d e.inoff (x.1.map (·.bytes))

/-- Edge 8 stands for the root instance. -/
def execInstanceFormation (record node edge : Nat) (s : State) : Out :=
  event s (fun s =>
    match s.rec? record with
    | none => s
    | some r =>
      match r.nodes[node]? with
      | none => s
      | some n =>
        if r.stopped || 4096 ≤ poolCount s then s
        else if edge = 8 then
          if rootReady n then addInst (s.modNode record node (fun n => { n with rootDone := true })) r node 0 0 [] else s
        else match n.edges.find? (fun e => e.num == edge) with
        | some e => formFrom s r node e
        | none => s)

/-! ### Completion, R325, R329, R393 -/

/-- A word written for the device at a VA: whether it waits behind a freeze, or could not be written. -/
inductive WordRes | ok | wait | fail
deriving DecidableEq, Repr

def hawkWrite (s : State) (space va : Nat) (bs : List Byte) : State × WordRes :=
  match s.ctx? space with
  | none => (s, .fail)
  | some c =>
    match rangeCheck c (BitVec.ofNat 64 va) .store with
    | .error _ => (s, .fail)
    | .ok ia =>
      match translateFor s space ia bs.length .store false with
      | (s', .ok tr) => (memStore s' none Config.cores false space ia bs tr, .ok)
      | (s', .frozen _) => (s', if s'.lost.length = s.lost.length then .wait else .fail)
      | (s', .fail _) => (s', .fail)

def worse : WordRes → WordRes → WordRes
  | .wait, _ | _, .wait => .wait
  | .fail, _ | _, .fail => .fail
  | _, _ => .ok

/-- The node status array and the completion word. -/
def writeStatus (s : State) (r : Rec) (code : Nat) : State × WordRes :=
  let x := if r.nstat = 0 then (s, WordRes.ok)
    else r.nodes.zipIdx.foldl (fun x n =>
      let y := hawkWrite x.1 r.space (r.nstat.toNat + 16 * n.2)
        (leBytes 4 n.1.inst.toNat ++ leBytes 4 n.1.ovf.toNat ++ leBytes 4 n.1.fullc.toNat ++ leBytes 4 0)
      (y.1, worse x.2 y.2)) (s, WordRes.ok)
  if r.cword = 0 then x
  else
    let y := hawkWrite x.1 r.space r.cword.toNat (leBytes 4 (2 ^ 31 + code))
    (y.1, worse x.2 y.2)

/-- Teams of a record. -/
def recTeams (s : State) (id : Nat) : List Team :=
  s.teams.filter (fun t => match s.inst? t.inst with | some i => i.job == id | none => false)

/-- The code with which a record completes now. -/
def recordCode (s : State) (r : Rec) : Option Nat :=
  if r.bad then some 1
  else if r.stopped then
    (if (recTeams s r.id).all (fun t => t.st == .gone || isSaved t) then some 2 else none)
  else if r.nodes.all (·.complete) then some 0 else none

/-- REC or PLAY is cleared, and DONE set. -/
def closeLog (s : State) (r : Rec) : State :=
  match s.ctx? r.space with
  | none => s
  | some c =>
    if r.log = 0 then s
    else
      let s := match c.dblk with
        | some d =>
          let f := saveNat s r.space (d + 0x130C) 4
          saveWrite f.1 r.space (d + 0x130C) (leBytes 4 (f.2 % 8 / 2 * 2 + 8))
        | none => s
      s.modCtx r.space (fun c => { c with dbgctl := c.dbgctl &&& 0xF3FFFFFF })

/-- Records that have completed and whose teams are all GONE are forgotten, with their instances. -/
def dropRecs (s : State) : State :=
  let spent (r : Rec) : Bool := r.ended && (recTeams s r.id).all (fun t => t.st == .gone)
  let gone := (s.recs.filter spent).map (·.id)
  forgetContexts { s with
    recs := s.recs.filter (fun r => !spent r)
    insts := s.insts.filter (fun i => !gone.contains i.job) }

/-- The record has completed; it stays for the teams that are saved, which are restored as its teams (R325). -/
def endRec (s : State) (r : Rec) : State :=
  dropRecs { s.modRec r.id (fun r => { r with ended := true, log := 0 }) with
    emitted := s.emitted.filter (fun e => e.job != r.id)
    logs := s.logs.filter (fun l => l.job != r.id)
    insts := s.insts.map (fun i => if i.job == r.id then { i with inPool := false } else i) }

/-- A record completes; the last one of a context that is being stopped lets the stop record be written (R374). -/
def completeRecord (s : State) (r : Rec) (code : Nat) : State :=
  match flushCores s (List.range Config.cores) r.space with
  | (s, false) => s
  | (s, true) =>
    match writeStatus s r code with
    | (_, .wait) => s
    | (s, w) =>
      let err := if code = 0 && w == .fail then 4 else code
      writeStop (endRec (closeLog (queueDone s r.queue r.idx.toNat err) r) r) r.space

/-- DEDUCED, log entry 31. -/
def execRecordCompletion (record : Nat) (s : State) : Out :=
  event s (fun s =>
    match s.rec? record with
    | none => s
    | some r =>
      match if r.ended then none else recordCode s r with
      | some code => completeRecord s r code
      | none => s)

end Sys2Proof.Machine
end

