-- ==== Sys2Proof/Machine/Place.lean ====
section
/-! DEFINITION. The ready pool, placement and reservations (R332 to R337), deterministic mode's clusters (R338 to R341),
and the end of teams and instances (R38, R39). -/

namespace Sys2Proof.Machine

/-! ### Cores, R334, R336 -/

def resident (t : Team) : Bool := match t.st with | .placed | .running | .ending => true | _ => false
def residents (s : State) (core : Nat) : List Team := s.teams.filter (fun t => t.core == core && resident t)

/-- The lowest block of granules at a multiple of WIN clear of the residents' blocks. (DEDUCED, log entry 33.) -/
def freeBlock (ts : List Team) (limit win : Nat) : Option Nat :=
  let n := limit * win
  ((List.range (1536 / win + 1)).map (fun k => k * win)).find? (fun g =>
    g + n ≤ 1536 && ts.all (fun t => g + n ≤ t.block || t.block + t.desc.limit * t.desc.win ≤ g))

/-- The lowest free contexts. -/
def freeContexts (ts : List Team) (limit : Nat) : List Nat :=
  ((List.range 64).filter (fun c => !ts.any (fun t => t.warps.any (fun w => w.ctx == c)))).take limit

def reservedFor (s : State) (core id : Nat) : Bool := s.reserved.any (fun r => r.1 == core && r.2 != id)

/-- What R334 asks of a core beside the block and the reservation. -/
def roomBeside (ts : List Team) (d : Desc) : Bool :=
  (freeContexts ts d.limit).length == d.limit &&
  ts.foldl (fun n t => n + storeShare t.desc.limit t.desc.win t.desc.scrK t.desc.tileK) 0
    + storeShare d.limit d.win d.scrK d.tileK ≤ storeMax

def coreFits (s : State) (id : Nat) (d : Desc) (core : Nat) : Bool :=
  let ts := residents s core
  !reservedFor s core id && roomBeside ts d && (freeBlock ts d.limit d.win).isSome

/-- It fails only for want of a block. -/
def lacksBlock (s : State) (id : Nat) (d : Desc) (core : Nat) : Bool :=
  let ts := residents s core
  !reservedFor s core id && roomBeside ts d && (freeBlock ts d.limit d.win).isNone

/-! ### Sectors, R335 -/

/-- Bytes of the declared operands in a sector's stack. -/
def operandBytes (s : State) (space : Nat) (d : Desc) (sector : Nat) : Nat :=
  match s.ctx? space with
  | none => 0
  | some c =>
    let a := d.opnd.toNat
    let n := 1024 * d.opndK
    if n = 0 then 0
    else (List.range ((a + n - 1) / 65536 - a / 65536 + 1)).foldl (fun acc k =>
      let lo := max a ((a / 65536 + k) * 65536)
      let hi := min (a + n) ((a / 65536 + k + 1) * 65536)
      match (rangeOf c lo).bind (fun r => mappedAt s space (r.iaFirst * 65536 + lo - r.first * 65536)) with
      | some pa => if pa / 2 ^ 36 = sector then acc + (hi - lo) else acc
      | none => acc) 0

/-- The partition's sectors with the preferred one first. -/
def sectorOrder (s : State) (space : Nat) (d : Desc) : List Nat :=
  let ss := sectorsOf (s.part space).secmask
  if d.opnd = 0 || d.opndK = 0 then ss
  else
    let best := maxNat (ss.map (operandBytes s space d))
    match ss.find? (fun k => operandBytes s space d k == best) with
    | some k => k :: ss.filter (· != k)
    | none => ss

def ringCore (d : Desc) (k : Nat) : Nat := nbits d.rcores.toNat (4 * k + 3) (4 * k)

/-! ### Deterministic mode, R338 to R340 -/

/-- Physical clusters of a partition, by sector and then by cluster. -/
def physClusters (mask : Byte) : List Nat := (sectorsOf mask).flatMap (fun k => (List.range 4).map (fun c => 4 * k + c))

/-- The physical cluster that hosts the logical cluster at a curve position. -/
def hostOf (mask : Byte) (shape : Word) (pos : Nat) : Nat :=
  let ps := physClusters mask
  let n := shapeCores shape / 4
  (ps[if n ≤ ps.length then pos else pos * ps.length / n]?).getD 0

/-- The core of a deterministic team. (DEDUCED, log entry 56.) -/
def detCore (s : State) (space : Nat) (shape : Word) (t : Nat) : Nat :=
  let k := teamCurve shape t
  4 * hostOf (s.part space).secmask shape k.1 + k.2

/-- Teams of an instance on a logical cluster, by index. -/
def clusterTeams (shape : Word) (nt pos : Nat) : List Nat :=
  (List.range nt).filter (fun t => (teamCurve shape t).1 == pos)

/-- The team of an index has reached GONE. -/
def indexGone (s : State) (i : Inst) (t : Nat) : Bool :=
  i.hasPlaced t && !s.teams.any (fun u => u.inst == i.uid && u.t == t && u.st != .gone)

/-- Curve positions that a physical cluster hosts for an instance, ascending. -/
def hosted (s : State) (r : Rec) (cl : Nat) : List Nat :=
  (List.range (shapeCores r.shape / 4)).filter (fun h => hostOf (s.part r.space).secmask r.shape h == cl)

/-- The logical cluster that a physical cluster runs for an instance: the recorded one, at first the lowest. -/
def runsCluster (s : State) (r : Rec) (i : Inst) (cl : Nat) : Option Nat :=
  match s.clusters.find? (fun c => c.1 == i.uid && c.2.1 == cl) with
  | some c => some c.2.2
  | none => (hosted s r cl).head?

/-- A deterministic team may be on its core: its logical cluster runs, and the lower teams of its logical core are
GONE. (DEDUCED, log entry 56.) -/
def detTurn (s : State) (r : Rec) (i : Inst) (t : Nat) : Bool :=
  let pos := (teamCurve r.shape t).1
  let n := shapeCores r.shape
  runsCluster s r i (hostOf (s.part r.space).secmask r.shape pos) == some pos &&
  (List.range (t / n)).all (fun k => indexGone s i (t % n + n * k))

/-! ### The pool, R333 -/

/-- An entry: an instance, or a saved group by its member of lowest index. -/
structure PoolEntry where
  id : Nat
  inst : Bool
  prio : Nat
  age : Nat
deriving DecidableEq, Repr

def instPrio (s : State) (i : Inst) : Nat := ((s.rec? i.job).map (·.prio)).getD 0
def teamPrio (s : State) (t : Team) : Nat := ((s.inst? t.inst).map (instPrio s)).getD 0

/-- A saved team heads its group: no member of lower index is saved. -/
def headsGroup (s : State) (t : Team) : Bool :=
  t.st == .saved true && !(groupOf s t).any (fun u => match s.team? u with | some x => isSaved x && x.t < t.t | none => false)

def entries (s : State) : List PoolEntry :=
  (s.insts.filter (·.inPool)).map (fun i => ⟨i.uid, true, instPrio s i, i.pooledAt⟩) ++
  (s.teams.filter (headsGroup s)).map (fun t => ⟨t.uid, false, teamPrio s t, t.pooledAt⟩)

def before (a b : PoolEntry) : Bool :=
  b.prio < a.prio || (a.prio == b.prio && (a.age < b.age || (a.age == b.age && a.id < b.id)))

def insEntry (e : PoolEntry) : List PoolEntry → List PoolEntry
  | [] => [e]
  | x :: xs => if before e x then e :: x :: xs else x :: insEntry e xs

/-- Pool order: priority, then age. -/
def pool (s : State) : List PoolEntry := (entries s).foldl (fun acc e => insEntry e acc) []

/-- Where the teams of a placement may go, in order of preference, as (index, core). -/
def sites (s : State) (space : Nat) (d : Desc) (ts : List Nat) : List (List (Nat × Nat)) :=
  let ss := sectorOrder s space d
  match d.place with
  | 0 => ss.flatMap (fun k => (List.range 16).map (fun c => ts.map (fun t => (t, 16 * k + c))))
  | 1 => ss.map (fun k => ts.map (fun t => (t, 16 * k + t)))
  | 2 => ss.flatMap (fun k => (List.range 4).map (fun c => ts.map (fun t => (t, 16 * k + 4 * c + t % 4))))
  | _ => ss.map (fun k => ts.map (fun t => (t, 16 * k + ringCore d t)))

/-- Frame offsets for some new frames, taken one after the other. -/
def frames (s : State) (c : Context) (size : Nat) : Nat → List (Nat × Nat) → Option (List Nat)
  | 0, _ => some []
  | n + 1, bs =>
    match roomAmong bs (65536 * c.savesz.toNat) size with
    | none => none
    | some f => (frames s c size n (bs ++ [(f, size)])).map (fun fs => f :: fs)

/-- The indices that an instance places next. -/
def nextTeams (s : State) (r : Rec) (i : Inst) (d : Desc) : List Nat :=
  if i.det then
    let group (t : Nat) : List Nat := (List.range d.nt).filter (coScheduled s r d t)
    (((List.range d.nt).find? (fun t => (group t).all (fun k => !i.hasPlaced k && detTurn s r i k))).map group).getD []
  else match d.place with
    | 0 => if i.nextT < d.nt then [i.nextT] else []
    | 2 => (List.range 4).map (fun k => i.nextT + k)
    | _ => List.range d.nt

/-- A core of a co-scheduled group holds no other team of the instance (R67). -/
def soleOn (s : State) (inst : Nat) (d : Desc) (x : List (Nat × Nat)) : Bool :=
  d.place = 0 || x.all (fun y => !(residents s y.2).any (fun u => u.inst == inst))

def instSites (s : State) (r : Rec) (i : Inst) (d : Desc) : List (List (Nat × Nat)) :=
  let ts := nextTeams s r i d
  if ts.isEmpty then []
  else if i.det then [ts.map (fun t => (t, detCore s r.space r.shape t))]
  else (sites s r.space d ts).filter (soleOn s i.uid d)

def instDesc (s : State) (i : Inst) : Option (Rec × Desc) :=
  match s.rec? i.job with
  | some r => (r.nodes[i.node]?).map (fun n => (r, n.desc))
  | none => none

def partOn (s : State) (space : Nat) : Bool := (s.part space).en && !(s.part space).closing

/-- The first site of an instance at which every team fits, with the frames. -/
def instSite (s : State) (i : Inst) : Option (List ((Nat × Nat) × Nat)) :=
  match instDesc s i with
  | none => none
  | some (r, d) =>
    if r.stopped || !partOn s r.space then none
    else match s.ctx? r.space with
    | none => none
    | some c =>
      if c.halted then none
      else match (instSites s r i d).find? (fun x => x.all (fun y => coreFits s i.uid d y.2)) with
      | none => none
      | some x => (frames s c (frameSize d) x.length (saveBlocks s c)).map (fun fs => x.zip fs)

/-- A page for which a team was saved has come back: its entry, as memory holds it, stands mapped and not frozen (R357, R369). -/
def pageBack (s : State) (space page : Nat) : Bool :=
  match walk s space (page * 65536) with
  | .ok x => !leafFrz x.2.1
  | .error sub => sub != 0

/-- The members of a saved group, when all are pooled, their pages are back and their frames have their keys. -/
def savedGroup (s : State) (t : Team) : Option (List Team) :=
  let us := ((groupOf s t).filterMap s.team?).filter isSaved
  if us.all (fun u => u.st == .saved true && u.pages.all (pageBack s u.space) && frameKeyed s u) then some us else none

/-- The sites of a saved group, on its own shape. -/
def groupSites (s : State) (t : Team) (us : List Team) : List (List (Nat × Nat)) :=
  match s.teamRec? t, s.inst? t.inst with
  | some r, some i =>
    if r.det then
      if us.all (fun u => detTurn s r i u.t) then [us.map (fun u => (u.t, detCore s r.space r.shape u.t))] else []
    else (sites s t.space t.desc (us.map (·.t))).filter (soleOn s i.uid t.desc)
  | _, _ => []

/-- The whole group stands at a site that fits. -/
def siteFits (s : State) (t : Team) (x : List (Nat × Nat)) : Bool := x.all (fun y => coreFits s t.uid t.desc y.2)

def groupSite (s : State) (t : Team) (core : Option Nat) : Option (List (Nat × Nat)) :=
  if !partOn s t.space || ((s.ctx? t.space).map (·.halted)).getD true then none
  else match savedGroup s t with
  | none => none
  | some us => (groupSites s t us).find? (fun x =>
      siteFits s t x && match core with | some c => x.contains (t.t, c) | none => true)

def canPlace (s : State) (e : PoolEntry) : Bool :=
  if e.inst then (match s.inst? e.id with | some i => (instSite s i).isSome | none => false)
  else (match s.team? e.id with | some t => (groupSite s t none).isSome | none => false)

/-! ### Reservations, R336 -/

/-- The cores that an entry needs: those of its preferred sectors, as many as its teams ask for. -/
def neededCores (s : State) (space : Nat) (d : Desc) (count : Nat) : List Nat :=
  let ss := sectorOrder s space d
  match d.place with
  | 0 => (ss.take ((count + 15) / 16)).flatMap (fun k => (List.range 16).map (fun c => 16 * k + c))
  | 1 => (ss.take 1).flatMap (fun k => (List.range d.nt).map (fun t => 16 * k + t))
  | 2 => (ss.flatMap (fun k => (List.range 16).map (fun c => 16 * k + c))).take (4 * ((count + 3) / 4))
  | _ => (ss.take 1).flatMap (fun k => (List.range d.rlen).map (fun m => 16 * k + ringCore d m))

/-- The frame of a new team fits in the save area (R334). -/
def frameRoom (s : State) (space : Nat) (d : Desc) : Bool :=
  match s.ctx? space with
  | some c => (frames s c (frameSize d) 1 (saveBlocks s c)).isSome
  | none => false

/-- What the entry asks of a core, and the cores that it needs: none while its frames find no room, which then fail it too. -/
def entryNeeds (s : State) (e : PoolEntry) : Option (Desc × List Nat) :=
  if e.inst then
    match s.inst? e.id with
    | some i => ((instDesc s i).filter (fun x => frameRoom s x.1.space x.2)).map (fun x => (x.2,
        if i.det then ((nextTeams s x.1 i x.2).map (detCore s x.1.space x.1.shape))
        else neededCores s x.1.space x.2 (x.2.nt - i.nextT)))
    | none => none
  else
    match s.team? e.id with
    | some t => some (t.desc, neededCores s t.space t.desc ((savedGroup s t).getD [t]).length)
    | none => none

/-- The head of the pool is noted when it changes; after 4,096 mesh cycles it reserves the cores that it needs and that
fail it only for want of a block. -/
def execCoreReservation (s : State) : Out :=
  event s (fun s =>
    match pool s with
    | [] => { s with poolHead := none, reserved := [] }
    | e :: _ =>
      match s.poolHead with
      | some (id, since) =>
        if id != e.id then { s with poolHead := some (e.id, s.mesh) }
        else if s.mesh < since + 4096 then s
        else match entryNeeds s e with
        | some (d, cores) =>
          { s with reserved := s.reserved ++ ((cores.filter (fun c =>
              lacksBlock s e.id d c && !s.reserved.contains (c, e.id))).map (fun c => (c, e.id))) }
        | none => s
      | none => { s with poolHead := some (e.id, s.mesh) })

/-- The reservation ends when its entry is placed. -/
def endReservation (s : State) (id : Nat) : State :=
  { s with
    reserved := s.reserved.filter (fun r => r.2 != id)
    poolHead := match s.poolHead with | some h => if h.1 = id then none else some h | none => none }

/-! ### Fused L1s, R66 -/

/-- Before a team that fuses the L1s of a cluster is placed there, or one joins teams that do, the four L1s are written
back, and every team on them shares one. False while a line waits. -/
def fuse (s : State) (core : Nat) (own : Bool) : State × Bool :=
  let cl := core / 4
  let here := s.teams.filter (fun t => t.core / 4 == cl && resident t)
  if !own && !here.any (fun t => t.desc.fused) then (s, true)
  else
    let cores := (List.range 4).map (fun k => 4 * cl + k)
    let spaces := ((dirtyLines s cores).map (fun x => x.2.1)).eraseDups
    let r := if here.all (fun t => t.desc.fused) && !here.isEmpty then (s, true)
      else spaces.foldl (fun r sp => let q := flushCores r.1 cores sp; (q.1, r.2 && q.2)) (s, true)
    if !r.2 then r
    else
      let set (t : Team) : Team :=
        if t.core / 4 == cl && resident t then { t with desc := { t.desc with fused := true } } else t
      ({ r.1 with teams := r.1.teams.map set }, true)

/-- A team on a core shares its cluster's L1. Once one has asked for it the cluster stays fused until all its teams have left
(DESIGN CHOICE, log entry 78). -/
def fusedAt (s : State) (core : Nat) (own : Bool) : Bool :=
  own || s.teams.any (fun t => t.core / 4 == core / 4 && resident t && t.desc.fused)

/-! ### Placing a team, R332 -/

def roleOf (d : Desc) (w : Nat) : Role :=
  match (d.roles.extractLsb' (2 * w) 2).toNat with | 1 => .copy | 2 => .matrix | 3 => .vector | _ => .general

/-- Warp w of a new team: a start warp with its arguments, or a free context. -/
def startWarp (d : Desc) (det : Bool) (args : List Word) (now ctx w : Nat) : Warp :=
  let pc := d.code.setWidth 56
  if w < d.start then
    let x := newWarp ctx w (roleOf d w) det ((List.range 32).map (fun k => newLane (k < d.lanes) pc now))
    args.zipIdx.foldl (fun x a => x.wrS (a.2 + 1) a.1) x
  else { newWarp ctx w .general det (List.replicate 32 (newLane false pc now)) with st := .free, ran := false }

def newRing (depth : Nat) : Ring := ⟨List.replicate depth (0, true), 0, false, 0, false, 0, depth⟩

/-- The scratchpad with the instance's records, R331. -/
def delivered (i : Inst) : Cells 8 :=
  if i.input.isEmpty then []
  else
    let m := writeLE (writeLE [] i.inoff 4 i.input.length) (i.inoff + 4) 4 i.depth
    i.input.zipIdx.foldl (fun m x => memPut m (i.inoff + 64 + (x.1.length) * x.2) x.1) m

def newTeam (s : State) (r : Rec) (i : Inst) (d : Desc) (t core f : Nat) (args : List Word) (tsh : Cells 64) : Team where
  uid := s.serial
  space := r.space
  inst := i.uid
  t := t
  core := core
  block := (freeBlock (residents s core) d.limit d.win).getD 0
  frameF := f
  st := .running
  reason := .preempt
  desc := { d with fused := fusedAt s core d.fusedOwn }
  warps := (freeContexts (residents s core) d.limit).zipIdx.map (fun x => startWarp d r.det args s.cycle x.1 x.2)
  scratch := delivered i
  tileMem := []
  tsh := tsh
  ttab := List.replicate 32 ⟨.empty, false, false, none⟩
  rings := (List.range 8).map (fun k => newRing (d.rings.extractLsb' (4 * k) 4).toNat)
  heard := []
  frame := ⟨.empty, 0, [], 0⟩
  weight := ⟨false, 0, 0, 0, 0, [], []⟩
  grants := []
  lives := List.replicate 32 ⟨0, 0, 0, 0, 0, 0⟩
  depthOvf := 0
  pages := []
  pooledAt := 0
  saving := none

/-- The argument words and the reset shapes. -/
def readLaunch (space : Nat) (d : Desc) : ReadM (List Word × Cells 64) := do
  let a ← hawkBytes space d.args.toNat (4 * d.argn)
  let x ← if d.tiles = 0 then pure [] else hawkBytes space d.tiles.toNat 256
  pure ((List.range d.argn).map (fun k => BitVec.ofNat 32 (field a (4 * k) 4)),
        (List.range 32).foldl (fun m k => cset m k (BitVec.ofNat 64 (field x (8 * k) 8))) [])

/-- Deliveries that the core keeps for the instance go to its receiver, R71, R73. -/
def attach (s : State) (inst core : Nat) : State :=
  match receiverAt s inst core with
  | none => s
  | some t =>
    let mine (x : CoreDelivery) : Bool := x.core == core && x.inst == inst
    let s := s.modTeam t.uid (fun t => { t with ttab := (s.coreDels.filter mine).foldl (fun tt x =>
      tt.modify x.tile (fun e => { e with pend := some x.del })) t.ttab })
    { s with coreDels := s.coreDels.filter (fun x => !mine x) }

def addTeam (r : Rec) (i : Inst) (d : Desc) (args : List Word) (tsh : Cells 64) (s : State) (x : (Nat × Nat) × Nat) : State :=
  let t := newTeam s r i d x.1.1 x.1.2 x.2 args tsh
  let s := { s with teams := s.teams ++ [t], serial := s.serial + 1 }
  let s := attach s i.uid x.1.2
  s.modInst i.uid (fun i =>
    { i with nextT := i.nextT + 1, placed := if i.det then i.placed ++ [x.1.1] else [], inPool := i.nextT + 1 < d.nt })

/-- Every L1 at the site is ready for the team. -/
def fuseAll (s : State) (own : Bool) (cores : List Nat) : State × Bool :=
  cores.foldl (fun r c => if r.2 then fuse r.1 c own else r) (s, true)

/-- What an attempt to place an entry makes of the machine; none while a freeze holds it. One that meets a byte that cannot be
read ends with its context's stop. -/
def attempted (s : State) (x : State × Bool) : Option State := if x.2 || x.1.lost != s.lost then some x.1 else none

/-- The teams are placed; a read that fails stops the context (R421). The reservation ends with the last team (R336). -/
def placeInst (s : State) (i : Inst) : Option State :=
  match instDesc s i, instSite s i with
  | some (r, d), some site =>
    match fuseAll s d.fusedOwn (site.map (fun x => x.1.2)) with
    | (s', false) => attempted s (s', false)
    | (s1, true) =>
      match (readLaunch r.space d).run s1 with
      | .error (s2, .fault cause sub _ ia) => some (stopContext s2 r.space cause sub (BitVec.ofNat 64 ia) 0 0)
      | .error (s2, .wait) => attempted s (s2, false)
      | .ok ((args, tsh), s2) =>
        let s3 := site.foldl (addTeam r i d args tsh) s2
        some (if ((s3.inst? i.uid).map (·.inPool)).getD false then s3 else endReservation s3 i.uid)
  | _, _ => none

/-! ### Deterministic clusters, R340 -/

/-- A team that waits under R85: every live lane is BLOCKED, one in a PHASE that R85 holds. -/
def phaseStuck (s : State) (t : Team) : Bool :=
  let ls := t.warps.flatMap (fun w => if w.st == .free then [] else w.lanes.filter (·.live))
  t.st == .running && ls.all (fun l => l.st == .blocked) && ls.any (fun l => l.wait == .phase && phaseWaits s t (l.phases.toNat + 1))

/-- The instance's present logical cluster on a physical one gives way to the next that has work left. -/
def switchInst (s : State) (r : Rec) (i : Inst) (d : Desc) (cl : Nat) : State :=
  let hs := hosted s r cl
  match runsCluster s r i cl with
  | none => s
  | some pos =>
    let spent (p : Nat) : Bool := (clusterTeams r.shape d.nt p).all (indexGone s i)
    let mine := s.teams.filter (fun t => t.inst == i.uid && t.st == .running && (teamCurve r.shape t.t).1 == pos)
    -- a team comes up only once the lower ones of its logical core are GONE (R338)
    let up (k : Nat) : Bool := (List.range (k / shapeCores r.shape)).all (fun j => indexGone s i (k % shapeCores r.shape + shapeCores r.shape * j))
    let paused := 0 < d.lead && (clusterTeams r.shape d.nt pos).all (fun k => indexGone s i k || !up k ||
      mine.any (fun t => t.t == k && phaseStuck s t && !saveWaits s t.uid))
    let next := ((hs.filter (fun p => pos < p)) ++ (hs.filter (fun p => p < pos))).find? (fun p => !spent p)
    match next with
    | none => s
    | some p =>
      if spent pos || (paused && !mine.isEmpty) then
        let s := mine.foldl (fun s t => saveTeam s t.uid .preempt true) s
        { s with clusters := (i.uid, cl, p) :: s.clusters.filter (fun c => !(c.1 == i.uid && c.2.1 == cl)) }
      else s

def execLogicalClusterSwitch (cluster : Nat) (s : State) : Out :=
  event s (fun s => s.insts.foldl (fun s i =>
    match i.det, instDesc s i with
    | true, some (r, d) => switchInst s r i d cluster
    | _, _ => s) s)

/-! ### The end of a team, R38, R340, R341, R389 -/

/-- In deterministic mode every team of the instance with a lower key is GONE. Of a stopped record no unplaced team counts, and
until it has completed no saved one (DESIGN CHOICE, log entry 67). -/
def goneTurn (s : State) (t : Team) : Bool :=
  match s.teamRec? t, s.inst? t.inst with
  | some r, some i =>
    let out (k : Nat) : Bool := r.stopped && (!i.hasPlaced k ||
      (!r.ended && s.teams.any (fun u => u.inst == i.uid && u.t == k && isSaved u)))
    !r.det || (List.range t.desc.nt).all (fun k => !listLt (teamKey r.shape k) (teamKey r.shape t.t) || indexGone s i k || out k)
  | _, _ => true

def canGo (s : State) (t : Team) : Bool :=
  t.st == .ending && !s.ops.any (fun o => o.team == t.uid) &&
  t.ttab.all (fun e => e.st != .filling && e.st != .draining) && goneTurn s t

/-- The stamp records of a team's end: a TILE record for each life in progress, then TEAM. -/
def endStamps (s : State) (t : Team) : State :=
  let s := (List.range 32).foldl (fun s n =>
    if (t.tile n).st == .empty then s
    else
      let l := (t.lives[n]?).getD noLife
      stamp s t 1 0 n [l.inStart, l.inEnd, l.wait, l.cStart, l.cEnd, l.outEnd]) s
  stamp s t 3 0 0 [t.depthOvf]

/-- Some context of a partition is still being stopped. -/
def stopsIn (s : State) (p : Nat) : Bool := s.ctxs.any (fun c => c.space / 65536 == p && c.stopping.isSome)

/-- A partition that was disabled gives up its keys once its contexts are stopped, and is OFF once no team of it is placed
(R408), unless it has been enabled again. -/
def settleParts (s : State) : State :=
  let ready (k : Nat) : Bool := ((s.parts[k]?).getD Partition.off).closing && !stopsIn s k
  { s with
    keys := s.keys.filter (fun k => !ready (k.space / 65536))
    parts := s.parts.zipIdx.map (fun x =>
      if ready x.2 && !s.teams.any (fun t => t.space / 65536 == x.2 && resident t)
      then { x.1 with closing := false, pstat := if x.1.en then x.1.pstat else 0 } else x.1) }

/-- The records that a deterministic team holds are appended as it reaches GONE, R341. -/
def appendHeld (s : State) (t : Team) : State :=
  let mine (e : Emitted) : Bool := e.team == some t.uid
  (s.emitted.filter mine).foldl (fun s x =>
    match ((s.rec? x.job).bind (fun r => r.nodes[x.node]?)).bind (fun n => n.edges.find? (fun e => e.num == x.edge)) with
    | some e => appendRecord s t.space e x
    | none => s) { s with emitted := s.emitted.filter (fun e => !mine e) }

def execTeamGone (team : Nat) (s : State) : Out :=
  event s (fun s =>
    match s.team? team with
    | none => s
    | some t =>
      if !canGo s t then s
      else
        let s := appendHeld (endStamps s t) t
        let s := { s with
          leaves := s.leaves.filter (fun r => r.team != team)
          bins := s.bins.filter (fun b => b.team != team)
          events := s.events.filter (fun e => e.team != team)
          teams := s.teams.filter (fun u => u.uid != team) }
        settleParts (dropRecs (s.modInst t.inst (fun i => { i with gone := i.gone + 1 }))))

/-! ### The end of an instance, R39 -/

/-- Every team has reached GONE; of a stopped record, every team that was placed. Only an instance whose teams have all reached
it has completed (R329). -/
def instOver (s : State) (i : Inst) : Bool :=
  match instDesc s i with
  | some (r, d) => (i.gone = d.nt || (r.stopped && i.gone = i.nextT)) && !s.teams.any (fun t => t.inst == i.uid)
  | none => !s.teams.any (fun t => t.inst == i.uid)

def execNodeInstanceEnd (inst : Nat) (s : State) : Out :=
  event s (fun s =>
    match s.inst? inst with
    | none => s
    | some i =>
      if !instOver s i then s
      else
        let r := match instDesc s i with
          | some (r, _) => flushCores s (List.range Config.cores) r.space
          | none => (s, true)
        if !r.2 then r.1
        else
          let s := { r.1 with
            insts := r.1.insts.filter (fun x => x.uid != inst)
            coreDels := r.1.coreDels.filter (fun x => x.inst != inst)
            clusters := r.1.clusters.filter (fun c => c.1 != inst)
            reserved := r.1.reserved.filter (fun x => x.2 != inst) }
          let whole := match instDesc r.1 i with | some (r, d) => !r.ended && i.gone = d.nt | none => false
          let s := if whole then s.modNode i.job i.node (fun n => { n with inst := n.inst + 1 }) else s
          settleNodes s i.job (((s.rec? i.job).map (fun r => r.nodes.length)).getD 0))

end Sys2Proof.Machine
end

