-- ==== Sys2Proof/Machine/Faults.lean ====
section
/-! DEFINITION. Restoring a team (R379), pre-emption for priority (R376), engine faults (R370), rejected evictions
(R371), memory errors (R375) and the warp timer (R381). -/

namespace Sys2Proof.Machine

/-! ### The frame checks, R379 -/

/-- The restore subcode of a frame's bytes: VERSION, LUNAVER, STATE, ASID. -/
def frameBad (t : Team) (m : Cells 8) : Option Byte :=
  let w (o : Nat) : Nat := readLE m o 4
  let tileBad (n : Nat) : Bool :=
    w (0x40 + 4 * n) % 2 = 1 && !(shapeOf (BitVec.ofNat 64 (readLE m (0xC0 + 8 * n) 8))).ok t.desc.tileK
  let weightBad : Bool :=
    if w 0x2010 % 2 = 1 then
      !(1 ≤ w 0x2000 && w 0x2000 ≤ 128 && 1 ≤ w 0x2004 && w 0x2004 ≤ 128 && w 0x200C < 3 && (classOf (w 0x2008) (w 0x200C)).isSome)
    else w 0x2000 != 0 || w 0x2004 != 0 || w 0x2008 != 0 || w 0x200C != 0
  if readLE m 0 2 != 1 then some 0
  else if w 0xA804 != 0 && w 0xA800 != 0x101 then some 1
  else if (List.range 8).any (fun k => 8 < readLE m (0x1C0 + 16 * k + 13) 1) || (List.range 32).any tileBad || weightBad then some 2
  else if w 4 != t.space % 65536 then some 3
  else none

/-! ### The images read back -/

def readTile (s : State) (t : Team) (m : Cells 8) (n : Nat) : TileEnt :=
  let va : DWord := BitVec.ofNat 64 (readLE m (0xA80 + 16 * n) 8)
  let ia := match (s.ctx? t.space).map (fun c => rangeCheck c va .load) with | some (.ok ia) => ia | _ => 0
  tileOfWord (readLE m (0x40 + 4 * n) 4) (some ⟨t.space, va, ia, readLE m (0xA80 + 16 * n + 8) 8⟩)

def readWeight (m : Cells 8) : WeightSet :=
  let w (o : Nat) : Nat := readLE m o 4
  if w 0x2010 % 2 = 0 then ⟨false, 0, 0, 0, 0, [], []⟩
  else
    let k := w 0x2000
    let n := w 0x2004
    let eb := typeBits (w 0x2008)
    let sb := scaleBits (w 0x200C)
    { valid := true, k := k, n := n, ty := w 0x2008, sc := w 0x200C
      elems := unpackElems eb (k * n) (cread m 0x2040 ((k * n * eb + 7) / 8))
      scales := if sb = 0 then []
        else unpackElems sb ((k + 31) / 32 * n) (cread m 0xA040 (((k + 31) / 32 * n * sb + 7) / 8)) }

/-- The raster frame with its pixel store from the spill block. -/
def readRaster (s : State) (t : Team) (m : Cells 8) : State × RasterFrame :=
  let word : Word := BitVec.ofNat 32 (readLE m 0xA44 4)
  let base := ((s.ctx? t.space).map (·.savebase)).getD 0
  let spill := (BitVec.ofNat 64 (readLE m 0xA48 8) - base).toNat
  match readLE m 0xA40 4 with
  | 0 => (s, ⟨.empty, 0, [], 0⟩)
  | k =>
    let q := saveReadLong s Config.cores t.space spill (spillSize word)
    (q.1, ⟨if k = 1 then .opened else .closed, word,
      (List.range (spillSize word / 8)).foldl (fun p j => cset p j (~~~(BitVec.ofNat 64 (readLE q.2 (8 * j) 8)))) [], spill⟩)

/-- The barrier at which a lane, saved in a warp context, has arrived. -/
def arrivedAt (m : Cells 8) (ctx slot : Nat) : Option (Fin 8) :=
  ((List.range 8).find? (fun n => (readLE m (0x240 + 256 * n + 4 * ctx) 4).testBit slot)).map (Fin.ofNat 8)

/-- The region values that a page-fault save recorded for a lane (R298, R369). -/
def regionEntry (m : Cells 8) (base slot : Nat) : Option (Pc × Word) :=
  let e := readLE m (base + 0x80 + 16 * slot) 16
  if readLE m 3 1 = 3 && e != 0 then some (BitVec.ofNat 56 e, BitVec.ofNat 32 (e / 2 ^ 64)) else none

/-- One lane from a warp slot at `base`, of a warp saved in context `ctx`. `keep`: a HALTED lane stays HALTED.
(DEDUCED, log entry 34.) -/
def readLane (m : Cells 8) (win base ctx now : Nat) (keep : Bool) (slot : Nat) (l : Lane) : Lane :=
  let e := readLE m (base + 0x280 + 8 * slot) 8
  let reg := regionEntry m base slot
  let st := laneOfCode (e / 2 ^ 56 % 8)
  let wait : Wait := match arrivedAt m ctx slot with | some n => .bar n | none => .retry
  let st' := if st == .halted && !keep then l.held else st
  { l.dropLatches with
    st := st'
    held := if st' == .halted then l.held else .ready
    wait := if st' == .blocked || (st' == .halted && l.held == .blocked) then wait else .retry
    pc := BitVec.ofNat 56 e
    regionPc := (reg.map (·.1)).getD l.regionPc
    regionCnt := (reg.map (·.2)).getD l.regionCnt
    v := (List.range (8 * win)).foldl (fun v n => cset v n (BitVec.ofNat 32 (readLE m (base + 0x800 + 128 * n + 4 * slot) 4))) []
    p := (List.range 7).foldl (fun p k =>
      if (readLE m (base + 0x6900 + 4 * k) 4).testBit slot then p ||| BitVec.ofNat 7 (2 ^ k) else p) 0
    phases := BitVec.ofNat 32 (readLE m (base + 0x7200 + 4 * slot) 4)
    tstat := BitVec.ofNat 32 (readLE m (base + 0x7280 + 4 * slot) 4)
    since := if st' == .halted then l.since else now - l.since }

/-- The reconvergence stack of a warp slot. -/
def readStack (m : Cells 8) (base ctx : Nat) : List (Pc × BitVec 32) :=
  (List.range 32).filterMap (fun j =>
    let mask := BitVec.ofNat 32 (readLE m (if j < 8 then base + 0x480 + 4 * j else 0xC000 + 96 * ctx + 4 * (j - 8)) 4)
    if mask = 0 then none else some (BitVec.ofNat 56 (readLE m (base + 0x380 + 8 * j) 8), mask))

/-- One warp from its slot. A warp that only a deferred write fault had stopped runs again when none holds it.
(DEDUCED, log entry 34.) -/
def readWarp (m : Cells 8) (win now ctx : Nat) (deferred : Bool) (wi : Nat) (w : Warp) : Warp :=
  let base := 0x10000 + 0x8000 * wi
  let wst := readLE m (base + 0x6920) 4
  let mode := readLE m (base + 0x7314) 4
  let cmp : Word := BitVec.ofNat 32 (readLE m (base + 0x7310) 4)
  let q (k : Nat) : List DWord :=
    (List.range (min 16 (readLE m (0xC80 + 4 * w.ctx + k) 1))).map (fun j =>
      BitVec.ofNat 64 (readLE m (base + 0x7000 + 128 * k + 8 * j) 8))
  let keep := deferred || w.dbgHalt || !w.lanes.any (fun l => l.st == .halted)
  let lanes := w.lanes.zipIdx.map (fun x => readLane m win base w.ctx now keep x.2 x.1)
  let halted := lanes.any (fun l => l.st == .halted)
  if w.st == .free then { w with ctx := ctx }
  else { w with
    st := if halted then .stopped else .live
    dbgHalt := halted && !(deferred && !w.dbgHalt)
    ctx := ctx
    lanes := lanes
    s := (List.range 64).foldl (fun v k => if k = 0 then v else cset v k (BitVec.ofNat 32 (readLE m (base + 0x6800 + 4 * k) 4))) []
    lockstep := wst.testBit 0, uconflict := wst.testBit 1, stepBit := wst.testBit 3
    sup := mode.testBit 2, sbusy := mode.testBit 1, ubusy := mode.testBit 0
    qdest := (List.range 4).foldl (fun v k =>
      cset v k (BitVec.ofNat 32 (readLE m (base + 0x7300 + 4 * k) 4) &&& 0x80007FFF)) []
    tmrcmp := cmp
    armed := if cmp = w.tmrcmp then w.armed else cmp != 0
    active := BitVec.ofNat 64 (readLE m (base + 0x7318) 8)
    q0 := q 0, q1 := q 1, q2 := q 2, q3 := q 3
    stack := if wst.testBit 0 then readStack m base w.ctx else []
    epoch := w.epoch + 1 }

/-- The suspended operations of a team as the image gives them, R377: position, VA, lane and tile of each that is valid; one
that is not listed any more is gone. Only the listed Luna commands go on. (DESIGN CHOICE, log entry 10.) -/
def readOps (s : State) (uid : Nat) (m : Cells 8) : State :=
  let w (o : Nat) : Nat := readLE m o 4
  let at_ (o : EngOp) : Option Nat :=
    ((List.range 16).map (fun k => 0xD80 + 64 * k)).find? (fun a => readLE m (a + 16) 8 == o.id && w a / 2 ^ 31 == 1)
  let whole := (suspended s uid).length ≤ 16
  let luna := if w 0xA804 = 0 then [] else (List.range (w 0xA804 / 8)).map (fun k => readLE m (0xA808 + 8 * k) 8)
  let edit (o : EngOp) (a : Nat) : EngOp :=
    { o with
      pos := w (a + 4), va := BitVec.ofNat 64 (readLE m (a + 8) 8)
      warp := ((s.team? uid).bind (fun t => t.warps.findIdx? (fun x => x.ctx == nbits (w a) 15 10))).getD o.warp
      lane := nbits (w a) 20 16
      tiles := match o.tiles with | [] => [] | _ :: ts => nbits (w a) 25 21 :: ts }
  { s with ops := s.ops.filterMap (fun o =>
      if o.team != uid then some o
      else if o.luna then (if luna.contains o.id then some o else none)
      else match at_ o with
        | some a => some (edit o a)
        | none => if whole then none else some o) }

/-- A lane that the restore would file finds its slot taken, as only an edited frame brings about: it stands BLOCKED at its
REFORM again (R22). -/
def unfileAt (l : Lane) (now : Nat) : Lane :=
  { l.enter .blocked now with wait := .binSlot, pc := l.pc - 8, regionCnt := l.regionCnt - 1 }

/-- FILED lanes, and HALTED ones that return to that state, are filed again; where no bin is free, or the warp is in
supervisor or lockstep mode, a lane goes on as at a REFORM that files nothing (R21, R29). (DEDUCED, log entry 34.) -/
def refile (s : State) (uid : Nat) : State :=
  match s.team? uid with
  | none => s
  | some t =>
    (t.warps.zipIdx.flatMap (fun x => (x.1.slots.filter (fun l => l.2.under == .filed)).map (fun l => (x.2, l.1, l.2.pc)))).foldl
      (fun s k =>
        if ((t.warps[k.1]?).map (fun w => w.lockstep || w.sup)).getD false then s.modLane uid k.1 k.2.1 (fun l => l.release s.cycle)
        else match fileLane s t k.1 k.2.1 k.2.2 with
        | some (s, true) => s
        | some (s, false) => s.modLane uid k.1 k.2.1 (unfileAt · s.cycle)
        | none => (bumpCore s t.core 0).modLane uid k.1 k.2.1 (fun l => l.release s.cycle)) s

/-- A team whose frame passes its checks is placed again. (DESIGN CHOICE, log entry 10.) -/
def restoreFrom (s : State) (t : Team) (core : Nat) (m : Cells 8) : State :=
  let rs := residents s core
  let ctxs := freeContexts rs t.desc.limit
  let r := readRaster s t m
  let s := r.1
  let area := 0x10000 + 0x8000 * t.desc.limit
  let deferred (wi : Nat) : Bool := deferHolds s t wi
  let s := readOps s t.uid m
  let s := s.modTeam t.uid (fun t => { t with
    st := .running
    core := core
    block := (freeBlock rs t.desc.limit t.desc.win).getD 0
    desc := { t.desc with fused := fusedAt s core t.desc.fusedOwn }
    warps := (t.warps.zip ctxs).zipIdx.map (fun x => readWarp m t.desc.win s.cycle x.1.2 (deferred x.2) x.2 x.1.1)
    scratch := memPut [] 0 (cread m area (1024 * t.desc.scrK))
    tileMem := memPut [] 0 (cread m (area + 1024 * t.desc.scrK) (1024 * t.desc.tileK))
    tsh := (List.range 32).foldl (fun v n => cset v n (BitVec.ofNat 64 (readLE m (0xC0 + 8 * n) 8))) []
    ttab := (List.range 32).map (readTile s t m)
    rings := (List.range 8).map (fun k => ringOfBytes (cread m (0x1C0 + 16 * k) 16))
    weight := readWeight m
    frame := r.2
    pages := [] })
  retireWarps (refile (attach s t.inst core) t.uid) t.uid

/-- One member: its old core's dirty lines are written back, its frame is read and checked. -/
def restoreOne (s : State) (t : Team) (core : Nat) : State :=
  let r := saveReadLong s Config.cores t.space t.frameF (frameSize t.desc)
  match frameBad t r.2 with
  | some sub =>
    let s := r.1.modTeam t.uid (fun t => { t with st := .saved false })
    stopContext s t.space cRESTORE sub 0 t.frameF 0
  | none => restoreFrom r.1 t core r.2

/-- Writes of the members that are still dirty in the L1s that they left. -/
def flushLeft (s : State) (us : List Team) : State × Bool :=
  us.foldl (fun r t =>
    let q := flushCores r.1 (releaseCores t.core t.desc.fused) t.space
    (q.1, r.2 && q.2)) (s, true)

/-- A saved group comes back at a site; none while a freeze holds it. -/
def restoreGroup (s : State) (us : List Team) (site : List (Nat × Nat)) : Option State :=
  match flushLeft s us with
  | (s', false) => attempted s (s', false)
  | (s1, true) =>
    match fuseAll s1 (us.any (fun t => t.desc.fusedOwn)) (site.map (·.2)) with
    | (s', false) => attempted s (s', false)
    | (s2, true) =>
      some (site.foldl (fun s x =>
        match us.find? (fun t => t.t == x.1) with
        | some t => if (s.team? t.uid).map (·.st) == some (.saved true) then restoreOne s t x.2 else s
        | none => s) s2)

/-- A saved group is restored with a team of it on a core that it names, or where it fits first. -/
def restoreAt (s : State) (team : Nat) (core : Option Nat) : Option State :=
  match s.team? team with
  | none => none
  | some t =>
    match groupSite s t core, savedGroup s t with
    | some site, some us => (restoreGroup s us site).map (fun s => endReservation s team)
    | _, _ => none

/-! ### Passing, R333 -/

/-- What trying an entry makes of the machine; none when it cannot be placed now. -/
def tryEntry (s : State) (e : PoolEntry) : Option State :=
  if e.inst then (s.inst? e.id).bind (placeInst s) else restoreAt s e.id none

/-- The entry that Hawkmoth serves next: the first in pool order that can be placed. -/
def serves (s : State) : Option PoolEntry := (pool s).find? (fun e => (tryEntry s e).isSome)

def execTeamPlacement (inst : Nat) (s : State) : Out :=
  event s (fun s =>
    match serves s with
    | some e => if e.inst && e.id = inst then ((s.inst? inst).bind (placeInst s)).getD s else s
    | none => s)

def execTeamRestore (team core : Nat) (s : State) : Out :=
  event s (fun s =>
    match serves s with
    | some e => if e.inst || e.id != team then s else (restoreAt s team (some core)).getD s
    | none => s)

/-! ### Pre-emption, R316, R376 -/

/-- The lanes that asked for a pre-emption and still wait in that instruction. -/
def askers (s : State) (x : Saving) : List Nat :=
  match x.own, s.warp? x.team x.warp with
  | some (ls, _), some w => ls.filter (fun k => match w.lanes[k]? with | some l => l.st == .blocked && l.pc == x.pc | none => false)
  | _, _ => []

/-- Their team takes no further step of its own: it is itself being saved. -/
def askerStopped (s : State) (x : Saving) : Bool :=
  match s.team? x.team with | some t => t.st != .running || t.saving.isSome | none => true

/-- The instruction of the asking lanes completes with status DONE. -/
def answerAskers (s : State) (x : Saving) : State :=
  match x.own, askers s x with
  | some (_, dst, latch), k :: ks =>
    let e : Eff := { regs := match dst with | some (d, _) => [(d, 0)] | none => [], latch := latch.map (fun b => (b, 0)) }
    let lanes := (k :: ks).map (fun k => (x.warp, k))
    commit { s with serial := s.serial + 1 } { team := x.team, pc := x.pc, len := 8, bits := 0, lanes, id := s.serial }
      (lanes.map (fun k => (k, .done e)))
  | _, _ => s

/-- An entry of higher priority waits for a core. -/
def outranked (s : State) (t : Team) : Bool :=
  (pool s).any (fun e => teamPrio s t < e.prio && !canPlace s e)

/-- A group whose units have finished is saved. The asking lanes take their status once the other frames are whole, and a
group that holds them is saved with that (R316). (DEDUCED, log entry 37.) -/
def saveGroup (s : State) (us : List Nat) (x : Saving) : State :=
  let save (s : State) (us : List Nat) : State := us.foldl (fun s u => saveTeam s u x.reason (x.reason != .ctxsave)) s
  if askers s x == [] then save s us
  else if !askerStopped s x then s
  else save (answerAskers (save s (us.filter (· != x.team))) x) (us.filter (· == x.team))

/-- A pre-emption that Hawkmoth decides, or that it completes; of a team whose last warp exited as it was decided the header is
written (R380). -/
def execPriorityPreemption (team : Nat) (s : State) : Out :=
  event s (fun s =>
    match s.team? team with
    | none => s
    | some t =>
      let us := runningGroup s t
      let own : Saving := { reason := .preempt, team := 0, warp := 0, pc := 0 }
      match t.st, t.saving with
      | .running, some x =>
        if x.reason == .stop then stopStep s t.space
        else if us.any (saveWaits s) then s
        else if x.reason == .pagefault then savePages s us
        else saveGroup s us x
      | .running, none =>
        if !outranked s t then s
        else
          let s := markEnded s t own
          if us.any (saveWaits s) then us.foldl (fun s u => s.modTeam u (fun t => { t with saving := some own })) s
          else us.foldl (fun s u => saveTeam s u .preempt true) s
      | .ending, some x => (completedHeader s t x.reason).modTeam team (fun t => { t with saving := none })
      | .ending, none => if endedNow s t && outranked s t then completedHeader s t .preempt else s
      | _, _ => s)

/-! ### Engine faults, R370 -/

structure BadBeat where
  cause : Byte
  sub : Byte
  va : Nat
  ia : Nat
  /-- the operation's position afterwards -/
  pos : Nat
deriving DecidableEq, Repr

/-- The next of some numbered beats fails; the beats before it have been made. -/
def beatFault (s : State) (space : Nat) (need : Need) (bs : List (Beat × Nat)) : Option BadBeat :=
  bs.head?.bind (fun x =>
    match beatRes s space need x.1 with
    | .fail sub => some ⟨cXLATE, sub, x.1.va, x.1.ia, x.2⟩
    | _ => none)

/-- The first beats of the lines that a multicast is about to send, R72. -/
def dueLines (s : State) (m : Mcast) : List (Beat × Nat) :=
  (m.ias.zipIdx.filter (fun x => !m.hasLeft x.2 && m.lineFirst x.2 == x.2 && (through s m.op x.2 x.1).isNone && m.due x.2 ≤ s.mesh)).map
    (fun x => (⟨m.va.toNat + (x.2 * 64), x.1, 64 * (m.ias.filter (fun y => y / 128 == x.1 / 128)).length, 0⟩, x.2))

/-- The beats that an operation is about to make, with their numbers, and what they need. -/
def nextBeats (s : State) (t : Team) (o : EngOp) : Option (Need × List (Beat × Nat)) :=
  match o.ins with
  | .cpyin .. =>
    let bs := copyBeats t o
    some (.load, beatsFrom o bs ++ (if o.pos < bs.length then [] else bs.zipIdx.filter (fun x => missedBeat s o.id x.2)))
  | .cpyout .. => some (.store, beatsFrom o (copyBeats t o))
  | .mcast .. => (s.mcasts.find? (fun m => m.op == o.id)).map (fun m => (.load, dueLines s m))
  | .tarm .. => some (.load, beatsFrom o (withIas (runBeats (o.arg 0) (o.arg 1) (t.shape (o.tiles.headD 0)).base) o.ias))
  | .voxin .. => if voxinReady s o && o.arg 3 != 1 then some (.load, beatsFrom o (voxinBeats o)) else none
  | .bevpool _ _ _ (.mem _) _ => some (.store, beatsFrom o (bevBeats o))
  | _ => none

/-- The beat or record of an operation that fails a check. -/
def failedBeat (s : State) (o : EngOp) : Option BadBeat :=
  match s.team? o.team with
  | none => none
  | some t =>
    if !opRuns s o then none
    else match nextBeats s t o with
    | some (need, bs) => beatFault s t.space need bs
    | none =>
      match traceAct o with
      | some a =>
        if !batchFree s o then none
        else match (runBatch s t o a).2.2 with
        | (.stall (.fault cause sub va ia), done) => some ⟨cause, sub, va, ia, if done then 1 else 0⟩
        | _ => none
      | none => none

/-- The page of the host agent's for which a beat waits, R369: its IA. -/
def hostBeat (s : State) (o : EngOp) : Option Nat :=
  match failedBeat s o, s.team? o.team with
  | some b, some t => if b.cause == cXLATE && b.sub == 0 && hostPage s t.space b.ia then some b.ia else none
  | _, _ => none

/-- The beat or record at which an operation stops. -/
def badBeat (s : State) (o : EngOp) : Option BadBeat := if (hostBeat s o).isSome then none else failedBeat s o

/-- A TRACE record stays at the last completed step. -/
def keepRecord (s : State) (o : EngOp) : State :=
  match s.team? o.team, traceAct o with
  | some t, some a =>
    let x := runBatch s t o a
    writeRecord x.1 o.team (o.arg 0) x.2.1
  | _, _ => s

def execEngineFault (op : Nat) (s : State) : Out :=
  event s (fun s =>
    match s.op? op with
    | some o =>
      match badBeat s o with
      | some b =>
        let s := engineFault (keepRecord s o) o b.cause b.sub b.va b.ia b.pos
        { s with pagesDeclined := s.pagesDeclined.filter (fun p => p != (((s.team? o.team).map (·.space)).getD 0, b.ia / 65536)) }
      | none => s
    | none => s)

/-! ### Rejected evictions, R371 -/

def rejected (s : State) (x : Nat × Nat × Nat) : Option Byte :=
  match (lineFate s x).2 with | .fail sub => some sub | _ => none

/-- A dirty line of a core is evicted and its leaf forbids the store. (DESIGN CHOICE, log entry 54.) -/
def execDeferredWriteFault (core : Nat) (s : State) : Out :=
  event s (fun s =>
    match (dirtyLines s [core]).find? (fun x => (rejected s x).isSome) with
    | some x => match rejected s x with | some sub => deferLine s x sub none | none => s
    | none => s)

/-! ### Memory errors, R375 -/

def sliceCounter (s : State) (n off : Nat) : State := bumpPa s (s.countPa.toNat + 8192 + 64 * n + off)

/-- An access, a beat or a fetch of a context meets an uncorrectable error: in memory or a slice (subcode 0), whose bytes meet
it again until they are rewritten, or in the banked store (1). One that no context owns is counted at its slice.
(DESIGN CHOICE, log entry 35.) -/
def execMcheck (space : Nat) (sub : Byte) (ad : DWord) (s : State) : Out :=
  event s (fun s =>
    if 1 < sub then s
    else if (s.ctx? space).isNone then sliceCounter s (hashAll 0xFF (ad.toNat / 128)) 8
    else
      stopContext (if sub = 0 && !s.badBytes.contains ad.toNat then { s with badBytes := ad.toNat :: s.badBytes } else s)
        space cMCHECK sub ad 0 0)

/-- DESIGN CHOICE, log entry 35. -/
def execSoftErrorCorrection (slice : Bool) (n : Nat) (s : State) : Out :=
  event s (fun s =>
    if 128 ≤ n then s else if slice then sliceCounter s n 0 else bumpCore s n 0x28)

/-! ### The warp timer, R381 -/

/-- The trap of a timer that has fired, taken at the warp's next issue (R301). (DEDUCED, log entry 36.) -/
def execWarpTimerFire (team warp : Nat) (s : State) : Out :=
  event s (fun s =>
    match s.team? team, s.warp? team warp with
    | some t, some w =>
      if !w.fired || w.st != .live || t.st != .running || t.saving.isSome || w.trap.isSome || !(stepLanes s t w).isEmpty then s
      else
        raiseTrap (s.modWarp team warp (fun w => { w with fired := false })) team warp
          { cause := cTIMER, sub := 0, kind := 0, lanes := w.liveMask, pc := 0, ilen := 0, insn := 0, va := 0, ia := 0
            tile := 0, regions := [] }
    | _, _ => s)

end Sys2Proof.Machine
end

