-- ==== Sys2Proof/Machine/Cecropia.lean ====
section
/-! DEFINITION. Cecropia's own events: migration (R355, R364, R414) and hotness (R358). -/

namespace Sys2Proof.Machine

/-! ### The frame pool, R414 -/

/-- 64 KiB units of a page. -/
def units (big : Bool) : Nat := if big then 32 else 1
def poolEntryPa (p : Partition) (k : Nat) : Nat := p.fpool.toNat + 8 + 4 * k

/-- The last entries of the pool, when they name one frame of the size. (DEDUCED, log entry 43.) -/
def takeFrame (s : State) (p : Partition) (big : Bool) : Option (State × Nat) :=
  let n := readPa s p.fpool.toNat 4
  let u := units big
  if p.fpool = 0 || n < u then none
  else
    let f := readPa s (poolEntryPa p (n - u)) 4
    if (List.range u).any (fun k => readPa s (poolEntryPa p (n - u + k)) 4 != f + k) || f % u != 0 then none
    else some (writePa s p.fpool.toNat 4 (n - u), 65536 * f)

/-- A frame goes back unless the pool is full. (DEDUCED, log entry 43.) -/
def returnFrame (s : State) (p : Partition) (big : Bool) (frame : Nat) : State :=
  let n := readPa s p.fpool.toNat 4
  let u := units big
  if p.fpool = 0 || readPa s (p.fpool.toNat + 4) 4 < n + u then s
  else
    let s := (List.range u).foldl (fun s k => writePa s (poolEntryPa p (n + k)) 4 (frame / 65536 + k)) s
    writePa s p.fpool.toNat 4 (n + u)

/-! ### Migration, R355 -/

/-- The leaf of an address: where it stands, the leaf, and whether it maps 2 MiB. -/
def leafOf (s : State) (space ia : Nat) : Option (Nat × BitVec 128 × Bool) :=
  match walk s space ia with | .ok x => some x | .error _ => none

def migOf (s : State) (space ia : Nat) : Option Migration :=
  s.migs.find? (fun m => m.space == space && m.page == pageOf m.big ia)
/-- PA[47:16] of a leaf. -/
def withFrame (e : BitVec 128) (frame : Nat) : BitVec 128 :=
  (e &&& ~~~(0x0000FFFFFFFF0000 : BitVec 128)) ||| BitVec.ofNat 128 (frame % 2 ^ 48)

def setStage (s : State) (m : Migration) (stage : Nat) : State :=
  { s with migs := s.migs.map (fun x => if x == m then { x with stage := stage } else x) }
def dropMig (s : State) (m : Migration) : State := { s with migs := s.migs.filter (fun x => x != m) }

/-- Every cached translation through a leaf goes, and the host agent's answers with them (R352, R363). -/
def forgetLeaf (s : State) (leafPa : Nat) : State :=
  (hostInvalidate (dropCached s (fun e => e.leafPa == leafPa)) (fun e => e.leafPa == leafPa)).1

/-- A leaf has a new frame: lines that stand dirty through it will be written there (R356). -/
def moveStored (s : State) (m : Migration) (leafPa : Nat) : State :=
  let move (e : TEntry) : TEntry :=
    if e.leafPa == leafPa && leafFrame e.leaf == m.oldFrame then { e with leaf := withFrame e.leaf m.newFrame } else e
  { s with stored := s.stored.map move }

/-- Cecropia may migrate the page: MIG = 1, no freeze, and its home is this package (R364). -/
def migrates (s : State) (leaf : BitVec 128) : Bool :=
  leafMig leaf && !leafFrz leaf && (!leafNode leaf || leafHome leaf == s.pkg.val)

def execMigrateFreeze (space ia : Nat) (s : State) : Out :=
  event s (fun s =>
    match leafOf s space ia with
    | none => s
    | some x =>
      let p := s.part space
      if !p.en || s.invWait || !migrates s x.2.1 || (migOf s space ia).isSome then s
      else match takeFrame s p x.2.2 with
      | none => s
      | some (s, f) =>
        let s := updateEntry s space x.1 (setBit (readEntry s space x.1) 59)
        forgetLeaf { s with migs := s.migs ++ [⟨space, pageOf x.2.2 ia, x.2.2, 1, leafFrame x.2.1, f⟩] } x.1)

/-- A migration whose entry another agent has meanwhile unfrozen or replaced comes to nothing. -/
def withMig (space ia stage : Nat) (f : State → Migration → Nat × BitVec 128 × Bool → State) (s : State) : State :=
  match migOf s space ia with
  | none => s
  | some m =>
    if m.stage != stage || s.invWait then s
    else match leafOf s space ia with
    | some x =>
      if leafFrz x.2.1 && x.2.2 == m.big && (leafFrame x.2.1 == m.oldFrame || 3 ≤ m.stage) then f s m x
      else returnFrame (dropMig s m) (s.part space) m.big (if 3 ≤ m.stage then m.oldFrame else m.newFrame)
    | none => returnFrame (dropMig s m) (s.part space) m.big (if 3 ≤ m.stage then m.oldFrame else m.newFrame)

/-- The frame's bytes as its owner's key reads them, at the new place. Lines under another key are turned first. -/
def copyFrame (s : State) (key : Option (BitVec 512)) (old new n : Nat) : State :=
  let inOld (a : Nat) : Bool := old ≤ a && a < old + n
  let cells := (s.mem.filter (fun c => inOld c.1)).foldl (fun m c => cset m (new + (c.1 - old)) c.2) (cclear s.mem new n)
  let tags := (s.lineKey.filter (fun k => inOld (128 * k.1))).map (fun k => ((128 * k.1 - old + new) / 128, k.2))
  let turned := tags.filter (fun k => match key with | some x => x != k.2 | none => false)
  let s' := { s with
    mem := turned.foldl (fun m k => memPut m (128 * k.1) (pread s key (128 * k.1 - new + old) 128)) cells
    lineKey := tags.map (fun k => (k.1, key.getD k.2)) ++
      s.lineKey.filter (fun k => !(new ≤ 128 * k.1 && 128 * k.1 < new + n)) }
  noMem s' new

def execMigrateCopy (space ia : Nat) (s : State) : Out :=
  event s (withMig space ia 1 (fun s m x =>
    setStage (copyFrame s (ownerKey s space x.2.1) m.oldFrame m.newFrame (65536 * units m.big)) m 2))

def execSwing (space ia : Nat) (s : State) : Out :=
  event s (withMig space ia 2 (fun s m x =>
    forgetLeaf (setStage (moveStored (updateEntry s space x.1 (withFrame x.2.1 m.newFrame)) m x.1) m 3) x.1))

def execUnfreeze (space ia : Nat) (s : State) : Out :=
  event s (withMig space ia 3 (fun s m x =>
    let s := forgetLeaf (updateEntry s space x.1 (clearBit x.2.1 59)) x.1
    returnFrame (dropMig s m) (s.part space) m.big m.oldFrame))

/-! ### Hotness, R358 -/

/-- The k-th count that waits is added to its leaf's HOT, saturating. -/
def execHotUpdate (k : Nat) (s : State) : Out :=
  event s (fun s =>
    match s.hotQ[k]? with
    | none => s
    | some (pa, n) =>
      let s := { s with hotQ := s.hotQ.eraseIdx k }
      conflictFrame (writePa s (pa + 8) 4 (min (readPa s (pa + 8) 4 + n) (2 ^ 32 - 1))) none (fun _ => true) (pa + 8) 4)

end Sys2Proof.Machine
end

