-- ==== Sys2Proof/Machine/Float.lean ====
section
/-! DEFINITION. Page 2 (R209 to R219): FP32, packed and complex arithmetic and the conversions. -/

namespace Sys2Proof.Machine

/-! ### FP32, R210 to R215 -/

/-- Source values after their modifiers, and the result after SAT. -/
def modA (m : FMod) (x : Word) : Val := modify m.aa m.na (f32 x)
def modB (m : FMod) (x : Word) : Val := modify m.ab m.nb (f32 x)
def modC (m : FMod) (x : Word) : Val := modify false m.nc (f32 x)
def satWord (sat : Bool) (x : Word) : Word := if sat then BitVec.ofNat 32 (fp32.clamp01 x.toNat) else x

def faddWord (m : FMod) (a b : Word) : Word := satWord m.sat (toF32 m.rm (sumTerms m.rm [modA m a, modB m b]))
def fsubWord (m : FMod) (a b : Word) : Word := satWord m.sat (toF32 m.rm (sumTerms m.rm [modA m a, (modB m b).neg]))
def fmulWord (m : FMod) (a b : Word) : Word := satWord m.sat (toF32 m.rm ((modA m a).mul (modB m b)))
def ffmaWord (m : FMod) (a b c : Word) : Word :=
  satWord m.sat (toF32 m.rm (sumTerms m.rm [(modA m a).mul (modB m b), modC m c]))

def execFadd (h : Hdr) (m : FMod) (d : Reg) (a : Src) (b : SrcI) (s : State) : Out :=
  pureLanes (.fadd h m d a b) h s (fun c => .done (dst1 h d (faddWord m (c.src a) (c.srcI b))))
def execFsub (h : Hdr) (m : FMod) (d : Reg) (a : Src) (b : SrcI) (s : State) : Out :=
  pureLanes (.fsub h m d a b) h s (fun c => .done (dst1 h d (fsubWord m (c.src a) (c.srcI b))))
def execFmul (h : Hdr) (m : FMod) (d : Reg) (a : Src) (b : SrcI) (s : State) : Out :=
  pureLanes (.fmul h m d a b) h s (fun c => .done (dst1 h d (fmulWord m (c.src a) (c.srcI b))))
def execFfma (h : Hdr) (m : FMod) (d : Reg) (a b : Src) (k : SrcI) (s : State) : Out :=
  pureLanes (.ffma h m d a b k) h s (fun c => .done (dst1 h d (ffmaWord m (c.src a) (c.src b) (c.srcI k))))

/-- A pattern under the modifiers. -/
def modifyWord (abs neg : Bool) (x : Word) : Word :=
  let x := if abs then x &&& 0x7FFFFFFF else x
  if neg then x ^^^ 0x80000000 else x

/-- R212: −0 is below +0, and a NaN gives way to a number. -/
def minMax (max : Bool) (x y : Word) : Word :=
  match f32 x, f32 y with
  | .nan, .nan => canonNan32
  | .nan, _ => y
  | _, .nan => x
  | p, q =>
    let xLess := match p.cmp q with
      | .lt => true
      | .gt => false
      | .eq => p.negative || !q.negative
    if xLess != max then x else y

def fminmax (max : Bool) (m : FMod) (a b : Word) : Word :=
  minMax max (modifyWord m.aa m.na a) (modifyWord m.ab m.nb b)

def execFmin (h : Hdr) (m : FMod) (d : Reg) (a : Src) (b : SrcI) (s : State) : Out :=
  pureLanes (.fmin h m d a b) h s (fun c => .done (dst1 h d (fminmax false m (c.src a) (c.srcI b))))
def execFmax (h : Hdr) (m : FMod) (d : Reg) (a : Src) (b : SrcI) (s : State) : Out :=
  pureLanes (.fmax h m d a b) h s (fun c => .done (dst1 h d (fminmax true m (c.src a) (c.srcI b))))

def execFset (h : Hdr) (cond : Cond) (rm : Rm) (pd : Fin 8) (a : Src) (b : SrcI) (s : State) : Out :=
  pureLanes (.fset h cond rm pd a b) h s (fun c => .done (dstP h pd (compareFloat cond (c.src a) (c.srcI b))))
def execFcls (h : Hdr) (d : Reg) (a : Src) (s : State) : Out :=
  pureLanes (.fcls h d a) h s (fun c => .done (dst1 h d (floatClass (c.src a))))

/-- Rounding to an integer-valued number; a zero result keeps the sign. -/
def frndVal (rm : Rm) : Val → Val
  | .fin neg m e => .fin neg (roundInt rm neg m e) 0
  | v => v

def execFrnd (h : Hdr) (m : FMod) (d : Reg) (a : Src) (s : State) : Out :=
  pureLanes (.frnd h m d a) h s (fun c =>
    .done (dst1 h d (satWord m.sat (toF32 .rn (frndVal m.rm (modA m (c.src a)))))))

/-- A scaling beyond ±1000 binades rounds as one of 1000 does. -/
def fscaleVal (v : Val) (n : Word) : Val := v.scale (max (-1000) (min n.toInt 1000))

def execFscale (h : Hdr) (m : FMod) (d : Reg) (a : Src) (b : SrcI) (s : State) : Out :=
  pureLanes (.fscale h m d a b) h s (fun c =>
    .done (dst1 h d (satWord m.sat (toF32 m.rm (fscaleVal (modA m (c.src a)) (c.srcI b))))))

/-! ### Conversions, R216, R217 -/

def elemCode : ElemTy → Nat
  | .bf16 => 1 | .f16 => 2 | .e4m3 => 3 | .e5m2 => 4 | .e3m2 => 5 | .e2m3 => 6 | .e2m1 => 7 | .mxi8 => 8

def fcvtWord (toF : Bool) (ty : ElemTy) (sat : Bool) (rm : Rm) (x : Word) : Word :=
  if toF then toF32 .rn (elemVal (elemCode ty) x.toNat)
  else BitVec.ofNat 32 (convElem 0 (elemCode ty) rm sat (f32 x))

def execFcvt (h : Hdr) (toF : Bool) (ty : ElemTy) (sat : Bool) (rm : Rm) (d : Reg) (a : Src) (s : State) : Out :=
  pureLanes (.fcvt h toF ty sat rm d a) h s (fun c => .done (dst1 h d (fcvtWord toF ty sat rm (c.src a))))

def fmtF : FTy → Fmt | .f32 => fp32 | .f16 => fp16 | .bf16 => bf16
/-- Bounds of an integer type. -/
def itLo : ITy → Int | .s8 => -128 | .u8 => 0 | .s16 => -32768 | .s32 => -(2 ^ 31) | .u32 => 0 | .s64 => -(2 ^ 63)
def itHi : ITy → Int
  | .s8 => 127 | .u8 => 255 | .s16 => 32767 | .s32 => 2 ^ 31 - 1 | .u32 => 2 ^ 32 - 1 | .s64 => 2 ^ 63 - 1
/-- The integer that a source holds. -/
def itRead (it : ITy) (x : Nat) : Int :=
  match it with
  | .s8 => signedNat x 8 | .u8 => (x % 256 : Nat) | .s16 => signedNat x 16
  | .s32 => signedNat x 32 | .u32 => (x % 2 ^ 32 : Nat) | .s64 => signedNat x 64

def toFloat (ft : FTy) (rm : Rm) (n : Int) : Word := BitVec.ofNat 32 ((fmtF ft).round rm (.ofInt n))
def toInteger (ft : FTy) (it : ITy) (rm : Rm) (x : Word) : Int :=
  toIntSat rm (itLo it) (itHi it) ((fmtF ft).decode (x.toNat % 2 ^ (fmtF ft).width))

def execIcvt (h : Hdr) (toInt : Bool) (ft : FTy) (it : ITy) (rm : Rm) (d : Reg) (a : Src) (s : State) : Out :=
  pureLanes (.icvt h toInt ft it rm d a) h s (fun c =>
    if toInt then
      let i := toInteger ft it rm (c.src a)
      if it == .s64 then .done (dst2 h d (BitVec.ofInt 64 i)) else .done (dst1 h d (BitVec.ofInt 32 i))
    else
      let x := if it == .s64 then (c.pair a).toNat else (c.src a).toNat
      .done (dst1 h d (toFloat ft rm (itRead it x))))

/-! ### Packed halves, R218 -/

/-- One 16-bit half from the halves of the sources. -/
def halves (f : Fmt) (sat : Bool) (op : List Val → Val) (rm : Rm) (negs : List Bool) (xs : List Word) : Word :=
  let half (k : Nat) : Nat :=
    let vs := xs.map (fun (x : Word) => f.decode (x.toNat / 2 ^ (16 * k) % 65536))
    let r := f.round rm (op ((vs.zip negs).map (fun x => modify false x.2 x.1)))
    if sat then f.clamp01 r else r
  BitVec.ofNat 32 (half 0 + 65536 * half 1)

def opFma (rm : Rm) : List Val → Val
  | [x, y, z] => sumTerms rm [x.mul y, z]
  | _ => .nan
def opMul : List Val → Val
  | [x, y] => x.mul y
  | _ => .nan

def execHfma2 (h : Hdr) (m : FMod) (d : Reg) (a b k : Src) (s : State) : Out :=
  pureLanes (.hfma2 h m d a b k) h s (fun c =>
    .done (dst1 h d (halves fp16 m.sat (opFma m.rm) m.rm [m.na, m.nb, m.nc] [c.src a, c.src b, c.src k])))
def execHadd2 (h : Hdr) (m : FMod) (d : Reg) (a b : Src) (s : State) : Out :=
  pureLanes (.hadd2 h m d a b) h s (fun c =>
    .done (dst1 h d (halves fp16 m.sat (sumTerms m.rm) m.rm [m.na, m.nb] [c.src a, c.src b])))
def execHmul2 (h : Hdr) (m : FMod) (d : Reg) (a b : Src) (s : State) : Out :=
  pureLanes (.hmul2 h m d a b) h s (fun c =>
    .done (dst1 h d (halves fp16 m.sat opMul m.rm [m.na, m.nb] [c.src a, c.src b])))
def execBfma2 (h : Hdr) (m : FMod) (d : Reg) (a b k : Src) (s : State) : Out :=
  pureLanes (.bfma2 h m d a b k) h s (fun c =>
    .done (dst1 h d (halves bf16 m.sat (opFma m.rm) m.rm [m.na, m.nb, m.nc] [c.src a, c.src b, c.src k])))

/-! ### Complex CF32, R104, R105, R219 -/

/-- A CF32 value: real and imaginary part. -/
structure Cplx where
  re : Val
  im : Val
deriving DecidableEq, Repr

def cplxOf (conj neg : Bool) (x : DWord) : Cplx :=
  let re := f32 (x.extractLsb' 0 32)
  let im := f32 (x.extractLsb' 32 32)
  let im := if conj then im.neg else im
  if neg then ⟨re.neg, im.neg⟩ else ⟨re, im⟩

def Cplx.isNan (x : Cplx) : Bool := x.re.isNan || x.im.isNan

/-- Both parts from their terms; any NaN part of an input makes both CanonNaN. -/
def cplxResult (rm : Rm) (nan : Bool) (re im : List Val) : DWord :=
  if nan then canonNan32 ++ canonNan32
  else toF32 rm (sumTerms rm im) ++ toF32 rm (sumTerms rm re)

def cmulTerms (x y : Cplx) : List Val × List Val :=
  ([x.re.mul y.re, (x.im.mul y.im).neg], [x.re.mul y.im, x.im.mul y.re])

def caddPair (m : FMod) (sub : Bool) (a b : DWord) : DWord :=
  let x := cplxOf m.aa m.na a
  let y := cplxOf m.ab m.nb b
  let y := if sub then (⟨y.re.neg, y.im.neg⟩ : Cplx) else y
  cplxResult m.rm (x.isNan || y.isNan) [x.re, y.re] [x.im, y.im]
def cmulPair (m : FMod) (a b : DWord) : DWord :=
  let x := cplxOf m.aa m.na a
  let y := cplxOf m.ab m.nb b
  cplxResult m.rm (x.isNan || y.isNan) (cmulTerms x y).1 (cmulTerms x y).2
def cfmaPair (m : FMod) (a b c : DWord) : DWord :=
  let x := cplxOf m.aa m.na a
  let y := cplxOf m.ab m.nb b
  let z := cplxOf false m.nc c
  cplxResult m.rm (x.isNan || y.isNan || z.isNan) ((cmulTerms x y).1 ++ [z.re]) ((cmulTerms x y).2 ++ [z.im])
def cmag2Word (m : FMod) (a : DWord) : Word :=
  let x := cplxOf m.aa m.na a
  if x.isNan then canonNan32 else toF32 m.rm (sumTerms m.rm [x.re.mul x.re, x.im.mul x.im])
def cscalePair (m : FMod) (a : DWord) (b : Word) : DWord :=
  let x := cplxOf m.aa m.na a
  let y := modB m b
  cplxResult m.rm (x.isNan || y.isNan) [x.re.mul y] [x.im.mul y]

def execCadd (h : Hdr) (m : FMod) (d : Reg) (a b : Src) (s : State) : Out :=
  pureLanes (.cadd h m d a b) h s (fun c => .done (dst2 h d (caddPair m false (c.pair a) (c.pair b))))
def execCsub (h : Hdr) (m : FMod) (d : Reg) (a b : Src) (s : State) : Out :=
  pureLanes (.csub h m d a b) h s (fun c => .done (dst2 h d (caddPair m true (c.pair a) (c.pair b))))
def execCmul (h : Hdr) (m : FMod) (d : Reg) (a b : Src) (s : State) : Out :=
  pureLanes (.cmul h m d a b) h s (fun c => .done (dst2 h d (cmulPair m (c.pair a) (c.pair b))))
def execCfma (h : Hdr) (m : FMod) (d : Reg) (a b k : Src) (s : State) : Out :=
  pureLanes (.cfma h m d a b k) h s (fun c => .done (dst2 h d (cfmaPair m (c.pair a) (c.pair b) (c.pair k))))
def execCmag2 (h : Hdr) (m : FMod) (d : Reg) (a : Src) (s : State) : Out :=
  pureLanes (.cmag2 h m d a) h s (fun c => .done (dst1 h d (cmag2Word m (c.pair a))))
def execCscale (h : Hdr) (m : FMod) (d : Reg) (a : Src) (b : SrcI) (s : State) : Out :=
  pureLanes (.cscale h m d a b) h s (fun c => .done (dst2 h d (cscalePair m (c.pair a) (c.srcI b))))

end Sys2Proof.Machine
end

