-- ==== Sys2Proof/Machine/HostLink.lean ====
section
/-! DEFINITION. The host control block (R404, R405), partitions (R406, R408), bring-up and attestation (R409, R413), the
messages of the Crazer Link (R363, R415) and the ports of the Beliz Fabric (R416). -/

namespace Sys2Proof.Machine

/-! ### Reset and bring-up, R404, R409 -/

/-- The state after a reset, with what is not lost: memory, its errors and enciphering, what the other packages hold, and the
failed ports. -/
def afterReset (s : State) : State :=
  { State.reset with
    mem := s.mem, badBytes := s.badBytes, lineKey := s.lineKey, peerKeys := s.peerKeys, ports := s.ports, pkg := s.pkg, tape := s.tape
    serial := s.serial, freeCtr := s.freeCtr, halt := s.halt }

/-- DEDUCED, log entry 41. -/
def execPkgrst (s : State) : Out := event s afterReset
/-- Power comes on: memory holds nothing that was written. (DESIGN CHOICE, log entry 4.)
(DEDUCED, log entry 41.) -/
def execPowerOn (s : State) : Out := event s (fun s => { afterReset s with mem := [], badBytes := [], lineKey := [] })

/-- The link trains, and FWLOAD is entered at once. -/
def execLinkTraining (s : State) : Out :=
  event s (fun s => if s.stage == .reset then { s with stage := .fwload } else s)

def hasImage (s : State) (ty : Nat) : Bool := s.images.any (fun x => x.1 == ty)
def failWith (s : State) (code : Byte) : State := { s with stage := .failed, failCode := code }

/-- Cecropia, once loaded, trains and tests the stacks; one of them may fail. -/
def execMemoryTraining (failed : Option (Fin 8)) (s : State) : Out :=
  event s (fun s =>
    if s.stage == .fwload && hasImage s 2 then
      (match failed with | none => { s with stage := .memready } | some n => failWith s (0x10 + BitVec.ofNat 8 n.val))
    else s)

def cmdOp (s : State) : Nat := s.fwCmd.toNat % 16
def cmdType (s : State) : Nat := s.fwCmd.toNat / 16 % 16

/-- Header, body and signature as FWBUF holds them; none for an image that does not fit or whose header has another
field set. -/
def stagedImage (s : State) : Option (List Byte × List Byte) :=
  let len := readLE s.fwBuf 8 4
  if 32768 < 64 + len + 4627 || (cread s.fwBuf 12 52).any (· != 0) then none
  else some (cread s.fwBuf 0 (64 + len), cread s.fwBuf (64 + len) 4627)

/-- The order of the images: the governor and Cecropia in FWLOAD, Hawkmoth in MEMREADY. -/
def loadTurn (s : State) (ty : Nat) : Bool :=
  match ty with
  | 1 => s.stage == .fwload && !hasImage s 1
  | 2 => s.stage == .fwload && hasImage s 1 && !hasImage s 2
  | 3 => s.stage == .memready
  | _ => false

def digest (bs : List Byte) : BitVec 512 := BitVec.ofNat 512 (leNat (sha3 bs))

/-- The staged image is verified and loaded; its failures in the order of their codes. -/
def loadImage (s : State) : State :=
  let ty := cmdType s
  match stagedImage s with
  | none => failWith s 1
  | some (im, sig) =>
    if !Config.signatureOk (im ++ sig) then failWith s 1
    else if leNat (im.take 4) != ty || !loadTurn s ty then failWith s 2
    else if leNat ((im.drop 4).take 4) < Config.versionFloor ty then failWith s 3
    else { s with images := s.images ++ [(ty, digest im)], stage := if ty = 3 then .ready else s.stage }

/-- DEDUCED, log entry 40. -/
def execLoad (s : State) : Out :=
  event s (fun s =>
    if cmdOp s != 1 then s
    else if s.stage == .fwload || s.stage == .memready then { loadImage s with fwCmd := 0 }
    else { s with fwCmd := 0 })

/-! ### Attestation, R413 -/

def partWord : Nat := 0x0D08 * 65536 + Config.stepping.toNat * 256

/-- A partition descriptor as the host reads it. (DEDUCED, log entry 60.) -/
def partBytes (p : Partition) : List Byte :=
  leBytes 4 (p.secmask.toNat + (if p.en then 2 ^ 31 else 0)) ++ leBytes 4 (p.qfirst + p.qlast * 65536) ++
  leBytes 8 p.sptbase.toNat ++ leBytes 8 p.fpool.toNat ++ leBytes 8 p.membase.toNat ++ leBytes 8 p.memlim.toNat ++
  leBytes 8 p.pstat ++ leBytes 16 p.ctxt.toNat

def measurement (s : State) (ty : Nat) : List Byte :=
  leBytes 64 (match s.images.find? (fun x => x.1 == ty) with | some x => x.2.toNat | none => 0)

def report (s : State) : List Byte :=
  leBytes 64 partWord ++ cread s.fwBuf 0 64 ++ measurement s 1 ++ measurement s 2 ++ measurement s 3 ++
  s.parts.flatMap partBytes ++ leBytes 8 s.clock.toNat

/-- DEDUCED, log entry 40. -/
def execAttest (s : State) : Out :=
  event s (fun s =>
    if cmdOp s != 2 then s
    else
      let r := report s
      let sig := (List.range 4627).map (Config.identitySig (sha3 r))
      { s with fwBuf := memPut s.fwBuf 0x1000 (r ++ sig), fwCmd := 0 })

/-! ### Fields of the control block, R404, R405 -/

/-- LO waits for HI; a HI write installs both halves. -/
def pendLo (s : State) (off : Nat) (x : Word) : State :=
  { s with hcbLo := (off, x) :: s.hcbLo.filter (fun y => y.1 != off) }
def takeLo (s : State) (off : Nat) (old : DWord) : Word :=
  match s.hcbLo.find? (fun y => y.1 == off) with | some y => y.2 | none => old.extractLsb' 0 32
def joinHi (s : State) (off : Nat) (old : DWord) (x : Word) : DWord := x ++ takeLo s (off - 4) old

/-- A PA that must be a multiple of 64 KiB; any other value is reserved. -/
def granulePa (old new : DWord) : DWord := if new.toNat % 65536 = 0 && new.toNat < 2 ^ 48 then new else old

def State.modPart (s : State) (p : Nat) (f : Partition → Partition) : State := { s with parts := s.parts.modify p f }
def partAt (s : State) (p : Nat) : Partition := (s.parts[p]?).getD Partition.off

/-- A word of a partition descriptor but for EN. (DEDUCED, log entry 39.) -/
def partWrite (s : State) (p o : Nat) (x : Word) : State :=
  let q := partAt s p
  let off := 0x100 + 64 * p + o
  if q.en then s
  else match o with
  | 0 => s.modPart p (fun q => { q with secmask := x.setWidth 8 })
  | 4 => s.modPart p (fun q => { q with qfirst := x.toNat % 1024, qlast := x.toNat / 65536 % 1024 })
  | 0x08 | 0x10 | 0x30 => pendLo s off x
  | 0x0C => s.modPart p (fun q => { q with sptbase := joinHi s off q.sptbase x })
  | 0x14 => s.modPart p (fun q => { q with fpool := joinHi s off q.fpool x })
  | 0x34 => s.modPart p (fun q => { q with ctxt := joinHi s off q.ctxt x })
  | 0x18 => s.modPart p (fun q => { q with membase := x.setWidth 64 })
  | 0x20 => s.modPart p (fun q => { q with memlim := x.setWidth 64 })
  | _ => s

/-- Commands that FWCMD holds; another value is reserved. -/
def cmdValue (x : Word) : Bool :=
  x = 0 || (x.toNat < 256 && (x.toNat % 16 = 2 || (x.toNat % 16 = 1 && 1 ≤ x.toNat / 16 && x.toNat / 16 ≤ 3)) && x.toNat / 16 ≤ 3)

def hcbPut (s : State) (off : Nat) (x : Word) : State :=
  if off % 4 != 0 then s
  else if 0x8000 ≤ off then { s with fwBuf := memPut s.fwBuf (off - 0x8000) (leBytes 4 x.toNat) }
  else if 0x100 ≤ off && off < 0x300 then partWrite s ((off - 0x100) / 64) (off % 64) x
  else match off with
  | 0x0C => if cmdValue x then { s with fwCmd := x } else s
  | 0x10 | 0x18 => pendLo s off x
  | 0x14 => { s with countPa := granulePa s.countPa (joinHi s off s.countPa x) }
  | 0x1C => { s with qTable := granulePa s.qTable (joinHi s off s.qTable x) }
  | _ => s

/-- DEDUCED, log entry 39. -/
def execHcbWrite (off : BitVec 16) (x : Word) (s : State) : Out := event s (fun s => hcbPut s off.toNat x)

def execHeavybWrite (x : Word) (s : State) : Out :=
  event s (fun s => if 64 ≤ x.toNat && x.toNat ≤ 2064 then { s with heavyB := x } else s)

/-- STAGE of R404. -/
def Stage.code : Stage → Nat
  | .reset => 0 | .link => 1 | .fwload => 2 | .memready => 3 | .ready => 4 | .failed => 5

/-- The word that a host reads at an offset of the control block. A read changes nothing, so that it is no step; a field that is
WO or RSV, and every offset that is not listed, reads zero (R14, R404). (DEDUCED, log entry 60.) -/
def hcbRead (s : State) (off : Nat) : Word :=
  let half (x : DWord) : Word := x.extractLsb' (if off % 8 = 0 then 0 else 32) 32
  if off % 4 != 0 || 0x10000 ≤ off then 0
  else if 0x8000 ≤ off then BitVec.ofNat 32 (readLE s.fwBuf (off - 0x8000) 4)
  else if 0x100 ≤ off && off < 0x300 then
    BitVec.ofNat 32 (leNat (((partBytes (partAt s ((off - 0x100) / 64))).drop (off % 64)).take 4))
  else match off with
  | 0x00 => BitVec.ofNat 32 partWord
  | 0x04 => BitVec.ofNat 32 (s.failCode.toNat * 256 + s.stage.code)
  | 0x0C => s.fwCmd
  | 0x10 | 0x14 => half s.countPa
  | 0x18 | 0x1C => half s.qTable
  | 0x20 => s.heavyB
  | _ => 0

/-! ### Partitions, R406, R408 -/

/-- Two partitions share a sector, a queue or memory; a range whose last is below its first holds nothing. -/
def partOverlap (a b : Partition) : Bool :=
  (a.secmask &&& b.secmask) != 0 || max a.qfirst b.qfirst ≤ min a.qlast b.qlast ||
  max a.membase.toNat b.membase.toNat ≤ min a.memlim.toNat b.memlim.toNat

def partBad (q : Partition) : Bool :=
  q.secmask == 0 || q.qlast < q.qfirst || q.sptbase.toNat % 2 ^ 20 != 0 || q.ctxt.toNat % 65536 != 0 ||
  q.memlim.toNat < q.membase.toNat

/-- PSTAT of an attempt to enable: 1 ON, 2 CONFLICT, 3 BADFIELD. -/
def enableStat (s : State) (p : Nat) : Nat :=
  let q := partAt s p
  if s.parts.zipIdx.any (fun x => x.2 != p && x.1.en && partOverlap q x.1) then 2
  else if partBad q || s.stage != .ready then 3 else 1

/-- EN := 1. A partition whose contexts still stop gives up its keys first and serves no queue until it has (R408). What was
translated under an earlier window is walked afresh (R407). -/
def execPartitionEnable (p : Fin 8) (s : State) : Out :=
  event s (fun s =>
    if (partAt s p.val).en then s
    else
      let s := settleParts s
      let r := enableStat s p.val
      let s := dropCached s (fun e => r == 1 && e.space / 65536 == p.val)
      s.modPart p.val (fun q => { q with pstat := r, en := r = 1, closing := q.closing && (r != 1 || stopsIn s p.val) }))

/-- EN := 0, and what follows it: once its contexts are stopped the partition gives up its keys, and it is OFF when no team of
it is placed. The stop records hold MCHECK, subcode 0, at address 0 (DESIGN CHOICE, log entry 68). -/
def execPartitionDisable (p : Fin 8) (s : State) : Out :=
  event s (fun s =>
    if (partAt s p.val).en then
      let spaces := (s.ctxs.map (·.space)).filter (fun x => x / 65536 == p.val)
      let s := s.modPart p.val (fun q => { q with en := false, closing := true })
      settleParts (spaces.foldl (fun s x => stopContext s x cMCHECK 0 0 0 0) s)
    else settleParts s)

/-! ### Translation for the host, R363, R415 -/

def hostUnified (s : State) (space ia : Nat) : Bool :=
  match s.ctx? space with | some c => unified c ia | none => false

/-- Cecropia answers with the page's translation, or with a subcode; none while the page is frozen or an invalidation is on its
way. -/
def hostAnswer (s : State) (space ia : Nat) (write : Bool) : Option State :=
  let need : Need := if write then .store else .load
  if s.invWait then none
  else match translate s space ia need false with
  | (s, .ok t) =>
    let leaf := setBit t.leaf 61
    let leaf := if write then setBit leaf 60 else leaf
    some { s with link := s.link ++ [.xrsp space ia (some ⟨space, pageOf t.big ia, t.big, t.leafPa, leaf, 0⟩) 0] }
  | (_, .frozen _) => none
  | (s, .fail sub) => some { s with link := s.link ++ [.xrsp space ia none sub] }

/-- A request for a page of a unified range; the answer may come later. -/
def execXreq (space ia : Nat) (write : Bool) (s : State) : Out :=
  event s (fun s =>
    if hostUnified s space ia then (hostAnswer s space ia write).getD { s with link := s.link ++ [.xreq space ia write] } else s)

/-- The requests that had no answer are answered as soon as they can be. -/
def answerHeld (s : State) : State :=
  s.link.foldl (fun s m =>
    match m with
    | .xreq space ia write => (hostAnswer { s with link := s.link.erase m } space ia write).getD s
    | _ => s) s

def isXrsp : LinkMsg → Bool | .xrsp .. => true | _ => false
def isPreq : LinkMsg → Bool | .preq .. => true | _ => false
def isInv : LinkMsg → Bool | .inv .. => true | _ => false

def execXrsp (s : State) : Out :=
  event s (fun s =>
    match s.link.find? isXrsp with
    | some (.xrsp _ _ ans _) =>
      let s := { s with link := s.link.eraseP isXrsp }
      match ans with
      | some e => { s with hostCache := e :: s.hostCache.filter (fun x => !(x.space == e.space && x.page == e.page)) }
      | none => s
    | _ => s)

/-- The page of a faulted access that a page-fault save would resolve, or of a beat that waits, is asked for, R369. -/
def execPreq (space ia : Nat) (s : State) : Out :=
  event s (fun s =>
    let of (team : Nat) : Bool := ((s.team? team).map (·.space)) == some space
    if s.accs.any (fun a => savedFault s a && a.fault == some (cXLATE, 0) && a.ia / 65536 == ia / 65536 && of a.team) ||
       s.ops.any (fun o => of o.team && (hostBeat s o).map (· / 65536) == some (ia / 65536))
    then askPage s space ia else s)

/-- The host's answer to the oldest request: saved teams no longer wait for the page, and a declined page's fault will
reach its handler. (DEDUCED, log entry 47.) -/
def execPrsp (accept : Bool) (s : State) : Out :=
  event s (fun s =>
    match s.link.find? isPreq with
    | some (.preq space ia) =>
      let page := ia / 65536
      let s := { s with
        link := s.link.eraseP isPreq
        teams := s.teams.map (fun t => if t.space == space then { t with pages := t.pages.filter (· != page) } else t)
        pagesDeclined := (if accept then [] else [(space, page)]) ++ s.pagesDeclined.filter (fun x => x != (space, page)) }
      if accept then { dropTranslations s with hostCache := [] } else s
    | _ => s)

/-- DEDUCED, log entry 46. -/
def execInv (s : State) : Out :=
  event s (fun s =>
    match s.link.find? isInv with
    | some (.inv space page) =>
      { s with link := s.link.eraseP isInv, hostCache := s.hostCache.filter (fun e => !(e.space == space && e.page == page)) }
    | _ => s)

def execInvack (s : State) : Out :=
  event s (fun s => if s.invWait && !s.link.any isInv then { s with invWait := false } else s)

/-! ### The host's accesses, R363 -/

def hostEntry (s : State) (space ia : Nat) : Option TEntry :=
  s.hostCache.find? (fun e => e.space == space && e.page == pageOf e.big ia)

/-- A word that the host agent reads or writes through an answer that it holds; the key is that of now (R412). -/
def execHostAccess (space ia : Nat) (write : Option Word) (s : State) : Out :=
  event s (fun s =>
    match hostEntry s space ia, write with
    | some e, some x =>
      if ia % 4 != 0 || !leafW e.leaf || !leafD e.leaf || (ownerKey s space e.leaf).isNone || unreachable s e.leaf then s
      else
        let off := if e.big then ia % 2 ^ 21 else ia % 65536
        let home := if leafNode e.leaf then leafHome e.leaf else s.pkg.val
        memStore s none Config.cores false space ia (leBytes 4 x.toNat)
          ⟨physKey s home (leafFrame e.leaf + off), e.leafPa, e.leaf, e.big⟩
    | _, _ => s)

/-! ### What happens of itself, R45, R82, R190, R364 -/

/-- A holder of dirty lines gives up a line of a space: what is dirty in it is written back, and a TRY that holds the line in
the read set which that L1 tracks aborts with OVERFLOW (R190). (DESIGN CHOICE, log entry 54.) -/
def evictLine (s : State) (holder space line : Nat) : State :=
  let dirty := s.l1.any (fun d => d.core == holder && d.space == space && d.ia / 128 == line)
  let r := if dirty then writeBackLine s (holder, space, line) else (s, .ok)
  match r with
  | (_, .wait) => s
  | (_, .fail sub) => deferLine s (holder, space, line) sub none
  | (s, .ok) =>
    let hit (t : Team) (x : Warp × Nat) : Bool :=
      0 < x.1.tx.depth && t.space == space && x.1.tx.readLines.contains line && t.l1Core (line * 128) == holder
    (s.teams.flatMap (fun t => (t.warps.zipIdx.filter (hit t)).map (fun x => (t.uid, x.2)))).foldl
      (fun s v => abortTry s v.1 v.2 3 0 0) s

/-- The two counters of R45 advance. -/
def powerCount (s : State) (core evictions gated : Nat) : State :=
  let add (s : State) (off n : Nat) : State :=
    let pa := s.countPa.toNat + 64 * core + off
    if n = 0 then s else writePa s pa 8 ((readPa s pa 8 + n) % 2 ^ 64)
  if Config.cores ≤ core then s else add (add s 0x18 evictions) 0x20 gated

/-- What another package does that this one meets. A byte that it writes in memory of the node stands under the key of its
line. (DESIGN CHOICE, log entry 70.) -/
def peerActs (s : State) (p : Peer) : State :=
  match p with
  | .key pkg space key =>
    if pkg = s.pkg.val then s
    else { s with peerKeys := (match key with | some k => [(pkg, ⟨space, k⟩)] | none => []) ++
        s.peerKeys.filter (fun k => !(k.1 == pkg && k.2.space == space)) }
  | .invalidate pkg frame =>
    let mine (e : TEntry) : Bool := leafNode e.leaf && leafHome e.leaf == pkg && leafFrame e.leaf == frame
    if pkg = s.pkg.val then s else (hostInvalidate (dropCached s mine) mine).1
  | .write pkg pa b =>
    let a := physKey s pkg pa
    if 2 ^ 39 ≤ pa then s else conflictFrame (pwrite s (lineKeyOf s a) a [b]) none (fun _ => true) a 1

/-! ### The fabric, R416 -/

def execFabricPortFailure (peer : Fin 8) (port : Fin 2) (s : State) : Out :=
  event s (fun s =>
    if s.ports.contains (peer.val, port.val) || peer == s.pkg then s
    else { s with ports := s.ports ++ [(peer.val, port.val)] })

end Sys2Proof.Machine
end

