-- ==== Sys2Proof/Machine/Int.lean ====
section
/-! DEFINITION. Page 1 (R197 to R208): integer arithmetic, bits and fields, compare, select and moves. -/

namespace Sys2Proof.Machine

/-! ### Narrowing, R12 -/

/-- SatS of R12: the nearest value of n-bit two's complement. -/
def satS (x : Int) (n : Nat) : Int := max (-(2 ^ (n - 1))) (min x (2 ^ (n - 1) - 1))
/-- SatU of R12. -/
def satU (x : Int) (n : Nat) : Int := max 0 (min x (2 ^ n - 1))
def wrap32 (x : Int) : Word := BitVec.ofInt 32 x
/-- A 32-bit value as S or as Z. -/
def intOf (u : Bool) (x : Word) : Int := if u then x.toNat else x.toInt

/-! ### Integer arithmetic, R201 to R203 -/

/-- IADD and ISUB. -/
def addSat (sat u : Bool) (a b : Word) (sub : Bool) : Word :=
  let x := intOf u a
  let y := intOf u b
  let r := if sub then x - y else x + y
  if !sat then (if sub then a - b else a + b) else if u then wrap32 (satU r 32) else wrap32 (satS r 32)

def execIadd (h : Hdr) (sat u : Bool) (d : Reg) (a : Src) (b : SrcI) (s : State) : Out :=
  pureLanes (.iadd h sat u d a b) h s (fun c => .done (dst1 h d (addSat sat u (c.src a) (c.srcI b) false)))
def execIsub (h : Hdr) (sat u : Bool) (d : Reg) (a : Src) (b : SrcI) (s : State) : Out :=
  pureLanes (.isub h sat u d a b) h s (fun c => .done (dst1 h d (addSat sat u (c.src a) (c.srcI b) true)))
def execImul (h : Hdr) (d : Reg) (a : Src) (b : SrcI) (s : State) : Out :=
  pureLanes (.imul h d a b) h s (fun c => .done (dst1 h d (c.src a * c.srcI b)))

/-- The full 64-bit product of two 32-bit values. -/
def mul64 (u : Bool) (a b : Word) : DWord := BitVec.ofInt 64 (intOf u a * intOf u b)

def execImulh (h : Hdr) (u : Bool) (d : Reg) (a : Src) (b : SrcI) (s : State) : Out :=
  pureLanes (.imulh h u d a b) h s (fun c => .done (dst1 h d ((mul64 u (c.src a) (c.srcI b)).extractLsb' 32 32)))
def execImad (h : Hdr) (d : Reg) (a b : Src) (c' : SrcI) (s : State) : Out :=
  pureLanes (.imad h d a b c') h s (fun c => .done (dst1 h d (c.src a * c.src b + c.srcI c')))

def execIadd64 (h : Hdr) (sub : Bool) (d : Reg) (a : Src) (b : Src64) (s : State) : Out :=
  pureLanes (.iadd64 h sub d a b) h s (fun c =>
    let y := match b with | .reg r => c.pair r | .imm x => x
    .done (dst2 h d (if sub then c.pair a - y else c.pair a + y)))
def execImul64 (h : Hdr) (w u : Bool) (d : Reg) (a b : Src) (s : State) : Out :=
  pureLanes (.imul64 h w u d a b) h s (fun c =>
    .done (dst2 h d (if w then mul64 u (c.src a) (c.src b) else c.pair a * c.pair b)))

/-- Quotient and remainder of R202 for a divisor that may be 0. -/
def divRem (u : Bool) (a b : Word) : Word × Word :=
  if b = 0 then (0xFFFFFFFF, a)
  else
    let n := intOf u a
    let d := intOf u b
    (wrap32 (n.tdiv d), wrap32 (n.tmod d))

def execIdiv (h : Hdr) (tz u : Bool) (d : Reg) (a : Src) (b : SrcI) (s : State) : Out :=
  pureLanes (.idiv h tz u d a b) h s (fun c =>
    if tz && c.srcI b == 0 then trapped cARITH 0 else .done (dst1 h d (divRem u (c.src a) (c.srcI b)).1))
def execIrem (h : Hdr) (tz u : Bool) (d : Reg) (a : Src) (b : SrcI) (s : State) : Out :=
  pureLanes (.irem h tz u d a b) h s (fun c =>
    if tz && c.srcI b == 0 then trapped cARITH 0 else .done (dst1 h d (divRem u (c.src a) (c.srcI b)).2))

def execImin (h : Hdr) (u : Bool) (d : Reg) (a : Src) (b : SrcI) (s : State) : Out :=
  pureLanes (.imin h u d a b) h s (fun c =>
    .done (dst1 h d (if intOf u (c.src a) ≤ intOf u (c.srcI b) then c.src a else c.srcI b)))
def execImax (h : Hdr) (u : Bool) (d : Reg) (a : Src) (b : SrcI) (s : State) : Out :=
  pureLanes (.imax h u d a b) h s (fun c =>
    .done (dst1 h d (if intOf u (c.src a) ≤ intOf u (c.srcI b) then c.srcI b else c.src a)))

/-- The absolute value, which wraps at −2^31 unless it saturates. -/
def absWord (sat : Bool) (a : Word) : Word :=
  let x := a.toInt.natAbs
  if sat then wrap32 (satS x 32) else BitVec.ofNat 32 x

def execIabs (h : Hdr) (sat : Bool) (d : Reg) (a : Src) (s : State) : Out :=
  pureLanes (.iabs h sat d a) h s (fun c => .done (dst1 h d (absWord sat (c.src a))))

/-! ### Bits and fields, R204 and R205 -/

def execAnd (h : Hdr) (d : Reg) (a : Src) (b : SrcI) (s : State) : Out :=
  pureLanes (.and h d a b) h s (fun c => .done (dst1 h d (c.src a &&& c.srcI b)))
def execOr (h : Hdr) (d : Reg) (a : Src) (b : SrcI) (s : State) : Out :=
  pureLanes (.or h d a b) h s (fun c => .done (dst1 h d (c.src a ||| c.srcI b)))
def execXor (h : Hdr) (d : Reg) (a : Src) (b : SrcI) (s : State) : Out :=
  pureLanes (.xor h d a b) h s (fun c => .done (dst1 h d (c.src a ^^^ c.srcI b)))
def execAndn (h : Hdr) (d : Reg) (a : Src) (b : SrcI) (s : State) : Out :=
  pureLanes (.andn h d a b) h s (fun c => .done (dst1 h d (c.src a &&& ~~~c.srcI b)))

def shlWord (a b : Word) : Word := if b.toNat < 32 then a <<< b.toNat else 0
def shrWord (a b : Word) : Word := if b.toNat < 32 then a >>> b.toNat else 0
/-- A shift of 32 or more fills with the sign. -/
def sarWord (a b : Word) : Word := a.sshiftRight (min b.toNat 31)
def rotlWord (a b : Word) : Word := a.rotateLeft (b.toNat % 32)

def execShl (h : Hdr) (d : Reg) (a : Src) (b : SrcI) (s : State) : Out :=
  pureLanes (.shl h d a b) h s (fun c => .done (dst1 h d (shlWord (c.src a) (c.srcI b))))
def execShr (h : Hdr) (d : Reg) (a : Src) (b : SrcI) (s : State) : Out :=
  pureLanes (.shr h d a b) h s (fun c => .done (dst1 h d (shrWord (c.src a) (c.srcI b))))
def execSar (h : Hdr) (d : Reg) (a : Src) (b : SrcI) (s : State) : Out :=
  pureLanes (.sar h d a b) h s (fun c => .done (dst1 h d (sarWord (c.src a) (c.srcI b))))
def execRotl (h : Hdr) (d : Reg) (a : Src) (b : SrcI) (s : State) : Out :=
  pureLanes (.rotl h d a b) h s (fun c => .done (dst1 h d (rotlWord (c.src a) (c.srcI b))))

/-- Position and length of a control value, R205. -/
def fieldPos (k : Word) : Nat := (k.extractLsb' 0 5).toNat
def fieldLen (k : Word) : Nat := min (k.extractLsb' 8 6).toNat (32 - fieldPos k)

def bfx (u : Bool) (a k : Word) : Word :=
  let f := a.toNat / 2 ^ fieldPos k % 2 ^ fieldLen k
  if fieldLen k = 0 then 0 else if u then BitVec.ofNat 32 f else wrap32 (toSigned f (fieldLen k))
def bfi (a b k : Word) : Word :=
  let m := BitVec.ofNat 32 ((2 ^ fieldLen k - 1) * 2 ^ fieldPos k)
  (a &&& ~~~m) ||| ((b <<< fieldPos k) &&& m)

def execBfx (h : Hdr) (u : Bool) (d : Reg) (a : Src) (b : SrcI) (s : State) : Out :=
  pureLanes (.bfx h u d a b) h s (fun c => .done (dst1 h d (bfx u (c.src a) (c.srcI b))))
def execBfi (h : Hdr) (d : Reg) (a b : Src) (k : SrcI) (s : State) : Out :=
  pureLanes (.bfi h d a b k) h s (fun c => .done (dst1 h d (bfi (c.src a) (c.src b) (c.srcI k))))

def popcount (a : Word) : Nat := (List.range 32).countP (fun k => a.getLsbD k)
/-- Leading zero bits, at most `n` of them. -/
def leadZeros (a : Word) : Nat → Nat
  | 0 => 0
  | n + 1 => if a.getLsbD n then 0 else 1 + leadZeros a n

def execPopc (h : Hdr) (d : Reg) (a : Src) (s : State) : Out :=
  pureLanes (.popc h d a) h s (fun c => .done (dst1 h d (BitVec.ofNat 32 (popcount (c.src a)))))
def execClz (h : Hdr) (d : Reg) (a : Src) (s : State) : Out :=
  pureLanes (.clz h d a) h s (fun c => .done (dst1 h d (BitVec.ofNat 32 (leadZeros (c.src a) 32))))

/-! ### Compare, select and moves, R206 to R208 -/

def execIset (h : Hdr) (cond : Cond) (u : Bool) (pd : Fin 8) (a : Src) (b : SrcI) (s : State) : Out :=
  pureLanes (.iset h cond u pd a b) h s (fun c => .done (dstP h pd (compareInt cond u (c.src a) (c.srcI b))))
def execSel (h : Hdr) (d : Reg) (p : PSrc) (a : Src) (b : SrcI) (s : State) : Out :=
  pureLanes (.sel h d p a b) h s (fun c => .done (dst1 h d (if readPs c.l p then c.src a else c.srcI b)))
def execMov (h : Hdr) (d : Reg) (a : Src) (s : State) : Out :=
  pureLanes (.mov h d a) h s (fun c => .done (dst1 h d (c.src a)))
def execMovi (h : Hdr) (d : Reg) (imm : MoviImm) (s : State) : Out :=
  pureLanes (.movi h d imm) h s (fun _ =>
    match imm with | .i32 x => .done (dst1 h d x) | .i64 x => .done (dst2 h d x))

/-- a + x · 2^SH + e, where x is B or IMM32 and e the displacement of the X64 form. -/
def leaSum (u : Bool) (sh : Fin 8) (a : DWord) (b : Word) (e : DWord) : DWord :=
  a + BitVec.ofInt 64 (intOf u b * 2 ^ sh.val) + e

def execLea (h : Hdr) (u : Bool) (sh : Fin 8) (d : Reg) (a : Src) (f : LeaForm) (s : State) : Out :=
  pureLanes (.lea h u sh d a f) h s (fun c =>
    .done (dst2 h d (match f with
      | .reg b => leaSum u sh (c.pair a) (c.src b) 0
      | .imm x => leaSum u sh (c.pair a) x 0
      | .wide b e => leaSum u sh (c.pair a) (c.src b) e)))

end Sys2Proof.Machine
end

