-- ==== Sys2Proof/Machine/Dispatch.lean ====
section
/-! DEFINITION. The meaning of every instruction: one arm per constructor of Instr. -/

namespace Sys2Proof.Machine

def exec (i : Instr) (s : State) : Host.Outcome State Fault Refusal :=
  match i with
  | .nop h => Sys2Proof.Machine.execNop h s
  | .bra h disp => Sys2Proof.Machine.execBra h disp s
  | .brc h cond u a disp => Sys2Proof.Machine.execBrc h cond u a disp s
  | .jmpi h a => Sys2Proof.Machine.execJmpi h a s
  | .call h d disp => Sys2Proof.Machine.execCall h d disp s
  | .ret h a => Sys2Proof.Machine.execRet h a s
  | .reform h => Sys2Proof.Machine.execReform h s
  | .yield h => Sys2Proof.Machine.execYield h s
  | .exit h => Sys2Proof.Machine.execExit h s
  | .spawn h form a disp => Sys2Proof.Machine.execSpawn h form a disp s
  | .elect h pd => Sys2Proof.Machine.execElect h pd s
  | .vote h op ps => Sys2Proof.Machine.execVote h op ps s
  | .shfl h mode d a b => Sys2Proof.Machine.execShfl h mode d a b s
  | .bar h n => Sys2Proof.Machine.execBar h n s
  | .phase h scope => Sys2Proof.Machine.execPhase h scope s
  | .emit h edge pd a => Sys2Proof.Machine.execEmit h edge pd a s
  | .region h => Sys2Proof.Machine.execRegion h s
  | .tryOpen h disp => Sys2Proof.Machine.execTryOpen h disp s
  | .tcommit h => Sys2Proof.Machine.execTcommit h s
  | .tcommitLane h => Sys2Proof.Machine.execTcommitLane h s
  | .tabort h value => Sys2Proof.Machine.execTabort h value s
  | .tabortLane h value => Sys2Proof.Machine.execTabortLane h value s
  | .tstat h d => Sys2Proof.Machine.execTstat h d s
  | .getid h kind d => Sys2Proof.Machine.execGetid h kind d s
  | .brk h code => Sys2Proof.Machine.execBrk h code s
  | .iadd h sat u d a b => Sys2Proof.Machine.execIadd h sat u d a b s
  | .isub h sat u d a b => Sys2Proof.Machine.execIsub h sat u d a b s
  | .imul h d a b => Sys2Proof.Machine.execImul h d a b s
  | .imulh h u d a b => Sys2Proof.Machine.execImulh h u d a b s
  | .imad h d a b c => Sys2Proof.Machine.execImad h d a b c s
  | .iadd64 h sub d a b => Sys2Proof.Machine.execIadd64 h sub d a b s
  | .imul64 h w u d a b => Sys2Proof.Machine.execImul64 h w u d a b s
  | .idiv h tz u d a b => Sys2Proof.Machine.execIdiv h tz u d a b s
  | .irem h tz u d a b => Sys2Proof.Machine.execIrem h tz u d a b s
  | .imin h u d a b => Sys2Proof.Machine.execImin h u d a b s
  | .imax h u d a b => Sys2Proof.Machine.execImax h u d a b s
  | .iabs h sat d a => Sys2Proof.Machine.execIabs h sat d a s
  | .and h d a b => Sys2Proof.Machine.execAnd h d a b s
  | .or h d a b => Sys2Proof.Machine.execOr h d a b s
  | .xor h d a b => Sys2Proof.Machine.execXor h d a b s
  | .andn h d a b => Sys2Proof.Machine.execAndn h d a b s
  | .shl h d a b => Sys2Proof.Machine.execShl h d a b s
  | .shr h d a b => Sys2Proof.Machine.execShr h d a b s
  | .sar h d a b => Sys2Proof.Machine.execSar h d a b s
  | .rotl h d a b => Sys2Proof.Machine.execRotl h d a b s
  | .bfx h u d a b => Sys2Proof.Machine.execBfx h u d a b s
  | .bfi h d a b c => Sys2Proof.Machine.execBfi h d a b c s
  | .popc h d a => Sys2Proof.Machine.execPopc h d a s
  | .clz h d a => Sys2Proof.Machine.execClz h d a s
  | .iset h cond u pd a b => Sys2Proof.Machine.execIset h cond u pd a b s
  | .sel h d p a b => Sys2Proof.Machine.execSel h d p a b s
  | .mov h d a => Sys2Proof.Machine.execMov h d a s
  | .movi h d imm => Sys2Proof.Machine.execMovi h d imm s
  | .lea h u sh d a f => Sys2Proof.Machine.execLea h u sh d a f s
  | .fadd h m d a b => Sys2Proof.Machine.execFadd h m d a b s
  | .fsub h m d a b => Sys2Proof.Machine.execFsub h m d a b s
  | .fmul h m d a b => Sys2Proof.Machine.execFmul h m d a b s
  | .ffma h m d a b c => Sys2Proof.Machine.execFfma h m d a b c s
  | .fmin h m d a b => Sys2Proof.Machine.execFmin h m d a b s
  | .fmax h m d a b => Sys2Proof.Machine.execFmax h m d a b s
  | .fset h cond rm pd a b => Sys2Proof.Machine.execFset h cond rm pd a b s
  | .fcls h d a => Sys2Proof.Machine.execFcls h d a s
  | .frnd h m d a => Sys2Proof.Machine.execFrnd h m d a s
  | .fscale h m d a b => Sys2Proof.Machine.execFscale h m d a b s
  | .fcvt h toF32 ty sat rm d a => Sys2Proof.Machine.execFcvt h toF32 ty sat rm d a s
  | .icvt h toInt ft it rm d a => Sys2Proof.Machine.execIcvt h toInt ft it rm d a s
  | .hfma2 h m d a b c => Sys2Proof.Machine.execHfma2 h m d a b c s
  | .hadd2 h m d a b => Sys2Proof.Machine.execHadd2 h m d a b s
  | .hmul2 h m d a b => Sys2Proof.Machine.execHmul2 h m d a b s
  | .bfma2 h m d a b c => Sys2Proof.Machine.execBfma2 h m d a b c s
  | .cadd h m d a b => Sys2Proof.Machine.execCadd h m d a b s
  | .csub h m d a b => Sys2Proof.Machine.execCsub h m d a b s
  | .cmul h m d a b => Sys2Proof.Machine.execCmul h m d a b s
  | .cfma h m d a b c => Sys2Proof.Machine.execCfma h m d a b c s
  | .cmag2 h m d a => Sys2Proof.Machine.execCmag2 h m d a s
  | .cscale h m d a b => Sys2Proof.Machine.execCscale h m d a b s
  | .ld h m d ad => Sys2Proof.Machine.execLd h m d ad s
  | .st h m ad b => Sys2Proof.Machine.execSt h m ad b s
  | .lds h m d ad => Sys2Proof.Machine.execLds h m d ad s
  | .sts h m ad b => Sys2Proof.Machine.execSts h m ad b s
  | .ldw h d ad => Sys2Proof.Machine.execLdw h d ad s
  | .stw h ad b => Sys2Proof.Machine.execStw h ad b s
  | .lda h m d ad => Sys2Proof.Machine.execLda h m d ad s
  | .stl h m ad b => Sys2Proof.Machine.execStl h m ad b s
  | .atomAdd h m d ad b => Sys2Proof.Machine.execAtomAdd h m d ad b s
  | .atomMin h m d ad b => Sys2Proof.Machine.execAtomMin h m d ad b s
  | .atomMax h m d ad b => Sys2Proof.Machine.execAtomMax h m d ad b s
  | .atomAnd h m d ad b => Sys2Proof.Machine.execAtomAnd h m d ad b s
  | .atomOr h m d ad b => Sys2Proof.Machine.execAtomOr h m d ad b s
  | .atomXor h m d ad b => Sys2Proof.Machine.execAtomXor h m d ad b s
  | .atomXchg h m d ad b => Sys2Proof.Machine.execAtomXchg h m d ad b s
  | .atomFadd h m d ad b => Sys2Proof.Machine.execAtomFadd h m d ad b s
  | .acas h m d ad b c => Sys2Proof.Machine.execAcas h m d ad b c s
  | .fence h scope => Sys2Proof.Machine.execFence h scope s
  | .mcast h t a b => Sys2Proof.Machine.execMcast h t a b s
  | .pref h hint ad => Sys2Proof.Machine.execPref h hint ad s
  | .tdecl h t src => Sys2Proof.Machine.execTdecl h t src s
  | .tarm h t => Sys2Proof.Machine.execTarm h t s
  | .cpyin h m t ad b => Sys2Proof.Machine.execCpyin h m t ad b s
  | .cpyout h free m t ad b => Sys2Proof.Machine.execCpyout h free m t ad b s
  | .tstate h d t => Sys2Proof.Machine.execTstate h d t s
  | .tfree h t => Sys2Proof.Machine.execTfree h t s
  | .rrot h ring dn t => Sys2Proof.Machine.execRrot h ring dn t s
  | .rpush h r src => Sys2Proof.Machine.execRpush h r src s
  | .rpop h d r => Sys2Proof.Machine.execRpop h d r s
  | .movTshFromS h t a => Sys2Proof.Machine.execMovTshFromS h t a s
  | .movSFromTsh h d t => Sys2Proof.Machine.execMovSFromTsh h d t s
  | .movQFromV h q a => Sys2Proof.Machine.execMovQFromV h q a s
  | .movVFromQ h d q => Sys2Proof.Machine.execMovVFromQ h d q s
  | .mlw h x => Sys2Proof.Machine.execMlw h x s
  | .mma h x => Sys2Proof.Machine.execMma h x s
  | .mq h x => Sys2Proof.Machine.execMq h x s
  | .vadd h m nb d a b => Sys2Proof.Machine.execVadd h m nb d a b s
  | .vsub h m nb d a b => Sys2Proof.Machine.execVsub h m nb d a b s
  | .vmul h m nb d a b => Sys2Proof.Machine.execVmul h m nb d a b s
  | .vfma h m nb d a b => Sys2Proof.Machine.execVfma h m nb d a b s
  | .vmax h m nb d a b => Sys2Proof.Machine.execVmax h m nb d a b s
  | .vmin h m nb d a b => Sys2Proof.Machine.execVmin h m nb d a b s
  | .vred h m rop d a => Sys2Proof.Machine.execVred h m rop d a s
  | .vcvt h m sat d a => Sys2Proof.Machine.execVcvt h m sat d a s
  | .vqnt h m sat d a b => Sys2Proof.Machine.execVqnt h m sat d a b s
  | .vdeq h m d a b => Sys2Proof.Machine.execVdeq h m d a b s
  | .vcpy h m d a => Sys2Proof.Machine.execVcpy h m d a s
  | .voxin h nocap d a b => Sys2Proof.Machine.execVoxin h nocap d a b s
  | .bevpool h sum clr tgt a => Sys2Proof.Machine.execBevpool h sum clr tgt a s
  | .traceNew h node d a => Sys2Proof.Machine.execTraceNew h node d a s
  | .trace h node d a => Sys2Proof.Machine.execTrace h node d a s
  | .tnext h d a => Sys2Proof.Machine.execTnext h d a s
  | .thit h fin d a => Sys2Proof.Machine.execThit h fin d a s
  | .spawnray h d a b c => Sys2Proof.Machine.execSpawnray h d a b c s
  | .boxin h d a b => Sys2Proof.Machine.execBoxin h d a b s
  | .edge h cov d a b c => Sys2Proof.Machine.execEdge h cov d a b c s
  | .snap h d a b => Sys2Proof.Machine.execSnap h d a b s
  | .bin h d a b => Sys2Proof.Machine.execBin h d a b s
  | .binClose h d => Sys2Proof.Machine.execBinClose h d s
  | .binReset h d => Sys2Proof.Machine.execBinReset h d s
  | .visres h d a => Sys2Proof.Machine.execVisres h d a s
  | .pidld h d a => Sys2Proof.Machine.execPidld h d a s
  | .anim h d a b => Sys2Proof.Machine.execAnim h d a b s
  | .rdclk h d => Sys2Proof.Machine.execRdclk h d s
  | .rdtmr h d => Sys2Proof.Machine.execRdtmr h d s
  | .stamp h src => Sys2Proof.Machine.execStamp h src s
  | .trap h code => Sys2Proof.Machine.execTrap h code s
  | .mfs h d num => Sys2Proof.Machine.execMfs h d num s
  | .mts h num a => Sys2Proof.Machine.execMts h num a s
  | .eret h => Sys2Proof.Machine.execEret h s
  | .fenceMap h scope => Sys2Proof.Machine.execFenceMap h scope s
  | .mapsync h => Sys2Proof.Machine.execMapsync h s
  | .ctxsave h d a => Sys2Proof.Machine.execCtxsave h d a s
  | .ctxload h d a => Sys2Proof.Machine.execCtxload h d a s
  | .preempt h d a => Sys2Proof.Machine.execPreempt h d a s
  | .leave h src => Sys2Proof.Machine.execLeave h src s
  | .setkey h d a b => Sys2Proof.Machine.execSetkey h d a b s
  | .binAgeExpiry core bin => Sys2Proof.Machine.execBinAgeExpiry core bin s
  | .binFixedAgeExpiry core bin => Sys2Proof.Machine.execBinFixedAgeExpiry core bin s
  | .binSlotFile core bin => Sys2Proof.Machine.execBinSlotFile core bin s
  | .yieldSkipExpiry team warp => Sys2Proof.Machine.execYieldSkipExpiry team warp s
  | .loadDataArrival => Sys2Proof.Machine.execLoadDataArrival s
  | .resultWriteback => Sys2Proof.Machine.execResultWriteback s
  | .barrierCompletion team n => Sys2Proof.Machine.execBarrierCompletion team n s
  | .phaseNumberExchange team neighbour => Sys2Proof.Machine.execPhaseNumberExchange team neighbour s
  | .cpyinCompletion op => Sys2Proof.Machine.execCpyinCompletion op s
  | .cpyoutCompletion op => Sys2Proof.Machine.execCpyoutCompletion op s
  | .mcastRequestArrival op => Sys2Proof.Machine.execMcastRequestArrival op s
  | .mergeRequestArrival mc op => Sys2Proof.Machine.execMergeRequestArrival mc op s
  | .mergeWindowClose mc => Sys2Proof.Machine.execMergeWindowClose mc s
  | .mcastFirstBeatArrival mc core => Sys2Proof.Machine.execMcastFirstBeatArrival mc core s
  | .mcastDeliveryComplete mc core => Sys2Proof.Machine.execMcastDeliveryComplete mc core s
  | .rrotRotation inst t => Sys2Proof.Machine.execRrotRotation inst t s
  | .rrotCompletion team t => Sys2Proof.Machine.execRrotCompletion team t s
  | .mlwLatch op => Sys2Proof.Machine.execMlwLatch op s
  | .mmaCompletion op => Sys2Proof.Machine.execMmaCompletion op s
  | .mqCompletion op => Sys2Proof.Machine.execMqCompletion op s
  | .streamVectorCompletion op => Sys2Proof.Machine.execStreamVectorCompletion op s
  | .voxinInsertion op => Sys2Proof.Machine.execVoxinInsertion op s
  | .bevpoolCompletion op => Sys2Proof.Machine.execBevpoolCompletion op s
  | .traceBatchCompletion op => Sys2Proof.Machine.execTraceBatchCompletion op s
  | .frameResolved team => Sys2Proof.Machine.execFrameResolved team s
  | .flitArrival => Sys2Proof.Machine.execFlitArrival s
  | .flitRetry => Sys2Proof.Machine.execFlitRetry s
  | .ordAccessArrival acc => Sys2Proof.Machine.execOrdAccessArrival acc s
  | .replayGateArrival acc => Sys2Proof.Machine.execReplayGateArrival acc s
  | .leaveRequestArrival => Sys2Proof.Machine.execLeaveRequestArrival s
  | .leaveGrant => Sys2Proof.Machine.execLeaveGrant s
  | .grantLapse team => Sys2Proof.Machine.execGrantLapse team s
  | .translationWalk => Sys2Proof.Machine.execTranslationWalk s
  | .migrateFreeze space ia => Sys2Proof.Machine.execMigrateFreeze space ia s
  | .migrateCopy space ia => Sys2Proof.Machine.execMigrateCopy space ia s
  | .swing space ia => Sys2Proof.Machine.execSwing space ia s
  | .unfreeze space ia => Sys2Proof.Machine.execUnfreeze space ia s
  | .hotUpdate k => Sys2Proof.Machine.execHotUpdate k s
  | .lateRegionFault team warp => Sys2Proof.Machine.execLateRegionFault team warp s
  | .pageFaultSave team => Sys2Proof.Machine.execPageFaultSave team s
  | .engineFault op => Sys2Proof.Machine.execEngineFault op s
  | .deferredWriteFault core => Sys2Proof.Machine.execDeferredWriteFault core s
  | .mcheck space sub ad => Sys2Proof.Machine.execMcheck space sub ad s
  | .softErrorCorrection slice n => Sys2Proof.Machine.execSoftErrorCorrection slice n s
  | .priorityPreemption team => Sys2Proof.Machine.execPriorityPreemption team s
  | .teamRestore team core => Sys2Proof.Machine.execTeamRestore team core s
  | .warpTimerFire team warp => Sys2Proof.Machine.execWarpTimerFire team warp s
  | .recordAdmission queue => Sys2Proof.Machine.execRecordAdmission queue s
  | .instanceFormation record node edge => Sys2Proof.Machine.execInstanceFormation record node edge s
  | .teamPlacement inst => Sys2Proof.Machine.execTeamPlacement inst s
  | .coreReservation => Sys2Proof.Machine.execCoreReservation s
  | .logicalClusterSwitch cluster => Sys2Proof.Machine.execLogicalClusterSwitch cluster s
  | .teamGone team => Sys2Proof.Machine.execTeamGone team s
  | .nodeInstanceEnd inst => Sys2Proof.Machine.execNodeInstanceEnd inst s
  | .recordCompletion record => Sys2Proof.Machine.execRecordCompletion record s
  | .breakpointStop team warp lane => Sys2Proof.Machine.execBreakpointStop team warp lane s
  | .stepStop team warp => Sys2Proof.Machine.execStepStop team warp s
  | .debugEventWrite => Sys2Proof.Machine.execDebugEventWrite s
  | .halt space => Sys2Proof.Machine.execHalt space s
  | .resume space => Sys2Proof.Machine.execResume space s
  | .stepon space => Sys2Proof.Machine.execStepon space s
  | .stepoff space => Sys2Proof.Machine.execStepoff space s
  | .debugRightRevoke space => Sys2Proof.Machine.execDebugRightRevoke space s
  | .tmrcmpWrite team warp x => Sys2Proof.Machine.execTmrcmpWrite team warp x s
  | .qdestWrite team warp q x => Sys2Proof.Machine.execQdestWrite team warp q x s
  | .hiWordWrite space num x => Sys2Proof.Machine.execHiWordWrite space num x s
  | .loWordWrite space num x => Sys2Proof.Machine.execLoWordWrite space num x s
  | .rangeWord0Install space reg x => Sys2Proof.Machine.execRangeWord0Install space reg x s
  | .sysregWrite space num x => Sys2Proof.Machine.execSysregWrite space num x s
  | .pkgrst => Sys2Proof.Machine.execPkgrst s
  | .load => Sys2Proof.Machine.execLoad s
  | .attest => Sys2Proof.Machine.execAttest s
  | .partitionEnable p => Sys2Proof.Machine.execPartitionEnable p s
  | .partitionDisable p => Sys2Proof.Machine.execPartitionDisable p s
  | .heavybWrite x => Sys2Proof.Machine.execHeavybWrite x s
  | .hcbWrite off x => Sys2Proof.Machine.execHcbWrite off x s
  | .powerOn => Sys2Proof.Machine.execPowerOn s
  | .linkTraining => Sys2Proof.Machine.execLinkTraining s
  | .memoryTraining failed => Sys2Proof.Machine.execMemoryTraining failed s
  | .xreq space ia write => Sys2Proof.Machine.execXreq space ia write s
  | .xrsp => Sys2Proof.Machine.execXrsp s
  | .preq space ia => Sys2Proof.Machine.execPreq space ia s
  | .prsp accept => Sys2Proof.Machine.execPrsp accept s
  | .inv => Sys2Proof.Machine.execInv s
  | .invack => Sys2Proof.Machine.execInvack s
  | .fabricPortFailure peer port => Sys2Proof.Machine.execFabricPortFailure peer port s
  | .hostAccess space ia write => Sys2Proof.Machine.execHostAccess space ia write s

end Sys2Proof.Machine
end

