-- ==== Sys2Proof/Machine/Issue.lean ====
section
/-! DEFINITION. Time, candidates and the choice among them, fetch, and the issue of a group: R15, R18, R20 to R28, R142 to
R147, R161, R381. -/

namespace Sys2Proof.Machine

/-! ### Time -/

/-- Cycles pass: the clock, and the active-time counter and timer of every LIVE warp of a RUNNING team (R306,
R381). -/
def tickWarp (n : Nat) (w : Warp) : Warp :=
  if w.st != .live then w
  else
    let d := (w.tmrcmp.toNat + 2 ^ 32 - w.active.toNat % 2 ^ 32) % 2 ^ 32
    let d := if d = 0 then 2 ^ 32 else d
    let fires := w.armed && d ≤ n
    { w with active := w.active + BitVec.ofNat 64 n, armed := w.armed && !fires, fired := w.fired || fires }

/-- In a new cycle every port may issue again (R26). -/
def passTime (n : Nat) (s : State) : State :=
  { s with
    cycle := s.cycle + n
    issued := if n = 0 then s.issued else []
    teams := s.teams.map (fun t => if t.st == .running then { t with warps := t.warps.map (tickWarp n) } else t) }

/-- Every lane that waits for a bin slot which has freed is filed. -/
def fileAll (s : State) : State :=
  s.bins.foldl (fun s b => if b.waiting.isEmpty then s else fileFree s b.core b.num) s

/-- Cycles pass; in the first of them a lane whose bin slot has freed is filed (R22). -/
def tick (n : Nat) (s : State) : State :=
  match n with
  | 0 => passTime 0 s
  | k + 1 => passTime k (fileAll (passTime 1 s))

/-! ### Groups, R20, R23, R24 -/

/-- No warp of a context that is stopped, or is being stopped, issues. -/
def ctxRuns (s : State) (t : Team) : Bool := ((s.ctx? t.space).map (fun c => !c.halted)).getD true

/-- A warp whose lanes may issue: it is LIVE, no trap and no fault of an access of its own is waiting to be taken (R301, R368),
and no step stop is due (R385). -/
def warpIssues (s : State) (t : Team) (w : Nat) (x : Warp) : Bool :=
  x.st == .live && t.st == .running && t.saving.isNone && !x.fired && x.trap.isNone && (x.pend.isEmpty || x.sbusy) && ctxRuns s t &&
  !s.accs.any (fun a => a.team == t.uid && a.warp == w && a.fault.isSome) && (stepLanes s t x).isEmpty

/-- The READY lanes of a team that are free to issue, as (warp, slot). -/
def readyLanes (s : State) (t : Team) : List (Nat × Nat) :=
  t.warps.zipIdx.flatMap (fun x =>
    if warpIssues s t x.2 x.1 then
      ((x.1.slots.filter (fun l => l.2.st == .ready && (stopAt s t x.1 l.1 l.2).isNone &&
        (!x.1.lockstep || (runningSide x.1).contains l.1))).map (fun l => (x.2, l.1)))
    else [])

def Team.lane? (t : Team) (k : Nat × Nat) : Option Lane := (t.warps[k.1]?).bind (fun x => x.lanes[k.2]?)

/-- In deterministic mode a lane lets the lanes of its warp that are BLOCKED at a lower PC, or at its own, go first (R26, R52,
R343), but at a barrier, which those reach only if it issues, and not once it is over-age (R27).
(DESIGN CHOICE, log entry 73.) -/
def heldBack (s : State) (t : Team) (k : Nat × Nat) : Bool :=
  match t.warps[k.1]?, t.lane? k with
  | some w, some l =>
    w.det && s.cycle - l.since ≤ 512 && w.lanes.any (fun m =>
      m.st == .blocked && m.pc ≤ l.pc && match m.wait with | .bar _ => false | _ => true)
  | _, _ => false

/-- The lanes that issue. -/
def issuable (s : State) (t : Team) : List (Nat × Nat) := (readyLanes s t).filter (fun k => !heldBack s t k)

/-- The request at the governor for which a lane has been waiting. -/
def Lane.leaveId (l : Lane) : Option Nat := match l.wait with | .leave id => some id | _ => none

/-- The frame that it names in the PREEMPT, CTXSAVE or CTXLOAD at which it stands. -/
def Lane.frameAsked (l : Lane) : Option Nat :=
  match l.asked with | some (pc, f) => if pc == l.pc then some f else none | none => none

/-- Lanes that agree in these may issue together: the PC, and what each has begun to wait for. -/
def Lane.key (l : Lane) : Pc × Option Nat × Option Nat := (l.pc, l.leaveId, l.frameAsked)

/-- The warp's lanes issue in groups of their own lanes only, R24. -/
def Team.apart (t : Team) (w : Nat) : Bool := ((t.warps[w]?).map (fun x => x.lockstep || x.sup)).getD true

/-- Of some lanes those with which a lane last issued, when they are of several warps and still together. -/
def mixedWith (t : Team) (ks : List (Nat × Nat)) (k : Nat × Nat) : List (Nat × Nat) :=
  match t.lane? k with
  | none => []
  | some l =>
    let ms := ks.filter (fun j => !t.apart j.1 &&
      match t.lane? j with | some m => m.group == l.group && m.key == l.key | none => false)
    if l.group != 0 && !t.apart k.1 && ms.any (fun j => j.1 != k.1) then ms else []

/-- The group of a lane among some lanes: those of several warps with which it last issued; otherwise the other lanes of its
warp at its PC (R20, R24). Lanes of a warp that come to one PC merge. (DESIGN CHOICE, log entry 69.) -/
def groupIn (t : Team) (ks : List (Nat × Nat)) (k : Nat × Nat) : List (Nat × Nat) :=
  match mixedWith t ks k with
  | [] => ks.filter (fun j => j.1 == k.1 && (t.lane? j).map Lane.key == (t.lane? k).map Lane.key && (mixedWith t ks j).isEmpty)
  | ms => ms

/-- The group that a lane issues in. -/
def groupFor (s : State) (t : Team) (w slot : Nat) : List (Nat × Nat) := groupIn t (issuable s t) (w, slot)

/-- The filed lanes of a bin that may issue, slot and warp; a HALTED lane stays in its bin. -/
def binLanes (s : State) (t : Team) (b : Bin) : List (Nat × Nat) :=
  b.slots.filter (fun x =>
    match t.warps[x.2]? with
    | some w => warpIssues s t x.2 w && !t.apart x.2 &&
        (match w.lanes[x.1]? with | some l => l.st == .filed && (stopAt s t w x.1 l).isNone | none => false)
    | none => false)

/-- A drawable bin, R23: it has been found so, or its oldest entry has waited longer than the team's age limit or the fixed
one. -/
def binReady (s : State) (t : Team) (b : Bin) : Bool :=
  b.team == t.uid && !(binLanes s t b).isEmpty && (b.drawable || min t.desc.age 512 < s.cycle - b.oldest)

/-- A trap whose results have come, or a fault held for the warp, is taken at its next issue (R301, R302, R370). -/
def interrupted (s : State) (t : Team) (w : Nat) (x : Warp) : Bool :=
  x.st == .live && t.st == .running && ctxRuns s t && !mustWait s t.uid w &&
  (x.trap.isSome || (!x.pend.isEmpty && !x.sbusy && t.saving.isNone))

/-! ### Candidates, R25, R26 -/

/-- A candidate: what it is, its lanes with the PC, and of its oldest lane the cycle since which it is READY or FILED and the
warp context. -/
structure Cand where
  team : Nat
  lanes : List (Nat × Nat)
  pc : Pc
  bin : Option Bin
  trap : Bool
  since : Nat
  ctx : Nat
  skip : Bool
  det : Bool
deriving DecidableEq, Repr

/-- Ascending warp and slot. -/
def sortLanes (ks : List (Nat × Nat)) : List (Nat × Nat) :=
  ks.foldl (fun acc k => ins acc k) []
where
  ins : List (Nat × Nat) → Nat × Nat → List (Nat × Nat)
    | [], k => [k]
    | j :: r, k => if k.1 < j.1 || (k.1 == j.1 && k.2 < j.2) then k :: j :: r else j :: ins r k

/-- Since when the oldest of some lanes waits, with its warp context; of equally old ones the lower context. -/
def oldestOf (t : Team) (ks : List (Nat × Nat)) : Nat × Nat :=
  (ks.filterMap (fun k => match t.lane? k, t.warps[k.1]? with | some l, some w => some (l.since, w.ctx) | _, _ => none)).foldl
    (fun m x => if m.2 = 64 || x.1 < m.1 || (x.1 = m.1 && x.2 < m.2) then x else m) (0, 64)

/-- A candidate of some lanes. It is under the skip when one of its lanes has yielded, though others of it have not.
(DESIGN CHOICE, log entry 74.) -/
def candOf (t : Team) (ks : List (Nat × Nat)) (pc : Pc) (bin : Option Bin) (trap : Bool) : Cand where
  team := t.uid
  lanes := ks
  pc := pc
  bin := bin
  trap := trap
  since := (oldestOf t ks).1
  ctx := (oldestOf t ks).2
  skip := ks.any (fun k => match t.lane? k with | some l => 1 < l.skip | none => false)
  det := t.warps.any (·.det)

/-- Some lanes in their groups. -/
def groupsIn (t : Team) (ks : List (Nat × Nat)) : List (List (Nat × Nat)) :=
  ks.foldl (fun gs k => if gs.any (fun g => g.contains k) then gs else gs ++ [sortLanes (groupIn t ks k)]) []

/-- The groups of a team's READY lanes. -/
def groupsOf (s : State) (t : Team) : List (List (Nat × Nat)) := groupsIn t (issuable s t)

def pcOf (t : Team) (ks : List (Nat × Nat)) : Pc := ((t.lane? (ks.headD (0, 0))).map (·.pc)).getD 0

/-- The candidates of a team: warps that are interrupted, drawable bins, and groups with a READY lane. -/
def teamCands (s : State) (t : Team) : List Cand :=
  (t.warps.zipIdx.filter (fun x => interrupted s t x.2 x.1)).map (fun x =>
    candOf t ((x.1.slots.filter (fun l => l.2.live)).map (fun l => (x.2, l.1))) 0 none true) ++
  (s.bins.filter (binReady s t)).map (fun b => candOf t (sortLanes ((binLanes s t b).map (fun x => (x.2, x.1)))) b.pc (some b) false) ++
  (groupsOf s t).map (fun g => candOf t g (pcOf t g) none false)

def candidates (s : State) (core : Nat) : List Cand :=
  (s.teams.filter (fun t => t.core == core && t.st == .running)).flatMap (teamCands s)

/-- The port that serves it. -/
def Cand.port (c : Cand) : Nat := c.ctx % 4

/-- R26's order: over-age candidates oldest first; in deterministic mode ascending PC; otherwise oldest first; one under a
YIELD skip after every other of its port (R28), and of several such, when no other is ready, the oldest first, in deterministic
mode too (DESIGN CHOICE, log entry 74). Ties go to the lower warp context. -/
def rank (now : Nat) (c : Cand) : Nat × Nat × Nat :=
  if 512 < now - c.since then (0, c.since, c.ctx)
  else if c.skip then (3, c.since, c.ctx)
  else if c.det then (1, c.pc.toNat, c.ctx) else (2, c.since, c.ctx)

def rankLt (a b : Nat × Nat × Nat) : Bool :=
  a.1 < b.1 || (a.1 == b.1 && (a.2.1 < b.2.1 || (a.2.1 == b.2.1 && a.2.2 < b.2.2)))

/-! ### The issue of a group -/

/-- Takes lanes out of a bin as one group (R23): the bin is free unless a lane is left in it or waits to be filed into it. -/
def drawBin (s : State) (b : Bin) (lanes : List (Nat × Nat)) : State :=
  let s := unfileIf s b.team (fun x => lanes.contains (x.2, x.1) && b.slots.contains x)
  lanes.foldl (fun s k => s.modLane b.team k.1 k.2 (fun l => { l with st := .ready })) s

/-- Every lane of the group traps, active or not (R162); inside a TRY the warp aborts with FAULT (R192). -/
def trapAll (s : State) (is : Issue) (cause sub : Byte) : State :=
  commit s is (is.lanes.map (fun k => (k, trapped cause sub)))

/-- A fetch fault: ILEN 0, PC and VA are the fetch address (R297). -/
def fetchTrap (s : State) (is : Issue) (cause sub : Byte) (ia : DWord) : State :=
  commit s { is with len := 0, bits := 0 }
    (is.lanes.map (fun k => (k, LaneRes.trap cause sub (is.pc.setWidth 64) ia false)))

/-- The port at which a lane's candidate is passed over: that of the candidate which holds it, else its warp's. -/
def skipPort (cs : List Cand) (t : Team) (w : Nat) (ctx slot : Nat) : Nat :=
  match cs.find? (fun c => c.team == t.uid && c.lanes.contains (w, slot)) with | some c => c.port | none => ctx % 4

/-- Lanes of a core under a YIELD skip. -/
def anySkip (s : State) (core : Nat) : Bool :=
  s.teams.any (fun t => t.core == core && t.warps.any (fun w => w.lanes.any (fun l => 1 < l.skip)))

/-- A port issues: it issues no more in this cycle, and the skips of R28 count the decision. -/
def usePort (s : State) (core port : Nat) : State :=
  let counted (s : State) : State :=
    if !anySkip s core then s
    else
      let cs := candidates s core
      { s with teams := s.teams.map (fun t =>
          if t.core == core then { t with warps := t.warps.zipIdx.map (fun w =>
            { w.1 with lanes := w.1.lanes.zipIdx.map (fun l =>
                if 1 < l.1.skip && skipPort cs t w.2 w.1.ctx l.2 == port then { l.1 with skip := l.1.skip - 1 } else l.1) }) }
          else t) }
  { counted s with issued := (core, port) :: s.issued }

/-- Lanes at a SKIP word stand at the next window (R144). -/
def skipLanes (s : State) (t : Team) (lanes : List (Nat × Nat)) (pc : Pc) : State :=
  ((lanes.map (·.1)).eraseDups).foldl (fun s w => s.modWarp t.uid w relock)
    (lanes.foldl (fun s k => s.modLane t.uid k.1 k.2 (fun l =>
      { l with pc := BitVec.ofNat 56 (pc.toNat / 32 * 32 + 32), st := .ready, wait := .retry })) s)

/-- Of the lanes of a mixed group those of warps with MODE.UBUSY as in the first one, where it decides whether the word is
an instruction (R161). -/
def likeFirst (t : Team) (lanes : List (Nat × Nat)) (bits : BitVec 128) : List (Nat × Nat) :=
  let busy (w : Nat) : Bool := ((t.warps[w]?).map (·.ubusy)).getD false
  if decodeRaw false true true (rawOf bits) = decodeRaw false true false (rawOf bits) then lanes
  else lanes.filter (fun k => busy k.1 == busy (lanes.headD (0, 0)).1)

/-- The instruction of what was fetched runs for the group (R161). -/
def runFetched (s : State) (t : Team) (lanes : List (Nat × Nat)) (pc : Pc) (f : Fetched) : Host.Outcome State Fault Refusal :=
  let w := t.warps[(lanes.headD (0, 0)).1]?
  let is : Issue := { team := t.uid, pc, len := 0, bits := 0, lanes, id := s.serial }
  let s := { s with serial := s.serial + 1 }
  match f with
  | .wait => finish (commit s is (lanes.map (fun k => (k, .wait .retry))))
  | .fail cause sub ia => finish (fetchTrap s is cause sub ia)
  | .skip => finish (skipLanes s t lanes pc)
  | .cross len bits => finish (trapAll s { is with len, bits } cILLOP (illCode .cross))
  | .instr len bits =>
    let is := { is with len, bits, lanes := likeFirst t lanes bits }
    match decodeRaw false (!((w.map (·.sup)).getD false)) ((w.map (·.ubusy)).getD false) (rawOf bits) with
    | .error e => finish (trapAll s is cILLOP (illCode e))
    | .ok i => exec i { s with cur := some is }

/-- The lane is BLOCKED at an instruction that has done nothing. -/
def stillWaits (s : State) (team : Nat) (k : Nat × Nat) : Bool :=
  match s.lane? team k.1 k.2 with | some l => l.st == .blocked && polled l.wait | none => false

/-- The instruction has not issued for any lane: each is BLOCKED (R18). -/
def allWait (r : Host.Outcome State Fault Refusal) (team : Nat) (lanes : List (Nat × Nat)) : Bool :=
  match r with | .next s => lanes.all (stillWaits s team) | _ => false

/-- Fetches for the group at a PC and runs what it finds; only an instruction that issues uses the port. -/
def issueGroup (s : State) (t : Team) (lanes : List (Nat × Nat)) (pc : Pc) (core port : Nat) : Host.Outcome State Fault Refusal :=
  match fetch s t pc with
  | (s, .skip) => runFetched s t lanes pc .skip
  | (s, f) =>
    let r := runFetched (usePort s core port) t lanes pc f
    if allWait r t.uid lanes then runFetched s t lanes pc f else r

/-- The first trap or fault that a warp holds is taken. -/
def takeHeld (s : State) (team warp : Nat) : State :=
  match s.warp? team warp with
  | some w =>
    match w.trap, w.pend with
    | some ti, _ => takeTrap (s.modWarp team warp (fun w => { w with trap := none })) team warp ti
    | none, ti :: rest => takeTrap (s.modWarp team warp (fun w => { w with pend := rest })) team warp ti
    | none, [] => s
  | none => s

/-- The candidate issues. -/
def issueCand (s : State) (t : Team) (c : Cand) : Host.Outcome State Fault Refusal :=
  if c.trap then finish (takeHeld s t.uid (c.lanes.headD (0, 0)).1)
  else match c.bin with
  | some b =>
    let s := drawBin s b c.lanes
    match s.team? t.uid with
    | some t => issueGroup s t c.lanes c.pc t.core c.port
    | none => finish s
  | none => issueGroup s t c.lanes c.pc t.core c.port

/-- Its port has not issued in this cycle, and serves no candidate before it (R26). -/
def mayIssue (s : State) (core : Nat) (c : Cand) : Bool :=
  !s.issued.contains (core, c.port) &&
  !(candidates s core).any (fun d => d.port == c.port && rankLt (rank s.cycle d) (rank s.cycle c))

/-- The candidate of a lane. -/
def candidateOf (s : State) (t : Team) (warp slot : Nat) : Option Cand := (teamCands s t).find? (fun c => c.lanes.contains (warp, slot))

/-- The named lane's candidate issues, when its port serves it now. -/
def issueFrom (s : State) (team warp slot : Nat) : Host.Outcome State Fault Refusal :=
  match s.team? team with
  | none => finish s
  | some t =>
    match candidateOf s t warp slot with
    | some c => if mayIssue s t.core c then issueCand s t c else finish s
    | none => finish s

/-! ### When a wait begins and ends, R18 -/

/-- The BLOCKED lanes of a team whose instruction is tried afresh, in their groups. -/
def pollGroups (t : Team) : List (List (Nat × Nat)) :=
  groupsIn t (t.warps.zipIdx.flatMap (fun x =>
    if x.1.st != .live then []
    else (x.1.slots.filter (fun l => l.2.st == .blocked && polled l.2.wait)).map (fun l => (x.2, l.1))))

/-- What waiting instructions ask of the governor, Hawkmoth and the host agent, and the stops that they bring about. -/
def asks (s : State) : List LeaveReq × List (Nat × Option Saving) × Bool × List LinkMsg × List (Nat × Nat) :=
  (s.leaves, s.teams.map (fun t => (t.uid, t.saving)), s.invWait, s.link, s.lost)

/-- The cycles of a wait for a tile that is over join the tile's operand wait (R389). -/
def waited (s : State) (t : Team) (ks : List (Nat × Nat)) : State :=
  match ks.head?.bind t.lane? with
  | some l => (match l.wait with | .tile n => modLife s t.uid n (fun x => { x with wait := x.wait + (s.cycle - l.since) }) | _ => s)
  | none => s

/-- The lanes are READY. -/
def unblock (s : State) (t : Team) (ks : List (Nat × Nat)) : State :=
  ks.foldl (fun s k => s.modLane t.uid k.1 k.2 (fun l => { l with st := .ready, since := s.cycle })) (waited s t ks)

/-- A waiting group's instruction is tried on a copy. The lanes for which it would issue are READY; where it would issue for
none, but waits for something else now or asks another agent for it, they are BLOCKED so (R18). -/
def retryGroup (s : State) (t : Team) (g : List (Nat × Nat)) : State :=
  match issueGroup s t g (pcOf t g) t.core 4 with
  | .next s' =>
    let free := g.filter (fun k => !stillWaits s' t.uid k)
    let other := g.any (fun k => (s'.lane? t.uid k.1 k.2).map (·.wait) != (t.lane? k).map (·.wait))
    if free.isEmpty && (other || asks s' != asks s) then waited s' t g else unblock s t free
  | _ => unblock s t g

/-- A READY group whose next instruction, tried on a copy, only waits, and asks nothing of another agent, is BLOCKED. -/
def blockGroup (s : State) (t : Team) (g : List (Nat × Nat)) : State :=
  match issueGroup s t g (pcOf t g) t.core 4 with
  | .next s' =>
    if g.all (stillWaits s' t.uid) && asks s' == asks s then
      g.foldl (fun s k => s.modLane t.uid k.1 k.2 (fun l =>
        { l with st := .blocked, wait := ((s'.lane? t.uid k.1 k.2).map (·.wait)).getD .retry, since := s.cycle })) s
    else s
  | _ => s

/-- The same for each of some groups of the RUNNING teams. -/
def eachGroup (groups : State → Team → List (List (Nat × Nat))) (f : State → Team → List (Nat × Nat) → State) (s : State) : State :=
  s.teams.foldl (fun r t =>
    match r.team? t.uid with
    | some t => if t.st != .running then r
      else (groups r t).foldl (fun r g => match r.team? t.uid with | some t => f r t g | none => r) r
    | none => r) s

/-- The lockstep warps stand as R29 has them, wherever another agent has moved a lane. -/
def relockAll (s : State) : State :=
  { s with teams := s.teams.map (fun t =>
      if t.warps.any (·.lockstep) then { t with warps := t.warps.map (fun w => if w.lockstep then relock w else w) } else t) }

/-- Owed bytes are written, chunks skipped that no access will take, and requests of the host agent answered; every lane whose
wait has resolved is READY, and every lane whose next instruction waits is BLOCKED. (DEDUCED, log entry 11.) -/
def settle (s : State) : State :=
  eachGroup (fun s t => groupsIn t (readyLanes s t)) blockGroup (eachGroup (fun _ t => pollGroups t) retryGroup
    (relockAll (answerHeld (skipGone (payOwed s)))))

end Sys2Proof.Machine
end

