-- ==== Sys2Proof/Machine/Due.lean ====
section
/-! DEFINITION. What moves next: the tape names the moves that plain data chooses, and without it the default rule stands (log
entry 2). In each cycle the ports issue what they serve, and then a step of another agent that would change the machine is
made. -/

namespace Sys2Proof.Machine

/-! ### Steps of the other agents, in the order in which the default rule tries them -/

/-- Results, accesses and flits, which the move names. -/
def namedSteps (s : State) : List Act :=
  s.results.flatMap (fun r => [.named .loadDataArrival r.id, .named .resultWriteback r.id]) ++
  s.accs.map (fun a => .named .translationWalk a.id) ++
  s.flits.flatMap (fun f => [.named .flitArrival f.id, .named .flitRetry f.id])

/-- Accesses that wait for a turn, and faults at the memory side. -/
def accessSteps (s : State) : List Instr :=
  s.accs.flatMap (fun a => (if a.ord.isSome then [Instr.ordAccessArrival a.id] else []) ++
    (if a.gated then [Instr.replayGateArrival a.id] else [])) ++
  (s.accs.filter (fun a => a.fault.isSome)).flatMap (fun a =>
    [Instr.lateRegionFault a.team a.warp, Instr.preq (((s.team? a.team).map (·.space)).getD 0) (a.ia / 65536 * 65536),
     Instr.pageFaultSave a.team])

/-- Messages between Cecropia and the host agent that the package or the agent sends of itself. -/
def linkSteps (s : State) : List Instr :=
  s.ops.filterMap (fun o => match hostBeat s o, s.team? o.team with
    | some ia, some t => some (Instr.preq t.space (ia / 65536 * 65536)) | _, _ => none) ++
  (if s.link.isEmpty then [] else [Instr.xrsp, Instr.inv]) ++ (if s.invWait then [Instr.invack] else [])

/-- The completion of one operation. -/
def opStep (o : EngOp) : Option Instr :=
  match o.ins with
  | .cpyin .. => some (Instr.cpyinCompletion o.id)
  | .cpyout .. => some (Instr.cpyoutCompletion o.id)
  | .mcast .. => some (Instr.mcastRequestArrival o.id)
  | .mlw .. => some (Instr.mlwLatch o.id)
  | .mma .. => some (Instr.mmaCompletion o.id)
  | .mq .. => some (Instr.mqCompletion o.id)
  | .voxin .. => some (Instr.voxinInsertion o.id)
  | .bevpool .. => some (Instr.bevpoolCompletion o.id)
  | .traceNew .. | .trace .. => some (Instr.traceBatchCompletion o.id)
  | .tnext .. | .thit .. => some (Instr.traceBatchCompletion o.id)
  | .rrot .. | .tarm .. | .binClose .. => none
  | _ => some (Instr.streamVectorCompletion o.id)

def opSteps (s : State) : List Instr :=
  s.mcasts.flatMap (fun m =>
    s.ops.map (fun o => Instr.mergeRequestArrival m.id o.id) ++ s.accs.map (fun a => Instr.mergeRequestArrival m.id a.id)) ++
  s.ops.map (fun o => Instr.engineFault o.id) ++ s.ops.filterMap opStep ++
  s.mcasts.flatMap (fun m => Instr.mergeWindowClose m.id ::
    (List.range 16).flatMap (fun k => [Instr.mcastFirstBeatArrival m.id (16 * m.sector + k), Instr.mcastDeliveryComplete m.id (16 * m.sector + k)])) ++
  s.ops.flatMap (fun o =>
    match s.team? o.team, o.ins with
    | some t, .tarm .. => [Instr.mcastDeliveryComplete o.id t.core]
    | some t, .rrot .. => [Instr.rrotRotation t.inst (Fin.ofNat 32 (o.tiles.headD 0)), Instr.rrotCompletion t.uid (Fin.ofNat 32 (o.tiles.headD 0))]
    | _, _ => [])

/-- Barriers, phases, bins, the governor and the timers. -/
def syncSteps (s : State) : List Instr :=
  s.teams.flatMap (fun t =>
    (List.range 8).map (fun n => Instr.barrierCompletion t.uid (Fin.ofNat 8 n)) ++
    (s.teams.filter (fun u => u.inst == t.inst && u.uid != t.uid)).map (fun u => Instr.phaseNumberExchange t.uid u.uid) ++
    (if t.frame.st == .opened then [Instr.frameResolved t.uid] else []) ++
    (if t.grants.isEmpty then [] else [Instr.grantLapse t.uid]) ++
    t.warps.zipIdx.flatMap (fun w => (if w.1.fired then [Instr.warpTimerFire t.uid w.2] else []) ++
      (if w.1.lanes.any (fun l => l.skip == 1) then [Instr.yieldSkipExpiry t.uid w.2] else []))) ++
  s.bins.flatMap (fun b => [Instr.binAgeExpiry b.core b.num, Instr.binFixedAgeExpiry b.core b.num, Instr.binSlotFile b.core b.num]) ++
  (if s.leaves.isEmpty then [] else [Instr.leaveRequestArrival, Instr.leaveGrant])

/-- Debug stops, events and commands. -/
def debugSteps (s : State) : List Instr :=
  (s.teams.filter (fun t => ctxRight s t.space)).flatMap (fun t => t.warps.zipIdx.flatMap (fun w =>
    Instr.stepStop t.uid w.2 :: (List.range 32).map (fun k => Instr.breakpointStop t.uid w.2 (Fin.ofNat 32 k)))) ++
  (if s.events.isEmpty then [] else [Instr.debugEventWrite]) ++
  (s.ctxs.filter (·.go)).flatMap (fun c => [Instr.halt c.space, Instr.resume c.space, Instr.stepon c.space, Instr.stepoff c.space])

/-- Hawkmoth's. -/
def hawkSteps (s : State) : List Instr :=
  (if s.insts.isEmpty && s.teams.isEmpty && s.poolHead.isNone then [] else [Instr.coreReservation]) ++
  (s.teams.filter (fun t => t.saving.isSome)).map (fun t => Instr.priorityPreemption t.uid) ++
  s.teams.map (fun t => Instr.teamGone t.uid) ++
  s.insts.map (fun i => Instr.nodeInstanceEnd i.uid) ++
  s.recs.map (fun r => Instr.recordCompletion r.id) ++
  s.recs.flatMap (fun r => r.nodes.zipIdx.flatMap (fun n =>
    Instr.instanceFormation r.id n.2 8 :: n.1.edges.map (fun e => Instr.instanceFormation r.id n.2 e.num))) ++
  ((servedQueues s).filter (fun n => match queueOf s n with | some q => q.en && q.overrun | none => false)).map (fun n => Instr.recordAdmission n) ++
  (if s.parts.any (·.en) then (pickQueue s).toList.map (fun n => Instr.recordAdmission n) else []) ++
  (s.parts.zipIdx.filter (fun p => p.1.closing)).map (fun p => Instr.partitionDisable (Fin.ofNat 8 p.2)) ++
  (if s.insts.any (·.det) then (List.range 32).map (fun c => Instr.logicalClusterSwitch c) else []) ++
  (match serves s with
   | some e =>
     if e.inst then [Instr.teamPlacement e.id]
     else (match s.team? e.id with
       | some t => (match groupSite s t none with
         | some site => [Instr.teamRestore t.uid ((site.find? (fun x => x.1 == t.t)).map (·.2) |>.getD 0)]
         | none => [])
       | none => [])
   | none => [])

/-- Cecropia's: a migration once begun goes on, and counts reach HOT. -/
def cecropiaSteps (s : State) : List Instr :=
  s.migs.flatMap (fun m => [Instr.migrateCopy m.space m.page, Instr.swing m.space m.page, Instr.unfreeze m.space m.page]) ++
  (if s.hotQ.isEmpty then [] else [Instr.hotUpdate 0])

def agentSteps (s : State) : List Act :=
  namedSteps s ++ (accessSteps s ++ linkSteps s ++ opSteps s ++ syncSteps s ++ debugSteps s ++ hawkSteps s ++
    cecropiaSteps s).map .event

/-- The step of another agent does something now. -/
def moves (s : State) (a : Act) : Bool :=
  let acts (i : Instr) (s : State) : Bool := match exec i s with | .next t => t != s | _ => true
  match a with
  | .event i => acts i s
  | .named i x => acts i { s with named := x }
  | _ => false

/-- The first step of another agent that is due. -/
def dueEvent (s : State) : Option Act := (agentSteps s).find? (moves s)

/-! ### What the ports issue, R26, R27 -/

def cores (s : State) : List Nat := (s.teams.map (·.core)).eraseDups

/-- A candidate that its port serves before every other, of those that `p` names. -/
def pick (s : State) (p : Cand → Bool) : Option Cand :=
  (cores s).findSome? (fun core =>
    let cs := candidates s core
    cs.find? (fun c => p c && !s.issued.contains (core, c.port) &&
      !cs.any (fun d => d.port == c.port && rankLt (rank s.cycle d) (rank s.cycle c))))

def Cand.overAge (now : Nat) (c : Cand) : Bool := 512 < now - c.since

def issueMove (c : Cand) : Move := ⟨0, .issue c.team (c.lanes.headD (0, 0)).1 (c.lanes.headD (0, 0)).2⟩

/-- Cycles that may pass at once: no candidate, and no bin, grows over-age meanwhile; with one that is, a single cycle. -/
def horizon (s : State) : Option Nat :=
  let left (since : Nat) : Nat := if 512 < s.cycle - since then 1 else 513 - (s.cycle - since)
  ((cores s).flatMap (fun core => (candidates s core).map (fun c => left c.since)) ++
    s.teams.flatMap (fun t => ((readyLanes s t).filter (heldBack s t)).filterMap (fun k => (t.lane? k).map (fun l => left l.since))) ++
    s.bins.flatMap (fun b => b.slots.filterMap (fun x => (s.lane? b.team x.2 x.1).bind (fun l =>
      if l.st == .filed then some (left l.since) else none)))).foldl
      (fun m x => match m with | some y => some (min x y) | none => some x) none

/-! ### The move -/

/-- The head of the tape, or the default, and the state without it. (DESIGN CHOICE, log entry 2.) -/
def planned (s : State) : Move × State :=
  match s.tape with
  | m :: rest => (m, { s with tape := rest })
  | [] =>
    match pick s (fun _ => true) with
    | some c => (issueMove c, s)
    | none =>
      match dueEvent s with
      | some a => (⟨1, a⟩, s)
      | none => (⟨1, .idle⟩, s)

/-- The move as planned; but no time passes while a port that has not issued serves an over-age candidate, and no more than
lets none grow older without its turn (R26, R27). -/
def nextMove (s : State) : Move × State :=
  let p := planned s
  if p.1.cycles = 0 then p
  else match pick s (Cand.overAge s.cycle) with
  | some c => (issueMove c, s)
  | none =>
    match horizon s with
    | none => p
    | some h =>
      if p.1.cycles ≤ h then p
      else (⟨h, .idle⟩, match s.tape with
        | m :: rest => { s with tape := { m with cycles := m.cycles - h } :: rest }
        | [] => s)

/-- What never stands on the tape: an instruction with an encoding, which only an issue runs, and the writes of
registers and the revocation, which MTS and the debug commands make. -/
def notAlone (i : Instr) : Bool :=
  (i.hdr?).isSome ||
  match i with
  | .tmrcmpWrite .. | .qdestWrite .. | .hiWordWrite .. | .loWordWrite .. | .rangeWord0Install .. | .sysregWrite ..
  | .debugRightRevoke .. => true
  | _ => false

def runAct (a : Act) (s : State) : Host.Outcome State Fault Refusal :=
  match a with
  | .event i => if notAlone i then finish s else exec i s
  | .named i x => if notAlone i then finish s else exec i { s with named := x }
  | .issue t w l => issueFrom s t w l
  | .idle => finish s
  | .evict holder space line => finish (evictLine s holder space line)
  | .power core evictions gated => finish (powerCount s core evictions gated)
  | .peer p => finish (peerActs s p)

/-- What moves next, after the waits that have resolved. -/
def advance (s : State) : Host.Outcome State Fault Refusal :=
  let m := nextMove (settle s)
  runAct m.1.act (tick m.1.cycles m.2)

end Sys2Proof.Machine
end

