-- ==== Sys2Proof/Machine/Step.lean ====
section
/-! DEFINITION. One step of the package: cycles pass, and one agent moves. -/

namespace Sys2Proof.Machine

/-- The step. (DESIGN CHOICE, log entry 2.) -/
def step (s : State) : Host.Outcome State Fault Refusal := advance s

/-! ### An instruction placed where the next step fetches it (log entry 1) -/

/-- A node of one team with one warp. (DESIGN CHOICE, log entry 1.) -/
def probeDesc : Desc where
  code := 0x100
  args := 0
  nt := 1
  start := 1
  limit := 2
  lanes := 1
  win := 24
  argn := 0
  tileK := 64
  scrK := 64
  fill := 32
  lead := 0
  age := 64
  rings := 0
  root := true
  trapOvf := false
  nscope := false
  fused := false
  fusedOwn := false
  place := 0
  depth := 1
  payW := 0
  roles := 0
  tiles := 0
  opnd := 0
  opndK := 0
  nsucc := 0
  npred := 0
  succ := 0
  edges := 0
  rcores := 0
  rlen := 0
  row := 1

def probeNode : Node where
  desc := probeDesc
  edges := []
  succ := []
  predsLeft := 0
  rootDone := true
  complete := false
  inst := 0
  ovf := 0
  fullc := 0

/-- Space table at PA 0, page tables behind it, and one page at PA 0x50000 that maps IA 0. -/
def probeTables (m : Cells 8) : Cells 8 :=
  [(0x0, 0x8000000000020000), (0x8, 0), (0x20000, 0x4000000000040000), (0x20008, 0), (0x40000, 0x4000000000042000),
   (0x40008, 0), (0x42000, 0x4000000000044000), (0x42008, 0), (0x44000, 0xB000000000050000), (0x44008, 0xE000000000)].foldl
    (fun m x => memPut m x.1 (leBytes 8 x.2)) m

/-- Partition 0 over the whole of memory. -/
def probePart : Partition where
  en := true
  secmask := 1
  qfirst := 0
  qlast := 0
  sptbase := 0
  fpool := 0
  membase := 0
  memlim := 0x7FFFFF
  pstat := 1
  ctxt := 0
  closing := false

def probeRange : RangeReg := ⟨0, 0x17, 0, 0⟩
def probeInst (job : Nat) : Inst := ⟨job + 1, job, 0, 0, [], 0, 1, [], 0, false, 0, false⟩
def probeRec (job : Nat) : Rec := { blankRec job 0 0 0 with nodes := [probeNode], bad := false }
def probeContext : Context :=
  { blankContext 0 with rng := (List.replicate 8 noRange).set 0 probeRange, savesz := 1 }

/-- The core of the placed instruction: the first that holds no team. -/
def probeCore (s : State) : Nat :=
  ((List.range Config.cores).find? (fun k => !s.teams.any (fun t => t.core == k))).getD 0

/-- The team of the placed instruction: its first warp has one live lane, in supervisor mode. -/
def probeTeam (s : State) : Team :=
  let t := newTeam { s with teams := [], serial := s.serial + 2 } (probeRec s.serial) (probeInst s.serial) probeDesc 0 (probeCore s) 65536 [] []
  t.modWarp 0 (fun w => { w with sup := true })

/-- The package with the bits `w` of an instruction at VA 0x100 of ASID 0, where the one lane of a team of its own issues
next. (DESIGN CHOICE, log entry 1.) -/
def State.withFetchWord (s : State) (nbits w : Nat) : State :=
  { s with
    stage := .ready
    parts := s.parts.set 0 probePart
    keys := ⟨0, 0⟩ :: s.keys.filter (fun k => k.space != 0)
    lineKey := []
    mem := memPut (probeTables s.mem) 0x50100 (leBytes 16 (w % 2 ^ nbits))
    badBytes := s.badBytes.filter (fun a => !(0x50100 ≤ a && a < 0x50110))
    tcache := s.tcache.filter (fun e => e.space != 0)
    ctxs := probeContext :: s.ctxs.filter (fun c => c.space != 0)
    recs := s.recs ++ [probeRec s.serial]
    insts := s.insts ++ [probeInst s.serial]
    teams := s.teams ++ [probeTeam s]
    issued := s.issued.filter (fun x => x.1 != probeCore s)
    serial := s.serial + 3
    tape := ⟨0, .issue (s.serial + 2) 0 0⟩ :: s.tape }

end Sys2Proof.Machine
end

