-- ==== Sys2Proof/Safety.lean ====
section
/-! DEFINITION. The terms in which claims are stated: a group of lanes that is about to issue an instruction which
nothing holds back and no check refuses, its active lanes, and what a lane's completion leaves unchanged. -/

namespace Sys2Proof.Machine

/-- R161, steps after 8: LATCH, PAIR, WINDOW, ROLE and STALE find nothing in an active lane. -/
def passes (t : Team) (w : Warp) (l : Lane) (h : Hdr) (x : Info) : Prop :=
  operandIll t.desc.win h x = none ∧ (∀ r, x.role = some r → w.role = r) ∧ staleSrc l x = false

/-- LDW and STW, which abort a TRY when they name another warp (R192). -/
def namesWindow : Instr → Bool | .ldw .. | .stw .. => true | _ => false

/-- The group `is` of the team `t` is about to issue `i`: its lanes exist and live, no wait holds one of them (R18), no active TRY
is aborted by the instruction (R192), the latches it reads stand from the instruction before (R48), and every active
lane passes the checks of R161. -/
structure Issuing (s : State) (i : Instr) (h : Hdr) (is : Issue) (t : Team) : Prop where
  hdr : i.hdr? = some h
  cur : s.cur = some is
  halt : s.halt = none
  lost : s.lost = []
  saved : s.saveQ = []
  team : s.team? is.team = some t
  lanes : ∀ k ∈ is.lanes, ∃ w l, t.warps[k.1]? = some w ∧ w.lanes[k.2]? = some l
  live : ∀ k ∈ is.lanes, ∀ w l, t.warps[k.1]? = some w → w.lanes[k.2]? = some l → w.st = .live ∧ l.st ≠ .exited
  nodup : is.lanes.Nodup
  free : ∀ k ∈ is.lanes, gated s is.team k.1 k.2 (info i) = false
  latches : sameGroup t is.lanes = true ∨ ∀ r ∈ (info i).srcs, r.1.isLatch = false
  calm : ((info i).tx = none ∧ namesWindow i = false) ∨ ∀ k ∈ is.lanes, ∀ w, t.warps[k.1]? = some w → w.tx.depth = 0
  checks : ∀ k ∈ is.lanes, ∀ w l, t.warps[k.1]? = some w → w.lanes[k.2]? = some l → guardHolds l h.g = true →
    passes t w l h (info i)

/-- A lane of the group with its warp. -/
def Member (t : Team) (is : Issue) (k : Nat × Nat) (w : Warp) (l : Lane) : Prop :=
  k ∈ is.lanes ∧ t.warps[k.1]? = some w ∧ w.lanes[k.2]? = some l

/-- A lane of the group whose guard holds (R11). -/
def Active (t : Team) (is : Issue) (h : Hdr) (k : Nat × Nat) (w : Warp) (l : Lane) : Prop :=
  Member t is k w l ∧ guardHolds l h.g = true

/-- The lanes of a group that are active in it, in the group's order. -/
def activeLanes (t : Team) (is : Issue) (h : Hdr) : List (Nat × Nat) :=
  is.lanes.filter (guarded t h)

/-- The lane that decides for its warp (R51): the first active one. -/
def Leads (t : Team) (is : Issue) (h : Hdr) (k : Nat × Nat) : Prop :=
  ((activeLanes t is h).filter (fun j => j.1 == k.1)).head? = some k

/-- The instruction completes: the next state exists, and every active lane with its warp stands there as `P` says. -/
def Completes (i : Instr) (s : State) (h : Hdr) (is : Issue) (t : Team)
    (P : Nat × Nat → Warp → Lane → Warp → Lane → Prop) : Prop :=
  ∃ s', exec i s = .next s' ∧ ∀ k w l, Active t is h k w l →
    ∃ w' l', s'.warp? is.team k.1 = some w' ∧ w'.lanes[k.2]? = some l' ∧ P k w l w' l'

/-! ### What an active lane writes, R12, R46, R51 -/

/-- The registers from `d` upward hold the words `xs` afterwards, unless W discards them (R46); an s-register holds those
of the lane that leads its warp (R51), and a write to s0 is discarded (R43). -/
def WroteRegs (h : Hdr) (d : Reg) (xs : List Word) (leads : Prop) (w' : Warp) (l' : Lane) : Prop :=
  h.nw = false → ∀ n x, xs[n]? = some x →
    match d with
    | .v k => l'.rdV (k.val + n) = x
    | .s k => leads → k.val + n ≠ 0 → w'.rdS (k.val + n) = x

/-- The latch that W names holds the one word written, R46. -/
def WroteLatch (h : Hdr) (xs : List Word) (l' : Lane) : Prop :=
  ∀ b, h.latch = some b → ∃ x, xs = [x] ∧ l'.bp[b] = some x

/-- The lane stands READY at a PC with one more completed instruction (R186). -/
def StandsAt (pc : Pc) (l l' : Lane) : Prop := l'.pc = pc ∧ l'.st = .ready ∧ l'.regionCnt = l.regionCnt + 1

/-- The PC after the group's instruction. -/
def Issue.after (is : Issue) : Pc := is.pc + BitVec.ofNat 56 is.len

/-- An active lane of a group after an instruction that writes `xs` from `d` upward and goes on. -/
def Wrote (is : Issue) (h : Hdr) (d : Reg) (xs : List Word) (leads : Prop) (l : Lane) (w' : Warp) (l' : Lane) : Prop :=
  StandsAt is.after l l' ∧ WroteRegs h d xs leads w' l' ∧ WroteLatch h xs l'

/-- The two words of a 64-bit value, low first (R149). -/
def twoWords (x : DWord) : List Word := [x.extractLsb' 0 32, x.extractLsb' 32 32]

/-! ### The rules of page 1, in integers -/

/-- A 32-bit value as S, or as Z when U. -/
def asInt (u : Bool) (x : Word) : Int := if u then (x.toNat : Int) else x.toInt

/-- Wrap, or SatS, or SatU of R12, to 32 bits. -/
def narrow32 (sat u : Bool) (x : Int) : Word :=
  BitVec.ofInt 32 (if !sat then x else if u then max 0 (min x 4294967295) else max (-2147483648) (min x 2147483647))

/-- The control value of R205: position and length. -/
def ctlPos (k : Word) : Nat := k.toNat % 32
def ctlLen (k : Word) : Nat := min (k.toNat / 256 % 64) (32 - ctlPos k)
/-- The field of R205. -/
def ctlField (a k : Word) : Nat := a.toNat / 2 ^ ctlPos k % 2 ^ ctlLen k

/-- What R201 to R208 have an instruction of page 1 write: the register and the words. There is no answer for another
instruction, nor where a lane traps (a division by 0 under TZ, R202). -/
def intRule (w : Warp) (l : Lane) : Instr → Option (Reg × List Word)
  | .iadd _ sat u d a b => some (d, [narrow32 sat u (asInt u (readSrc w l a) + asInt u (readSrcI w l b))])
  | .isub _ sat u d a b => some (d, [narrow32 sat u (asInt u (readSrc w l a) - asInt u (readSrcI w l b))])
  | .imul _ d a b => some (d, [BitVec.ofInt 32 ((readSrc w l a).toInt * (readSrcI w l b).toInt)])
  | .imulh _ u d a b =>
    some (d, [BitVec.ofInt 32 (asInt u (readSrc w l a) * asInt u (readSrcI w l b) / 4294967296)])
  | .imad _ d a b c =>
    some (d, [BitVec.ofNat 32 ((readSrc w l a).toNat * (readSrc w l b).toNat + (readSrcI w l c).toNat)])
  | .imin _ u d a b =>
    some (d, [BitVec.ofInt 32 (min (asInt u (readSrc w l a)) (asInt u (readSrcI w l b)))])
  | .imax _ u d a b =>
    some (d, [BitVec.ofInt 32 (max (asInt u (readSrc w l a)) (asInt u (readSrcI w l b)))])
  | .iabs _ sat d a => some (d, [narrow32 sat false |(readSrc w l a).toInt|])
  | .iadd64 _ sub d a b =>
    let x := (readPair w l a).toInt
    let y := match b with | .reg r => (readPair w l r).toInt | .imm x => x.toInt
    some (d, twoWords (BitVec.ofInt 64 (if sub then x - y else x + y)))
  | .imul64 _ wide u d a b =>
    some (d, twoWords (BitVec.ofInt 64 (if wide then asInt u (readSrc w l a) * asInt u (readSrc w l b)
      else (readPair w l a).toInt * (readPair w l b).toInt)))
  | .idiv _ tz u d a b =>
    if readSrcI w l b = 0 then (if tz then none else some (d, [0xFFFFFFFF]))
    else some (d, [BitVec.ofInt 32 ((asInt u (readSrc w l a)).tdiv (asInt u (readSrcI w l b)))])
  | .irem _ tz u d a b =>
    if readSrcI w l b = 0 then (if tz then none else some (d, [readSrc w l a]))
    else some (d, [BitVec.ofInt 32 ((asInt u (readSrc w l a)).tmod (asInt u (readSrcI w l b)))])
  | .and _ d a b => some (d, [readSrc w l a &&& readSrcI w l b])
  | .or _ d a b => some (d, [readSrc w l a ||| readSrcI w l b])
  | .xor _ d a b => some (d, [readSrc w l a ^^^ readSrcI w l b])
  | .andn _ d a b => some (d, [readSrc w l a &&& ~~~readSrcI w l b])
  | .shl _ d a b =>
    some (d, [if (readSrcI w l b).toNat < 32 then BitVec.ofNat 32 ((readSrc w l a).toNat * 2 ^ (readSrcI w l b).toNat) else 0])
  | .shr _ d a b =>
    some (d, [if (readSrcI w l b).toNat < 32 then BitVec.ofNat 32 ((readSrc w l a).toNat / 2 ^ (readSrcI w l b).toNat) else 0])
  | .sar _ d a b =>
    some (d, [if (readSrcI w l b).toNat < 32 then BitVec.ofInt 32 ((readSrc w l a).toInt / 2 ^ (readSrcI w l b).toNat)
      else if (readSrc w l a).getLsbD 31 then 0xFFFFFFFF else 0])
  | .rotl _ d a b =>
    let n := (readSrcI w l b).toNat % 32
    some (d, [BitVec.ofNat 32 ((readSrc w l a).toNat * 2 ^ n + (readSrc w l a).toNat / 2 ^ (32 - n))])
  | .bfx _ u d a b =>
    let f := ctlField (readSrc w l a) (readSrcI w l b)
    let n := ctlLen (readSrcI w l b)
    some (d, [if n = 0 then 0 else if u || f < 2 ^ (n - 1) then BitVec.ofNat 32 f else BitVec.ofInt 32 ((f : Int) - 2 ^ n)])
  | .bfi _ d a b c =>
    let k := readSrcI w l c
    some (d, [BitVec.ofNat 32 ((readSrc w l a).toNat - ctlField (readSrc w l a) k * 2 ^ ctlPos k
      + (readSrc w l b).toNat % 2 ^ ctlLen k * 2 ^ ctlPos k)])
  | .popc _ d a => some (d, [BitVec.ofNat 32 ((List.range 32).filter (fun k => (readSrc w l a).getLsbD k)).length])
  | .clz _ d a => some (d, [BitVec.ofNat 32 (if readSrc w l a = 0 then 32 else 31 - Nat.log2 (readSrc w l a).toNat)])
  | .sel _ d p a b => some (d, [if (l.rdP p.p != p.neg) then readSrc w l a else readSrcI w l b])
  | .mov _ d a => some (d, [readSrc w l a])
  | .movi _ d (.i32 x) => some (d, [x])
  | .movi _ d (.i64 x) => some (d, twoWords x)
  | .lea _ u sh d a f =>
    let x : Int := match f with | .reg b => asInt u (readSrc w l b) | .imm x => asInt u x | .wide b _ => asInt u (readSrc w l b)
    let e : Int := match f with | .wide _ e => e.toInt | _ => 0
    some (d, twoWords (BitVec.ofInt 64 ((readPair w l a).toInt + x * 2 ^ sh.val + e)))
  | _ => none

/-! ### The rules of page 2, over the exact values of R97 to R108 -/

/-- RoundFP32 of an exact value under the instruction's mode, then SAT (R210). -/
def roundSat (m : FMod) (v : Val) : Word :=
  if m.sat then BitVec.ofNat 32 (fp32.clamp01 (toF32 m.rm v).toNat) else toF32 m.rm v

/-- A modified source of R210. -/
def modified (abs neg : Bool) (x : Word) : Val := modify abs neg (f32 x)

/-- R212: x is not above y, with −0 below +0. -/
def notAbove (x y : Word) : Bool :=
  match (f32 x).cmp (f32 y) with
  | .lt => true
  | .gt => false
  | .eq => (f32 x).negative || !(f32 y).negative

/-- R212: the smaller or the larger of two inputs; a NaN gives way to a number. -/
def lesser (max : Bool) (x y : Word) : Word :=
  if (f32 x).isNan && (f32 y).isNan then 0x7FC00000
  else if (f32 x).isNan then y
  else if (f32 y).isNan then x
  else if notAbove x y != max then x else y

/-- What R211 to R215 have an FP32 instruction write. -/
def floatRule (w : Warp) (l : Lane) : Instr → Option (Reg × List Word)
  | .fadd _ m d a b =>
    some (d, [roundSat m (sumTerms m.rm [modified m.aa m.na (readSrc w l a), modified m.ab m.nb (readSrcI w l b)])])
  | .fsub _ m d a b =>
    some (d, [roundSat m (sumTerms m.rm [modified m.aa m.na (readSrc w l a), (modified m.ab m.nb (readSrcI w l b)).neg])])
  | .fmul _ m d a b =>
    some (d, [roundSat m ((modified m.aa m.na (readSrc w l a)).mul (modified m.ab m.nb (readSrcI w l b)))])
  | .ffma _ m d a b c =>
    some (d, [roundSat m (sumTerms m.rm
      [(modified m.aa m.na (readSrc w l a)).mul (modified m.ab m.nb (readSrc w l b)), modified false m.nc (readSrcI w l c)])])
  | .fmin _ m d a b =>
    some (d, [lesser false (modifyWord m.aa m.na (readSrc w l a)) (modifyWord m.ab m.nb (readSrcI w l b))])
  | .fmax _ m d a b =>
    some (d, [lesser true (modifyWord m.aa m.na (readSrc w l a)) (modifyWord m.ab m.nb (readSrcI w l b))])
  | .fcls _ d a => some (d, [floatClass (readSrc w l a)])
  | .frnd _ m d a =>
    let v : Val := match modified m.aa m.na (readSrc w l a) with
      | .fin neg x e => .fin neg (roundInt m.rm neg x e) 0
      | v => v
    some (d, [roundSat { m with rm := .rn } v])
  | .fscale _ m d a b =>
    some (d, [roundSat m ((modified m.aa m.na (readSrc w l a)).scale (max (-1000) (min (readSrcI w l b).toInt 1000)))])
  | _ => none

/-- What R216 to R219 have a conversion, packed or complex instruction write. -/
def convertRule (w : Warp) (l : Lane) : Instr → Option (Reg × List Word)
  | .fcvt _ toF ty sat rm d a =>
    some (d, [if toF then toF32 .rn (elemVal (elemCode ty) (readSrc w l a).toNat)
      else BitVec.ofNat 32 (toElem (elemCode ty) rm sat
        (match f32 (readSrc w l a) with | .fin _ 0 e => .fin false 0 e | v => v))])
  | .icvt _ toInt ft it rm d a =>
    if toInt then
      let n := toIntSat rm (itLo it) (itHi it) ((fmtF ft).decode ((readSrc w l a).toNat % 2 ^ (fmtF ft).width))
      some (d, if it = .s64 then twoWords (BitVec.ofInt 64 n) else [BitVec.ofInt 32 n])
    else
      let x := if it = .s64 then (readPair w l a).toNat else (readSrc w l a).toNat
      some (d, [BitVec.ofNat 32 ((fmtF ft).round rm (.ofInt (itRead it x)))])
  | .hfma2 _ m d a b c =>
    some (d, [halves fp16 m.sat (opFma m.rm) m.rm [m.na, m.nb, m.nc] [readSrc w l a, readSrc w l b, readSrc w l c]])
  | .bfma2 _ m d a b c =>
    some (d, [halves bf16 m.sat (opFma m.rm) m.rm [m.na, m.nb, m.nc] [readSrc w l a, readSrc w l b, readSrc w l c]])
  | .hadd2 _ m d a b => some (d, [halves fp16 m.sat (sumTerms m.rm) m.rm [m.na, m.nb] [readSrc w l a, readSrc w l b]])
  | .hmul2 _ m d a b => some (d, [halves fp16 m.sat opMul m.rm [m.na, m.nb] [readSrc w l a, readSrc w l b]])
  | .cadd _ m d a b => some (d, twoWords (caddPair m false (readPair w l a) (readPair w l b)))
  | .csub _ m d a b => some (d, twoWords (caddPair m true (readPair w l a) (readPair w l b)))
  | .cmul _ m d a b => some (d, twoWords (cmulPair m (readPair w l a) (readPair w l b)))
  | .cfma _ m d a b c => some (d, twoWords (cfmaPair m (readPair w l a) (readPair w l b) (readPair w l c)))
  | .cmag2 _ m d a => some (d, [cmag2Word m (readPair w l a)])
  | .cscale _ m d a b => some (d, twoWords (cscalePair m (readPair w l a) (readSrcI w l b)))
  | _ => none

/-! ### The rules of page 0 -/

/-- The lanes of its warp that are active with a lane, as slots, in the group's order. -/
def peers (t : Team) (is : Issue) (h : Hdr) (k : Nat × Nat) : List Nat :=
  ((activeLanes t is h).filter (fun j => j.1 == k.1)).map (·.2)

/-- The vote of a slot of the warp, R181. -/
def voteOf (w : Warp) (ps : PSrc) (slot : Nat) : Bool :=
  match w.lanes[slot]? with | some l => l.rdP ps.p != ps.neg | none => false

/-- The slot that SHFL reads for a lane, R181. -/
def shuffled (mode : ShflMode) (slot : Nat) (b : Word) : Nat :=
  let g := 2 ^ min (b.toNat % 8) 5
  match mode with
  | .pick => b.toNat % 32
  | .rot => (slot + b.toNat % 32) % 32
  | .rev => Nat.xor slot (g - 1)
  | .seg => slot - slot % g

/-- What R181, R182 and R196 have a collective or an identity read write. -/
def laneRule (s : State) (t : Team) (is : Issue) (h : Hdr) (k : Nat × Nat) (w : Warp) (l : Lane) :
    Instr → Option (Reg × List Word)
  | .vote _ (.ballot d) ps =>
    some (d, [((peers t is h k).filter (voteOf w ps)).foldl (fun m j => m ||| BitVec.ofNat 32 (2 ^ j)) 0])
  | .shfl _ mode d a b =>
    let j := shuffled mode k.2 (readSrcI w l b)
    some (d, [if (peers t is h k).contains j then ((w.lanes[j]?).map (fun x => readSrc w x a)).getD 0 else readSrc w l a])
  | .tstat _ d => some (d, [l.tstat ||| BitVec.ofNat 32 (w.tx.depth * 256)])
  | .getid _ kind d =>
    let i := s.inst? t.inst
    let r := s.teamRec? t
    some (d, [BitVec.ofNat 32 (match kind with
      | .lane => k.2
      | .warp => w.idx
      | .ctx => w.ctx
      | .core => t.core % 16
      | .sector => t.core / 16
      | .pkg => s.pkg.val
      | .team => t.t
      | .nteams => t.desc.nt
      | .lcore => match r with
        | some r => if r.det then t.t % shapeCores r.shape else t.core
        | none => t.core
      | .depth => match i with | some i => i.depth | none => 0)])
  | _ => none

/-- The predicate that R181, R206 and R213 have an instruction write. -/
def predRule (t : Team) (is : Issue) (h : Hdr) (k : Nat × Nat) (w : Warp) (l : Lane) : Instr → Option (Fin 8 × Bool)
  | .iset _ c u pd a b =>
    let x := asInt u (readSrc w l a)
    let y := asInt u (readSrcI w l b)
    match c with
    | .eq => some (pd, decide (x = y))
    | .ne => some (pd, decide (x ≠ y))
    | .lt => some (pd, decide (x < y))
    | .le => some (pd, decide (x ≤ y))
    | .gt => some (pd, decide (y < x))
    | .ge => some (pd, decide (y ≤ x))
    | .un => none
  | .fset _ c _ pd a b =>
    let x := f32 (readSrc w l a)
    let y := f32 (readSrcI w l b)
    some (pd, if x.isNan || y.isNan then c == .ne || c == .un
      else match c with
        | .eq => x.cmp y == .eq
        | .ne => x.cmp y != .eq
        | .lt => x.cmp y == .lt
        | .le => x.cmp y != .gt
        | .gt => x.cmp y == .gt
        | .ge => x.cmp y != .lt
        | .un => false)
  | .elect _ pd => some (pd, (peers t is h k).head? == some k.2)
  | .vote _ (.all pd) ps => some (pd, (peers t is h k).all (voteOf w ps))
  | .vote _ (.any pd) ps => some (pd, (peers t is h k).any (voteOf w ps))
  | .vote _ (.eq pd) ps => some (pd, (peers t is h k).all (voteOf w ps) || !(peers t is h k).any (voteOf w ps))
  | _ => none

/-- Where R178, R179 and R186 have a lane go: the next PC. There is no answer where the lane traps (R146). -/
def jumpRule (is : Issue) (w : Warp) (l : Lane) : Instr → Option Pc
  | .nop _ => some is.after
  | .bra _ disp => some (is.pc + BitVec.ofInt 56 (4 * disp.toInt))
  | .brc _ c u a disp =>
    let x := asInt u (readSrc w l a)
    let holds : Bool := match c with
      | .eq => decide (x = 0) | .ne => decide (x ≠ 0) | .lt => decide (x < 0) | .le => decide (x ≤ 0)
      | .gt => decide (0 < x) | .ge => decide (0 ≤ x) | .un => false
    some (if holds then is.pc + BitVec.ofInt 56 (4 * disp.toInt) else is.after)
  | .jmpi _ a | .ret _ a =>
    let x := (readPair w l a).toNat
    if x % 4 = 0 ∧ x < 2 ^ 56 then some (BitVec.ofNat 56 x) else none
  | .call _ _ disp => some (is.pc + BitVec.ofInt 56 (4 * disp.toInt))
  | _ => none

/-! ### Instructions that act once for a warp, or for one lane -/

/-- One lane of the group is active. -/
def OneLane (t : Team) (is : Issue) (h : Hdr) (k : Nat × Nat) : Prop := activeLanes t is h = [k]

/-- The active lanes are those of one warp, and `k` is the first of them. -/
def OneWarp (t : Team) (is : Issue) (h : Hdr) (k : Nat × Nat) : Prop :=
  (activeLanes t is h).head? = some k ∧ ∀ j ∈ activeLanes t is h, j.1 = k.1

/-- Every active lane of the group stands READY after the instruction, one instruction on. -/
def GoesOn (s' : State) (t : Team) (is : Issue) (h : Hdr) : Prop :=
  ∀ k w l, Active t is h k w l → ∃ w' l', s'.warp? is.team k.1 = some w' ∧ w'.lanes[k.2]? = some l' ∧ StandsAt is.after l l'

/-- Every active lane of the group is BLOCKED in a wait at the instruction. -/
def WaitsIn (s' : State) (t : Team) (is : Issue) (h : Hdr) (x : Wait) : Prop :=
  ∀ k w l, Active t is h k w l → ∃ w' l', s'.warp? is.team k.1 = some w' ∧ w'.lanes[k.2]? = some l' ∧
    l'.st = .blocked ∧ l'.wait = x ∧ l'.pc = l.pc

/-! ### What an instruction on registers leaves alone -/

/-- The instructions that compute on registers alone: pages 1 and 2, the branches, the collectives and the reads of
identities. -/
def onRegisters : Instr → Bool
  | .nop .. | .bra .. | .brc .. | .jmpi .. | .call .. | .ret .. | .elect .. | .vote .. | .shfl .. | .tstat .. | .getid ..
  | .iadd .. | .isub .. | .imul .. | .imulh .. | .imad .. | .iadd64 .. | .imul64 .. | .idiv .. | .irem .. | .imin ..
  | .imax .. | .iabs .. | .and .. | .or .. | .xor .. | .andn .. | .shl .. | .shr .. | .sar .. | .rotl .. | .bfx ..
  | .bfi .. | .popc .. | .clz .. | .iset .. | .sel .. | .mov .. | .movi .. | .lea .. | .fadd .. | .fsub .. | .fmul ..
  | .ffma .. | .fmin .. | .fmax .. | .fset .. | .fcls .. | .frnd .. | .fscale .. | .fcvt .. | .icvt .. | .hfma2 ..
  | .hadd2 .. | .hmul2 .. | .bfma2 .. | .cadd .. | .csub .. | .cmul .. | .cfma .. | .cmag2 .. | .cscale .. => true
  | _ => false

/-- The lane traps: a division by 0 under TZ (R202), a jump to no instruction address (R146). -/
def trapsOn (is : Issue) (w : Warp) (l : Lane) (i : Instr) : Bool :=
  match i with
  | .idiv _ tz _ _ _ b | .irem _ tz _ _ _ b => tz && readSrcI w l b == 0
  | .jmpi .. | .ret .. => (jumpRule is w l i).isNone
  | _ => false

/-- The registers that an instruction names as its destination (R149). -/
def Dst.holds (x : Dst) (r : Reg) : Bool :=
  match x, r with
  | .one (.v n), .v m => n == m
  | .one (.s n), .s m => n == m
  | .many (.v n) c, .v m => n.val ≤ m.val && m.val < n.val + c
  | .many (.s n) c, .s m => n.val ≤ m.val && m.val < n.val + c
  | _, _ => false

/-- The predicate that an instruction names as its destination. -/
def predDst : Instr → Option (Fin 8)
  | .elect _ p | .vote _ (.all p) _ | .vote _ (.any p) _ | .vote _ (.eq p) _ | .iset _ _ _ p _ _ | .fset _ _ _ p _ _ => some p
  | _ => none

/-- A lane that the instruction does not concern, or that it only lets go on: its registers but those written, its
predicates but the one written, its counts, hashes and speculation status stand. -/
def LaneKeeps (i : Instr) (writes : Bool) (l l' : Lane) : Prop :=
  (∀ n : Fin 192, (writes && (info i).dst.holds (.v n)) = false → l'.rdV n.val = l.rdV n.val) ∧
  (∀ p : Fin 8, (writes && predDst i == some p) = false → l'.rdP p = l.rdP p) ∧
  l'.regionPc = l.regionPc ∧ l'.phases = l.phases ∧ l'.ords = l.ords ∧ l'.tstat = l.tstat ∧ l'.crc = l.crc ∧
  l'.stores = l.stores ∧ l'.held = l.held ∧ l'.skip = l.skip

/-- The warp: its s-registers but those written, and every other register and mark but UCONFLICT (R52). -/
def WarpKeeps (i : Instr) (writes : Bool) (w w' : Warp) : Prop :=
  (∀ n : Fin 64, (writes && (info i).dst.holds (.s n)) = false → w'.rdS n.val = w.rdS n.val) ∧
  w' = { w with lanes := w'.lanes, s := w'.s, stack := w'.stack, uconflict := w'.uconflict } ∧
  ((∀ n, (info i).dst.holds (.s n) = false) → w'.uconflict = w.uconflict) ∧ w'.lanes.length = w.lanes.length

/-! ### Conditions on the state -/

/-- No L1 holds a dirty line of a space. -/
def NoDirty (s : State) (space : Nat) : Prop := ∀ d ∈ s.l1, d.space ≠ space

/-- A release by a team of a space has nothing to write back, neither of the space's lines in the L1s nor of any in the slices
(R69, R84, R89), and every peer that its directories would reach is in reach (R416). -/
def CleanSpace (s : State) (space : Nat) : Prop :=
  NoDirty s space ∧ (∀ d ∈ s.l1, sectorAt? d.core = none) ∧ peerLost s = false

/-- The context has no debug block, so that no record of R389 to R394 is written. -/
def NoDebugBlock (s : State) (space : Nat) : Prop := ∀ c, s.ctx? space = some c → c.dblk = none

/-- A translation stands in Cecropia's cache with its rights, its accessed and its dirty bit, leads to a package that a
port reaches, and to an address at which there is memory (R335, R350, R353). -/
structure Warm (s : State) (space ia : Nat) (need : Need) (lane : Bool) (tr : Trans) : Prop where
  hit : (cached s space ia).isSome = true
  look : lookup s space ia need lane = .ok tr
  bits : leafA tr.leaf = true ∧ leafD tr.leaf = true
  near : unreachable s tr.leaf = false
  real : tr.pa < 2 ^ 39 ∨ 2 ^ 48 ≤ tr.pa

/-- A lane after a rollback of R193 with a TSTAT word: as its checkpoint holds it, at the handler's PC if it was a
member of the TRY. -/
def RolledTo (tx : TryState) (word : Word) (slot : Nat) (l l' : Lane) : Prop :=
  ∀ c, tx.ckLanes.find? (fun c => c.slot == slot) = some c → l.st ≠ .exited →
    l'.v = c.v ∧ l'.p = c.p ∧ l'.regionPc = c.regionPc ∧ l'.regionCnt = c.regionCnt ∧ l'.tstat = word ∧
    l'.pc = (if tx.members.getLsbD slot then tx.target else c.pc) ∧ l'.bp = noLatches

/-- The warp's TRY has been rolled back with a TSTAT word: no lane of it is in a TRY, its s-registers and every lane are
those of the checkpoint (R193). -/
def RolledBack (s' : State) (u wi : Nat) (w : Warp) (word : Word) : Prop :=
  ∃ w', s'.warp? u wi = some w' ∧ w'.tx = TryState.none ∧ w'.s = w.tx.ckS ∧
    ∀ j l, w.lanes[j]? = some l → ∃ l', w'.lanes[j]? = some l' ∧ RolledTo w.tx word j l l'

/-- The same of a warp of the issuing team. -/
def Aborted (s' : State) (is : Issue) (wi : Nat) (w : Warp) (word : Word) : Prop := RolledBack s' is.team wi w word

/-- What a TRY saved of the scratchpad: granules, each once, with cells of their own (R190). -/
def UndoOk (tx : TryState) : Prop :=
  (tx.undo.map (·.1)).Nodup ∧ ∀ g ∈ tx.undo, cellsWf g.2 = true ∧ ∀ c ∈ g.2, c.1 / 1024 = g.1

/-- The TSTAT word of R196. -/
def statusWord (code info sub : Nat) : Word := BitVec.ofNat 32 (code + sub * 65536 + info * 16777216)

/-! ### Accesses, R222 to R229 -/

/-- No warp of the team is in a TRY; no warp of the package is. -/
def NoTry (t : Team) : Prop := ∀ w ∈ t.warps, w.tx.depth = 0
def NoTryAtAll (s : State) : Prop := ∀ t ∈ s.teams, NoTry t

/-- The effective address of R222. -/
def eaOf (w : Warp) (l : Lane) (ad : Addr) : DWord := readPair w l ad.base + (ad.off.getD 0).signExtend 64
/-- A 32-bit base plus its offset, R222. -/
def offsetOf (w : Warp) (l : Lane) (ad : Addr) : Int := ((readSrc w l ad.base).toNat : Int) + (ad.off.getD 0).toInt

/-- A global access that an instruction makes: its address operand, width in bytes and need. -/
def accessShape : Instr → Option (Addr × Nat × Need)
  | .ld _ m _ ad | .lda _ m _ ad => some (ad, widthBytes m.width, .load)
  | .st _ m ad _ | .stl _ m ad _ => some (ad, widthBytes m.width, .store)
  | .atomAdd _ m _ ad _ | .atomMin _ m _ ad _ | .atomMax _ m _ ad _ | .atomAnd _ m _ ad _ | .atomOr _ m _ ad _
  | .atomXor _ m _ ad _ | .atomXchg _ m _ ad _ | .atomFadd _ m _ ad _ | .acas _ m _ ad _ _ =>
    some (ad, if m.w64 then 8 else 4, .atomic)
  | _ => none

/-- A destination of some registers that W does not discard. -/
def destOf (h : Hdr) (d : Reg) (n : Nat) : Option (Reg × Nat) := if h.nw then none else some (d, n)

/-- An atomic as it leaves its lane, R228. -/
def atomRule (l : Lane) (w : Warp) (m : AtomM) (op : AccOp) (h : Hdr) (d : Reg) (data cmp : Nat) (a : Access) : Access :=
  { a with
    op := op, signed := !m.u, dst := destOf h d (if m.w64 then 2 else 1), latch := h.latch, data := BitVec.ofNat 128 data
    cmp := BitVec.ofNat 64 cmp, scope := some m.scope
    ord := if m.ord && w.det then some (l.phases.toNat, l.ords) else none }

/-- What leaves the lane, over an access that names its address, width, lane and instruction. -/
def accessRule (w : Warp) (l : Lane) (i : Instr) (a : Access) : Access :=
  let one (m : AtomM) (b : Src) : Nat := readRegs w l b (if m.w64 then 2 else 1)
  match i with
  | .ld h m d _ => { a with
      op := .load, signed := signedWidth m.width, dst := destOf h d (widthRegs m.width), latch := h.latch
      scope := if m.strong then some m.scope else none }
  | .lda h m d _ => { a with
      op := .load, signed := signedWidth m.width, dst := destOf h d (widthRegs m.width), latch := h.latch
      scope := some m.scope, acq := true }
  | .st _ m _ b => { a with
      op := .store, data := BitVec.ofNat 128 (readRegs w l b (widthRegs m.width) % 2 ^ (8 * widthBytes m.width))
      scope := if m.strong then some m.scope else none }
  | .stl _ m _ b => { a with
      op := .store, data := BitVec.ofNat 128 (readRegs w l b (widthRegs m.width) % 2 ^ (8 * widthBytes m.width))
      scope := some m.scope, rel := some m.scope }
  | .atomAdd h m d _ b => atomRule l w m (.atom 0) h d (one m b) 0 a
  | .atomMin h m d _ b => atomRule l w m (.atom 1) h d (one m b) 0 a
  | .atomMax h m d _ b => atomRule l w m (.atom 2) h d (one m b) 0 a
  | .atomAnd h m d _ b => atomRule l w m (.atom 3) h d (one m b) 0 a
  | .atomOr h m d _ b => atomRule l w m (.atom 4) h d (one m b) 0 a
  | .atomXor h m d _ b => atomRule l w m (.atom 5) h d (one m b) 0 a
  | .atomXchg h m d _ b => atomRule l w m (.atom 6) h d (one m b) 0 a
  | .atomFadd h m d _ b => atomRule l w m (.atom 7) h d (one m b) 0 a
  | .acas h m d _ b c => atomRule l w m .cas h d (one m c) (one m b) a
  | _ => a

/-- An access before the fields of its kind. -/
def bareAccess (s : State) (is : Issue) (k : Nat × Nat) (l : Lane) (va : DWord) (ia n : Nat) : Access :=
  { blankAccess .load va ia n with
    id := s.serial, group := is.id, team := is.team, warp := k.1, lane := k.2, pc := is.pc, len := is.len, bits := is.bits
    regionPc := l.regionPc, regionCnt := l.regionCnt }

/-- The value that R228 has an atomic write over an old one, of n bytes. -/
def atomRuleValue (op : Nat) (unsigned : Bool) (n old b : Nat) : Nat :=
  let key (x : Nat) : Int := if unsigned then (x : Int) else if x < 2 ^ (8 * n - 1) then (x : Int) else (x : Int) - 2 ^ (8 * n)
  match op with
  | 0 => (old + b) % 2 ^ (8 * n)
  | 1 => if key old ≤ key b then old else b
  | 2 => if key old ≤ key b then b else old
  | 3 => Nat.land old b
  | 4 => Nat.lor old b
  | 5 => Nat.xor old b
  | 6 => b
  | _ => (toF32 .rn (sumTerms .rn [f32 (BitVec.ofNat 32 old), f32 (BitVec.ofNat 32 b)])).toNat

/-- The bytes that an access stores over the bytes it finds; none for a load and for a comparison that fails. -/
def storedBytes (a : Access) (old : List Byte) : Option (List Byte) :=
  match a.op with
  | .load => none
  | .store => some (leBytes a.width a.data.toNat)
  | .atom op => some (leBytes a.width (atomRuleValue op (!a.signed) a.width (leNat old) (a.data.toNat % 2 ^ (8 * a.width))))
  | .cas => if leNat old = a.cmp.toNat then some (leBytes a.width a.data.toNat) else none

/-- Every line that n bytes touch is enciphered under this key, or under none yet (R412). -/
def KeyedAs (s : State) (key : Option (BitVec 512)) (pa n : Nat) : Prop :=
  ∀ x ∈ linesOf pa n, ∀ k0, (s.lineKey.find? (fun k => k.1 == x)).map (·.2) = some k0 → key = some k0

/-- What an instruction overtakes changes nothing of an outstanding result but the words and the latch that it no longer
writes (R46, R223). -/
def Access.plain (a : Access) : Access := { a with dead := 0, latch := none }
def Result.plain (a : Result) : Result := { a with dead := 0, latch := none }
def EngOp.plain (a : EngOp) : EngOp := { a with dead := 0, latch := none }

/-- Nothing holds the performance of an access beyond its order: no gate, no freeze, no write-back of its release (R227), and
no byte that it would read has an uncorrectable error (R375). -/
structure Performs (s : State) (t : Team) (a : Access) (tr : Trans) : Prop where
  awake : s.halt = none ∧ s.lost = [] ∧ s.saveQ = []
  calm : NoTryAtAll s
  team : s.team? a.team = some t
  released : a.rel = none ∨ CleanSpace s t.space
  warm : Warm s t.space a.ia a.op.need true tr
  sound : a.op = .store ∨ corrupt s tr.pa a.width = false
  keyed : KeyedAs s (ownerKey s t.space tr.leaf) tr.pa a.width
  narrow : a.width ≤ 16

/-- An access has been performed (R223, R228): it is gone; what it returns is an outstanding result with the bytes that its
core saw; and what it stores stands where the core sees it, every other byte of memory as before. -/
def Performed (s s' : State) (t : Team) (a : Access) (tr : Trans) : Prop :=
  let old := readBytes s t.core t.desc.fused t.space a.ia a.width tr
  s'.accs = s.accs.filter (fun b => b.id != a.id) ∧
  (a.op ≠ .store → ∃ r, s'.results = s.results ++ [r] ∧ r.load = true ∧ r.team = a.team ∧ r.warp = a.warp ∧ r.lane = a.lane ∧
    r.dst = a.dst ∧ r.latch = a.latch ∧ r.acq = a.acq ∧ r.dead = a.dead ∧
    r.val = (if a.op = .load then loadVal a.signed a.width old else BitVec.ofNat 128 (leNat old))) ∧
  (∀ bs, storedBytes a old = some bs → readBytes s' t.core t.desc.fused t.space a.ia a.width tr = bs) ∧
  (∀ x, (storedBytes a old = none ∨ x < tr.pa ∨ tr.pa + a.width ≤ x) → cget s'.mem x = cget s.mem x)

/-- Bytes of the context from a VA upward lie in one page, which stands for stores, at `pa` and under its owner's key. -/
def StandsVa (s : State) (space va n pa : Nat) : Prop :=
  ∃ c ia tr, s.ctx? space = some c ∧ rangeCheck c (BitVec.ofNat 64 va) .store = .ok ia ∧ Warm s space ia .store false tr ∧
    tr.pa = pa ∧ va % 65536 + n ≤ 65536 ∧ KeyedAs s (ownerKey s space tr.leaf) pa n

/-! ### Engines -/

/-- No access has met an absent memory, no context waits to be stopped, and no write to a save area waits for an unfreeze. -/
def Awake (s : State) : Prop := s.halt = none ∧ s.lost = [] ∧ s.saveQ = []

/-- A range register of the context allows every beat (R345). -/
def Ranged (s : State) (space : Nat) (need : Need) (bs : List Beat) : Prop :=
  ∃ c, s.ctx? space = some c ∧ ∀ b ∈ bs, ∃ ia, rangeCheck c (BitVec.ofNat 64 b.va) need = .ok ia

/-- One operation has joined those that run (R92): its instruction, its warp and PC, its operands and its tiles. -/
def Queued (s s' : State) (i : Instr) (is : Issue) (k : Nat × Nat) (args tiles : List Nat) : Prop :=
  ∃ o os, s'.ops = os ++ [o] ∧ os.map EngOp.plain = s.ops.map EngOp.plain ∧ o.id = s.serial ∧ o.ins = i ∧ o.team = is.team ∧ o.warp = k.1 ∧ o.pc = is.pc ∧
    o.args = args ∧ o.tiles = tiles ∧ o.pos = 0 ∧ o.stuck = false

/-- A tile of the tile table and its state. -/
def TileAt (s : State) (u n : Nat) (st : TileSt) : Prop := ∃ t, s.team? u = some t ∧ (t.tile n).st = st

/-- Every beat has a translation of its own, which stands with its bits, and all of them one key; the keys of the lines
that they touch agree with it (R412); and no byte that is read has an uncorrectable error (R375). -/
structure Streamed (s : State) (space : Nat) (need : Need) (key : Option (BitVec 512)) (bs : List Beat)
    (tr : Beat → Trans) : Prop where
  warm : ∀ b ∈ bs, Warm s space b.ia need false (tr b)
  owner : ∀ b ∈ bs, ownerKey s space (tr b).leaf = key
  lines : ∀ b ∈ bs, KeyedAs s key (tr b).pa b.len
  inLine : ∀ b ∈ bs, 0 < b.len ∧ b.ia / 128 = (b.ia + b.len - 1) / 128
  sound : need = .store ∨ ∀ b ∈ bs, corrupt s (tr b).pa b.len = false

/-- No active lane of the group waits for a request of its own at the governor (R318). -/
def NoRequest (t : Team) (is : Issue) (h : Hdr) : Prop := ∀ k w l, Active t is h k w l → ∀ n, l.wait ≠ .leave n

/-- A grant of a kind that has not lapsed (R318). -/
def HoldsGrant (s : State) (t : Team) (kind : Nat) : Prop := ∃ g ∈ t.grants, g.1 = kind ∧ s.cycle < g.2

/-- Nothing that a warp has outstanding is still to come back or to be sent (R301). -/
def Quiet (s : State) (u wi : Nat) : Prop := (∀ a ∈ s.accs, a.team = u → a.warp ≠ wi) ∧ mustDrain s u wi = false

/-- No two beats lie over each other in the tile area. -/
def Apart (bs : List Beat) : Prop := bs.Pairwise (fun a b => a.off + a.len ≤ b.off ∨ b.off + b.len ≤ a.off)

/-- The tile area of a team after some beats from memory: their bytes are those that its core saw, and the rest stands. -/
def Filled (s : State) (t t' : Team) (bs : List Beat) (tr : Beat → Trans) : Prop :=
  (∀ e ∈ bs, cread t'.tileMem e.off e.len = readBytes s t.core t.desc.fused t.space e.ia e.len (tr e)) ∧
  (∀ x, (∀ e ∈ bs, x < e.off ∨ e.off + e.len ≤ x) → cget t'.tileMem x = cget t.tileMem x)

/-- Operations take their names from a counter: no operation has the next one yet. -/
def FreshName (s : State) : Prop := ∀ o ∈ s.ops, o.id ≠ s.serial

/-- A requester's beats that a multicast covers and that have left it (R72). -/
def Missed (m : Mcast) (ias : List Nat) (k : Nat) : Prop :=
  ∃ ia j, ias[k]? = some ia ∧ m.beatAt ia = some j ∧ m.hasLeft j = true

/-- The fields of a stream-vector instruction: its counts and steps, its tiles, and a scalar B (R252, R254). -/
def vsNames : Instr → Option (Hdr × VsArgs × Option Src)
  | .vadd h m _ d a (.tile b) | .vsub h m _ d a (.tile b) | .vmul h m _ d a (.tile b) | .vfma h m _ d a (.tile b)
  | .vmax h m _ d a (.tile b) | .vmin h m _ d a (.tile b) => some (h, ⟨m, d.val, a.val, some b.val⟩, none)
  | .vadd h m _ d a (.scalar r) | .vsub h m _ d a (.scalar r) | .vmul h m _ d a (.scalar r) | .vfma h m _ d a (.scalar r)
  | .vmax h m _ d a (.scalar r) | .vmin h m _ d a (.scalar r) => some (h, ⟨m, d.val, a.val, none⟩, some r)
  | .vred h m _ d a | .vcvt h m _ d a | .vcpy h m d a => some (h, ⟨m, d.val, a.val, none⟩, none)
  | .vqnt h m _ d a b | .vdeq h m d a b => some (h, ⟨m, d.val, a.val, some b.val⟩, none)
  | _ => none

/-- The vector of an operand in iteration i, R253: it starts i steps after the tile's base. -/
def vsVector (h : Shape) (step : BitVec 12) (i : Nat) : Shape := { h with base := ((h.base : Int) + i * step.toInt).toNat }

/-- The byte after the n elements of a vector. -/
def spanEnd (h : Shape) (n : Nat) : Nat := h.base + (n * typeBits h.ty + 7) / 8

def isVqnt : Instr → Bool | .vqnt .. => true | _ => false

/-- Elements that an iteration writes of D: one for VRED, else D's columns (R253). -/
def vsWidth (i : Instr) (d : Shape) : Nat := match i with | .vred .. => 1 | _ => d.cols

/-- Element c of a vector, exactly. -/
def vsValue (m : Cells 8) (h : Shape) (c : Nat) : Val := elemVal h.ty (elemAt m h 0 c)

/-- R212's order of numbers, with −0 below +0. -/
def valBelow (x y : Val) : Bool := x.cmp y == .lt || (x.cmp y == .eq && x.isZero && y.isZero && x.negative && !y.negative)

/-- R212 has y rather than x, for a maximum or a minimum: x is a NaN and y a number, or y lies beyond x. -/
def valLoses (max : Bool) (x y : Val) : Bool :=
  !y.isNan && (x.isNan || (if max then valBelow x y else valBelow y x))

/-- Of two values that neither outranks, which are one value, the later in a minimum. -/
def chosen (max : Bool) (x y : Val) : Val :=
  if valLoses max x y then y else if valLoses max y x then x else if max then x else y

/-- The scale entry of block k of a VQNT (R108, R257). -/
def blockScale (d a : Shape) (m : Cells 8) (n k : Nat) : Nat :=
  chooseScale d.scale d.ty ((List.range (min 32 (n - 32 * k))).map (fun j => vsValue m a (32 * k + j)))

/-- The second operand of an element-wise instruction: B's element, or the FP32 scalar, negated under NB (R252, R254); with the
type that it comes from. -/
def vsSecond (nb : Bool) (y : VsB) (scalar : Word) (b : Shape) (m : Cells 8) (c : Nat) : Val × Nat :=
  let v : Val × Nat := match y with | .tile _ => (vsValue m b c, b.ty) | .scalar _ => (f32 scalar, 0)
  (if nb then v.1.neg else v.1, v.2)

/-- What R254 to R257 have an iteration write to element c of D, the sources as they stand before it. -/
def VsRule (i : Instr) (rm : Rm) (scalar : Word) (d a b : Shape) (m : Cells 8) (c r : Nat) : Prop :=
  let x := vsValue m a c
  let extreme (max : Bool) (y : Val × Nat) : Prop :=
    (valLoses max x y.1 = false ∧ r = convElem a.ty d.ty rm false x) ∨
    (valLoses max y.1 x = false ∧ r = convElem y.2 d.ty rm false y.1)
  match i with
  | .vadd _ _ nb _ _ y => r = toElem d.ty rm false (sumTerms rm [x, (vsSecond nb y scalar b m c).1])
  | .vsub _ _ nb _ _ y => r = toElem d.ty rm false (sumTerms rm [x, (vsSecond nb y scalar b m c).1.neg])
  | .vmul _ _ nb _ _ y => r = toElem d.ty rm false (x.mul (vsSecond nb y scalar b m c).1)
  | .vfma _ _ nb _ _ y => r = toElem d.ty rm false (sumTerms rm [x.mul (vsSecond nb y scalar b m c).1, vsValue m d c])
  | .vmax _ _ nb _ _ y => extreme true (vsSecond nb y scalar b m c)
  | .vmin _ _ nb _ _ y => extreme false (vsSecond nb y scalar b m c)
  | .vred _ _ rop _ _ =>
    let xs := (List.range a.cols).map (vsValue m a)
    match rop with
    | .sum => r = toElem d.ty rm false (sumTerms rm xs)
    | .max => r = convElem a.ty d.ty rm false (xs.tail.foldl (chosen true) (vsValue m a 0))
    | .min => r = convElem a.ty d.ty rm false (xs.tail.foldl (chosen false) (vsValue m a 0))
  | .vcvt _ _ sat _ _ => r = convElem a.ty d.ty rm sat x
  | .vcpy .. => r = elemAt m a 0 c
  | .vqnt _ _ sat _ _ _ => r = quantElem d.ty rm sat x (scaleVal d.scale (blockScale d a m d.cols (c / 32)))
  | .vdeq .. => r = toElem d.ty rm false (x.mul (scaleVal a.scale (elemAt m b 0 (c / 32)))).plusZero
  | _ => True

/-- Iterations: CNT, or the s-register that stands in for a CNT of 0 (R156). -/
def vsTimes (w : Warp) (m : VsM) : Nat := if m.cnt = 0 then (w.rdS m.sreg.val).toNat else m.cnt.toNat

/-! ### The lane's own view, for instructions that read records -/

/-- The latches of the group stand, or none of its lanes holds one: the lanes read exactly what the state holds. -/
def Settled (t : Team) (is : Issue) : Prop :=
  sameGroup t is.lanes = true ∨ ∀ k w l, Member t is k w l → l.bp = noLatches

/-- The view of the one active lane. -/
def viewOf (t : Team) (is : Issue) (k : Nat × Nat) (w : Warp) (l : Lane) : Lc :=
  { is, tm := t, wi := k.1, w, slot := k.2, l, act := [k.2] }

/-- A result of the lane's instruction is outstanding (R198): its registers and its value. -/
def Pending (s' : State) (is : Issue) (k : Nat × Nat) (h : Hdr) (d : Reg) (n : Nat) (x : Nat) : Prop :=
  ∃ r ∈ s'.results, r.load = false ∧ r.team = is.team ∧ r.warp = k.1 ∧ r.lane = k.2 ∧ r.dst = destOf h d n ∧
    r.latch = h.latch ∧ r.val = BitVec.ofNat 128 x

/-! ### The save area -/

/-- Every byte of a run of the save area, by its offset from SAVEBASE, is allowed by a range register and has a translation
that stands (R295, R345, R353). -/
def WarmRun (s : State) (space : Nat) (need : Need) (off n : Nat) : Prop :=
  ∃ c, s.ctx? space = some c ∧ ∀ j, j < n → ∃ ia tr, rangeCheck c (c.savebase + BitVec.ofNat 64 (off + j)) need = .ok ia ∧
    Warm s space ia need false tr

/-- One 64 KiB page of the save area stands in the memory at `pa`, under its owner's key, for loads and for stores, and no L1
holds a dirty line of the space. -/
structure SavePage (s : State) (space page : Nat) (c : Context) (pa : Nat) (leaf : BitVec 128) : Prop where
  ctx : s.ctx? space = some c
  aligned : page % 65536 = 0
  legal : ∀ need, (need = .load ∨ need = .store) → ∀ j, j < 65536 → ∃ ia tr,
    rangeCheck c (c.savebase + BitVec.ofNat 64 (page + j)) need = .ok ia ∧ Warm s space ia need false tr ∧
    tr.pa = pa + j ∧ tr.leaf = leaf
  keyed : KeyedAs s (ownerKey s space leaf) pa 65536
  clean : NoDirty s space

/-- The same of a longer run, which stands in one piece. -/
structure SaveRun (s : State) (space off n : Nat) (c : Context) (pa : Nat) (key : Option (BitVec 512)) : Prop where
  ctx : s.ctx? space = some c
  legal : ∀ j, j < n → ∃ ia tr, rangeCheck c (c.savebase + BitVec.ofNat 64 (off + j)) .load = .ok ia ∧
    Warm s space ia .load false tr ∧ tr.pa = pa + j ∧ ownerKey s space tr.leaf = key
  keyed : KeyedAs s key pa n
  clean : NoDirty s space

/-- A number in memory, low byte first (R7). -/
def numAt (s : State) (pa n : Nat) : Nat := leNat (cread s.mem pa n)

/-- Where a PA page holds the save-area slot of warp w: the offset in the page of the slot, R296. -/
def slotAt (t : Team) (w : Nat) : Nat := slotOff t w % 65536

/-- The frame of R297 at an address of memory. -/
def FrameAt (s' : State) (a : Nat) (s : State) (t : Team) (is : Issue) (w : Warp) (sup : Bool) (cause sub mask : Nat) : Prop :=
  numAt s' a 4 = (ilenOf is.len).toNat * 2 ^ 19 + (if sup then 2 ^ 18 else 0) + sub * 2 ^ 8 + cause ∧
  numAt s' (a + 0x04) 4 = mask ∧ numAt s' (a + 0x08) 8 = is.pc.toNat ∧ numAt s' (a + 0x10) 8 = 0 ∧
  numAt s' (a + 0x18) 8 = 0 ∧ numAt s' (a + 0x20) 16 = is.bits.toNat ∧ numAt s' (a + 0x30) 8 = s.clock.toNat ∧
  numAt s' (a + 0x38) 4 = (w.rdS 63).toNat ∧ numAt s' (a + 0x3C) 4 = (t.space % 65536 * 2 ^ 16 + w.ctx) % 2 ^ 32

/-- A save of the team has a translation for every byte of its frame and of its spill block (R295, R377). -/
def Saveable (s : State) (t : Team) : Prop :=
  t.warps.length ≤ t.desc.limit ∧ WarmRun s t.space .store t.frameF (frameSize t.desc) ∧
  (t.frame.st ≠ .empty → WarmRun s t.space .store t.frame.spill (spillSize t.frame.word))

/-- The warp may enter the supervisor handler: it is in none, its team is not being saved, and the page of its slot stands in
memory (R299 to R302, R376). -/
structure MayEnter (s : State) (u wi : Nat) (t : Team) (w : Warp) (c : Context) (pa : Nat) : Prop where
  team : s.team? u = some t
  warp : t.warps[wi]? = some w
  whole : w.lanes.length = 32
  calm : w.sbusy = false ∧ w.tx.depth = 0
  unsaved : t.saving = none
  frame : t.frameF % 65536 = 0
  page : ∃ leaf, SavePage s t.space (slotOff t wi / 65536 * 65536) c pa leaf

/-- The warp stands in the supervisor handler, with the first word of its frame (R297, R300, R301). -/
def Entered (s' : State) (u wi : Nat) (t : Team) (w : Warp) (c : Context) (pa word : Nat) : Prop :=
  ∃ w', s'.warp? u wi = some w' ∧ w'.sup = true ∧ w'.sbusy = true ∧ w'.ubusy = w.ubusy ∧
    w'.rdS 63 = BitVec.ofNat 32 (slotOff t wi + 0x40) ∧ numAt s' (pa + slotAt t wi + 0x40) 4 = word ∧
    ∀ (j : Nat) (m : Lane), w.lanes[j]? = some m → m.st ≠ .exited → ∃ m', w'.lanes[j]? = some m' ∧ m'.st = .ready ∧
      m'.pc = c.svec.setWidth 56 ∧ m'.v = m.v

/-- No team of a space runs: a stop of its context saves none. -/
def NoneRuns (s : State) (space : Nat) : Prop := ∀ t ∈ s.teams, t.space = space → t.st ≠ .running ∧ t.st ≠ .placed

/-- The stop record of R373 stands at the head of the save area and the context is stopped. -/
def StoppedWith (s' : State) (space pa cause sub addr : Nat) : Prop :=
  (∃ c', s'.ctx? space = some c' ∧ c'.stopped = true) ∧ numAt s' pa 4 = 1 + cause * 2 ^ 8 + sub * 2 ^ 16 ∧
  numAt s' (pa + 8) 8 = addr

/-! ### System registers, R292 -/

/-- The numbers of R292 that a mode may read, and those that it may write. -/
def mayRead (sup : Bool) (n : Nat) : Bool :=
  n < 4 || (0x10 ≤ n && n ≤ 0x12) || n == 0x20 || n == 0x21 || (0x24 ≤ n && n ≤ 0x26) || n == 0x30 ||
  (sup && (n == 0x22 || n == 0x23 || (0x100 ≤ n && n < 0x120)))
def mayWrite (sup : Bool) (n : Nat) : Bool :=
  n < 4 || n == 0x12 || n == 0x20 || n == 0x21 ||
  (sup && ((0x22 ≤ n && n ≤ 0x26) || n == 0x30 || (0x100 ≤ n && n < 0x120)))

/-- The write that MTS makes to a register of the context (R293). -/
def contextWrite (space : Nat) (num x : Word) : Option Instr :=
  let n := num.toNat
  if n = 0x21 ∨ n = 0x23 ∨ n = 0x25 then some (.hiWordWrite space num x)
  else if n = 0x20 ∨ n = 0x22 ∨ n = 0x24 then some (.loWordWrite space num x)
  else if 0x100 ≤ n ∧ n < 0x120 ∧ n % 4 = 0 then some (.rangeWord0Install space (Fin.ofNat 8 ((n - 0x100) / 4)) x)
  else if n = 0x26 ∨ n = 0x30 ∨ (0x100 ≤ n ∧ n < 0x120) then some (.sysregWrite space num x)
  else none

/-- The 64-bit register that a number of a HI and LO pair names. -/
def pairReg (c : Context) (lo : Nat) : DWord := if lo = 0x20 then c.uvec else if lo = 0x22 then c.svec else c.savebase

end Sys2Proof.Machine
end

