-- ==== Sys2Proof/Certificates/Slice0/Obligations.lean ====
section
/-! DEFINITION. The statements for the provers. -/

open Sys2Proof Sys2Proof.Machine

/-! ### Registers -/

/-- R201, R203, R204, R205, R207, R208: in every active lane of the group an instruction of page 1 writes what the rule
gives, and the lane goes on. -/
def Obligations.IntegerResults : Prop :=
  ∀ i s h is t, Issuing s i h is t → (∃ w l, (intRule w l i).isSome = true) →
    (∀ k w l, Active t is h k w l → (intRule w l i).isSome = true) →
    Completes i s h is t (fun k w l w' l' => ∀ d xs, intRule w l i = some (d, xs) → Wrote is h d xs (Leads t is h k) l w' l')

/-- R211, R212, R214, R215: in every active lane of the group an FP32 instruction writes what the rule gives, and the lane
goes on.

R216 to R219: so do the conversions and the packed and complex instructions.

It rests on the model's choice of log entry 79: a negative result that rounds to zero keeps its sign. -/
def Obligations.FloatResults : Prop :=
  (∀ i s h is t, Issuing s i h is t → (∀ w l, (floatRule w l i).isSome = true) →
     Completes i s h is t (fun k w l w' l' => ∀ d xs, floatRule w l i = some (d, xs) → Wrote is h d xs (Leads t is h k) l w' l')) ∧
  (∀ i s h is t, Issuing s i h is t → (∀ w l, (convertRule w l i).isSome = true) →
     Completes i s h is t (fun k w l w' l' => ∀ d xs, convertRule w l i = some (d, xs) → Wrote is h d xs (Leads t is h k) l w' l'))

/-- R206 and R213: ISET and FSET write the outcome of the comparison to the predicate, a write to p7 is discarded, and SEL
selects by its predicate source.

R276: EDGE gives the sign of the edge function, and with COV its coverage by the top-left rule. -/
def Obligations.CompareAndSelect : Prop :=
  (∀ i s h is t, Issuing s i h is t →
    (match i with | .iset _ c .. => c ≠ .un | .fset .. => True | _ => False) →
    Completes i s h is t (fun k w l _ l' => StandsAt is.after l l' ∧
      ∀ p b, predRule t is h k w l i = some (p, b) → h.nw = false → l'.rdP p = (b || p == 7))) ∧
  (∀ s h is t d p a b, Issuing s (.sel h d p a b) h is t →
    Completes (.sel h d p a b) s h is t (fun k w l w' l' =>
      Wrote is h d [if l.rdP p.p != p.neg then readSrc w l a else readSrcI w l b] (Leads t is h k) l w' l')) ∧
  (∀ s h is t cov d a b p, Issuing s (.edge h cov d a b p) h is t →
    Completes (.edge h cov d a b p) s h is t (fun k w l w' l' =>
      let x (r : Src) : Int := ((readPair w l r).extractLsb' 0 32).toInt
      let y (r : Src) : Int := ((readPair w l r).extractLsb' 32 32).toInt
      let e := (x b - x a) * (y p - y a) - (y b - y a) * (x p - x a)
      Wrote is h d [if cov then (if 0 < e ∨ (e = 0 ∧ (y b < y a ∨ (y b = y a ∧ x a < x b))) then 1 else 0)
        else if 0 < e then 1 else if e = 0 then 0 else 0xFFFFFFFF] (Leads t is h k) l w' l'))

/-- R181, R182, R196: the collectives and the identity reads. -/
def Obligations.LaneCollectives : Prop :=
  ∀ i s h is t, Issuing s i h is t →
    (match i with | .elect .. | .vote .. | .shfl .. | .getid .. | .tstat .. => True | _ => False) →
    Completes i s h is t (fun k w l w' l' =>
      (∀ d xs, laneRule s t is h k w l i = some (d, xs) → Wrote is h d xs (Leads t is h k) l w' l') ∧
      (∀ p b, predRule t is h k w l i = some (p, b) → StandsAt is.after l l' ∧ (h.nw = false → l'.rdP p = (b || p == 7))))

/-- R178: where branches, jumps, calls and returns go, and the return address of CALL. -/
def Obligations.BranchTargets : Prop :=
  ∀ i s h is t, Issuing s i h is t → (∃ w l, (jumpRule is w l i).isSome = true) →
    (∀ k w l, Active t is h k w l → (jumpRule is w l i).isSome = true) →
    Completes i s h is t (fun k w l w' l' => (∀ pc, jumpRule is w l i = some pc → StandsAt pc l l') ∧
      (∀ d disp, i = .call h d disp → WroteRegs h d (twoWords (is.after.setWidth 64)) (Leads t is h k) w' l'))

/-- What an instruction on registers leaves alone: everything of the package but the lanes, s-registers and warp stacks of
its own team and results that it overtakes; and of those everything but what its lanes write. A lane of the group that is not
active stands READY at the next instruction, which it does not count, with the latches that R48 leaves it. -/
def Obligations.RegisterFrame : Prop :=
  ∀ i s h is t, onRegisters i = true → Issuing s i h is t →
    (∀ k w l, Active t is h k w l → trapsOn is w l i = false) →
    ∃ s', exec i s = .next s' ∧
      s' = { s with teams := s'.teams, accs := s'.accs, results := s'.results, ops := s'.ops, cur := none } ∧
      s'.accs.map Access.plain = s.accs.map Access.plain ∧ s'.results.map Result.plain = s.results.map Result.plain ∧
      s'.ops.map EngOp.plain = s.ops.map EngOp.plain ∧
      (∀ u, u ≠ is.team → s'.team? u = s.team? u) ∧
      (∃ t', s'.team? is.team = some t' ∧ t' = { t with warps := t'.warps } ∧ t'.warps.length = t.warps.length) ∧
      (∀ wi w, t.warps[wi]? = some w → ∃ w', s'.warp? is.team wi = some w' ∧
        WarpKeeps i (!h.nw && (activeLanes t is h).any (fun k => k.1 == wi)) w w' ∧
        ∀ j l, w.lanes[j]? = some l → ∃ l', w'.lanes[j]? = some l' ∧
          LaneKeeps i (!h.nw && (activeLanes t is h).contains (wi, j)) l l' ∧ ((wi, j) ∉ is.lanes → l' = l) ∧
          ((wi, j) ∈ is.lanes → (wi, j) ∉ activeLanes t is h →
            l'.pc = is.after ∧ l'.st = .ready ∧ l'.regionCnt = l.regionCnt ∧
            l'.bp = if sameGroup t is.lanes then l.bp else noLatches))

/-! ### Control -/

/-- R28, R179, R186: YIELD sets the skip and drops the latches; REGION makes the next instruction the lane's restart point
and starts the count, which counts REGION itself.

R21, R29, R179, R290: REFORM files the lane into a free bin; in lockstep and in supervisor mode it acts as NOP; either
way the latches go.

R36, R37: EXIT ends the active lanes, and a warp whose last lane has exited is FREE, in a team that holds no engine's
fault (R370).

It rests on the model's reading of log entry 33: where no bin holds the lane's PC, REFORM takes the free bin of the
lowest number. -/
def Obligations.LanesYieldFileAndExit : Prop :=
  ((∀ s h is t, Issuing s (.yield h) h is t →
     Completes (.yield h) s h is t (fun _ _ l _ l' => StandsAt is.after l l' ∧ 1 < l'.skip ∧ l'.bp = noLatches)) ∧
   (∀ s h is t, Issuing s (.region h) h is t →
     Completes (.region h) s h is t (fun _ _ _ _ l' =>
       l'.pc = is.after ∧ l'.st = .ready ∧ l'.regionPc = is.after ∧ l'.regionCnt = 1))) ∧
  (∀ s h is t k w l, Issuing s (.reform h) h is t → OneLane t is h k → Active t is h k w l →
     ((w.lockstep = true ∨ w.sup = true) →
       ∃ s' w' l', exec (.reform h) s = .next s' ∧ s'.warp? is.team k.1 = some w' ∧ w'.lanes[k.2]? = some l' ∧
         StandsAt is.after l l' ∧ l'.bp = noLatches ∧ s'.bins = s.bins) ∧
     (∀ n, w.lockstep = false → w.sup = false → (∀ b ∈ s.bins, ¬(b.core = t.core ∧ b.team = t.uid ∧ b.pc = is.after)) →
       (List.range 32).find? (fun n => !s.bins.any (fun b => b.core == t.core && b.num == n)) = some n →
       ∃ s' w' l', exec (.reform h) s = .next s' ∧ s'.warp? is.team k.1 = some w' ∧ w'.lanes[k.2]? = some l' ∧
         l'.pc = is.after ∧ l'.st = .filed ∧ l'.bp = noLatches ∧
         s'.bins = s.bins ++ [⟨t.core, n, t.uid, is.after, [(k.2, k.1)], [], s.cycle, decide (t.desc.fill ≤ 1)⟩])) ∧
  (∀ s h is t, Issuing s (.exit h) h is t → NoDebugBlock s t.space → (∀ w ∈ t.warps, ∀ ti ∈ w.pend, ti.kind ≠ 3) →
    Completes (.exit h) s h is t (fun k w _ w' l' => l'.st = .exited ∧
      (if w.lanes.zipIdx.all (fun x => !x.1.live || (activeLanes t is h).contains (k.1, x.2)) then w'.st = .free
       else w'.st = w.st)))

/-- R33, R35, R180: SPAWN starts a warp in the free context of lowest number: the active lanes at the target with the eight
registers passed and everything else as a warp is created; with no free context SPAWN.TRY writes false and the other forms
wait. -/
def Obligations.SpawnCreates : Prop :=
  ∀ s h is t k w l form a disp, Issuing s (.spawn h form a disp) h is t → OneWarp t is h k → Active t is h k w l →
    (∀ c n, freeContext t = some (c, n) →
      ∃ s' x, exec (.spawn h form a disp) s = .next s' ∧ GoesOn s' t is h ∧ s'.warp? is.team c = some x ∧
        x.st = .live ∧ x.ctx = n.ctx ∧ x.role = w.role ∧ x.s = [] ∧ x.sup = false ∧ x.tx.depth = 0 ∧
        (∀ (j : Nat) (m : Lane), w.lanes[j]? = some m → ∃ m', x.lanes[j]? = some m' ∧ m'.p = 0 ∧
          (j ∈ peers t is h k → m'.st = .ready ∧ m'.pc = is.pc + BitVec.ofInt 56 (4 * disp.toInt) ∧
            ∀ r, m'.rdV r = if r < 8 then m.rdV (a.val + r) else 0) ∧
          (j ∉ peers t is h k → m'.st = .exited)) ∧
        (∀ p, form = .try_ p → h.nw = false → ∃ w' l', s'.warp? is.team k.1 = some w' ∧ w'.lanes[k.2]? = some l' ∧
          l'.rdP p = true)) ∧
    (freeContext t = none →
      ∃ s', exec (.spawn h form a disp) s = .next s' ∧
        match form with
        | .try_ p => GoesOn s' t is h ∧ (h.nw = false → ∃ w' l', s'.warp? is.team k.1 = some w' ∧
            w'.lanes[k.2]? = some l' ∧ l'.rdP p = (p == 7))
        | _ => WaitsIn s' t is h .spawn)

/-- R17, R183: an active lane that issues BAR arrives and waits; when every live lane of every LIVE or STOPPED warp has
arrived, all of them become READY after it; and while one has not, a HALTED one among them, none moves on. -/
def Obligations.BarrierWaitsAndCompletes : Prop :=
  (∀ s h is t n, Issuing s (.bar h n) h is t → ∃ s', exec (.bar h n) s = .next s' ∧ WaitsIn s' t is h (.bar n)) ∧
  (∀ s u t n, Awake s → s.team? u = some t → (∃ w ∈ t.warps, w.st ≠ .free) →
    (∀ w ∈ t.warps, w.st ≠ .free → ∀ l ∈ w.lanes, l.st ≠ .exited → l.st = .blocked ∧ l.wait = .bar n) →
    ∃ s', exec (.barrierCompletion u n) s = .next s' ∧ ∀ i w, t.warps[i]? = some w → w.st ≠ .free →
      ∃ w', s'.warp? u i = some w' ∧ ∀ (j : Nat) l, w.lanes[j]? = some l → ∃ l', w'.lanes[j]? = some l' ∧
        (l.st ≠ .exited → StandsAt (l.pc + 8) l l') ∧ (l.st = .exited → l' = l)) ∧
  (∀ s u t n, Awake s → s.team? u = some t →
    (∃ w ∈ t.warps, w.st ≠ .free ∧ ∃ l ∈ w.lanes, l.st ≠ .exited ∧ ¬(l.st = .blocked ∧ l.wait = .bar n)) →
    exec (.barrierCompletion u n) s = .next s)

/-- R84, R85, R184: PHASE adds one to the count of every active lane once no neighbour holds it back; a lane that leads by
more than LEAD waits; and a team hears the phase number of a neighbour. -/
def Obligations.PhaseCounts : Prop :=
  (∀ s h is t k w l scope, Issuing s (.phase h scope) h is t → OneWarp t is h k → Active t is h k w l →
    CleanSpace s t.space →
    (∀ k w l, Active t is h k w l → phaseWaits s t (l.phases.toNat + 1) = false) →
    Completes (.phase h scope) s h is t (fun _ _ l _ l' => StandsAt is.after l l' ∧ l'.phases = l.phases + 1 ∧ l'.ords = 0)) ∧
  (∀ s h is t k w l scope m, Issuing s (.phase h scope) h is t → OneLane t is h k → Active t is h k w l →
    0 < t.desc.lead → leastHeard s t = some m → m + t.desc.lead < l.phases.toNat + 1 →
    ∃ s', exec (.phase h scope) s = .next s' ∧ WaitsIn s' t is h .phase) ∧
  (∀ s u v t x n, Awake s → s.team? u = some t → s.team? v = some x → t.inst = x.inst →
    x.t ∈ neighbours t → phaseNumber x = some n →
    ∃ s' t', exec (.phaseNumberExchange u v) s = .next s' ∧ s'.team? u = some t' ∧ (x.t, n) ∈ t'.heard)

/-- R185, R329, R331: EMIT reads the record at the scratchpad address, appends it to the edge's input storage at the place
that its slot names (in deterministic mode it is kept for the delivery at the team's end) and writes true; at the deepest
instance of a self-recursive edge it counts OVF and, unless TRAP_OVF asks for a trap, writes false; with no free record it
counts FULL and writes false.

It rests on the model's readings of log entry 32, and of 17: the release before the record writes back the lines of its own
space alone. -/
def Obligations.EmitAppends : Prop :=
  ∀ s h is t k w l edge pd a r n x e, Issuing s (.emit h edge pd a) h is t → OneLane t is h k → Active t is h k w l →
    NoTry t → CleanSpace s t.space → s.teamRec? t = some r → s.inst? t.inst = some n → r.nodes[n.node]? = some x →
    x.edges.find? (fun e => e.num == edge.val && e.base != 0) = some e →
    (readSrc w l a).toNat % 4 = 0 → (readSrc w l a).toNat + 4 * e.sw ≤ 1024 * t.desc.scrK →
    (∀ slot pa, ¬(e.target = n.node ∧ n.depth = e.maxd) → edgeFull s r t n.node e = false →
      (r.det = false →
        (∀ k, k ≤ slot → (k = slot ↔ ∀ y ∈ s.emitted, ¬(y.job = r.id ∧ y.node = n.node ∧ y.edge = e.num ∧ y.team = none ∧ y.slot = k))) ∧
        StandsVa s t.space (e.base.toNat + 4 * e.sw * slot) (4 * e.sw) pa) →
      ∃ s' w' l' y, exec (.emit h edge pd a) s = .next s' ∧ s'.warp? is.team k.1 = some w' ∧ w'.lanes[k.2]? = some l' ∧
        StandsAt is.after l l' ∧ (h.nw = false → l'.rdP pd = true) ∧ s'.emitted = s.emitted ++ [y] ∧ y.job = r.id ∧
        y.node = n.node ∧ y.edge = e.num ∧ y.target = e.target ∧ y.depth = (if e.target = n.node then n.depth + 1 else 0) ∧
        y.bytes = cread t.scratch (readSrc w l a).toNat (4 * e.sw) ∧
        (r.det = true → y.team = some t.uid ∧ s'.mem = s.mem) ∧
        (r.det = false → y.team = none ∧ y.slot = slot ∧ cread s'.mem pa (4 * e.sw) = y.bytes)) ∧
    ((e.target = n.node ∧ n.depth = e.maxd) → t.desc.trapOvf = false →
      ∃ s' w' l' r', exec (.emit h edge pd a) s = .next s' ∧ s'.warp? is.team k.1 = some w' ∧ w'.lanes[k.2]? = some l' ∧
        StandsAt is.after l l' ∧ (h.nw = false → l'.rdP pd = (pd == 7)) ∧ s'.emitted = s.emitted ∧ s'.rec? r.id = some r' ∧
        r'.nodes[n.node]? = some { x with ovf := x.ovf + 1 }) ∧
    (¬(e.target = n.node ∧ n.depth = e.maxd) → edgeFull s r t n.node e = true →
      ∃ s' w' l' r', exec (.emit h edge pd a) s = .next s' ∧ s'.warp? is.team k.1 = some w' ∧ w'.lanes[k.2]? = some l' ∧
        StandsAt is.after l l' ∧ (h.nw = false → l'.rdP pd = (pd == 7)) ∧ s'.emitted = s.emitted ∧ s'.rec? r.id = some r' ∧
        r'.nodes[n.node]? = some { x with fullc := x.fullc + 1 })

/-! ### Speculation -/

/-- R188, R189, R192: TRY opens a speculation with the checkpoint of every live lane of the warp: its registers, its region
values, of which an active lane counts the TRY, and its PC, after the TRY for the lanes of its issue group; or it deepens the
one that is open. A fifth level aborts with NEST, and a TRY whose warp has lanes in BAR, PHASE or SPAWN.WAIT aborts at once
with INSIDE.

R190, R191, R192: inside a TRY a store is buffered, byte by byte with its writer, and memory stands; a sixty-fifth block aborts
with OVERFLOW, and a translation that fails with FAULT; a load reads the bytes of the core under the warp's own buffered
ones, and its line joins the read set; a store of another warp that is performed in the L1 that holds a line which the TRY has
read, or a block which it has written, aborts it with CONFLICT, and so does a store of another warp into a granule of the
scratchpad which it has read or written.

It rests on the model's readings of log entries 5 and 15. -/
def Obligations.SpeculationRuns : Prop :=
  (∀ s h is t k w l disp, Issuing s (.tryOpen h disp) h is t → OneWarp t is h k → Active t is h k w l →
    (w.tx.depth = 0 → waitsInside w = false →
      ∃ s' w', exec (.tryOpen h disp) s = .next s' ∧ GoesOn s' t is h ∧ s'.warp? is.team k.1 = some w' ∧
        w'.tx.depth = 1 ∧ w'.tx.target = is.pc + BitVec.ofInt 56 (4 * disp.toInt) ∧ w'.tx.ckS = w.s ∧ w'.tx.bytes = [] ∧
        (∀ j, j < 32 → (w'.tx.members.getLsbD j = true ↔ j ∈ peers t is h k)) ∧
        ∀ (j : Nat) (m : Lane), w.lanes[j]? = some m → m.st ≠ .exited → (∃ m', w'.lanes[j]? = some m' ∧ m'.tstat = 0) ∧
          ∃ c, w'.tx.ckLanes.find? (fun c => c.slot == j) = some c ∧ c.v = m.v ∧ c.p = m.p ∧ c.regionPc = m.regionPc ∧
            c.regionCnt = (if j ∈ peers t is h k then m.regionCnt + 1 else m.regionCnt) ∧
            c.pc = if (k.1, j) ∈ is.lanes then is.after else m.pc) ∧
    (0 < w.tx.depth → w.tx.depth ≠ 4 →
      ∃ s' w', exec (.tryOpen h disp) s = .next s' ∧ GoesOn s' t is h ∧ s'.warp? is.team k.1 = some w' ∧
        w'.tx = { w.tx with depth := w.tx.depth + 1 }) ∧
    (w.tx.depth = 4 → ∃ s', exec (.tryOpen h disp) s = .next s' ∧ Aborted s' is k.1 w (statusWord 6 0 0)) ∧
    (w.tx.depth = 0 → waitsInside w = true →
      ∃ s' w', exec (.tryOpen h disp) s = .next s' ∧ s'.warp? is.team k.1 = some w' ∧ w'.tx = TryState.none ∧ w'.s = w.s ∧
        ∀ (j : Nat) (m : Lane), j < 32 → w.lanes[j]? = some m → m.st ≠ .exited → ∃ m', w'.lanes[j]? = some m' ∧ m'.v = m.v ∧
          m'.tstat = statusWord 8 0 0 ∧
          m'.pc = (if j ∈ peers t is h k then is.pc + BitVec.ofInt 56 (4 * disp.toInt)
            else if (k.1, j) ∈ is.lanes then is.after else m.pc))) ∧
  (∀ s h is t k w l m ad b c ia n, Issuing s (.st h m ad b) h is t → OneLane t is h k → Active t is h k w l → 0 < w.tx.depth →
    n = widthBytes m.width → s.ctx? t.space = some c → (eaOf w l ad).toNat % n = 0 →
    rangeCheck c (eaOf w l ad) .store = .ok ia →
    (∀ tr, Warm s t.space ia .store true tr → (ia / 32 ∈ w.tx.entries ∨ w.tx.entries.length < 64) →
      ∃ s' w', exec (.st h m ad b) s = .next s' ∧ GoesOn s' t is h ∧ s'.warp? is.team k.1 = some w' ∧
        s'.mem = s.mem ∧ s'.l1 = s.l1 ∧ s'.accs = s.accs ∧ ia / 32 ∈ w'.tx.entries ∧ (true, ia / 32, k.2) ∈ w'.tx.touched ∧
        (∀ j x, j < n → (leBytes n (readRegs w l b (widthRegs m.width)))[j]? = some x →
          w'.tx.bytes.find? (fun y => y.glob && y.addr == ia + j) = some ⟨true, ia + j, x, some k.2⟩) ∧
        ∀ a, (a < ia ∨ ia + n ≤ a) →
          w'.tx.bytes.find? (fun y => y.glob && y.addr == a) = w.tx.bytes.find? (fun y => y.glob && y.addr == a)) ∧
    (∀ tr, Warm s t.space ia .store true tr → ia / 32 ∉ w.tx.entries → 64 ≤ w.tx.entries.length →
      ∃ s', exec (.st h m ad b) s = .next s' ∧ Aborted s' is k.1 w (statusWord 3 0 0)) ∧
    (∀ sub, lookup s t.space ia .store true = .fail sub →
      ∃ s', exec (.st h m ad b) s = .next s' ∧ Aborted s' is k.1 w (statusWord 4 0x11 sub.toNat))) ∧
  (∀ s h is t k w l m d ad c ia n tr, Issuing s (.ld h m d ad) h is t → OneLane t is h k → Active t is h k w l → 0 < w.tx.depth →
    n = widthBytes m.width → s.ctx? t.space = some c → (eaOf w l ad).toNat % n = 0 →
    rangeCheck c (eaOf w l ad) .load = .ok ia → Warm s t.space ia .load true tr → corrupt s tr.pa n = false →
    ∃ s' w' r rs, exec (.ld h m d ad) s = .next s' ∧ GoesOn s' t is h ∧ s'.warp? is.team k.1 = some w' ∧ s'.mem = s.mem ∧
      s'.l1 = s.l1 ∧ s'.results = rs ++ [r] ∧ rs.map Result.plain = s.results.map Result.plain ∧ r.load = true ∧
      r.team = is.team ∧ r.warp = k.1 ∧ r.lane = k.2 ∧ r.dst = destOf h d (widthRegs m.width) ∧ r.latch = h.latch ∧
      r.val = loadVal (signedWidth m.width) n ((readBytes s t.core t.desc.fused t.space ia n tr).zipIdx.map (fun x =>
        match w.tx.bytes.find? (fun y => y.glob && y.addr == ia + x.2) with | some y => y.val | none => x.1)) ∧
      ia / 128 ∈ w'.tx.readLines ∧ (true, ia / 32, k.2) ∈ w'.tx.touched ∧ w'.tx.bytes = w.tx.bytes) ∧
  (∀ s a t tr u v i x, Awake s → s.accs.find? (fun a => a.id == s.named) = some a → a.op = .store → a.scope = none →
    a.ord = none → a.rel = none → 0 < a.width → movable s a = true → logMode s t = 0 → s.team? a.team = some t →
    Warm s t.space a.ia .store true tr → leafUnc tr.leaf = false → leafSyn tr.leaf = false →
    s.team? u = some v → v.warps[i]? = some x → 0 < x.tx.depth → (u, i) ≠ (a.team, a.warp) → v.space = t.space →
    v.l1Core a.ia = t.l1Core a.ia → (a.ia / 128 ∈ x.tx.readLines ∨ a.ia / 32 ∈ x.tx.entries) →
    ∃ s', exec .translationWalk s = .next s' ∧ RolledBack s' u i x (statusWord 2 0 0)) ∧
  (∀ s h is t k w l m ad b i x (off : Nat), Issuing s (.sts h m ad b) h is t → OneLane t is h k → Active t is h k w l →
    w.tx.depth = 0 → offsetOf w l ad = (off : Int) → off % widthBytes m.width = 0 →
    off + widthBytes m.width ≤ 1024 * t.desc.scrK → t.warps[i]? = some x → i ≠ k.1 → 0 < x.tx.depth →
    ((∃ g ∈ x.tx.undo, g.1 = off / 1024) ∨ off / 1024 ∈ x.tx.readGrans) →
    ∃ s' t', exec (.sts h m ad b) s = .next s' ∧ GoesOn s' t is h ∧ RolledBack s' is.team i x (statusWord 2 0 0) ∧
      s'.team? is.team = some t' ∧
      cread t'.scratch off (widthBytes m.width) = leBytes (widthBytes m.width) (readRegs w l b (widthRegs m.width)))

/-- R94, R195: TCOMMIT and TCOMMIT.LANE end the innermost TRY; outside one they do nothing; the outermost one makes every
buffered byte of global memory stand in the L1 that holds its line; and TCOMMIT aborts with LANE once a lane has aborted alone.

It rests on the model's readings of log entry 15. -/
def Obligations.SpeculationCommits : Prop :=
  ∀ i s h is t k w l, i = .tcommit h ∨ i = .tcommitLane h → Issuing s i h is t → OneWarp t is h k → Active t is h k w l →
    (w.tx.depth ≠ 1 → ∃ s' w', exec i s = .next s' ∧ GoesOn s' t is h ∧ s'.warp? is.team k.1 = some w' ∧
      w'.tx = { w.tx with depth := w.tx.depth - 1 }) ∧
    (w.tx.depth = 1 → (w.tx.laneFlag = false ∨ i = .tcommitLane h) →
      (∀ b ∈ w.tx.bytes, b.glob = true → ∃ tr, Warm s t.space b.addr .store false tr ∧ leafUnc tr.leaf = false ∧
        leafSyn tr.leaf = false) →
      (∀ e ∈ w.tx.entries, ∃ tr, Warm s t.space (32 * e) .store false tr) →
      (w.tx.bytes.map (fun b => (b.glob, b.addr))).Nodup →
      ∃ s' w', exec i s = .next s' ∧ GoesOn s' t is h ∧ s'.warp? is.team k.1 = some w' ∧ w'.tx = TryState.none ∧ s'.mem = s.mem ∧
        ∀ b ∈ w.tx.bytes, b.glob = true → l1Find s' (t.l1Core b.addr) t.space b.addr = some b.val) ∧
    (w.tx.depth = 1 → w.tx.laneFlag = true → i = .tcommit h →
      ∃ s', exec i s = .next s' ∧ Aborted s' is k.1 w (statusWord 9 0 0))

/-- R193, R194: TABORT rolls the warp back with EXPLICIT and its value, and every scratchpad granule that the TRY saved reads as
before it; TABORT.LANE sends the active lanes alone to the handler with their checkpoint, when no other lane has touched a block
that they wrote, and aborts with CONFLICT otherwise: the bytes that those lanes wrote last go back, in the scratchpad to what
the granule held, and every other byte stands; outside a TRY both do nothing.

It rests on the model's readings of log entry 15. -/
def Obligations.SpeculationAborts : Prop :=
  ∀ s h is t k w l v,
    (Issuing s (.tabort h v) h is t → OneWarp t is h k → Active t is h k w l →
      (w.tx.depth = 0 → ∃ s', exec (.tabort h v) s = .next s' ∧ GoesOn s' t is h) ∧
      (0 < w.tx.depth → ∃ s' t', exec (.tabort h v) s = .next s' ∧ Aborted s' is k.1 w (statusWord 1 v.toNat 0) ∧
        s'.team? is.team = some t' ∧ (UndoOk w.tx → ∀ a, cget t'.scratch a =
          match w.tx.undo.find? (fun g => g.1 == a / 1024) with | some g => cget g.2 a | none => cget t.scratch a))) ∧
    (Issuing s (.tabortLane h v) h is t → OneWarp t is h k → Active t is h k w l →
      (w.tx.depth = 0 → ∃ s', exec (.tabortLane h v) s = .next s' ∧ GoesOn s' t is h) ∧
      (0 < w.tx.depth → (∀ x ∈ w.tx.touched, ∀ b ∈ w.tx.bytes, ∀ j ∈ peers t is h k, b.writer = some j →
          (x.1, x.2.1) = (b.glob, b.addr / 32) → x.2.2 ∈ peers t is h k) →
        ∃ s' w' t', exec (.tabortLane h v) s = .next s' ∧ s'.warp? is.team k.1 = some w' ∧ w'.tx.laneFlag = true ∧
          w'.tx.depth = w.tx.depth ∧ w'.s = w.s ∧ s'.team? is.team = some t' ∧ s'.mem = s.mem ∧
          (∀ b, b ∈ w'.tx.bytes ↔ b ∈ w.tx.bytes ∧ ∀ j ∈ peers t is h k, b.writer ≠ some j) ∧
          (∀ a g, (∃ b ∈ w.tx.bytes, b.glob = false ∧ b.addr = a ∧ ∃ j ∈ peers t is h k, b.writer = some j) →
            w.tx.undo.find? (fun g => g.1 == a / 1024) = some g → cget t'.scratch a = cget g.2 a) ∧
          (∀ a, (∀ b ∈ w.tx.bytes, b.glob = false → b.addr = a → ∀ j ∈ peers t is h k, b.writer ≠ some j) →
            cget t'.scratch a = cget t.scratch a) ∧
          ∀ (j : Nat) (m : Lane) c, w.lanes[j]? = some m → w.tx.ckLanes.find? (fun c => c.slot == j) = some c →
            ∃ m', w'.lanes[j]? = some m' ∧
            (j ∈ peers t is h k → m'.v = c.v ∧ m'.p = c.p ∧ m'.pc = w.tx.target ∧ m'.st = .ready ∧
              m'.tstat = statusWord 1 v.toNat 0) ∧
            (j ∉ peers t is h k → (k.1, j) ∉ is.lanes → m' = m)) ∧
      (0 < w.tx.depth → (∃ x ∈ w.tx.touched, ∃ b ∈ w.tx.bytes, ∃ j ∈ peers t is h k, b.writer = some j ∧
          (x.1, x.2.1) = (b.glob, b.addr / 32) ∧ x.2.2 ∉ peers t is h k) →
        ∃ s', exec (.tabortLane h v) s = .next s' ∧ Aborted s' is k.1 w (statusWord 2 0 0)))

/-! ### Accesses -/

/-- R222, R223, R227, R228: outside a TRY a global access of an aligned address that a range of the context allows leaves
its lane with everything that it needs; memory stands, and the lane goes on.

It rests on the model's reading of log entry 18: the write-backs of an STL are made when the turn of its store comes. -/
def Obligations.AccessesLeave : Prop :=
  ∀ i s h is t k w l ad n need c ia, accessShape i = some (ad, n, need) → Issuing s i h is t → OneLane t is h k →
    Active t is h k w l → w.tx.depth = 0 → s.ctx? t.space = some c →
    (eaOf w l ad).toNat % n = 0 → rangeCheck c (eaOf w l ad) need = .ok ia →
    ∃ s' w' l' a as, exec i s = .next s' ∧ s'.warp? is.team k.1 = some w' ∧ w'.lanes[k.2]? = some l' ∧ StandsAt is.after l l' ∧
      a = accessRule w l i (bareAccess s is k l (eaOf w l ad) ia n) ∧
      s'.accs = as ++ [{ a with gated := a.scope.isSome && logMode s t == 2 }] ∧
      as.map Access.plain = s.accs.map Access.plain ∧ s'.mem = s.mem ∧ s'.l1 = s.l1

/-- R60, R222, R345: a misaligned global address traps with ALIGN and one outside every range with RANGE, before anything
leaves: the answer of the check. -/
def Obligations.AddressChecks : Prop :=
  ∀ s space ea n need,
    (ea.toNat % n ≠ 0 → globalCheck s space ea n need = .error (.trap 0x07 0 ea 0 false)) ∧
    (∀ c, ea.toNat % n = 0 → s.ctx? space = some c →
      (2 ^ 56 ≤ ea.toNat → globalCheck s space ea n need = .error (.trap 0x10 0 ea 0 false)) ∧
      (ea.toNat < 2 ^ 56 → (∀ r ∈ c.rng, r.valid = true → ea.toNat / 65536 < r.first ∨ r.last < ea.toNat / 65536) →
        globalCheck s space ea n need = .error (.trap 0x10 1 ea 0 false)) ∧
      (∀ r, ea.toNat < 2 ^ 56 →
        c.rng.find? (fun r => r.valid && decide (r.first ≤ ea.toNat / 65536) && decide (ea.toNat / 65536 ≤ r.last)) = some r →
        globalCheck s space ea n need = if r.allows need then .ok (r.iaFirst * 65536 + (ea.toNat - r.first * 65536))
          else .error (.trap 0x10 2 ea 0 false)))

/-- R223, R227, R228, R342, R350, R393: an access that nothing holds is performed; an ORD access when its rank is reached; a
gated one when its gate lets it pass.

It rests on the model's readings of log entries 5 and 22, and for a releasing store of 17 and 18: its release writes back the
lines of its own space alone, as the store is performed. -/
def Obligations.AccessesPerform : Prop :=
  (∀ s a t tr, s.accs.find? (fun a => a.id == s.named) = some a → a.ord = none → movable s a = true → logMode s t = 0 →
    Performs s t a tr → ∃ s', exec .translationWalk s = .next s' ∧ Performed s s' t a tr) ∧
  (∀ s a t tr n, s.accs.find? (fun a => a.id == n) = some a → a.ord.isSome = true → movable s a = true →
    ordReady s t a = true → logMode s t = 0 → Performs s t a tr →
    ∃ s', exec (.ordAccessArrival n) s = .next s' ∧ Performed s s' t a tr) ∧
  (∀ s s1 a t tr n, s.accs.find? (fun a => a.id == n) = some a → a.ord = none → a.gated = true → earliest s a = true →
    s.team? a.team = some t → lookup s t.space a.ia a.op.need true = .ok tr →
    gatePass s t a (pointOf (s.part t.space).secmask t.core true tr.leaf a.ia (a.scope.getD .d)) = (s1, true) →
    logMode s1 t = 2 → Performs s1 t a tr →
    ∃ s', exec (.replayGateArrival n) s = .next s' ∧ Performed s1 s' t a tr)

/-- R198, R223: an outstanding result is written to its latch and to those of its registers that no later instruction has
written since, and is outstanding no more.

It rests on the model's readings of log entries 64 and 65: the latch is written whatever its lane has done meanwhile, and
of an s-register's values that of the lowest lane that completes stands. -/
def Obligations.ResultsArrive : Prop :=
  ∀ s r t w l, Awake s → s.results.find? (fun r => r.id == s.named) = some r →
    s.team? r.team = some t → t.warps[r.warp]? = some w → w.lanes[r.lane]? = some l →
    ∃ s' w' l', exec (if r.load then .loadDataArrival else .resultWriteback) s = .next s' ∧
      s'.results = s.results.filter (fun x => x.id != r.id) ∧
      s'.warp? r.team r.warp = some w' ∧ w'.lanes[r.lane]? = some l' ∧
      (∀ m c, r.dst = some (.v m, c) → ∀ j, j < c →
        l'.rdV (m.val + j) = if r.dead.getLsbD j then l.rdV (m.val + j) else r.val.extractLsb' (32 * j) 32) ∧
      (∀ m c, r.dst = some (.s m, c) → ∀ j, j < c → m.val + j ≠ 0 →
        w'.rdS (m.val + j) = if r.dead.getLsbD j then w.rdS (m.val + j) else r.val.extractLsb' (32 * j) 32) ∧
      (∀ b, r.latch = some b → l'.bp[b] = some (r.val.extractLsb' 0 32)) ∧
      (∀ n, (∀ m c, r.dst = some (.v m, c) → n < m.val ∨ m.val + c ≤ n) → l'.rdV n = l.rdV n) ∧ s'.mem = s.mem

/-- R61, R225, R226: a scratchpad load writes the bytes of the scratchpad at its offset to its registers; a scratchpad store
writes its bytes there and leaves every other byte of the scratchpad and all of memory.

It rests on the model's readings of log entry 58. -/
def Obligations.ScratchpadAccesses : Prop :=
  (∀ s h is t k w l m d ad (off : Nat), Issuing s (.lds h m d ad) h is t → OneLane t is h k → Active t is h k w l → NoTry t →
    offsetOf w l ad = (off : Int) → off % widthBytes m.width = 0 → off + widthBytes m.width ≤ 1024 * t.desc.scrK →
    ∃ s' w' l' t', exec (.lds h m d ad) s = .next s' ∧ s'.warp? is.team k.1 = some w' ∧ w'.lanes[k.2]? = some l' ∧
      Wrote is h d ((List.range (widthRegs m.width)).map (fun j =>
        (loadVal (signedWidth m.width) (widthBytes m.width) (cread t.scratch off (widthBytes m.width))).extractLsb' (32 * j) 32))
        True l w' l' ∧
      s'.team? is.team = some t' ∧ t'.scratch = t.scratch ∧ s'.mem = s.mem) ∧
  (∀ s h is t k w l m ad b (off : Nat), Issuing s (.sts h m ad b) h is t → OneLane t is h k → Active t is h k w l → NoTry t →
    offsetOf w l ad = (off : Int) → off % widthBytes m.width = 0 → off + widthBytes m.width ≤ 1024 * t.desc.scrK →
    ∃ s' w' l' t', exec (.sts h m ad b) s = .next s' ∧ s'.warp? is.team k.1 = some w' ∧ w'.lanes[k.2]? = some l' ∧
      StandsAt is.after l l' ∧ s'.team? is.team = some t' ∧ s'.mem = s.mem ∧
      cread t'.scratch off (widthBytes m.width) = leBytes (widthBytes m.width) (readRegs w l b (widthRegs m.width)) ∧
      ∀ (x : Nat), (x < off ∨ off + widthBytes m.width ≤ x) → cget t'.scratch x = cget t.scratch x)

/-- R56, R57: a window load writes the register of the named warp that the window shows at the offset; a window store to a
v-register inside the window or to an s-register but s0 is what the register then holds, one to a predicate word gives every
live lane its bit of it, but for p7, and one to a v-register beyond the window, to s0 or beyond WSTAT is ignored.

It rests on the model's readings of log entry 59: a window read of another warp sees what its register holds, though a result
for it is outstanding. -/
def Obligations.WindowAccesses : Prop :=
  (∀ s h is t k w l d ad (wa j : Nat) x, Issuing s (.ldw h d ad) h is t → OneLane t is h k → Active t is h k w l → w.tx.depth = 0 →
    offsetOf w l ad = (wa : Int) → wa % 4 = 0 → wa ≤ 0x1FFFFC → t.warps.findIdx? (fun w => w.ctx == wa / 2 ^ 15) = some j →
    t.warps[j]? = some x →
    ∃ s' w' l', exec (.ldw h d ad) s = .next s' ∧ s'.warp? is.team k.1 = some w' ∧ w'.lanes[k.2]? = some l' ∧
      Wrote is h d [windowRead t.desc.win x (wa % 2 ^ 15)] True l w' l') ∧
  (∀ s h is t k w l ad b (wa j : Nat) x, Issuing s (.stw h ad b) h is t → OneLane t is h k → Active t is h k w l → w.tx.depth = 0 →
    offsetOf w l ad = (wa : Int) → wa % 4 = 0 → wa ≤ 0x1FFFFC → t.warps.findIdx? (fun w => w.ctx == wa / 2 ^ 15) = some j →
    t.warps[j]? = some x →
    ∃ s' w' l' x', exec (.stw h ad b) s = .next s' ∧ s'.warp? is.team k.1 = some w' ∧ w'.lanes[k.2]? = some l' ∧
      StandsAt is.after l l' ∧ s'.warp? is.team j = some x' ∧ s'.mem = s.mem ∧
      (∀ (m : Lane), wa % 2 ^ 15 < 0x6000 → wa % 2 ^ 15 / 128 < 8 * t.desc.win → x.lanes[wa / 4 % 32]? = some m →
        ∃ m', x'.lanes[wa / 4 % 32]? = some m' ∧ m'.rdV (wa % 2 ^ 15 / 128) = readSrc w l b ∧
          ∀ n, n ≠ wa % 2 ^ 15 / 128 → m'.rdV n = m.rdV n) ∧
      (0x6000 < wa % 2 ^ 15 → wa % 2 ^ 15 < 0x6100 → x'.rdS ((wa % 2 ^ 15 - 0x6000) / 4) = readSrc w l b) ∧
      (wa % 2 ^ 15 = 0x6120 → x'.lockstep = (readSrc w l b).getLsbD 0 ∧
        x'.uconflict = (x.uconflict && !(readSrc w l b).getLsbD 1)) ∧
      (0x6100 ≤ wa % 2 ^ 15 → wa % 2 ^ 15 < 0x6120 → ∀ (q : Nat) (m : Lane), x.lanes[q]? = some m →
        ∃ m', x'.lanes[q]? = some m' ∧ m'.v = m.v ∧ ∀ p : Fin 8, m'.rdP p =
          if p.val = (wa % 2 ^ 15 - 0x6100) / 4 ∧ p.val ≠ 7 ∧ m.st ≠ .exited then (readSrc w l b).getLsbD q else m.rdP p) ∧
      ((wa % 2 ^ 15 < 0x6000 ∧ 8 * t.desc.win ≤ wa % 2 ^ 15 / 128 ∨ wa % 2 ^ 15 = 0x6000 ∨ 0x6124 ≤ wa % 2 ^ 15) →
        (∀ n, x'.rdS n = x.rdS n) ∧ x'.lockstep = x.lockstep ∧ x'.uconflict = x.uconflict ∧
        ∀ (q : Nat) (m : Lane), x.lanes[q]? = some m → ∃ m', x'.lanes[q]? = some m' ∧ m'.v = m.v ∧ m'.p = m.p))

/-- R88, R89, R231, R232: a fence with nothing to write back, and a prefetch whose translation stands, that is told to allocate
nothing, or whose address pair is none, let the lanes go on and leave memory alone.

It rests on the model's reading of log entry 17: a fence writes back the lines of its own space alone. -/
def Obligations.FencesAndPrefetches : Prop :=
  (∀ s h is t k w l scope, Issuing s (.fence h scope) h is t → OneWarp t is h k → Active t is h k w l → CleanSpace s t.space →
    ∃ s', exec (.fence h scope) s = .next s' ∧ GoesOn s' t is h ∧ s'.mem = s.mem ∧ s'.l1 = s.l1) ∧
  (∀ s h is t k w l hint ad, Issuing s (.pref h hint ad) h is t → OneLane t is h k → Active t is h k w l →
    (hint = .noalloc ∨ ∃ c, s.ctx? t.space = some c ∧ ∀ ia, rangeCheck c (eaOf w l ad) .load = .ok ia →
      ∃ tr, Warm s t.space ia .load false tr) →
    ∃ s', exec (.pref h hint ad) s = .next s' ∧ GoesOn s' t is h ∧ s'.mem = s.mem) ∧
  (∀ s h is t hint ad, Issuing s (.nop h) h is t → (∀ k ∈ is.lanes, gated s is.team k.1 k.2 (info (.pref h hint ad)) = false) →
    ad.base.isLatch = true ∨ srcOdd ad.base = true ∨ srcBeyond t.desc.win ad.base 2 = true →
    ∃ s', exec (.pref h hint ad) s = .next s' ∧ GoesOn s' t is h ∧ s'.mem = s.mem)

/-! ### Tiles, rings and channels -/

/-- R62, R63, R236: TDECL gives an EMPTY or READY tile its shape, TFREE empties it; a pending delivery stays; in any other
state of the tile both wait.

R14, R237: TSTATE writes the tile's word; MOV Ts, s writes the shape that the s-register pair holds, when the tile is EMPTY
or READY, but for a reserved TYPE or SCALE, which stays as it was; and MOV s, Ts reads it. That a reserved value leaves its
field is the model's reading of log entry 63. -/
def Obligations.TilesAreDeclared : Prop :=
  ((∀ s h is t k w l n src x, Issuing s (.tdecl h n src) h is t → OneWarp t is h k → Active t is h k w l →
     NoDebugBlock s t.space → t.ttab.length = 32 →
     x = (match src with | .reg a => readPair w l a | .imm x => x) →
     (((t.tile n.val).st = .empty ∨ (t.tile n.val).st = .ready) → (shapeOf x).ok t.desc.tileK = true →
       ∃ s' t', exec (.tdecl h n src) s = .next s' ∧ GoesOn s' t is h ∧ s'.team? is.team = some t' ∧
         (t'.tile n.val).st = .empty ∧ (t'.tile n.val).arm = false ∧ (t'.tile n.val).pend = (t.tile n.val).pend ∧
         (∀ m, cget t'.tsh m = if m = n.val then x else cget t.tsh m) ∧ (∀ m, m ≠ n.val → t'.tile m = t.tile m) ∧
         t'.tileMem = t.tileMem ∧ s'.mem = s.mem) ∧
     (((t.tile n.val).st = .filling ∨ (t.tile n.val).st = .draining) →
       ∃ s', exec (.tdecl h n src) s = .next s' ∧ WaitsIn s' t is h (.tile n.val))) ∧
   (∀ s h is t k w l n, Issuing s (.tfree h n) h is t → OneWarp t is h k → Active t is h k w l →
     NoDebugBlock s t.space → t.ttab.length = 32 →
     (((t.tile n.val).st = .empty ∨ (t.tile n.val).st = .ready) →
       ∃ s' t', exec (.tfree h n) s = .next s' ∧ GoesOn s' t is h ∧ s'.team? is.team = some t' ∧
         (t'.tile n.val).st = .empty ∧ (t'.tile n.val).arm = false ∧ (t'.tile n.val).pend = (t.tile n.val).pend ∧
         t'.tsh = t.tsh ∧ (∀ m, m ≠ n.val → t'.tile m = t.tile m) ∧ t'.tileMem = t.tileMem ∧ s'.mem = s.mem) ∧
     (((t.tile n.val).st = .filling ∨ (t.tile n.val).st = .draining) →
       ∃ s', exec (.tfree h n) s = .next s' ∧ WaitsIn s' t is h (.tile n.val)))) ∧
  ((∀ s h is t d n, Issuing s (.tstate h d n) h is t →
     Completes (.tstate h d n) s h is t (fun k _ l w' l' =>
       Wrote is h d [BitVec.ofNat 32 (
         (match (t.tile n.val).st with | .empty => 0 | .filling => 1 | .ready => 2 | .draining => 3) +
         (if (t.tile n.val).keep then 4 else 0) + (if (t.tile n.val).arm then 8 else 0) +
         (if (t.tile n.val).pend.isSome then 16 else 0))] (Leads t is h k) l w' l')) ∧
   (∀ s h is t k w l n a x y, Issuing s (.movTshFromS h n a) h is t → OneWarp t is h k → Active t is h k w l →
     ((t.tile n.val).st = .empty ∨ (t.tile n.val).st = .ready) → x = readPair w l a → y = cget t.tsh n.val →
     ∃ s' t' z, exec (.movTshFromS h n a) s = .next s' ∧ GoesOn s' t is h ∧ s'.team? is.team = some t' ∧
       z = cget t'.tsh n.val ∧ z.extractLsb' 0 58 = x.extractLsb' 0 58 ∧
       z.extractLsb' 58 2 = (if x.extractLsb' 58 2 = 3#2 then y.extractLsb' 58 2 else x.extractLsb' 58 2) ∧
       z.extractLsb' 60 4 = (if x.extractLsb' 60 4 = 15#4 then y.extractLsb' 60 4 else x.extractLsb' 60 4) ∧
       (∀ m, m ≠ n.val → cget t'.tsh m = cget t.tsh m) ∧ t'.ttab = t.ttab ∧ s'.mem = s.mem) ∧
   (∀ s h is t k w l d n, Issuing s (.movSFromTsh h d n) h is t → OneWarp t is h k → Active t is h k w l →
     ∃ s' w' l', exec (.movSFromTsh h d n) s = .next s' ∧ s'.warp? is.team k.1 = some w' ∧ w'.lanes[k.2]? = some l' ∧
       Wrote is h d (twoWords (cget t.tsh n.val)) True l w' l'))

/-- R63, R92, R93, R238: CPYIN takes an EMPTY tile to FILLING and CPYOUT a READY one to DRAINING, and the copy runs on beside
the warp. What translates at a CPYIN's fork is read there; its completion reads what is left, after which the tile is READY. A
CPYOUT's completion writes the bytes to memory from the beat at which it stands, and the tile is READY, or EMPTY after
CPYOUT.FREE.

It rests on the model's readings of log entries 17 and 24. -/
def Obligations.CopiesRun : Prop :=
  (∀ s h is t k w l free m n ad b g x, Issuing s (.cpyout h free m n ad b) h is t → OneWarp t is h k → Active t is h k w l →
    CleanSpace s t.space → t.ttab.length = 32 → g = eaOf w l ad → x = readSrc w l b → t.shapeOk n.val = true →
    g.toNat % 4 = 0 → x.toNat % 4 = 0 → (t.tile n.val).st = .ready → Ranged s t.space .store (rowBeats g x (t.shape n.val)) →
    ∃ s', exec (.cpyout h free m n ad b) s = .next s' ∧ GoesOn s' t is h ∧ TileAt s' is.team n.val .draining ∧
      Queued s s' (.cpyout h free m n ad b) is k [g.toNat, x.toNat] [n.val] ∧ s'.mem = s.mem) ∧
  (∀ s h is t k w l m n ad b g x ias bs key tr, Issuing s (.cpyin h m n ad b) h is t → OneWarp t is h k →
    Active t is h k w l → CleanSpace s t.space → FreshName s → t.ttab.length = 32 → g = eaOf w l ad → x = readSrc w l b →
    t.shapeOk n.val = true → g.toNat % 4 = 0 → x.toNat % 4 = 0 → t.tile n.val = ⟨.empty, false, false, none⟩ →
    checkBeats s t.space .load (rowBeats g x (t.shape n.val)) = .ok ias → bs = withIas (rowBeats g x (t.shape n.val)) ias →
    Streamed s t.space .load key bs tr → Apart bs →
    ∃ s' t' o os, exec (.cpyin h m n ad b) s = .next s' ∧ GoesOn s' t is h ∧ s'.team? is.team = some t' ∧
      (t'.tile n.val).st = .filling ∧ s'.ops = os ++ [o] ∧ os.map EngOp.plain = s.ops.map EngOp.plain ∧ o.id = s.serial ∧
      o.ins = .cpyin h m n ad b ∧ o.team = is.team ∧ o.tiles = [n.val] ∧ o.pos = bs.length ∧ Filled s t t' bs tr ∧
      s'.mem = s.mem) ∧
  (∀ s o t h m n ad b key tr bs, Awake s → s.mcasts = [] → s.op? o.id = some o → o.ins = .cpyin h m n ad b →
    o.tiles = [n.val] → s.team? o.team = some t → opRuns s o = true → t.ttab.length = 32 →
    bs = (copyBeats t o).drop o.pos → Streamed s t.space .load key bs tr → Apart bs →
    ∃ s' t', exec (.cpyinCompletion o.id) s = .next s' ∧ s'.team? o.team = some t' ∧ (t'.tile n.val).st = .ready ∧
      s'.op? o.id = none ∧ s'.mem = s.mem ∧ Filled s t t' bs tr) ∧
  (∀ s o t h free m n ad b key tr bs, Awake s → NoTryAtAll s → NoDebugBlock s t.space → s.op? o.id = some o →
    o.ins = .cpyout h free m n ad b → o.tiles = [n.val] → s.team? o.team = some t → opRuns s o = true →
    t.ttab.length = 32 → bs = (copyBeats t o).drop o.pos → Streamed s t.space .store key bs tr →
    bs.Pairwise (fun a b => (tr a).pa + a.len ≤ (tr b).pa ∨ (tr b).pa + b.len ≤ (tr a).pa) →
    ∃ s' t', exec (.cpyoutCompletion o.id) s = .next s' ∧ s'.team? o.team = some t' ∧
      (t'.tile n.val).st = (if free then .empty else .ready) ∧ s'.op? o.id = none ∧ t'.tileMem = t.tileMem ∧
      (∀ e ∈ bs, cread s'.mem (tr e).pa e.len = cread t.tileMem e.off e.len) ∧
      (∀ x, (∀ e ∈ bs, x < (tr e).pa ∨ (tr e).pa + e.len ≤ x) → cget s'.mem x = cget s.mem x))

/-- R71, R73, R233, R318: MCAST takes a grant that its team holds and leaves with its range and mask, and a window opens at the
home slices; TARM arms an EMPTY tile, or starts the fill that waited for it.

R72, R73: a copy, or a plain load, that names a line of which a beat has still to leave is merged; once they are due the
beats leave with what their slices hold; a masked core with an armed tile of the right extent starts to fill, and any other
keeps the delivery; after the last beat the tile holds the bytes and is READY. -/
def Obligations.MulticastsRun : Prop :=
  ((∀ s h is t k w l n a b, Issuing s (.mcast h n a b) h is t → OneWarp t is h k → Active t is h k w l →
     CleanSpace s t.space → NoRequest t is h → HoldsGrant s t 3 → t.shapeOk n.val = true → (readPair w l a).toNat % 64 = 0 →
     (readSrc w l b).toNat % 65536 ≠ 0 → Ranged s t.space .load (runBeats (readPair w l a).toNat (t.shape n.val).extent 0) →
     ∃ s' t', exec (.mcast h n a b) s = .next s' ∧ GoesOn s' t is h ∧ s'.team? is.team = some t' ∧
       t'.grants.length + 1 = t.grants.length ∧
       Queued s s' (.mcast h n a b) is k
         [(readPair w l a).toNat, (readSrc w l b).toNat % 65536, (t.shape n.val).extent, n.val] [n.val]) ∧
   (∀ s o h n a b t, Awake s → s.op? o.id = some o → o.ins = .mcast h n a b → s.team? o.team = some t → opRuns s o = true →
     (∀ m ∈ s.mcasts, m.op ≠ o.id) →
     ∃ s' m, exec (.mcastRequestArrival o.id) s = .next s' ∧ s'.mcasts = s.mcasts ++ [m] ∧ m.op = o.id ∧ m.inst = t.inst ∧
       m.sector = t.core / 16 ∧ m.space = t.space ∧ m.ias = o.ias ∧ m.ext = o.arg 2 ∧ m.tile = o.arg 3 ∧
       m.mask.toNat = o.arg 1 % 65536 ∧ m.opened = s.mesh ∧ m.left = [] ∧ m.merged = [] ∧ m.receivers = []) ∧
   (∀ s h is t k w l n, Issuing s (.tarm h n) h is t → OneWarp t is h k → Active t is h k w l →
     t.ttab.length = 32 → t.shapeOk n.val = true → (t.tile n.val).st = .empty →
     ((t.tile n.val).pend = none →
       ∃ s' t', exec (.tarm h n) s = .next s' ∧ GoesOn s' t is h ∧ s'.team? is.team = some t' ∧
         (t'.tile n.val).arm = true ∧ (t'.tile n.val).st = .empty) ∧
     (∀ p, (t.tile n.val).pend = some p → p.ext = (t.shape n.val).extent →
       Ranged s t.space .load (runBeats p.va.toNat p.ext (t.shape n.val).base) →
       ∃ s' t', exec (.tarm h n) s = .next s' ∧ GoesOn s' t is h ∧ s'.team? is.team = some t' ∧
         (t'.tile n.val).st = .filling ∧ (t'.tile n.val).arm = false ∧ (t'.tile n.val).pend = none ∧
         Queued s s' (.tarm h n) is k [p.va.toNat, p.ext] [n.val]))) ∧
  ((∀ s (m : Mcast) o t h cm n ad b, Awake s → s.mcast? m.id = some m → m.joined o.id true = none → s.op? o.id = some o →
     o.ins = .cpyin h cm n ad b → o.id ≠ m.op → s.team? o.team = some t → opRuns s o = true → t.space = m.space →
     t.core / 16 = m.sector → (∃ ia ∈ o.ias, ∃ j, m.beatAt ia = some j ∧ m.hasLeft j = false) →
     ∃ s' x, exec (.mergeRequestArrival m.id o.id) s = .next s' ∧ s'.mcast? m.id = some { m with merged := m.merged ++ [x] } ∧
       x.core = t.core ∧ x.op = o.id ∧ x.isOp = true ∧ ∀ k, k ∈ x.missed ↔ Missed m o.ias k) ∧
   (∀ s (m : Mcast) (a : Access) t j, Awake s → s.mcast? m.id = some m → s.op? a.id = none → s.accs.find? (fun x => x.id == a.id) = some a →
     a.op = .load → a.scope = none → movable s a = true → s.team? a.team = some t → t.space = m.space → t.core / 16 = m.sector →
     m.beatAt a.ia = some j → m.hasLeft (m.lineFirst j) = false → m.joined a.id false = none →
     ∃ s', exec (.mergeRequestArrival m.id a.id) s = .next s' ∧
       s'.mcast? m.id = some { m with merged := m.merged ++ [⟨t.core, a.id, false, []⟩] }) ∧
   (∀ s (m : Mcast) o t (tr : Nat → Trans) ia0 n, Awake s → s.mcasts = [m] → m.left = [] → m.merged = [] → m.mask ≠ 0 →
     m.opened + 64 + m.ias.length ≤ s.mesh → s.op? m.op = some o → s.team? o.team = some t → opRuns s o = true →
     ia0 % 64 = 0 → m.ias = (List.range n).map (fun k => ia0 + 64 * k) →
     (∀ ia ∈ m.ias, Warm s m.space ia .load false (tr ia) ∧ corrupt s (tr ia).pa 64 = false) →
     ∃ s' m', exec (.mergeWindowClose m.id) s = .next s' ∧ s'.mcasts = [m'] ∧ m'.mask = m.mask ∧ m'.allLeft = true ∧
       s'.mem = s.mem ∧ ∀ ia ∈ m.ias, cread m'.data ia 64 = sliceBytes s t.core m.space ia 64 (tr ia)) ∧
   (∀ s (m : Mcast) core t, Awake s → s.mcast? m.id = some m → m.left ≠ [] → core / 16 = m.sector →
     m.mask.getLsbD (core % 16) = true → receiverAt s m.inst core = some t → s.team? t.uid = some t → t.ttab.length = 32 →
     m.tile < 32 →
     ((t.tile m.tile).st = .empty → (t.tile m.tile).arm = true → t.shapeOk m.tile = true → (t.shape m.tile).extent = m.ext →
       ∃ s' t' m', exec (.mcastFirstBeatArrival m.id core) s = .next s' ∧ s'.team? t.uid = some t' ∧
         (t'.tile m.tile).st = .filling ∧ (t'.tile m.tile).arm = false ∧ s'.mcast? m.id = some m' ∧
         (t.uid, core) ∈ m'.receivers ∧ m'.mask.getLsbD (core % 16) = false) ∧
     (((t.tile m.tile).st ≠ .empty ∨ (t.tile m.tile).arm = false) → (t.tile m.tile).pend = none →
       ∃ s' t', exec (.mcastFirstBeatArrival m.id core) s = .next s' ∧ s'.team? t.uid = some t' ∧
         t'.tile m.tile = { t.tile m.tile with pend := some ⟨m.space, m.va, m.ias.headD 0, m.ext⟩ })) ∧
   (∀ s (m : Mcast) core u t, Awake s → s.mcast? m.id = some m → m.receivers.find? (fun x => x.2 == core) = some (u, core) →
     m.allLeft = true → s.team? u = some t → t.st = .running → t.ttab.length = 32 → m.tile < 32 →
     m.ext ≤ 64 * m.ias.length →
     ∃ s' t', exec (.mcastDeliveryComplete m.id core) s = .next s' ∧ s'.team? u = some t' ∧ (t'.tile m.tile).st = .ready ∧
       cread t'.tileMem (t.shape m.tile).base m.ext = (m.ias.flatMap (fun ia => cread m.data ia 64)).take m.ext) ∧
   (∀ s o h n t key tr bs, Awake s → s.mcasts = [] → s.op? o.id = some o → o.ins = .tarm h n → o.tiles = [n.val] →
     s.team? o.team = some t → opRuns s o = true → t.ttab.length = 32 →
     bs = (withIas (runBeats (o.arg 0) (o.arg 1) (t.shape n.val).base) o.ias).drop o.pos →
     Streamed s t.space .load key bs tr → Apart bs →
     ∃ s' t', exec (.mcastDeliveryComplete o.id t.core) s = .next s' ∧ s'.team? o.team = some t' ∧
       (t'.tile n.val).st = .ready ∧ s'.op? o.id = none ∧ Filled s t t' bs tr))

/-- R67, R239: the members of a cluster or ring wait in RROT for each other; once each has issued with a READY tile of one
extent, every tile goes to FILLING with the bytes of its predecessor's, its successor's under DN, and the waiting
lanes go on; then each tile is READY again.

R64, R65, R240: RPUSH writes the tile number with the producer phase to the producer's slot of the ring and moves it on;
RPOP reads the consumer's slot once its phase is the expected one and moves on; a full ring, and a slot of the other
phase, make them wait.

It rests on the model's readings of log entry 51. -/
def Obligations.RingsRun : Prop :=
  ((∀ s h is t k w l ring dn n, Issuing s (.rrot h ring dn n) h is t → OneWarp t is h k → Active t is h k w l →
     CleanSpace s t.space → (∀ o ∈ s.ops, o.team ≠ is.team) → NoRequest t is h →
     t.shapeOk n.val = true → (if ring then t.desc.place = 3 ∧ 2 ≤ t.desc.rlen else t.desc.place = 2) →
     (ring = true → t.desc.rlen = 16 → HoldsGrant s t 4) →
     ∃ s', exec (.rrot h ring dn n) s = .next s' ∧ WaitsIn s' t is h (.engine s.serial) ∧
       Queued s s' (.rrot h ring dn n) is k [dn.toNat] [n.val]) ∧
   (∀ s inst (n : Fin 32) ms ext dn, Awake s → (s.teams.map (·.uid)).Nodup → (s.ops.map (·.id)).Nodup →
     (s.teams.filter (fun u => u.inst == inst)).findSome? (fun u => rotationAt s u n.val) = some ms →
     (ms.map (·.1.uid)).Nodup → (∀ x ∈ ms, (x.1.shape n.val).extent = ext ∧ x.2.arg 0 = dn) →
     ∃ s', exec (.rrotRotation inst n) s = .next s' ∧ s'.mem = s.mem ∧
       ∀ (j : Nat) (x y : Team × EngOp), ms[j]? = some x →
         ms[if dn = 1 then (j + 1) % ms.length else (j + ms.length - 1) % ms.length]? = some y →
         ∃ t', s'.team? x.1.uid = some t' ∧ (t'.tile n.val).st = .filling ∧
           cread t'.tileMem (x.1.shape n.val).base ext = cread y.1.tileMem (y.1.shape n.val).base ext ∧
           ∀ (w : Warp) (q : Nat) (l : Lane), x.1.warps[x.2.warp]? = some w → w.lanes[q]? = some l →
             l.st = .blocked → l.wait = .engine x.2.id →
             ∃ w' l', s'.warp? x.1.uid x.2.warp = some w' ∧ w'.lanes[q]? = some l' ∧
               StandsAt (l.pc + BitVec.ofNat 56 x.2.len) l l') ∧
   (∀ s o t h ring dn (n : Fin 32), Awake s → s.team? o.team = some t → t.ttab.length = 32 → opRuns s o = true →
     o.ins = .rrot h ring dn n →
     s.ops.find? (fun o => o.team == t.uid && (isRrot o.ins).isSome && o.tiles == [n.val] && o.pos == 1) = some o →
     ∃ s', exec (.rrotCompletion t.uid n) s = .next s' ∧ TileAt s' t.uid n.val .ready ∧ s'.op? o.id = none)) ∧
  ((∀ s h is t k w l r src g, Issuing s (.rpush h r src) h is t → OneWarp t is h k → Active t is h k w l →
     t.rings[r.val]? = some g → 0 < g.depth → g.slots.length = g.depth → g.prod < g.depth →
     (g.count ≠ g.depth →
       ∃ s' t' g', exec (.rpush h r src) s = .next s' ∧ GoesOn s' t is h ∧ s'.team? is.team = some t' ∧
         t'.rings[r.val]? = some g' ∧ g'.count = g.count + 1 ∧ g'.prod = (g.prod + 1) % g.depth ∧
         g'.prodPh = (g.prodPh != decide (g.prod + 1 = g.depth)) ∧ g'.cons = g.cons ∧ g'.expPh = g.expPh ∧
         ∀ j, g'.slots[j]? = if j = g.prod
           then some ((match src with | .tile n => n.val | .reg b => (readSrc w l b).toNat % 32), g.prodPh)
           else g.slots[j]?) ∧
     (g.count = g.depth → ∃ s', exec (.rpush h r src) s = .next s' ∧ WaitsIn s' t is h .retry)) ∧
   (∀ s h is t k w l d r g n ph, Issuing s (.rpop h d r) h is t → OneWarp t is h k → Active t is h k w l →
     t.rings[r.val]? = some g → 0 < g.depth → g.cons < g.depth → g.slots[g.cons]? = some (n, ph) →
     (ph = g.expPh →
       ∃ s' w' l' t' g', exec (.rpop h d r) s = .next s' ∧ s'.warp? is.team k.1 = some w' ∧ w'.lanes[k.2]? = some l' ∧
         Wrote is h d [BitVec.ofNat 32 n] True l w' l' ∧ s'.team? is.team = some t' ∧ t'.rings[r.val]? = some g' ∧
         g'.count = g.count - 1 ∧ g'.cons = (g.cons + 1) % g.depth ∧
         g'.expPh = (g.expPh != decide (g.cons + 1 = g.depth)) ∧ g'.prod = g.prod ∧ g'.slots = g.slots) ∧
     (ph ≠ g.expPh → ∃ s', exec (.rpop h d r) s = .next s' ∧ WaitsIn s' t is h .retry)))

/-- R74, R75, R76, R241: MOV Qn, v sends one flit of the lane to the channel's destination, and the lane goes on when it
arrives at a buffer with room; of the flits of several senders any may be next, and one that finds the buffer full is tried
again; MOV v, Qn takes the oldest flit of its own channel. -/
def Obligations.ChannelsCarry : Prop :=
  (∀ s h is t k w l q a, Issuing s (.movQFromV h q a) h is t → OneLane t is h k → Active t is h k w l →
    (cget w.qdest q.val).getLsbD 31 = true →
    ∃ s' f, exec (.movQFromV h q a) s = .next s' ∧ WaitsIn s' t is h (.flit f.id) ∧ s'.flits = s.flits ++ [f] ∧
      f.team = is.team ∧ f.warp = k.1 ∧ f.lane = k.2 ∧ f.chan = q.val ∧ f.dest = cget w.qdest q.val ∧
      f.payload = readPair w l a ∧ f.bounced = false) ∧
  (∀ s f u j w l x, Awake s → s.flits.find? (fun g => g.id == s.named) = some f → f.bounced = false → firstOfChannel s f = true →
    flitTo s f = .room u j → s.warp? u j = some x → s.warp? f.team f.warp = some w → w.lanes[f.lane]? = some l →
    l.st = .blocked → l.wait = .flit f.id →
    ∃ s' w' l' x', exec .flitArrival s = .next s' ∧ (∀ g ∈ s'.flits, g.id ≠ f.id) ∧
      s'.warp? f.team f.warp = some w' ∧ w'.lanes[f.lane]? = some l' ∧ StandsAt (l.pc + 8) l l' ∧
      s'.warp? u j = some x' ∧ ∀ n, n < 4 →
        x'.chan n = if n = f.dest.toNat % 4 then x.chan n ++ [f.payload] else x.chan n) ∧
  (∀ s f, Awake s → s.flits.find? (fun g => g.id == s.named) = some f → f.bounced = false → firstOfChannel s f = true →
    flitTo s f = .full → ∃ s', exec .flitArrival s = .next s' ∧ s'.teams = s.teams ∧ ∃ g ∈ s'.flits, g = { f with bounced := true }) ∧
  (∀ s f u j w l x, Awake s → s.flits.find? (fun g => g.id == s.named) = some f → f.bounced = true → firstOfChannel s f = true →
    flitTo s f = .room u j → s.warp? u j = some x → s.warp? f.team f.warp = some w → w.lanes[f.lane]? = some l →
    l.st = .blocked → l.wait = .flit f.id →
    ∃ s' w' l', exec .flitRetry s = .next s' ∧ (∀ g ∈ s'.flits, g.id ≠ f.id) ∧
      s'.warp? f.team f.warp = some w' ∧ w'.lanes[f.lane]? = some l' ∧ StandsAt (l.pc + 8) l l') ∧
  (∀ s h is t k w l d q x rest, Issuing s (.movVFromQ h d q) h is t → OneLane t is h k → Active t is h k w l →
    (w.chan q.val = x :: rest →
      ∃ s' w' l', exec (.movVFromQ h d q) s = .next s' ∧ s'.warp? is.team k.1 = some w' ∧ w'.lanes[k.2]? = some l' ∧
        Wrote is h d (twoWords x) True l w' l' ∧ w'.chan q.val = rest) ∧
    (w.chan q.val = [] → ∃ s', exec (.movVFromQ h d q) s = .next s' ∧ WaitsIn s' t is h .retry))

/-! ### Luna, the stream vector unit, the point unit -/

/-- R54: an element of w bits takes the w bits of its row that its column names, and no other bit of the row.

R157, R243 to R247, R318: MLW, MMA and MQ with a parameter block that passes its checks and READY tiles leave as one
operation of Luna; a destination goes to FILLING, and MLW and a long MMA take a grant.

R109 to R111, R247 to R249: the first Luna command of a team completes: MLW latches the elements of its tile; MMA gives each
element of D the accumulation over the blocks of K, and leaves the rest of the tile area; MQ to a format without a
scale quantises each element.

It rests on the model's readings of log entries 3, 24 and 79. -/
def Obligations.LunaRuns : Prop :=
  (∀ m h r c x, elemAt (setElem m h r c x) h r c = x % 2 ^ typeBits h.ty ∧
     (∀ e, e ≠ c → elemAt (setElem m h r c x) h r e = elemAt m h r e) ∧
     (∀ a, (a < h.base + r * h.pitch + c * typeBits h.ty / 8 ∨
         h.base + r * h.pitch + ((c + 1) * typeBits h.ty + 7) / 8 ≤ a) → cget (setElem m h r c x) a = cget m a)) ∧
  (∀ s i h is t k w l x cmd p kind, (i = .mlw h x ∧ cmd = 0 ∨ i = .mma h x ∧ cmd = 1 ∨ i = .mq h x ∧ cmd = 2) →
     Issuing s i h is t → OneWarp t is h k → Active t is h k w l → NoTry t → t.ttab.length = 32 →
     x.pbo.toNat + 64 ≤ 1024 * t.desc.scrK → params cmd x (cread t.scratch x.pbo.toNat 64) = some p →
     lunaCheck s t cmd p = none → (t.tile p.st).st = .ready → (cmd ≠ 0 → (t.tile p.dt).st = .ready) →
     ((if cmd = 2 then (t.shape p.dt).scale else (t.shape p.st).scale) ≠ 0 → (t.tile p.sc).st = .ready) →
     kind = (if cmd = 0 then 1 else if cmd = 1 ∧ 128 < p.m then 2 else 0) → (kind ≠ 0 → HoldsGrant s t kind) →
     NoRequest t is h →
     ∃ s' o, exec i s = .next s' ∧ GoesOn s' t is h ∧ s'.ops = s.ops ++ [o] ∧ o.ins = i ∧ o.team = is.team ∧
       o.charge = (if kind = 0 then 0 else 16) ∧ (cmd ≠ 0 → TileAt s' is.team p.dt .filling) ∧
       (cmd = 0 → TileAt s' is.team p.st .ready)) ∧
  ((∀ s o t h x, Awake s → s.op? o.id = some o → o.ins = .mlw h x → s.team? o.team = some t → opRuns s o = true →
     s.ops.find? (fun y => y.team == o.team && (lunaCmd y.ins).isSome) = some o →
     ∃ s' t', exec (.mlwLatch o.id) s = .next s' ∧ s'.team? o.team = some t' ∧ s'.op? o.id = none ∧
       t'.weight.valid = true ∧ t'.weight.k = o.arg 0 ∧ t'.weight.n = o.arg 1 ∧ t'.weight.ty = (o.shapeArg 2).ty ∧
       t'.weight.sc = (o.shapeArg 2).scale ∧ t'.tileMem = t.tileMem ∧
       ∀ r c, r < o.arg 0 → c < o.arg 1 →
         cget t'.weight.elems (r * o.arg 1 + c) = BitVec.ofNat 32 (elemAt t.tileMem (o.shapeArg 2) r c)) ∧
   (∀ s o t h x areaK, Awake s → s.op? o.id = some o → o.ins = .mma h x → s.team? o.team = some t → opRuns s o = true →
     s.ops.find? (fun y => y.team == o.team && (lunaCmd y.ins).isSome) = some o →
     (o.shapeArg 3).ty = 0 → (o.shapeArg 3).ok areaK = true → o.arg 0 ≤ (o.shapeArg 3).rows → o.arg 5 ≤ (o.shapeArg 3).cols →
     t.ttab.length = 32 → (∀ n ∈ o.tiles, n < 32) → o.tiles ≠ [] →
     ∃ s' t', exec (.mmaCompletion o.id) s = .next s' ∧ s'.team? o.team = some t' ∧ s'.op? o.id = none ∧
       (t'.tile (o.tiles.headD 0)).st = .ready ∧ t'.weight = t.weight ∧
       (∀ i j, i < o.arg 0 → j < o.arg 5 → elemAt t'.tileMem (o.shapeArg 3) i j = (mmaElem t o i j).toNat) ∧
       (∀ a, (∀ i j, i < o.arg 0 → j < o.arg 5 → a < (o.shapeArg 3).base + i * (o.shapeArg 3).pitch + 4 * j ∨
           (o.shapeArg 3).base + i * (o.shapeArg 3).pitch + 4 * j + 4 ≤ a) → cget t'.tileMem a = cget t.tileMem a)) ∧
   (∀ s o t h x areaK, Awake s → s.op? o.id = some o → o.ins = .mq h x → s.team? o.team = some t → opRuns s o = true →
     s.ops.find? (fun y => y.team == o.team && (lunaCmd y.ins).isSome) = some o → t.ttab.length = 32 →
     (∀ n ∈ o.tiles, n < 32) → o.tiles ≠ [] →
     ∃ s' t', exec (.mqCompletion o.id) s = .next s' ∧ s'.team? o.team = some t' ∧ s'.op? o.id = none ∧
       (t'.tile (o.tiles.headD 0)).st = .ready ∧
       ((o.shapeArg 3).scale = 0 → (o.shapeArg 3).ok areaK = true → o.arg 0 ≤ (o.shapeArg 3).rows →
         o.arg 5 ≤ (o.shapeArg 3).cols → 0 < o.arg 5 → ∀ i j, i < o.arg 0 → j < o.arg 5 →
           elemAt t'.tileMem (o.shapeArg 3) i j = quantElem (o.shapeArg 3).ty (Sys2Proof.Machine.rmOf (o.arg 9)) (decide (o.arg 8 = 1))
             (elemVal 0 (elemAt t.tileMem (o.shapeArg 2) i j)) (scaleVal 0 0) % 2 ^ typeBits (o.shapeArg 3).ty)))

/-- R156, R252 to R257: a stream-vector instruction whose count, formats and walks pass and whose tiles are READY leaves as one
operation, with its destination FILLING; a count of 0 does nothing; and when it completes its iterations have been
performed in order and its destination is READY.

R253 to R257: an iteration gives every element of D's vector what its instruction computes from the elements of the sources as they
stood before the iteration, gives VQNT's scale entries the scales of their blocks, and leaves every byte outside.

It rests on the model's choice of log entry 79. -/
def Obligations.StreamVectorsRun : Prop :=
  (∀ s i h is t k w l x b, vsNames i = some (h, x, b) → Issuing s i h is t → OneWarp t is h k → Active t is h k w l →
    t.ttab.length = 32 → x.d < 32 → (∀ r ∈ x.d :: x.a :: x.b.toList, t.shapeOk r = true) →
    vsFormats i (t.shape x.d) (t.shape x.a) (x.b.map t.shape) = true →
    (match i with | .vqnt .. => x.b ≠ some x.d | _ => True) →
    (vsTimes w x.m = 0 → ∃ s', exec i s = .next s' ∧ GoesOn s' t is h ∧ s'.ops = s.ops) ∧
    (0 < vsTimes w x.m → vsTimes w x.m ≤ 4095 →
      walkInside (t.shape x.d) (vsLens i (t.shape x.d) (t.shape x.a)).1 (vsTimes w x.m) x.m.sd = true →
      walkInside (t.shape x.a) (vsLens i (t.shape x.d) (t.shape x.a)).2.1 (vsTimes w x.m) x.m.sa = true →
      (∀ y, x.b = some y →
        walkInside (t.shape y) (vsLens i (t.shape x.d) (t.shape x.a)).2.2 (vsTimes w x.m) x.m.sb = true) →
      (∀ r ∈ x.d :: x.a :: x.b.toList, (t.tile r).st = .ready) →
      ∃ s' o, exec i s = .next s' ∧ GoesOn s' t is h ∧ s'.ops = s.ops ++ [o] ∧ o.ins = i ∧ o.team = is.team ∧
        o.arg 0 = vsTimes w x.m ∧ TileAt s' is.team x.d .filling)) ∧
  (∀ s o t h x b, Awake s → s.op? o.id = some o → vsNames o.ins = some (h, x, b) → s.team? o.team = some t →
    opRuns s o = true → t.ttab.length = 32 → o.tiles.head? = some x.d → x.d < 32 → (∀ n ∈ o.tiles, n < 32) →
    ∃ s' t', exec (.streamVectorCompletion o.id) s = .next s' ∧ s'.team? o.team = some t' ∧ s'.op? o.id = none ∧
      (t'.tile x.d).st = .ready ∧ t'.tileMem = (List.range (o.arg 0)).foldl (vsIter o x.m) t.tileMem) ∧
  (∀ (o : EngOp) h x y mem i d a b, vsNames o.ins = some (h, x, y) → d = vsVector (o.shapeArg 1) x.m.sd i →
    a = vsVector (o.shapeArg 2) x.m.sa i → b = vsVector (o.shapeArg 3) x.m.sb i → 0 < a.cols →
    (∀ c, c < vsWidth o.ins d →
      (isVqnt o.ins = false ∨ spanEnd d d.cols ≤ b.base ∨ spanEnd b ((d.cols + 31) / 32) ≤ d.base) →
      ∃ r, VsRule o.ins x.m.rm (BitVec.ofNat 32 (o.arg 4)) d a b mem c r ∧
        elemAt (vsIter o x.m mem i) d 0 c = r % 2 ^ typeBits d.ty) ∧
    (isVqnt o.ins = true → ∀ k, k < (d.cols + 31) / 32 →
      elemAt (vsIter o x.m mem i) b 0 k = blockScale d a mem d.cols k % 2 ^ typeBits b.ty) ∧
    ∀ z, (z < d.base ∨ spanEnd d (vsWidth o.ins d) ≤ z) →
      (isVqnt o.ins = false ∨ z < b.base ∨ spanEnd b ((d.cols + 31) / 32) ≤ z) →
      cget (vsIter o x.m mem i) z = cget mem z)

/-- R261: a bucket in which the keys rise keeps at most CAP entries, of the lowest keys, still rising; an entry of a key that
is there, or of a key above all in a full bucket, is dropped.

R92, R259 to R263: VOXIN with a header in place and a record that translates leaves as one operation, which has read the
record, and for which the lane waits under NOCAP; the insertion gives the lane the status of what became of the point.

R259, R260, R264: BEVPOOL with a well-formed header leaves as one operation; at its completion into a tile every element is
the maximum or the sum of its channel over its bucket's entries, as the scratchpad held them at its fork; into memory, the
completion word is written last.

It rests on the model's readings of log entries 14 and 24. -/
def Obligations.PointsAreKept : Prop :=
  (∀ cap es new, (es.map Entry.key).Pairwise (· < ·) → es.length ≤ cap → 0 < cap →
     let i := insertCapped cap es new
     let res := es.take i.start ++ i.entries
     (res.map Entry.key).Pairwise (· < ·) ∧ res.length = i.count ∧ i.count ≤ cap ∧
     (i.dropped = true ↔ res.length = es.length) ∧
     (∀ e, e ∈ res → e ∈ es ∨ e = new) ∧
     (∀ e ∈ es, e ∉ res → es.length = cap ∧ ∀ f ∈ res, f.key < e.key) ∧
     (new ∉ res → (∃ e ∈ es, e.key = new.key) ∨ es.length = cap ∧ ∀ f ∈ res, f.key < new.key)) ∧
  ((∀ s h is t k w l nocap d a b ia tr, Issuing s (.voxin h nocap d a b) h is t → OneLane t is h k → Active t is h k w l →
     CleanSpace s t.space → FreshName s → (∀ o ∈ s.ops, o.team ≠ is.team) → (readSrc w l b).toNat % 64 = 0 →
     (readSrc w l b).toNat + 64 ≤ 1024 * t.desc.scrK → globalCheck s t.space (readPair w l a) 32 .load = .ok ia →
     Warm s t.space ia .load false tr → corrupt s tr.pa 32 = false →
     ∃ s', exec (.voxin h nocap d a b) s = .next s' ∧
       Queued s s' (.voxin h nocap d a b) is k [(readSrc w l b).toNat, (readPair w l a).toNat, is.id, 1,
         leNat (readBytes s t.core t.desc.fused t.space ia 32 tr)] [] ∧
       (nocap = false → GoesOn s' t is h) ∧ (nocap = true → WaitsIn s' t is h (.engine s.serial))) ∧
   (∀ s o t h nocap d a b s1 x, Awake s1 → s.op? o.id = some o → o.ins = .voxin h nocap d a b → s.team? o.team = some t →
     voxinReady s o = true → o.arg 3 = 1 → insertPoint s t (o.arg 0) nocap (leBytes 32 (o.arg 4)) = (s1, some x) →
     ∃ s', exec (.voxinInsertion o.id) s = .next s' ∧ s'.op? o.id = none ∧
       ∀ w l n, s1.warp? o.team o.warp = some w → w.lanes[o.lane]? = some l → o.dst = some (.v n, 1) → o.dead = 0 →
         ∃ w' l', s'.warp? o.team o.warp = some w' ∧ w'.lanes[o.lane]? = some l' ∧ l'.rdV n.val = x ∧
           ∀ m, m ≠ n.val → l'.rdV m = l.rdV m)) ∧
  ((∀ s h is t k w l sum clr tgt a off p, Issuing s (.bevpool h sum clr tgt a) h is t → OneWarp t is h k →
     Active t is h k w l → NoTry t → CleanSpace s t.space → off = (readSrc w l a).toNat → off % 64 = 0 →
     off + 64 ≤ 1024 * t.desc.scrK → pointHeader t.desc.scrK (cread t.scratch off 64) = some p → t.ttab.length = 32 →
     (match tgt with
       | .mem b => (readPair w l b).toNat % 4 = 0 ∧
           Ranged s t.space .store (poolBeats p.map (mapBytes p) (readPair w l b).toNat)
       | .tile d => t.shapeOk d.val = true ∧ (t.shape d.val).ty = 0 ∧ (t.shape d.val).scale = 0 ∧
           p.h * p.w ≤ (t.shape d.val).rows ∧ p.ch ≤ (t.shape d.val).cols ∧ (t.tile d.val).st = .ready) →
     ∃ s' o, exec (.bevpool h sum clr tgt a) s = .next s' ∧ GoesOn s' t is h ∧ s'.ops = s.ops ++ [o] ∧
       o.ins = .bevpool h sum clr tgt a ∧ o.team = is.team ∧ o.arg 0 = off ∧
       (∀ d, tgt = .tile d → TileAt s' is.team d.val .filling)) ∧
   (∀ s o t h sum d a areaK, Awake s → NoTry t → s.op? o.id = some o → o.ins = .bevpool h sum false (.tile d) a →
     s.team? o.team = some t → opRuns s o = true → t.ttab.length = 32 → o.tiles = [d.val] → (o.shapeArg 7).ty = 0 →
     (o.shapeArg 7).ok areaK = true → o.arg 1 ≤ (o.shapeArg 7).rows → o.arg 2 ≤ (o.shapeArg 7).cols →
     ∃ s' t', exec (.bevpoolCompletion o.id) s = .next s' ∧ s'.team? o.team = some t' ∧ s'.op? o.id = none ∧
       (t'.tile d.val).st = .ready ∧ t'.scratch = t.scratch ∧
       ∀ k c, k < o.arg 1 → c < o.arg 2 → elemAt t'.tileMem (o.shapeArg 7) k c = (poolValue s o sum k c).toNat) ∧
   (∀ s o t h sum b a key tr e, Awake s → NoTryAtAll s → s.op? o.id = some o → o.ins = .bevpool h sum false (.mem b) a →
     s.team? o.team = some t → opRuns s o = true → Streamed s t.space .store key (bevBeats o) tr →
     (bevBeats o).getLast? = some e → e.len = 4 → e.off = 0 → o.arg 1 ≤ 2 ^ 24 →
     ∃ s' t', exec (.bevpoolCompletion o.id) s = .next s' ∧ s'.team? o.team = some t' ∧ s'.op? o.id = none ∧
       t'.scratch = t.scratch ∧
       leNat (cread s'.mem (tr e).pa 4) = 2 ^ 31 + (List.range (o.arg 1)).countP (fun k =>
         leNat (cread (o.kept.getD t.scratch) (o.arg 4 + k * (8 + o.arg 3 * (8 + 4 * o.arg 2))) 4) != 0)))

/-! ### Anole and Skink -/

/-- R93, R268, R270, R273: TRACE.NEW, TRACE, TNEXT and THIT with a record in place leave as one batch, which reads as it forks,
pages whose accessed bit stands; at its end the record stands in the scratchpad as the batch left it, and the lane has the
status.

It rests on the model's readings of log entries 21 and 24. -/
def Obligations.RayBatchesRun : Prop :=
  (∀ s i h is t k w l d a, ((∃ n, i = .traceNew h n d a) ∨ (∃ n, i = .trace h n d a) ∨ i = .tnext h d a ∨ ∃ f, i = .thit h f d a) →
    Issuing s i h is t → OneLane t is h k → Active t is h k w l → NoTry t → CleanSpace s t.space →
    (readSrc w l a).toNat % 64 = 0 → (readSrc w l a).toNat + 256 ≤ 1024 * t.desc.scrK →
    (∀ ia tr, lookup s t.space ia .load false = .ok tr → leafA tr.leaf = true) →
    ∃ s', exec i s = .next s' ∧ GoesOn s' t is h ∧ Queued s s' i is k [(readSrc w l a).toNat] []) ∧
  (∀ s o t a s1 t1 r code done, Awake s1 → s.op? o.id = some o → s.team? o.team = some t → traceAct o = some a →
    opRuns s o = true → recordHeld s o.team (o.arg 0) o.id = false → runBatch s t o a = (s1, r, .code code, done) →
    s1.team? o.team = some t1 →
    ∃ s' t', exec (.traceBatchCompletion o.id) s = .next s' ∧ s'.op? o.id = none ∧ s'.team? o.team = some t' ∧
      cread t'.scratch (o.arg 0) 256 = cread r 0 256 ∧
      (NoTry t1 → ∀ w l n, s1.warp? o.team o.warp = some w → w.lanes[o.lane]? = some l → o.dst = some (.v n, 1) → o.dead = 0 →
        ∃ w' l', s'.warp? o.team o.warp = some w' ∧ w'.lanes[o.lane]? = some l' ∧ l'.rdV n.val = traceStatus r code))

/-- R273, R274: SPAWNRAY puts the child's record and payload, filled up with zero bytes, on the ray stack, notes its generation in
GENS and answers PUSHED; at the generation that the launch allows it counts DEPTHN and answers DEPTH; with a full stack it
counts FULLN and answers FULL; a malformed record it answers with MALFORMED; and every other byte of the scratchpad stands, in
the last three the whole stack.

It rests on the model's readings of log entry 21. -/
def Obligations.RaysAreSpawned : Prop :=
  ∀ s h is t k w l d a b n x c m r, Issuing s (.spawnray h d a b n) h is t → OneLane t is h k → Active t is h k w l →
    NoTry t → x = (readSrc w l a).toNat → c = (readSrc w l b).toNat → m = (readSrc w l n).toNat → x % 64 = 0 →
    x + 256 ≤ 1024 * t.desc.scrK → m ≤ 4 * t.desc.payW → m ≤ 64 → m % 4 = 0 → c % 64 = 0 →
    c + 64 + m ≤ 1024 * t.desc.scrK → recordHeld s is.team x 0 = false → r = memPut [] 0 (cread t.scratch x 256) →
    (∀ e, tBad t.desc.scrK r = false → tGen r < t.desc.depth → tSp r < 8 → e = tget r 0x4C 4 + 128 * tSp r →
      (e + 128 ≤ x ∨ x + 256 ≤ e) →
      ∃ s' t', exec (.spawnray h d a b n) s = .next s' ∧ GoesOn s' t is h ∧ s'.team? is.team = some t' ∧
        cread t'.scratch e 128 = cread t.scratch c (64 + m) ++ List.replicate (64 - m) 0 ∧
        leNat (cread t'.scratch (x + 0x50) 4) = leNat (cread t.scratch (x + 0x50) 4) + 4096 ∧
        (∀ j, j < 8 → leNat (cread t'.scratch (x + 0x54) 4) / 16 ^ j % 16 =
          if j = tSp r then (tGen r + 1) % 16 else leNat (cread t.scratch (x + 0x54) 4) / 16 ^ j % 16) ∧
        (∀ y, (y < e ∨ e + 128 ≤ y) → (y < x + 0x50 ∨ x + 0x58 ≤ y) → cget t'.scratch y = cget t.scratch y) ∧
        t'.depthOvf = t.depthOvf ∧ Pending s' is k h d 1 (5 + (tHit r).toNat * 16 + tGen r * 256 + (tSp r + 1) * 4096)) ∧
    (tBad t.desc.scrK r = false → tGen r < t.desc.depth → tSp r = 8 →
      ∃ s' t', exec (.spawnray h d a b n) s = .next s' ∧ GoesOn s' t is h ∧ s'.team? is.team = some t' ∧
        leNat (cread t'.scratch (x + 0x66) 2) = min (leNat (cread t.scratch (x + 0x66) 2) + 1) 0xFFFF ∧
        (∀ y, (y < x + 0x66 ∨ x + 0x68 ≤ y) → cget t'.scratch y = cget t.scratch y) ∧
        t'.depthOvf = t.depthOvf ∧ Pending s' is k h d 1 (7 + (tHit r).toNat * 16 + tGen r * 256 + 8 * 4096)) ∧
    (tBad t.desc.scrK r = false → t.desc.depth ≤ tGen r →
      ∃ s' t', exec (.spawnray h d a b n) s = .next s' ∧ GoesOn s' t is h ∧ s'.team? is.team = some t' ∧
        leNat (cread t'.scratch (x + 0x64) 2) = min (leNat (cread t.scratch (x + 0x64) 2) + 1) 0xFFFF ∧
        (∀ y, (y < x + 0x64 ∨ x + 0x66 ≤ y) → cget t'.scratch y = cget t.scratch y) ∧
        t'.depthOvf = t.depthOvf + 1 ∧ Pending s' is k h d 1 (6 + (tHit r).toNat * 16 + tGen r * 256 + tSp r * 4096)) ∧
    (tBad t.desc.scrK r = true →
      ∃ s' t', exec (.spawnray h d a b n) s = .next s' ∧ GoesOn s' t is h ∧ s'.team? is.team = some t' ∧
        t'.scratch = t.scratch ∧ t'.depthOvf = t.depthOvf ∧
        Pending s' is k h d 1 (4 + (tHit r).toNat * 16 + tGen r * 256 + tSp r * 4096))

/-- R132, R137, R138, R275, R277, R282: outside a TRY, BOXIN answers whether the point lies in the closed cube and on its grid, with
the vertex field; SNAP counts the vertices that break the snap rule; ANIM escapes a vertex that leaves the grid with
the axes on which it does.

It rests on the model's readings of log entry 21. -/
def Obligations.SceneQueries : Prop :=
  ((∀ s h is t k w l d a b off hd x rest s1, Issuing s (.boxin h d a b) h is t → OneLane t is h k → Active t is h k w l →
     Settled t is → NoTry t → off = (readSrc w l b).toNat → off % 64 = 0 → off + 64 ≤ 1024 * t.desc.scrK →
     ((pathTo (laneRead (viewOf t is k w l)) (leNat (cread t.scratch off 8))
       (readPair w l a).toNat).run).run s = .ok (.ok (hd, x :: rest), s1) →
     Awake s1 → s1.team? is.team = some t → ∀ p : Vec3,
     p = Vec3.sub ⟨blockInt (cread t.scratch off 64) 0x10, blockInt (cread t.scratch off 64) 0x20,
       blockInt (cread t.scratch off 64) 0x30⟩ x.org →
     ∃ s', exec (.boxin h d a b) s = .next s' ∧ GoesOn s' t is h ∧
       Pending s' is k h d 2 ((if 0 ≤ p.x ∧ p.x ≤ x.side ∧ 0 ≤ p.y ∧ p.y ≤ x.side ∧ 0 ≤ p.z ∧ p.z ≤ x.side then 16 +
         (if p.x % x.q = 0 ∧ p.y % x.q = 0 ∧ p.z % x.q = 0 then
           32 + ((p.x / x.q).toNat + (p.y / x.q).toNat * 2 ^ 10 + (p.z / x.q).toNat * 2 ^ 20) * 2 ^ 32 else 0) else 0))) ∧
   (∀ s h is t k w l d a b off vs s1, Issuing s (.snap h d a b) h is t → OneLane t is h k → Active t is h k w l →
     Settled t is → NoTry t → off = (readSrc w l b).toNat → off % 64 = 0 → off + 16 ≤ 1024 * t.desc.scrK →
     ((snapCheck (laneRead (viewOf t is k w l)) (leNat (cread t.scratch off 8)) (readPair w l a).toNat).run).run s
       = .ok (.ok vs, s1) →
     Awake s1 → s1.team? is.team = some t →
     ∃ s', exec (.snap h d a b) s = .next s' ∧ GoesOn s' t is h ∧
       Pending s' is k h d 1 ((if vs = [] then 0 else 10) + min vs.length 255 * 256 + vs.headD 0 * 65536)) ∧
   (∀ s h is t k w l d a b off u mv s1, Issuing s (.anim h d a b) h is t → OneLane t is h k → Active t is h k w l →
     Settled t is → NoTry t → off = (readSrc w l b).toNat → off % 16 = 0 → off + 80 ≤ 1024 * t.desc.scrK →
     u = leNat (cread t.scratch (off + 0x10) 16) → leNat (cread t.scratch off 8) % 64 = 0 →
     ((animRun (laneRead (viewOf t is k w l)) (readPair w l a).toNat (leNat (cread t.scratch off 8)) u
       (2 ^ 63 + off + 0x10)).run).run s = .ok (.ok mv, s1) →
     Awake s1 → s1.team? is.team = some t →
     (∀ p axes, mv = .escaped p axes →
       ∃ s' t', exec (.anim h d a b) s = .next s' ∧ GoesOn s' t is h ∧ s'.team? is.team = some t' ∧
         cread t'.scratch (off + 0x20) 48 = fineBytes p ∧
         Pending s' is k h d 1 (9 + axes * 16 + u / 2 ^ 32 % 65536 * 65536)) ∧
     (∀ va x c ia tr, mv = .record va x → NoTryAtAll s1 → s1.ctx? t.space = some c →
       rangeCheck c (BitVec.ofNat 64 va) .store = .ok ia → ia / 128 = (ia + 15) / 128 → Warm s1 t.space ia .store true tr →
       KeyedAs s1 (ownerKey s1 t.space tr.leaf) tr.pa 16 →
       ∃ s', exec (.anim h d a b) s = .next s' ∧ GoesOn s' t is h ∧
         readBytes s' t.core t.desc.fused t.space ia 16 tr = leBytes 16 x ∧
         Pending s' is k h d 1 (u / 2 ^ 32 % 65536 * 65536))))

/-- R135, R136: of the primitives drawn at a pixel the nearest one stands there, and of equal depths the lower ID; a primitive
that does not cover the pixel's centre leaves it.

R279, R280: BIN adds its primitive to the OPEN frame; of an EMPTY one it opens a frame with its word, in the save area's room, and
adds to that, or answers REJECTED for a word that names none; at a CLOSED one it waits. CLOSE waits until every primitive is
resolved and then answers OK, and RESET empties a CLOSED frame; in another state they answer STATE, and RESET of an EMPTY
frame OK.

R281: of a CLOSED frame VISRES counts the covered pixels of a tile, and PIDLD reads a pixel, all ones outside it; of an
OPEN frame both wait, and of an EMPTY one they answer STATE and all ones.

It rests on the model's readings of log entry 25. -/
def Obligations.RasterFrames : Prop :=
  (∀ f v0 v1 v2 id x y, id < 2 ^ 32 → x < frameW f.word → y < frameH f.word →
     pixelAt (drawPrimitive f v0 v1 v2 id) x y =
       match (if x ∈ pixelSpan [v0.x, v1.x, v2.x] (frameW f.word) ∧ y ∈ pixelSpan [v0.y, v1.y, v2.y] (frameH f.word)
         then sampleDepth v0 v1 v2 (256 * (x : Int) + 128) (256 * (y : Int) + 128) else none) with
       | some z => if z * 2 ^ 32 + id < (pixelAt f x y).toNat then BitVec.ofNat 64 (z * 2 ^ 32 + id) else pixelAt f x y
       | none => pixelAt f x y) ∧
  ((∀ s h is t k w l d a b off, Issuing s (.bin h d a b) h is t → OneLane t is h k → Active t is h k w l →
     NoTry t → off = (readSrc w l a).toNat → off % 16 = 0 → off + 64 ≤ 1024 * t.desc.scrK → t.frame.st = .opened →
     (∀ o ∈ s.ops, o.team ≠ is.team) →
     ∃ s' w' l' t', exec (.bin h d a b) s = .next s' ∧ s'.warp? is.team k.1 = some w' ∧ w'.lanes[k.2]? = some l' ∧
       s'.team? is.team = some t' ∧ t'.scratch = t.scratch ∧
       Wrote is h d [BitVec.ofNat 32 (addPrimitive t.frame (readSrc w l b) (cread t.scratch off 64)).2] True l w' l' ∧
       t'.frame = (addPrimitive t.frame (readSrc w l b) (cread t.scratch off 64)).1) ∧
   (∀ s h is t k w l d a b off, Issuing s (.bin h d a b) h is t → OneLane t is h k → Active t is h k w l →
     NoTry t → off = (readSrc w l a).toNat → off % 16 = 0 → off + 64 ≤ 1024 * t.desc.scrK →
     (t.frame.st = .closed → ∃ s' t', exec (.bin h d a b) s = .next s' ∧ WaitsIn s' t is h .retry ∧
       s'.team? is.team = some t' ∧ t'.frame = t.frame ∧ t'.scratch = t.scratch) ∧
     (t.frame.st = .empty → 2 ^ 16 ≤ (readSrc w l b).toNat → ∃ s' w' l' t', exec (.bin h d a b) s = .next s' ∧
       s'.warp? is.team k.1 = some w' ∧ w'.lanes[k.2]? = some l' ∧ Wrote is h d [11] True l w' l' ∧
       s'.team? is.team = some t' ∧ t'.frame = t.frame ∧ t'.scratch = t.scratch) ∧
     (∀ g, t.frame.st = .empty → (readSrc w l b).toNat < 2 ^ 16 → openFrame s t (readSrc w l b) = some g →
       g.st = .opened ∧ g.word = readSrc w l b ∧ (∀ x y, pixelAt g x y = 0xFFFFFFFFFFFFFFFF) ∧
       ∃ s' w' l' t', exec (.bin h d a b) s = .next s' ∧ s'.warp? is.team k.1 = some w' ∧ w'.lanes[k.2]? = some l' ∧
         s'.team? is.team = some t' ∧ t'.scratch = t.scratch ∧
         Wrote is h d [BitVec.ofNat 32 (addPrimitive g (readSrc w l b) (cread t.scratch off 64)).2] True l w' l' ∧
         t'.frame = (addPrimitive g (readSrc w l b) (cread t.scratch off 64)).1)) ∧
   (∀ s h is t k w l d, Issuing s (.binClose h d) h is t → OneWarp t is h k → Active t is h k w l →
     (t.frame.st = .opened → ∃ s', exec (.binClose h d) s = .next s' ∧ WaitsIn s' t is h (.close s.serial) ∧
       Queued s s' (.binClose h d) is k [] []) ∧
     (t.frame.st ≠ .opened → ∃ s' w' l', exec (.binClose h d) s = .next s' ∧ s'.warp? is.team k.1 = some w' ∧
       w'.lanes[k.2]? = some l' ∧ Wrote is h d [8] True l w' l')) ∧
   (∀ s o t h d w, Awake s → s.team? o.team = some t → t.st = .running → t.frame.st = .opened →
     s.ops.filter (fun y => y.team == o.team && isBinClose y.ins) = [o] → o.ins = .binClose h d → o.dead = 0 → t.warps[o.warp]? = some w →
     ∃ s' t' w', exec (.frameResolved o.team) s = .next s' ∧ s'.team? o.team = some t' ∧
       t'.frame = { t.frame with st := .closed } ∧ s'.op? o.id = none ∧ t'.warps[o.warp]? = some w' ∧
       ∀ (j : Nat) (l : Lane), w.lanes[j]? = some l → l.st = .blocked → l.wait = .close o.id →
         ∃ l', w'.lanes[j]? = some l' ∧ StandsAt (l.pc + BitVec.ofNat 56 o.len) l l' ∧
           ∀ n, d = .v n → h.nw = false → l'.rdV n.val = 0) ∧
   (∀ s h is t k w l d, Issuing s (.binReset h d) h is t → OneWarp t is h k → Active t is h k w l →
     ∃ s' w' l' t', exec (.binReset h d) s = .next s' ∧ s'.warp? is.team k.1 = some w' ∧ w'.lanes[k.2]? = some l' ∧
       s'.team? is.team = some t' ∧ Wrote is h d [if t.frame.st = .opened then 8 else 0] True l w' l' ∧
       t'.frame.st = (if t.frame.st = .opened then .opened else .empty) ∧
       (t.frame.st = .closed → ∀ x y, pixelAt t'.frame x y = 0xFFFFFFFFFFFFFFFF))) ∧
  ((∀ s h is t k w l d a tx ty, Issuing s (.visres h d a) h is t → OneWarp t is h k → Active t is h k w l →
     tx = (readSrc w l a).toNat / 256 % 256 → ty = (readSrc w l a).toNat % 256 →
     (t.frame.st = .opened → ∃ s', exec (.visres h d a) s = .next s' ∧ WaitsIn s' t is h .retry) ∧
     (t.frame.st ≠ .opened → ∃ s' w' l', exec (.visres h d a) s = .next s' ∧ s'.warp? is.team k.1 = some w' ∧
       w'.lanes[k.2]? = some l' ∧
       Wrote is h d [if t.frame.st = .empty then 8
         else if frameW t.frame.word ≤ 32 * tx ∨ frameH t.frame.word ≤ 32 * ty then 11
         else BitVec.ofNat 32 (((List.range 1024).countP (fun j =>
           pixelAt t.frame (32 * tx + j % 32) (32 * ty + j / 32) != 0xFFFFFFFFFFFFFFFF)) * 65536)] True l w' l')) ∧
   (∀ s h is t k w l d a x y, Issuing s (.pidld h d a) h is t → OneLane t is h k → Active t is h k w l →
     x = (readSrc w l a).toNat % 65536 → y = (readSrc w l a).toNat / 65536 →
     (t.frame.st = .opened → ∃ s', exec (.pidld h d a) s = .next s' ∧ WaitsIn s' t is h .retry) ∧
     (t.frame.st ≠ .opened → ∃ s' w' l', exec (.pidld h d a) s = .next s' ∧ s'.warp? is.team k.1 = some w' ∧
       w'.lanes[k.2]? = some l' ∧
       Wrote is h d (twoWords (if t.frame.st = .closed ∧ x < frameW t.frame.word ∧ y < frameH t.frame.word
         then pixelAt t.frame x y else 0xFFFFFFFFFFFFFFFF)) True l w' l')))

/-! ### Traps, returns and system registers -/

/-- R186, R187, R297, R298, R299 to R302, R309, R366: TRAP, and BRK without the debug right, save the frame, the region table and
the lane table in the save area, after which every live lane of the warp stands at the vector with s63 naming the frame. The
region table holds the region entry and the counter of the lanes that the frame names, which count the TRAP or BRK, and zero
for every other slot.

It rests on the model's readings of log entry 55. -/
def Obligations.TrapsEnter : Prop :=
  ∀ s i h is t k w l cause sub sup c pa leaf page, ((∃ x, i = .trap h x ∧ cause = 1 ∧ sub = x.getD 0) ∨
      (i = .brk h sub ∧ cause = 2 ∧ ∀ c, s.ctx? t.space = some c → (c.dbgctl.getLsbD 31 && c.dbgctl.getLsbD 30 && !w.sup) = false)) →
    Issuing s i h is t → OneWarp t is h k → Active t is h k w l → w.tx.depth = 0 → Quiet s is.team k.1 →
    t.frameF % 65536 = 0 → w.lanes.length = 32 → page = slotOff t k.1 / 65536 * 65536 → SavePage s t.space page c pa leaf →
    (if sup then (c.uvec = 0 ∨ w.sup = true) ∧ w.sbusy = false else c.uvec ≠ 0 ∧ w.sup = false ∧ w.ubusy = false) →
    ∃ s' w', exec i s = .next s' ∧ s'.warp? is.team k.1 = some w' ∧ w'.sup = sup ∧
      w'.sbusy = (w.sbusy || sup) ∧ w'.ubusy = (w.ubusy || !sup) ∧
      w'.rdS 63 = BitVec.ofNat 32 (slotOff t k.1 + if sup then 0x40 else 0) ∧
      (∀ (j : Nat) (m : Lane), w.lanes[j]? = some m → m.st ≠ .exited → ∃ m', w'.lanes[j]? = some m' ∧ m'.st = .ready ∧
        m'.pc = (if sup then c.svec else c.uvec).setWidth 56 ∧ m'.v = m.v ∧ m'.p = m.p) ∧
      FrameAt s' (pa + slotAt t k.1 + if sup then 0x40 else 0) s t is w sup cause sub.toNat
        ((peers t is h k).foldl (fun m j => m ||| BitVec.ofNat 32 (2 ^ j)) (0 : Word)).toNat ∧
      (∀ (j : Nat) (m : Lane), w.lanes[j]? = some m → numAt s' (pa + slotAt t k.1 + 0x280 + 8 * j) 8 =
        if m.st = .exited then 4 * 2 ^ 56 else if (k.1, j) ∈ is.lanes then is.after.toNat else m.pc.toNat) ∧
      ∀ (j : Nat) (m : Lane), w.lanes[j]? = some m →
        numAt s' (pa + slotAt t k.1 + 0x80 + 16 * j) 8 = (if j ∈ peers t is h k then m.regionPc.toNat else 0) ∧
        numAt s' (pa + slotAt t k.1 + 0x88 + 16 * j) 8 = if j ∈ peers t is h k then (m.regionCnt + 1).toNat else 0

/-- R187, R385: in user mode and with the debug right, BRK halts the warp, its active lanes after the instruction, and leaves an
event for each of them.

R186, R312: ERET restores s63 and the PCs of the live lanes from the save area, clears the BUSY bit of the frame that it
leaves, and the warp runs in user mode; its issue counts for the lanes that are active in it, and no lane of the warp stays
in a bin. -/
def Obligations.BreaksHaltAndEretReturns : Prop :=
  (∀ s h is t k w l code c, Issuing s (.brk h code) h is t → OneWarp t is h k → Active t is h k w l →
    s.ctx? t.space = some c → (c.dbgctl.getLsbD 31 && c.dbgctl.getLsbD 30) = true → w.sup = false →
    ∃ s' w', exec (.brk h code) s = .next s' ∧ s'.warp? is.team k.1 = some w' ∧ w'.st = .stopped ∧ w'.dbgHalt = true ∧
      (∀ (j : Nat) (m : Lane), w.lanes[j]? = some m → m.st ≠ .exited → ∃ m', w'.lanes[j]? = some m' ∧ m'.st = .halted ∧
        (j ∈ peers t is h k → m'.held = .ready ∧ m'.pc = is.after)) ∧
      s'.events = s.events ++ (peers t is h k).map (fun j => ⟨t.space, is.team, k.1, j, 2, code.toNat, is.after, s.clock.toNat⟩)) ∧
  (∀ s h is t k w l c pa leaf page, Issuing s (.eret h) h is t → OneWarp t is h k → Active t is h k w l →
    t.frameF % 65536 = 0 → page = slotOff t k.1 / 65536 * 65536 → SavePage s t.space page c pa leaf → c.defer = none →
    ∃ s' w', exec (.eret h) s = .next s' ∧ s'.warp? is.team k.1 = some w' ∧ w'.sup = false ∧
      w'.sbusy = (w.sbusy && !w.sup) ∧ w'.ubusy = (w.ubusy && w.sup) ∧
      w'.rdS 63 = BitVec.ofNat 32 (numAt s (pa + slotAt t k.1 + (if w.sup then 0x40 else 0) + 0x38) 4) ∧
      (∀ n, n ≠ 63 → w'.rdS n = w.rdS n) ∧ s'.mem = s.mem ∧
      (∀ b ∈ s'.bins, b.team = is.team → ∀ x ∈ b.slots ++ b.waiting, x.2 ≠ k.1) ∧
      ∀ (j : Nat) (m : Lane), j < 32 → w.lanes[j]? = some m → ∃ m', w'.lanes[j]? = some m' ∧ m'.v = m.v ∧ m'.p = m.p ∧
        (m.st = .exited → m' = m) ∧
        (m.st ≠ .exited → m'.st = .ready ∧ m'.pc = BitVec.ofNat 56 (numAt s (pa + slotAt t k.1 + 0x280 + 8 * j) 7) ∧
          m'.regionCnt = if j ∈ peers t is h k then m.regionCnt + 1 else m.regionCnt))

/-- R74, R293, R311, R344, R381: the writes of system registers: a HI half waits for its LO half, which installs both unless
the base is not aligned; word 0 of a range register installs all four words unless the value is reserved.

R293, R311: MTS to a register that its mode may write makes that register's write, and to a register that the mode may only
read it does nothing. -/
def Obligations.RegisterWrites : Prop :=
  ((∀ s u k w x, Awake s → s.warp? u k = some w →
     ∃ s' w', exec (.tmrcmpWrite u k x) s = .next s' ∧ s'.warp? u k = some w' ∧ w'.tmrcmp = x ∧ w'.armed = (x != 0)) ∧
   (∀ s u k w q x, Awake s → s.warp? u k = some w →
     ∃ s' w', exec (.qdestWrite u k q x) s = .next s' ∧ s'.warp? u k = some w' ∧
       ∀ n, cget w'.qdest n = if n = q.val then x &&& 0x80007FFF else cget w.qdest n) ∧
   (∀ s space c (hi lo : Word) x1 x0, Awake s → s.ctx? space = some c →
     (lo = 0x20 ∨ lo = 0x22 ∨ lo = 0x24) → hi = lo + 1 →
     ∃ s1 c1 s2 c2, exec (.hiWordWrite space hi x1) s = .next s1 ∧ s1.ctx? space = some c1 ∧
       (∀ n, pairReg c1 n = pairReg c n) ∧
       exec (.loWordWrite space lo x0) s1 = .next s2 ∧ s2.ctx? space = some c2 ∧
       pairReg c2 lo.toNat = (if x0.toNat % (if lo = 0x24 then 65536 else 32) = 0 then x1 ++ x0 else pairReg c lo.toNat) ∧
       ∀ n, n = 0x20 ∨ n = 0x22 ∨ n = 0x24 → n ≠ lo.toNat → pairReg c2 n = pairReg c n) ∧
   (∀ s space c (i : Fin 8) x0 x1 x2 x3 (n : Word) r, Awake s → s.ctx? space = some c → c.rng.length = 8 →
     c.rngPend.length = 8 → n.toNat = 0x100 + 4 * i.val → r = (⟨x0, x1 &&& 0xFFFFF01F, x2, x3⟩ : RangeReg) →
     ∃ s1 s2 s3 s4 c', exec (.sysregWrite space (n + 1) x1) s = .next s1 ∧ exec (.sysregWrite space (n + 2) x2) s1 = .next s2 ∧
       exec (.sysregWrite space (n + 3) x3) s2 = .next s3 ∧ (s3.ctx? space).map (·.rng) = some c.rng ∧
       exec (.rangeWord0Install space i x0) s3 = .next s4 ∧ s4.ctx? space = some c' ∧
       ∀ j : Nat, c'.rng[j]? = if j = i.val ∧ r.reserved = false then some r else c.rng[j]?) ∧
   (∀ s space c x, Awake s → s.ctx? space = some c →
     ∃ s' c', exec (.sysregWrite space 0x26 x) s = .next s' ∧ s'.ctx? space = some c' ∧ c'.savesz = x ∧ c'.rng = c.rng)) ∧
  (∀ s h is t k w l num a, Issuing s (.mts h num a) h is t → OneWarp t is h k → Active t is h k w l → Settled t is →
     (mayWrite w.sup num.toNat = true → num.toNat < 4 →
       ∃ s' w', exec (.mts h num a) s = .next s' ∧ GoesOn s' t is h ∧ s'.warp? is.team k.1 = some w' ∧
         ∀ n, cget w'.qdest n = if n = num.toNat then readSrc w l a &&& 0x80007FFF else cget w.qdest n) ∧
     (num = 0x12 → ∃ s' w', exec (.mts h num a) s = .next s' ∧ GoesOn s' t is h ∧ s'.warp? is.team k.1 = some w' ∧
         w'.tmrcmp = readSrc w l a ∧ w'.armed = (readSrc w l a != 0)) ∧
     (∀ i, mayWrite w.sup num.toNat = true → contextWrite t.space num (readSrc w l a) = some i →
       (num = 0x30 → ∀ u ∈ s.teams, isSaved u = false) →
       ∃ s' s'', exec (.mts h num a) s = .next s' ∧ exec i s = .next s'' ∧ s'.ctxs = s''.ctxs ∧
         ((num = 0x30 → (readSrc w l a).getLsbD 31 = true) → GoesOn s' t is h)) ∧
     (mayRead w.sup num.toNat = true → mayWrite w.sup num.toNat = false →
       ∃ s', exec (.mts h num a) s = .next s' ∧ GoesOn s' t is h ∧ s'.ctxs = s.ctxs ∧ s'.mem = s.mem))

/-- R306, R310: RDCLK writes the package clock, RDTMR the warp's active time, and MFS the value of a register that the mode
may read.

R308, R389, R390: STAMP appends its record to the stamp ring of the debug block when the ring has room, and counts it
dropped otherwise; without a debug block it leaves nothing. -/
def Obligations.ClocksStampsAndRegisters : Prop :=
  ((∀ s h is t d, Issuing s (.rdclk h d) h is t →
     Completes (.rdclk h d) s h is t (fun k _ l w' l' => Wrote is h d (twoWords s.clock) (Leads t is h k) l w' l')) ∧
   (∀ s h is t d, Issuing s (.rdtmr h d) h is t →
     Completes (.rdtmr h d) s h is t (fun k w l w' l' => Wrote is h d (twoWords w.active) (Leads t is h k) l w' l')) ∧
   (∀ s h is t d num c, Issuing s (.mfs h d num) h is t → s.ctx? t.space = some c →
     (∀ k w l, Active t is h k w l → mayRead w.sup num.toNat = true) →
     Completes (.mfs h d num) s h is t (fun k w l w' l' => Wrote is h d [
       if num.toNat < 4 then cget w.qdest num.toNat
       else if 0x100 ≤ num.toNat then (match c.rng[(num.toNat - 0x100) / 4]? with
         | some r => (match num.toNat % 4 with | 0 => r.w0 | 1 => r.w1 | 2 => r.w2 | _ => r.w3)
         | none => 0)
       else if num = 0x10 then BitVec.ofNat 32 t.space
       else if num = 0x11 then BitVec.ofNat 32 (w.sup.toNat * 4 + w.sbusy.toNat * 2 + w.ubusy.toNat)
       else if num = 0x12 then w.tmrcmp
       else if num = 0x26 then c.savesz
       else if num = 0x30 then c.dbgctl
       else (pairReg c (num.toNat / 2 * 2)).extractLsb' (32 * (num.toNat % 2)) 32] (Leads t is h k) l w' l'))) ∧
  (∀ s h is t k w l src, Issuing s (.stamp h src) h is t → OneWarp t is h k → Active t is h k w l → k.1 < 64 →
     (NoDebugBlock s t.space → ∃ s', exec (.stamp h src) s = .next s' ∧ GoesOn s' t is h ∧ s'.mem = s.mem) ∧
     (∀ c pa leaf n, n = (c.dbgctl.extractLsb' 0 16).toNat → n ≠ 0 → SavePage s t.space (65536 * n) c pa leaf →
       ((numAt s (pa + 0x1200) 4 + 2 ^ 32 - numAt s (pa + 0x1204) 4) % 2 ^ 32 < 896 →
         ∃ s' a, exec (.stamp h src) s = .next s' ∧ GoesOn s' t is h ∧
           a = pa + 0x2000 + 64 * (numAt s (pa + 0x1200) 4 % 896) ∧
           numAt s' (pa + 0x1200) 4 = (numAt s (pa + 0x1200) 4 + 1) % 2 ^ 32 ∧
           numAt s' a 4 / 2 ^ 28 = 2 ∧ numAt s' (a + 4) 4 = t.t % 2 ^ 32 ∧ numAt s' (a + 8) 8 = is.pc.toNat ∧
           numAt s' (a + 16) 8 = ((peers t is h k).foldl (fun m j => m ||| BitVec.ofNat 32 (2 ^ j)) (0 : Word)).toNat
             + (readSrcI w l src).toNat % 65536 * 2 ^ 32 ∧
           numAt s' (a + 24) 8 = s.clock.toNat) ∧
       (896 ≤ (numAt s (pa + 0x1200) 4 + 2 ^ 32 - numAt s (pa + 0x1204) 4) % 2 ^ 32 →
         ∃ s', exec (.stamp h src) s = .next s' ∧ GoesOn s' t is h ∧
           numAt s' (pa + 0x1200) 4 = numAt s (pa + 0x1200) 4 ∧
           numAt s' (pa + 0x1208) 4 = (numAt s (pa + 0x1208) 4 + 1) % 2 ^ 32)))

/-! ### Mappings, moves, the governor, keys -/

/-- R313, R314: FENCE.MAP drops every cached translation, whose counts go to HOT, and names its scope in the warp; MAPSYNC writes
the dirty bytes of a superseded page to its old frame; without a FENCE.MAP before it, it does nothing. It rests on the
model's readings of log entries 17 and 28.

R319, R412: SETKEY of ASID 0 gives an owner without a team the key of 64 bytes at its address, and answers BUSY for an owner
that has one; from any other ASID it traps ILLOP, subcode PRIV. It rests on the model's readings of log entry 27. -/
def Obligations.MappingsAndKeys : Prop :=
  ((∀ s h is t k w l scope, Issuing s (.fenceMap h scope) h is t → OneWarp t is h k → Active t is h k w l →
    CleanSpace s t.space → (scope = .n ∨ scope = .y → peerLost s = false) →
    (scope = .y → s.invWait = false ∧ s.hostCache = []) →
    ∃ s' w', exec (.fenceMap h scope) s = .next s' ∧ GoesOn s' t is h ∧ s'.tcache = [] ∧ s'.mem = s.mem ∧
      s'.hotQ = s.hotQ ++ s.tcache.map (fun e => (e.leafPa, e.count)) ∧ s'.warp? is.team k.1 = some w' ∧
      w'.fenceMap = some scope) ∧
  (∀ s h is t k w l, Issuing s (.mapsync h) h is t → OneWarp t is h k → Active t is h k w l →
    (w.fenceMap = none → ∃ s', exec (.mapsync h) s = .next s' ∧ GoesOn s' t is h ∧ s'.oldMaps = s.oldMaps ∧
      s'.l1 = s.l1 ∧ s'.mem = s.mem) ∧
    (w.fenceMap ≠ none → s.l1 = [] → ∃ s', exec (.mapsync h) s = .next s' ∧ GoesOn s' t is h ∧ s'.oldMaps = [] ∧
      s'.mem = s.mem) ∧
    (∀ e core line y pa, w.fenceMap ≠ none → NoTryAtAll s → s.l1 ≠ [] → core < Config.cores →
      (∀ d ∈ s.l1, d.core = core ∧ d.space = e.space ∧ d.ia / 128 = line) → (s.l1.map (·.ia)).Nodup →
      s.oldMaps.find? (fun x => x.space == e.space && x.page == pageOf x.big (line * 128)) = some e →
      walk s e.space (line * 128) = .ok y → leafW y.2.1 = true → leafNode e.leaf = false →
      pa = leafFrame e.leaf + (if e.big then line * 128 % 2 ^ 21 else line * 128 % 65536) → pa + 128 ≤ 2 ^ 39 →
      KeyedAs s (ownerKey s e.space e.leaf) pa 128 →
      ∃ s', exec (.mapsync h) s = .next s' ∧ GoesOn s' t is h ∧ s'.l1 = [] ∧ s'.oldMaps = [] ∧
        (∀ d ∈ s.l1, cget s'.mem (pa + d.ia % 128) = d.val) ∧
        ∀ x, (x < pa ∨ pa + 128 ≤ x) → cget s'.mem x = cget s.mem x))) ∧
  (∀ s h is t k w l d a b c ia tr space, Issuing s (.setkey h d a b) h is t → OneWarp t is h k → Active t is h k w l →
    t.space % 65536 = 0 → (readSrc w l b).toNat < 65536 → space = t.space + (readSrc w l b).toNat →
    (readPair w l a).toNat % 64 = 0 → s.ctx? t.space = some c → rangeCheck c (readPair w l a) .load = .ok ia →
    Warm s t.space ia .load true tr → corrupt s tr.pa 64 = false →
    ((∃ u ∈ s.teams, u.space = space ∧ u.st ≠ .gone) →
      ∃ s' w' l', exec (.setkey h d a b) s = .next s' ∧ s'.warp? is.team k.1 = some w' ∧ w'.lanes[k.2]? = some l' ∧
        Wrote is h d [6] True l w' l' ∧ s'.keys = s.keys) ∧
    ((∀ u ∈ s.teams, u.space = space → u.st = .gone) →
      ∃ s' w' l', exec (.setkey h d a b) s = .next s' ∧ s'.warp? is.team k.1 = some w' ∧ w'.lanes[k.2]? = some l' ∧
        Wrote is h d [0] True l w' l' ∧ s'.mem = s.mem ∧
        s'.keyOf space = some (BitVec.ofNat 512 (leNat (readBytes s t.core t.desc.fused t.space ia 64 tr))) ∧
        ∀ x, x ≠ space → s'.keyOf x = s.keyOf x)) ∧
  (∀ s h is t k w l d a b c pa, Issuing s (.setkey h d a b) h is t → OneWarp t is h k → Active t is h k w l →
    t.space % 65536 ≠ 0 → MayEnter s is.team k.1 t w c pa → Quiet s is.team k.1 → (c.uvec = 0 ∨ w.sup = true) →
    ∃ s', exec (.setkey h d a b) s = .next s' ∧ s'.keys = s.keys ∧
      Entered s' is.team k.1 t w c pa ((ilenOf is.len).toNat * 2 ^ 19 + 2 ^ 18 + (illCode .priv).toNat * 2 ^ 8 + 3))

/-- R315 to R317, R376, R380: PREEMPT and CTXSAVE save the running group of the named frame, pooled or held, once its units have
finished; until then, and while the group holds the issuing team, the lanes wait; an ENDING team answers COMPLETED if it ended
in this very cycle; CTXLOAD puts a held team back into the pool; their status is DONE, COMPLETED, NOTEAM, SELF or ALIGN.

It rests on the model's readings of log entries 17, 37 and 49. -/
def Obligations.TeamsMove : Prop :=
  (∀ s i h is t k w l d a hold f, (i = .ctxsave h d a ∧ hold = true ∨ i = .preempt h d a ∧ hold = false) →
    Issuing s i h is t → OneWarp t is h k → Active t is h k w l → w.tx.depth = 0 → f = (readSrc w l a).toNat →
    (∀ code, (f % 65536 ≠ 0 ∧ code = 4 ∨ f % 65536 = 0 ∧ f = t.frameF ∧ code = 3 ∨
        f % 65536 = 0 ∧ f ≠ t.frameF ∧ frameTeam s t.space f = none ∧ code = 2) →
      ∃ s' w' l', exec i s = .next s' ∧ s'.warp? is.team k.1 = some w' ∧ w'.lanes[k.2]? = some l' ∧
        Wrote is h d [BitVec.ofNat 32 code] True l w' l' ∧ s'.mem = s.mem) ∧
    (∀ u, f % 65536 = 0 → f ≠ t.frameF → frameTeam s t.space f = some u → s.team? u.uid = some u →
      (u.st = .running → is.team ∉ runningGroup s u →
        (u.saving = none ∨ ∃ y : Saving, u.saving = some y ∧ y.team = is.team ∧ y.warp = k.1 ∧ y.pc = is.pc) →
        (∀ v ∈ runningGroup s u, saveWaits s v = false ∧ ∀ x, s.team? v = some x → Saveable s x) →
        ∃ s' w' l', exec i s = .next s' ∧ s'.warp? is.team k.1 = some w' ∧ w'.lanes[k.2]? = some l' ∧
          Wrote is h d [0] True l w' l' ∧ ∀ v ∈ runningGroup s u, (s'.team? v).map (·.st) = some (.saved (!hold))) ∧
      (u.st = .running → ((∃ v ∈ runningGroup s u, saveWaits s v = true) ∨ u.saving = none ∧ is.team ∈ runningGroup s u) →
        ∃ s', exec i s = .next s' ∧ WaitsIn s' t is h .retry ∧ s'.mem = s.mem ∧
          (u.saving = none → ∀ v ∈ runningGroup s u, ((s'.team? v).map (fun x => x.saving.isSome)) = some true)) ∧
      (u.st = .ending → WarmRun s u.space .store u.frameF 64 →
        ∃ s' w' l', exec i s = .next s' ∧ s'.warp? is.team k.1 = some w' ∧ w'.lanes[k.2]? = some l' ∧
          Wrote is h d [if ∃ x ∈ u.warps, ∃ m ∈ x.lanes, m.since = s.cycle then 1 else 2] True l w' l') ∧
      (u.st = .saved true → hold = true →
        ∃ s' w' l', exec i s = .next s' ∧ s'.warp? is.team k.1 = some w' ∧ w'.lanes[k.2]? = some l' ∧
          Wrote is h d [0] True l w' l' ∧ (s'.team? u.uid).map (·.st) = some (.saved false) ∧ s'.mem = s.mem) ∧
      ((u.st = .saved false ∨ u.st = .saved true ∧ hold = false) →
        ∃ s' w' l', exec i s = .next s' ∧ s'.warp? is.team k.1 = some w' ∧ w'.lanes[k.2]? = some l' ∧
          Wrote is h d [2] True l w' l' ∧ s'.teams.map (·.st) = s.teams.map (·.st) ∧ s'.mem = s.mem))) ∧
  (∀ s h is t k w l d a f, Issuing s (.ctxload h d a) h is t → OneWarp t is h k → Active t is h k w l →
    CleanSpace s t.space → f = (readSrc w l a).toNat →
    (∀ code, (f % 65536 ≠ 0 ∧ code = 4 ∨ f % 65536 = 0 ∧ f = t.frameF ∧ code = 3 ∨
        f % 65536 = 0 ∧ f ≠ t.frameF ∧ (∀ u, frameTeam s t.space f = some u → u.st ≠ .saved false) ∧ code = 2) →
      ∃ s' w' l', exec (.ctxload h d a) s = .next s' ∧ s'.warp? is.team k.1 = some w' ∧ w'.lanes[k.2]? = some l' ∧
        Wrote is h d [BitVec.ofNat 32 code] True l w' l' ∧ s'.mem = s.mem) ∧
    (∀ u c pa leaf, f % 65536 = 0 → f ≠ t.frameF → frameTeam s t.space f = some u → s.team? u.uid = some u →
      u.st = .saved false → SavePage s t.space 0 c pa leaf → c.defer = none → c.faultBuf = [] →
      (∀ j, j < 64 → numAt s (pa + 0x100 + 256 * j) 4 ≠ 1) →
      ∃ s' w' l', exec (.ctxload h d a) s = .next s' ∧ s'.warp? is.team k.1 = some w' ∧ w'.lanes[k.2]? = some l' ∧
        Wrote is h d [0] True l w' l' ∧ (s'.team? u.uid).map (·.st) = some (.saved true) ∧ s'.mem = s.mem))

/-- R318, R410, R411: LEAVE 0 gives every held grant back; another LEAVE joins the governor's queue and waits until the grants
that it asks for have come; the governor gives the next charge of the request at the head of its queue while HEAVYB
allows it; and a grant lapses.

It rests on the model's readings of log entry 20. -/
def Obligations.LeavesAreGranted : Prop :=
  (∀ s h is t k w l src x, Issuing s (.leave h src) h is t → OneWarp t is h k → Active t is h k w l →
    x = readSrcI w l src → leaveWordOk x = true →
    (x = 0 → ∃ s' t', exec (.leave h src) s = .next s' ∧ GoesOn s' t is h ∧ s'.team? is.team = some t' ∧ t'.grants = []) ∧
    (x ≠ 0 → NoRequest t is h →
      ∃ s' r, exec (.leave h src) s = .next s' ∧ WaitsIn s' t is h (.leave s.serial) ∧ s'.leaves = s.leaves ++ [r] ∧
        r = { id := s.serial, team := is.team, warp := k.1, pc := is.pc, forOp := false, kind := x.toNat % 16,
              count := x.toNat / 256 % 256, arrived := false, got := 0 }) ∧
    (∀ r, x ≠ 0 → l.wait = .leave r.id → (l.st = .blocked ∨ l.st = .ready) → s.leaves.find? (fun y => y.id == r.id) = some r →
      (r.count ≤ r.got →
        ∃ s', exec (.leave h src) s = .next s' ∧ GoesOn s' t is h ∧ s'.leaves = s.leaves.filter (fun y => y.id != r.id)) ∧
      (r.got < r.count →
        ∃ s', exec (.leave h src) s = .next s' ∧ WaitsIn s' t is h (.leave r.id) ∧ s'.leaves = s.leaves))) ∧
  (∀ s as r bs, Awake s → s.leaves = as ++ r :: bs → (∀ a ∈ as, a.arrived = true) → r.arrived = false →
    ∃ s', exec .leaveRequestArrival s = .next s' ∧ s'.leaves = as ++ { r with arrived := true } :: bs ∧
      s'.teams = s.teams) ∧
  (∀ s as r bs t, Awake s → s.leaves = as ++ r :: bs → (∀ a ∈ as, a.count ≤ a.got) → r.got < r.count → r.arrived = true →
    (∀ a ∈ as ++ bs, a.id ≠ r.id) → s.team? r.team = some t →
    (s.heavyB.toNat < heldTotal s + chargeOf r.kind →
      ∃ s', exec .leaveGrant s = .next s' ∧ s'.teams = s.teams ∧ s'.leaves = s.leaves) ∧
    (heldTotal s + chargeOf r.kind ≤ s.heavyB.toNat →
      ∃ s' t', exec .leaveGrant s = .next s' ∧ s'.leaves = as ++ { r with got := r.got + 1 } :: bs ∧
        s'.team? r.team = some t' ∧
        (r.forOp = true → t'.grants = t.grants) ∧
        (r.forOp = false → t'.grants = (if t.grants.countP (fun g => g.1 == r.kind && s.cycle < g.2) < 255
          then t.grants ++ [(r.kind, s.cycle + 4096)] else t.grants)))) ∧
  (∀ s u t, Awake s → s.team? u = some t →
    ∃ s' t', exec (.grantLapse u) s = .next s' ∧ s'.team? u = some t' ∧
      t'.grants = t.grants.filter (fun g => decide (s.cycle < g.2)))

/-! ### Bins, faults, saves -/

/-- R22, R23, R28: a bin whose oldest entry has waited more than its team's AGE, or 512 cycles, is drawable; a lane that waited
for its slot is filed when the slot is free; and a YIELD skip of which no decision is left ends.

It rests on the model's reading of log entry 66: of several lanes that wait for the slot the first that reached REFORM is
filed. -/
def Obligations.BinsAge : Prop :=
  (∀ s core n (fixed : Bool), Awake s →
    ∃ s', exec (if fixed then .binFixedAgeExpiry core n else .binAgeExpiry core n) s = .next s' ∧
      ∀ (j : Nat) b t, s.bins[j]? = some b → s.team? b.team = some t →
        s'.bins[j]? = some { b with drawable := b.drawable || decide (b.core = core ∧ b.num = n ∧ b.slots ≠ [] ∧
          b.oldest + (if fixed then 512 else t.desc.age) < s.cycle) }) ∧
  (∀ s core n b x w l, Awake s → s.bins.find? (fun b => b.core == core && b.num == n) = some b →
    b.waiting.find? (fun x => !b.slots.any (fun y => y.1 == x.1)) = some x → s.warp? b.team x.2 = some w →
    w.sup = false → w.lockstep = false → w.lanes[x.1]? = some l →
    ∃ s' b' w' l', exec (.binSlotFile core n) s = .next s' ∧
      s'.bins.find? (fun b => b.core == core && b.num == n) = some b' ∧ b'.slots = b.slots ++ [x] ∧
      b'.waiting = b.waiting.filter (· != x) ∧ b'.pc = b.pc ∧ s'.warp? b.team x.2 = some w' ∧ w'.lanes[x.1]? = some l' ∧
      (l.st = .blocked → l'.st = .filed) ∧ (l.st = .halted → l'.st = .halted ∧ l'.held = .filed) ∧ l'.pc = l.pc + 8) ∧
  (∀ s u k w, Awake s → s.warp? u k = some w →
    ∃ s' w', exec (.yieldSkipExpiry u k) s = .next s' ∧ s'.warp? u k = some w' ∧
      ∀ j : Nat, w'.lanes[j]? = (w.lanes[j]?).map (fun l => { l with skip := if l.skip = 1 then 0 else l.skip }))

/-- R368, R370, R371, R373, R375, R381: a settled warp with faulted accesses traps with its lanes at their region entries; an
engine's fault suspends its operation at that beat and is held for the warp; a rejected eviction goes into the log and
stops the context; a memory error stops its context or is counted at its slice, and a corrected one is counted; a timer
that has fired traps.

It rests on the model's readings of log entries 19, 35 and 36. -/
def Obligations.FaultsAreTaken : Prop :=
  (∀ s u wi t w c pa a cause sub, Awake s → MayEnter s u wi t w c pa → w.st = .live → w.trap = none → w.fired = false →
    settled s u wi = true → (faultsOf s u wi).find? (fun a => !savedFault s a) = some a → a.fault = some (cause, sub) →
    0x0C < cause → (∀ o ∈ s.ops, o.team ≠ u) → stepLanes s t w = [] →
    (∀ b ∈ s.accs, b.team = u → b.warp = wi → ∃ f ∈ faultsOf s u wi, f.lane = b.lane) →
    (∀ b ∈ faultsOf s u wi, ∀ m, w.lanes[b.lane]? = some m → m.st ≠ .exited) →
    ∃ s', exec (.lateRegionFault u wi) s = .next s' ∧
      Entered s' u wi t w c pa ((ilenOf a.len).toNat * 2 ^ 19 + 2 ^ 18 + 2 ^ 16 + sub.toNat * 2 ^ 8 + cause.toNat) ∧
      (∀ b ∈ s'.accs, ¬(b.team = u ∧ b.warp = wi)) ∧
      ∀ b ∈ faultsOf s u wi, numAt s' (pa + slotAt t wi + 0x280 + 8 * b.lane) 8 = b.regionPc.toNat ∧
        (b.fault = a.fault → numAt s' (pa + slotAt t wi + 0x80 + 16 * b.lane) 8 = b.regionPc.toNat ∧
          numAt s' (pa + slotAt t wi + 0x88 + 16 * b.lane) 8 = b.regionCnt.toNat)) ∧
  (∀ s o t w h m n ad b out e j rest sub f, Awake s → s.op? o.id = some o → s.team? o.team = some t → opRuns s o = true →
    (o.ins = .cpyin h m n ad b ∧ out = false ∨ o.ins = .cpyout h f m n ad b ∧ out = true) →
    beatsFrom o (copyBeats t o) = (e, j) :: rest → lookup s t.space e.ia (if out then .store else .load) false = .fail sub →
    (sub ≠ 0 ∨ hostPage s t.space e.ia = false) → t.warps[o.warp]? = some w → liveWarp w = true →
    ∃ s' w' ti, exec (.engineFault o.id) s = .next s' ∧
      s'.op? o.id = some { o with stuck := true, pos := j, va := BitVec.ofNat 64 e.va, handler := none } ∧
      s'.warp? o.team o.warp = some w' ∧ w'.pend = w.pend ++ [ti] ∧ ti.cause = 0x11 ∧ ti.sub = sub ∧ ti.kind = 3 ∧
      ti.pc = o.pc ∧ ti.insn = o.bits ∧ ti.va.toNat = e.va % 2 ^ 64 ∧ ti.ia.toNat = e.ia % 2 ^ 64 ∧ ti.op = some o.id ∧
      s'.mem = s.mem) ∧
  (∀ s core space line sub c pa leaf, Awake s → s.l1 ≠ [] → NoneRuns s space → line < 2 ^ 57 →
    (∀ d ∈ s.l1, d.core = core ∧ d.space = space ∧ d.ia / 128 = line) → (s.l1.map (·.ia)).Nodup →
    lineFate s (core, space, line) = (s, .fail sub) → SavePage { s with l1 := [] } space 0 c pa leaf → c.halted = false →
    (∀ r ∈ s.recs, r.space = space → r.ended = true) → numAt s (pa + 0x100) 4 = 0 →
    ∃ s', exec (.deferredWriteFault core) s = .next s' ∧ s'.l1 = [] ∧ numAt s' (pa + 0x100) 4 = 1 ∧
      numAt s' (pa + 0x108) 8 = line * 128 ∧ (∀ d ∈ s.l1, cget s'.mem (pa + 0x180 + d.ia % 128) = d.val) ∧
      StoppedWith s' space pa 0x11 sub.toNat (line * 128)) ∧
  (∀ s space (sub : Byte) (ad : DWord), sub = 0 ∨ sub = 1 →
    (∀ c pa leaf, Awake s → NoneRuns s space → SavePage s space 0 c pa leaf → c.halted = false →
      (∀ r ∈ s.recs, r.space = space → r.ended = true) →
      ∃ s', exec (.mcheck space sub ad) s = .next s' ∧ StoppedWith s' space pa 0x16 sub.toNat ad.toNat) ∧
    (∀ a, Awake s → s.ctx? space = none → a = s.countPa.toNat + 8192 + 64 * hashAll 0xFF (ad.toNat / 128) + 8 →
      a + 8 ≤ 2 ^ 39 →
      ∃ s', exec (.mcheck space sub ad) s = .next s' ∧ numAt s' a 8 = (numAt s a 8 + 1) % 2 ^ 64)) ∧
  (∀ s slice n a, Awake s → n < 128 → a = s.countPa.toNat + (if slice then 8192 + 64 * n else 64 * n + 0x28) → a + 8 ≤ 2 ^ 39 →
    ∃ s', exec (.softErrorCorrection slice n) s = .next s' ∧ numAt s' a 8 = (numAt s a 8 + 1) % 2 ^ 64 ∧
      ∀ x, (x < a ∨ a + 8 ≤ x) → cget s'.mem x = cget s.mem x) ∧
  (∀ s u wi t w c pa, Awake s → MayEnter s u wi t w c pa → w.st = .live → t.st = .running → t.saving = none → w.trap = none →
    w.fired = true → mustDrain s u wi = false → stepLanes s t w = [] →
    ∃ s', exec (.warpTimerFire u wi) s = .next s' ∧ Entered s' u wi t w c pa (2 ^ 18 + 0x13) ∧
      ∀ w', s'.warp? u wi = some w' → w'.fired = false)

/-- R369, R376, R377, R379: a team whose accesses await pages is saved with its running group and pooled with the pages for which
it waits; the running group of an outranked team is saved once its units have finished; and a team whose frame passes its
checks runs again on a core that fits, with its lanes and registers as the frame holds them, while a frame of another
version stops the context with RESTORE.

It rests on the model's readings of log entries 34 and 37. -/
def Obligations.TeamsAreSavedAndRestored : Prop :=
  (∀ s u t fs, Awake s → s.team? u = some t → t.st = .running → fs = s.accs.filter (fun a => a.team == u && savedFault s a) →
    fs ≠ [] → (∀ a ∈ fs, asked s t.space a = true) →
    (∀ v ∈ runningGroup s t, teamSettled s v = true ∧ saveWaits s v = false ∧ ∀ x, s.team? v = some x → Saveable s x) →
    ∃ s' t', exec (.pageFaultSave u) s = .next s' ∧ s'.team? u = some t' ∧ t'.st = .saved true ∧ t'.reason = .pagefault ∧
      (∀ n, n ∈ t'.pages ↔ ∃ a ∈ fs, n = a.ia / 65536) ∧
      ∀ v ∈ runningGroup s t, (s'.team? v).map (·.st) = some (.saved true) ∧ ∀ b ∈ s'.accs, b.team ≠ v) ∧
  (∀ s u t, Awake s → s.team? u = some t → t.st = .running →
    (t.saving = none → outranked s t = true →
      (∀ v ∈ runningGroup s t, saveWaits s v = false ∧ ∀ x, s.team? v = some x → Saveable s x) →
      ∃ s', exec (.priorityPreemption u) s = .next s' ∧
        ∀ v ∈ runningGroup s t, (s'.team? v).map (·.st) = some (.saved true)) ∧
    (t.saving = none → outranked s t = true → (∃ v ∈ runningGroup s t, saveWaits s v = true) →
      ∃ s', exec (.priorityPreemption u) s = .next s' ∧ s'.mem = s.mem ∧
        ∀ v ∈ runningGroup s t, (s'.team? v).map (fun x => (x.st, x.saving)) =
          some (.running, some { reason := .preempt, team := 0, warp := 0, pc := 0 })) ∧
    (∀ x : Saving, t.saving = some x → x.reason ≠ .stop → x.own = none →
      (∀ v ∈ runningGroup s t, saveWaits s v = false ∧ ∀ y, s.team? v = some y → Saveable s y) →
      ∃ s', exec (.priorityPreemption u) s = .next s' ∧
        ∀ v ∈ runningGroup s t, (s'.team? v).map (·.st) = some (.saved (x.reason != .ctxsave)))) ∧
  (∀ s u t core c pa key e, Awake s → serves s = some e → e.inst = false → e.id = u → s.team? u = some t → t.uid = u →
    t.st = .saved true → groupSite s t (some core) = some [(t.t, core)] → savedGroup s t = some [t] → s.l1 = [] →
    t.desc.fusedOwn = false → (∀ x ∈ s.teams, x.desc.fused = false) → c.defer = none → t.warps.length ≤ t.desc.limit →
    SaveRun s t.space t.frameF (frameSize t.desc) c pa key →
    (∀ r leaf, numAt s pa 2 ≠ 1 → NoneRuns s t.space → SavePage s t.space 0 c r leaf →
      (∀ x ∈ s.recs, x.space = t.space → x.ended = true) →
      ∃ s', exec (.teamRestore u core) s = .next s' ∧ StoppedWith s' t.space r 0x17 0 0) ∧
    (numAt s pa 2 = 1 → numAt s (pa + 4) 4 = t.space % 65536 → numAt s (pa + 0xA804) 4 = 0 →
      (∀ j, j < 8 → numAt s (pa + 0x1C0 + 16 * j + 13) 1 ≤ 8) → (∀ j, j < 32 → numAt s (pa + 0x40 + 4 * j) 4 % 2 = 0) →
      (∀ j, j < 5 → numAt s (pa + 0x2000 + 4 * j) 4 = 0) → numAt s (pa + 0xA40) 4 = 0 →
      (∀ wi w, t.warps[wi]? = some w → w.st ≠ .free ∧ w.lanes.length = 32 ∧ ∀ j, j < 32 →
        numAt s (pa + 0x10000 + 0x8000 * wi + 0x280 + 8 * j + 7) 1 = 0) →
      ∃ s' t', exec (.teamRestore u core) s = .next s' ∧ s'.team? u = some t' ∧ t'.st = .running ∧ t'.core = core ∧
        t'.t = t.t ∧ t'.inst = t.inst ∧
        ∀ (wi : Nat) (w : Warp), t.warps[wi]? = some w → ∃ w', t'.warps[wi]? = some w' ∧ w'.st = .live ∧
          (∀ n, 0 < n → n < 64 → (w'.rdS n).toNat = numAt s (pa + 0x10000 + 0x8000 * wi + 0x6800 + 4 * n) 4) ∧
          ∀ j, j < 32 → ∃ l', w'.lanes[j]? = some l' ∧ l'.st = .ready ∧
            l'.pc.toNat = numAt s (pa + 0x10000 + 0x8000 * wi + 0x280 + 8 * j) 7 ∧
            ∀ n, n < 8 * t.desc.win →
              (l'.rdV n).toNat = numAt s (pa + 0x10000 + 0x8000 * wi + 0x800 + 128 * n + 4 * j) 4))

/-! ### Cecropia -/

/-- R355, R358, R364, R414: a migration takes the last frame of the pool and freezes its leaf, copies the frame, swings the leaf to
the new frame and unfreezes it, giving the old frame back; and a count that an eviction left is added to HOT.

It rests on the model's readings of log entries 42 and 53. -/
def Obligations.PagesMigrate : Prop :=
  (∀ s space ia x p n f, Awake s → walk s space ia = .ok x → x.2.2 = false → p = s.part space → p.en = true →
    s.invWait = false → migrates s x.2.1 = true → migOf s space ia = none → p.fpool ≠ 0 → n = numAt s p.fpool.toNat 4 →
    0 < n → f = numAt s (p.fpool.toNat + 4 + 4 * n) 4 → p.fpool.toNat + 8 + 4 * n ≤ 2 ^ 39 → x.1 + 16 ≤ 2 ^ 39 →
    (x.1 + 16 ≤ p.fpool.toNat ∨ p.fpool.toNat + 4 ≤ x.1) → KeyedAs s (tableKey s space) x.1 16 →
    ∃ s', exec (.migrateFreeze space ia) s = .next s' ∧
      s'.migs = s.migs ++ [⟨space, ia / 65536 * 65536, false, 1, leafFrame x.2.1, 65536 * f⟩] ∧
      numAt s' x.1 16 = (x.2.1 ||| BitVec.ofNat 128 (2 ^ 59)).toNat ∧ numAt s' p.fpool.toNat 4 = n - 1 ∧
      ∀ e ∈ s'.tcache, e.leafPa ≠ x.1) ∧
  (∀ s space ia m x n, Awake s → cellsWf s.mem = true → migOf s space ia = some m → m.stage = 1 → s.invWait = false → walk s space ia = .ok x →
    leafFrz x.2.1 = true → x.2.2 = m.big → leafFrame x.2.1 = m.oldFrame → n = 65536 * (if m.big then 32 else 1) →
    m.oldFrame % 65536 = 0 → m.newFrame % 65536 = 0 → m.newFrame + n ≤ 2 ^ 39 →
    (m.oldFrame + n ≤ m.newFrame ∨ m.newFrame + n ≤ m.oldFrame) → KeyedAs s (ownerKey s space x.2.1) m.oldFrame n →
    ∃ s', exec (.migrateCopy space ia) s = .next s' ∧ { m with stage := 2 } ∈ s'.migs ∧
      (∀ j, j < n → cget s'.mem (m.newFrame + j) = cget s.mem (m.oldFrame + j)) ∧
      ∀ a, (a < m.newFrame ∨ m.newFrame + n ≤ a) → cget s'.mem a = cget s.mem a) ∧
  (∀ s space ia m x, Awake s → migOf s space ia = some m → m.stage = 2 → s.invWait = false → walk s space ia = .ok x →
    leafFrz x.2.1 = true → x.2.2 = m.big → leafFrame x.2.1 = m.oldFrame → m.newFrame % 65536 = 0 → m.newFrame < 2 ^ 48 →
    x.1 + 16 ≤ 2 ^ 39 →
    ∃ s' e, exec (.swing space ia) s = .next s' ∧ { m with stage := 3 } ∈ s'.migs ∧ numAt s' x.1 16 = BitVec.toNat e ∧
      leafFrame e = m.newFrame ∧ e.extractLsb' 48 80 = x.2.1.extractLsb' 48 80 ∧ ∀ e ∈ s'.tcache, e.leafPa ≠ x.1) ∧
  (∀ s space ia m x p n, Awake s → migOf s space ia = some m → m.stage = 3 → m.big = false → s.invWait = false →
    walk s space ia = .ok x → leafFrz x.2.1 = true → x.2.2 = m.big → p = s.part space → p.fpool ≠ 0 →
    n = numAt s p.fpool.toNat 4 → n < numAt s (p.fpool.toNat + 4) 4 → m.oldFrame < 2 ^ 48 →
    p.fpool.toNat + 12 + 4 * n ≤ 2 ^ 39 → (x.1 + 16 ≤ p.fpool.toNat ∨ p.fpool.toNat + 12 + 4 * n ≤ x.1) → x.1 + 16 ≤ 2 ^ 39 →
    KeyedAs s (tableKey s space) x.1 16 →
    ∃ s' e, exec (.unfreeze space ia) s = .next s' ∧ m ∉ s'.migs ∧ numAt s' x.1 16 = BitVec.toNat e ∧ leafFrz e = false ∧
      leafFrame e = leafFrame x.2.1 ∧ numAt s' p.fpool.toNat 4 = n + 1 ∧
      numAt s' (p.fpool.toNat + 8 + 4 * n) 4 = m.oldFrame / 65536 ∧ ∀ e ∈ s'.tcache, e.leafPa ≠ x.1) ∧
  (∀ s k pa n, Awake s → s.hotQ[k]? = some (pa, n) → pa + 12 ≤ 2 ^ 39 →
    ∃ s', exec (.hotUpdate k) s = .next s' ∧ s'.hotQ = s.hotQ.eraseIdx k ∧
      numAt s' (pa + 8) 4 = min (numAt s (pa + 8) 4 + n) (2 ^ 32 - 1) ∧
      ∀ a, (a < pa + 8 ∨ pa + 12 ≤ a) → cget s'.mem a = cget s.mem a)

/-! ### Debug -/

/-- R385, R386: a lane at a valid breakpoint, and a lane that has issued under STEP, stop their warp, with an event each under
HALTEV and with a STEP trap otherwise; and an event goes into its ring while there is room.

R387, R388: HALT, RESUME, STEPON and STEPOFF of the command word act on the named warp and answer OK; without the right they
answer NORIGHT, for no such warp NOTEAM, and a word that names no operation BADOP; and the loss of the right resumes every
warp and clears STEP.

It rests on the model's readings of log entries 26 and 49. -/
def Obligations.DebugRuns : Prop :=
  ((∀ s u wi slot t w l c pa leaf d b, Awake s → s.team? u = some t → t.warps[wi]? = some w → w.lanes[(slot : Fin 32).val]? = some l →
     stoppable t w = true → SavePage s t.space d c pa leaf → d = 65536 * (c.dbgctl.extractLsb' 0 16).toNat → d ≠ 0 →
     (c.dbgctl.getLsbD 31 && c.dbgctl.getLsbD 29) = true → w.sup = false → l.bpPass ≠ some (b, l.pc) → (∀ m ∈ w.lanes, m.stepped = false) → (l.st = .ready ∨ l.st = .filed) →
     b < 8 → numAt s (pa + 16 * b) 8 % 2 ^ 56 = l.pc.toNat → numAt s (pa + 16 * b) 8 / 2 ^ 63 = 1 → numAt s (pa + 16 * b + 8) 4 = 0 →
     (∀ j, j < b → numAt s (pa + 16 * j) 8 / 2 ^ 63 = 0) → (fetch s t l.pc).2 ≠ .skip →
     (c.dbgctl.getLsbD 28 = true →
       ∃ s' w' e, exec (.breakpointStop u wi slot) s = .next s' ∧ s'.warp? u wi = some w' ∧ w'.st = .stopped ∧
         w'.dbgHalt = true ∧ (∀ m ∈ w'.lanes, m.st = .halted ∨ m.st = .exited) ∧ e ∈ s'.events ∧ e.team = t.uid ∧
         e.warp = wi ∧ e.lane = slot.val ∧ e.kind = 1 ∧ e.code = b ∧ e.pc = l.pc) ∧
     (∀ q, c.dbgctl.getLsbD 28 = false → mustDrain s t.uid wi = false → MayEnter s u wi t w c q →
       ∃ s', exec (.breakpointStop u wi slot) s = .next s' ∧ Entered s' u wi t w c q (2 ^ 18 + 2 ^ 8 + 0x15))) ∧
   (∀ s u wi t w c j l, Awake s → s.team? u = some t → t.warps[wi]? = some w → stoppable t w = true → s.ctx? t.space = some c →
     c.dbgctl.getLsbD 31 = true → w.stepBit = true → w.sup = false → w.lanes[j]? = some l → l.st ≠ .exited → l.stepped = true →
     (c.dbgctl.getLsbD 28 = true →
       ∃ s' w' e, exec (.stepStop u wi) s = .next s' ∧ s'.warp? u wi = some w' ∧ w'.st = .stopped ∧ w'.dbgHalt = true ∧
         (∀ m ∈ w'.lanes, m.st = .halted ∨ m.st = .exited) ∧ e ∈ s'.events ∧ e.team = t.uid ∧ e.warp = wi ∧ e.lane = j ∧
         e.kind = 3 ∧ e.pc = l.pc) ∧
     (∀ q, c.dbgctl.getLsbD 28 = false → mustDrain s t.uid wi = false → MayEnter s u wi t w c q →
       ∃ s', exec (.stepStop u wi) s = .next s' ∧ Entered s' u wi t w c q (2 ^ 18 + 0x15))) ∧
   (∀ s e rest c pa leaf d a, Awake s → s.events = e :: rest → SavePage s e.space d c pa leaf →
     d = 65536 * (c.dbgctl.extractLsb' 0 16).toNat → d ≠ 0 →
     (numAt s (pa + 0x80) 4 + 2 ^ 32 - numAt s (pa + 0x84) 4) % 2 ^ 32 < 64 → a = pa + 0x100 + 64 * (numAt s (pa + 0x80) 4 % 64) →
     ∃ s', exec .debugEventWrite s = .next s' ∧ s'.events = rest ∧
       numAt s' (pa + 0x80) 4 = (numAt s (pa + 0x80) 4 + 1) % 2 ^ 32 ∧
       numAt s' a 4 = (e.kind + e.code % 256 * 2 ^ 8 + e.lane * 2 ^ 16 + e.warp * 2 ^ 21) % 2 ^ 32 ∧
       numAt s' (a + 8) 8 = e.pc.toNat ∧ numAt s' (a + 16) 8 = e.time % 2 ^ 64)) ∧
  ((∀ s space op i c pa leaf d wi, (op = 1 ∧ i = .halt space ∨ op = 2 ∧ i = .resume space ∨ op = 3 ∧ i = .stepon space ∨
       op = 4 ∧ i = .stepoff space) →
     Awake s → NoTryAtAll s → SavePage s space d c pa leaf → d = 65536 * (c.dbgctl.extractLsb' 0 16).toNat → d ≠ 0 → c.go = true →
     wi = numAt s (pa + 0x1108) 4 →
     (numAt s (pa + 0x1100) 4 % 16 = op → c.dbgctl.getLsbD 31 = false →
       ∃ s' c', exec i s = .next s' ∧ s'.teams = s.teams ∧ numAt s' (pa + 0x1100) 1 = 2 * 16 ∧ s'.ctx? space = some c' ∧ c'.go = false) ∧
     ((numAt s (pa + 0x1100) 4 % 16 = 0 ∨ 4 < numAt s (pa + 0x1100) 4 % 16) → op = 1 → c.dbgctl.getLsbD 31 = true →
       ∃ s' c', exec i s = .next s' ∧ s'.teams = s.teams ∧ numAt s' (pa + 0x1100) 1 = 3 * 16 ∧ s'.ctx? space = some c' ∧ c'.go = false) ∧
     (numAt s (pa + 0x1100) 4 % 16 = op → c.dbgctl.getLsbD 31 = true →
       (∀ t, frameTeam s space (65536 * numAt s (pa + 0x1104) 4) = some t → ∀ w, t.warps[wi]? = some w → w.st = .free ∨ t.st = .ending) →
       ∃ s' c', exec i s = .next s' ∧ s'.teams = s.teams ∧ numAt s' (pa + 0x1100) 1 = 16 ∧ s'.ctx? space = some c' ∧ c'.go = false) ∧
     (∀ t w, numAt s (pa + 0x1100) 4 % 16 = op → c.dbgctl.getLsbD 31 = true →
       frameTeam s space (65536 * numAt s (pa + 0x1104) 4) = some t → s.team? t.uid = some t → t.warps[wi]? = some w →
       w.st ≠ .free → t.st = .running → c.defer = none → (op = 2 → ∀ e ∈ s.events, e.team ≠ t.uid) →
       ∃ s' c' w', exec i s = .next s' ∧ numAt s' (pa + 0x1100) 1 = 0 ∧ s'.ctx? space = some c' ∧ c'.go = false ∧
         s'.warp? t.uid wi = some w' ∧ w'.s = w.s ∧
         (op = 1 → w'.dbgHalt = true ∧ w'.st = .stopped ∧ ∀ (j : Nat) (m : Lane), w.lanes[j]? = some m → m.st ≠ .exited →
           m.st ≠ .halted → ∃ m', w'.lanes[j]? = some m' ∧ m'.st = .halted ∧ m'.held = m.st ∧ m'.pc = m.pc) ∧
         (op = 2 → w'.dbgHalt = false ∧ w'.st = .live ∧ ∀ (j : Nat) (m : Lane), w.lanes[j]? = some m → m.st = .halted →
           ∃ m', w'.lanes[j]? = some m' ∧ m'.st = m.held ∧ m'.pc = m.pc) ∧
         (op = 3 → w'.stepBit = true ∧ w'.st = w.st) ∧ (op = 4 → w'.stepBit = false ∧ w'.st = w.st))) ∧
   (∀ s space c, Awake s → s.ctx? space = some c → (∀ t ∈ s.teams, isSaved t = false) → c.defer = none →
     (s.teams.map (·.uid)).Nodup →
     ∃ s' c', exec (.debugRightRevoke space) s = .next s' ∧ s'.mem = s.mem ∧ s'.ctx? space = some c' ∧
       c'.dbgctl = c.dbgctl &&& 0x0FFFFFFF ∧ s'.events = s.events.filter (fun e => e.space != space) ∧
       ∀ t ∈ s.teams, t.space = space → ∀ (wi : Nat) (w : Warp), t.warps[wi]? = some w →
         ∃ w', s'.warp? t.uid wi = some w' ∧ w'.dbgHalt = false ∧ w'.stepBit = false ∧
           w'.st = (if w.st = .stopped then .live else w.st) ∧ ∀ m ∈ w'.lanes, m.st ≠ .halted ∨ m.held = .halted))

/-! ### Hawkmoth -/

/-- R320 to R328: an overrun queue is disabled with OVERRUN; of the queue whose turn it is the record at HEAD joins the admitted
ones and HEAD moves on; a record that fails its checks joins them as bad; and a record of a context that its table entry
does not describe is done at once with BADRECORD.

It rests on the model's readings of log entries 29 and 31. -/
def Obligations.RecordsAreAdmitted : Prop :=
  ∀ s n q pa, Awake s → queueOf s n = some q → pa = s.qTable.toNat + 64 * n → pa + 64 ≤ 2 ^ 39 →
    (s.stage = .ready → (queuePart s n).isSome = true → q.en = true → q.overrun = true →
      ∃ s', exec (.recordAdmission n) s = .next s' ∧ numAt s' (pa + 0x1C) 4 % 16 = 3 ∧
        numAt s' (pa + 8) 4 = numAt s (pa + 8) 4 % 2 ^ 31 ∧ s'.recs = s.recs) ∧
    (q.overrun = false → pickQueue s = some n →
      (∀ s1 s2 ns l c, openContext s (queueSpace s n q) = some s1 →
        ((readRecord (queueSpace s n q) (q.ring + 64 * (q.head % 2 ^ q.lsz))).run).run s1 = .ok (.ok (l, ns), s2) →
        Awake s2 → s2.ctx? (queueSpace s n q) = some c → logging c = false → (∀ x ∈ s2.recs, x.id ≠ s2.serial) →
        ∃ s' r, exec (.recordAdmission n) s = .next s' ∧ s'.recs = s2.recs ++ [r] ∧ r.queue = n ∧ r.idx = BitVec.ofNat 32 q.head ∧
          r.space = queueSpace s n q ∧ r.prio = q.prio ∧ r.nodes.map (·.desc) = ns.map (·.desc) ∧
          ((∀ x ∈ ns, x.desc.root = true ∧ x.rootDone = false) → r.nodes = ns) ∧ r.bad = false ∧ r.stopped = false ∧
          r.ended = false ∧ r.log = 0 ∧
          r.cword = BitVec.ofNat 64 l.cword ∧ r.nstat = BitVec.ofNat 64 l.nstat ∧ r.det = l.det ∧ r.overlap = l.overlap ∧
          numAt s' (pa + 0x14) 4 = (q.head + 1) % 2 ^ 32) ∧
      (∀ s1 s2 e, openContext s (queueSpace s n q) = some s1 →
        ((readRecord (queueSpace s n q) (q.ring + 64 * (q.head % 2 ^ q.lsz))).run).run s1 = .ok (.error e, s2) → Awake s2 →
        ∃ s' r, exec (.recordAdmission n) s = .next s' ∧ s'.recs = s2.recs ++ [r] ∧ r.queue = n ∧ r.bad = true ∧ r.nodes = [] ∧
          numAt s' (pa + 0x14) 4 = (q.head + 1) % 2 ^ 32) ∧
      (openContext s (queueSpace s n q) = none →
        ∃ s', exec (.recordAdmission n) s = .next s' ∧ s'.recs = s.recs ∧ numAt s' (pa + 0x14) 4 = (q.head + 1) % 2 ^ 32 ∧
          numAt s' (pa + 0x18) 4 = (numAt s (pa + 0x18) 4 + 1) % 2 ^ 32 ∧
          numAt s' (pa + 0x1C) 4 = q.head % 65536 * 65536 + 1))

/-- R39, R330 to R333: a root node whose predecessors are done forms its instance; a full batch of emitted records forms one of the
edge's target; a team that is GONE is counted, and at the end of an instance its node counts it.

It rests on the model's reading of log entry 32: a batch's input is the payloads that State keeps. -/
def Obligations.InstancesFormAndEnd : Prop :=
  (∀ s id r k n, Awake s → s.rec? id = some r → r.nodes[k]? = some n → r.stopped = false → poolCount s < 4096 →
    n.desc.root = true → n.rootDone = false → n.predsLeft = 0 →
    ∃ s' i r', exec (.instanceFormation id k 8) s = .next s' ∧ s'.insts = s.insts ++ [i] ∧ i.uid = s.serial ∧ i.job = r.id ∧
      i.node = k ∧ i.depth = 0 ∧ i.input = [] ∧ i.inPool = true ∧ i.nextT = 0 ∧ s'.rec? id = some r' ∧
      (r'.nodes[k]?).map (·.rootDone) = some true) ∧
  (∀ s id r k n e es tgt, Awake s → s.rec? id = some r → r.nodes[k]? = some n → r.stopped = false → poolCount s < 4096 →
    e.num < 8 → n.edges.find? (fun x => x.num == e.num) = some e → s.emitted = es →
    (∀ y ∈ es, y.job = r.id ∧ y.node = k ∧ y.edge = e.num ∧ y.team = none ∧ y.depth = 0) → 0 < e.batch → e.batch ≤ es.length →
    r.nodes[e.target]? = some tgt → tgt.predsLeft = 0 → CleanSpace s r.space →
    ∃ s' i, exec (.instanceFormation id k e.num) s = .next s' ∧ s'.insts = s.insts ++ [i] ∧ i.job = r.id ∧ i.node = e.target ∧
      i.depth = 0 ∧ i.inoff = e.inoff ∧ i.input = (es.take e.batch).map (·.bytes) ∧ i.inPool = true ∧
      s'.emitted = es.drop e.batch) ∧
  (∀ s u t i, Awake s → s.team? u = some t → t.st = .ending → (∀ o ∈ s.ops, o.team ≠ t.uid) →
    (∀ e ∈ t.ttab, e.st ≠ .filling ∧ e.st ≠ .draining) → goneTurn s t = true → NoDebugBlock s t.space → s.inst? t.inst = some i →
    (∀ r ∈ s.recs, r.ended = false) → (∀ e ∈ s.emitted, e.team ≠ some u) →
    ∃ s', exec (.teamGone u) s = .next s' ∧ s'.team? u = none ∧ (∀ v, v ≠ u → s'.team? v = s.team? v) ∧
      s'.inst? t.inst = some { i with gone := i.gone + 1 } ∧ s'.mem = s.mem ∧ s'.emitted = s.emitted) ∧
  (∀ s u i r n, Awake s → s.inst? u = some i → s.rec? i.job = some r → r.nodes[i.node]? = some n → s.l1 = [] →
    (i.gone = n.desc.nt ∨ (r.stopped = true ∧ i.gone = i.nextT)) → (∀ t ∈ s.teams, t.inst ≠ i.uid) →
    ∃ s' r', exec (.nodeInstanceEnd u) s = .next s' ∧ s'.inst? u = none ∧ s'.rec? i.job = some r' ∧
      (r'.nodes[i.node]?).map (·.inst) = some (if r.ended = false ∧ i.gone = n.desc.nt then n.inst + 1 else n.inst) ∧
      s'.mem = s.mem)

/-- R38, R332 to R336, R340: the entry that Hawkmoth serves is placed: its team runs on the core of its site with its start warps
at CODE; the head of the pool is noted, and reserves the cores that lack a block after 4,096 mesh cycles; and a
physical cluster turns to the next logical one when the teams of the present one are gone.

It rests on the model's readings of log entries 33 and 56. -/
def Obligations.TeamsArePlaced : Prop :=
  (∀ s e i r d core f k args tsh s1, Awake s → serves s = some e → e.inst = true → e.id = i.uid → s.inst? i.uid = some i →
    instDesc s i = some (r, d) → instSite s i = some [((k, core), f)] → d.fusedOwn = false →
    (∀ x ∈ s.teams, x.desc.fused = false ∧ x.uid ≠ s1.serial) →
    (readLaunch r.space d).run s = .ok ((args, tsh), s1) → Awake s1 → s1.teams = s.teams → s1.insts = s.insts →
    ∃ s' t i', exec (.teamPlacement i.uid) s = .next s' ∧ s'.team? s1.serial = some t ∧ t.st = .running ∧ t.t = k ∧ t.core = core ∧
      t.frameF = f ∧ t.inst = i.uid ∧ t.space = r.space ∧ t.tsh = tsh ∧ s'.inst? i.uid = some i' ∧ i'.nextT = i.nextT + 1 ∧
      s'.mem = s1.mem ∧
      ∀ (wi : Nat) (w : Warp), t.warps[wi]? = some w → w.idx = wi ∧ w.sup = false ∧ (wi < d.start → w.st = .live ∧
        (∀ n, n < args.length → n < 63 → w.rdS (n + 1) = (args[n]?).getD 0) ∧
        ∀ (j : Nat) (l : Lane), w.lanes[j]? = some l → (j < d.lanes → l.st = .ready ∧ l.pc = d.code.setWidth 56) ∧
          (d.lanes ≤ j → l.st = .exited)) ∧ (d.start ≤ wi → w.st = .free)) ∧
  (∀ s, Awake s →
    (pool s = [] → ∃ s', exec .coreReservation s = .next s' ∧ s'.poolHead = none ∧ s'.reserved = []) ∧
    (∀ e rest, pool s = e :: rest → (∀ x, s.poolHead = some x → x.1 ≠ e.id) →
      ∃ s', exec .coreReservation s = .next s' ∧ s'.poolHead = some (e.id, s.mesh) ∧ s'.reserved = s.reserved) ∧
    (∀ e rest at_ d cores, pool s = e :: rest → s.poolHead = some (e.id, at_) → at_ + 4096 ≤ s.mesh →
      entryNeeds s e = some (d, cores) →
      ∃ s', exec .coreReservation s = .next s' ∧ ∀ x, x ∈ s'.reserved ↔ x ∈ s.reserved ∨
        (x.2 = e.id ∧ x.1 ∈ cores ∧ lacksBlock s e.id d x.1 = true ∧ x ∉ s.reserved))) ∧
  (∀ s i r d cl pos p, Awake s → s.insts = [i] → i.det = true → instDesc s i = some (r, d) → (∀ t ∈ s.teams, t.inst ≠ i.uid) →
    runsCluster s r i cl = some pos → (∀ k, k < d.nt → (teamCurve r.shape k).1 = pos → k ∈ i.placed) →
    (((hosted s r cl).filter (fun p => pos < p)) ++ ((hosted s r cl).filter (fun p => p < pos))).find? (fun p =>
      (List.range d.nt).any (fun k => (teamCurve r.shape k).1 == p && !i.placed.contains k)) = some p →
    ∃ s', exec (.logicalClusterSwitch cl) s = .next s' ∧ s'.teams = s.teams ∧ s'.mem = s.mem ∧ runsCluster s' r i cl = some p)

/-- R325, R329, R374: a record completes once its nodes are complete, or its teams stopped, or it was bad: its completion word is
written, DONE counts it, ERRCODE names another outcome than OK, and it is admitted no longer; the last one of a context that
is being stopped lets the stop record be written.

It rests on the model's readings of log entry 42. -/
def Obligations.RecordsComplete : Prop :=
  ∀ s id r code pa, Awake s → s.rec? id = some r → s.l1 = [] → NoTryAtAll s → r.ended = false → r.log = 0 → r.nstat = 0 →
    (r.bad = true ∧ code = 1 ∨ r.bad = false ∧ r.stopped = true ∧ code = 2 ∧ (∀ t ∈ s.teams, t.st = .gone ∨ isSaved t = true) ∨
      r.bad = false ∧ r.stopped = false ∧ code = 0 ∧ ∀ n ∈ r.nodes, n.complete = true) →
    pa = s.qTable.toNat + 64 * r.queue → pa + 64 ≤ 2 ^ 39 →
    (r.cword = 0 → (∀ c, s.ctx? r.space = some c → c.stopping = none) →
      ∃ s', exec (.recordCompletion id) s = .next s' ∧ (∀ x ∈ s'.recs, x.id = id → x.ended = true) ∧
        ((∀ t ∈ s.teams, t.st = .gone) → s'.rec? id = none) ∧
        numAt s' (pa + 0x18) 4 = (numAt s (pa + 0x18) 4 + 1) % 2 ^ 32 ∧
        numAt s' (pa + 0x1C) 4 = (if code = 0 then numAt s (pa + 0x1C) 4 else r.idx.toNat % 65536 * 65536 + code)) ∧
    (∀ c ia tr, r.cword ≠ 0 → s.ctx? r.space = some c → c.stopping = none → rangeCheck c r.cword .store = .ok ia →
      Warm s r.space ia .store false tr → KeyedAs s (ownerKey s r.space tr.leaf) tr.pa 4 → (tr.pa + 4 ≤ pa ∨ pa + 64 ≤ tr.pa) →
      ∃ s', exec (.recordCompletion id) s = .next s' ∧ (∀ x ∈ s'.recs, x.id = id → x.ended = true) ∧
        ((∀ t ∈ s.teams, t.st = .gone) → s'.rec? id = none) ∧ numAt s' tr.pa 4 = 2 ^ 31 + code ∧
        numAt s' (pa + 0x18) 4 = (numAt s (pa + 0x18) 4 + 1) % 2 ^ 32) ∧
    (∀ c i q leaf, r.cword = 0 → SavePage s r.space 0 c q leaf → c.stopping = some i →
      (∀ x ∈ s.recs, x.space = r.space → x.id = id ∨ x.ended = true) →
      ∃ s', exec (.recordCompletion id) s = .next s' ∧ StoppedWith s' r.space q i.cause.toNat i.sub.toNat i.addr.toNat)

/-! ### The host -/

/-- R404, R409, R413: reset, link training and memory training lead from stage to stage; LOAD takes the image that is next and
verified, and fails with its code otherwise; and ATTEST leaves a signed report of the nonce and of what was measured.

It rests on the model's readings of log entries 14, 40 and 41. -/
def Obligations.PackageComesUp : Prop :=
  (∀ s i, Awake s → (i = .pkgrst ∨ i = .powerOn) →
    ∃ s', exec i s = .next s' ∧ s'.stage = .reset ∧ s'.keys = [] ∧ s'.teams = [] ∧ s'.ctxs = [] ∧ s'.recs = [] ∧
      s'.parts = State.reset.parts ∧ s'.images = [] ∧ s'.cycle = 0 ∧ s'.heavyB = 2064 ∧ s'.ports = s.ports ∧
      (i = .pkgrst → s'.mem = s.mem) ∧ (i = .powerOn → s'.mem = [])) ∧
  (∀ s, Awake s → s.stage = .reset → ∃ s', exec .linkTraining s = .next s' ∧ s' = { s with stage := .fwload }) ∧
  (∀ s failed, Awake s → s.stage = .fwload → hasImage s 2 = true →
    ∃ s', exec (.memoryTraining failed) s = .next s' ∧ s' = (match failed with
      | none => { s with stage := .memready }
      | some n => { s with stage := .failed, failCode := BitVec.ofNat 8 (0x10 + n.val) })) ∧
  (∀ s ty n im sig, Awake s → s.fwCmd.toNat = 1 + 16 * ty → n = readLE s.fwBuf 8 4 → (s.stage = .fwload ∨ s.stage = .memready) →
    64 + n + 4627 ≤ 32768 → (∀ j, j < 52 → cget s.fwBuf (12 + j) = 0) → im = cread s.fwBuf 0 (64 + n) →
    sig = cread s.fwBuf (64 + n) 4627 → ty < 16 →
    (Config.signatureOk (im ++ sig) = false → ∃ s', exec .load s = .next s' ∧ s'.stage = .failed ∧ s'.failCode = 1 ∧ s'.images = s.images) ∧
    (Config.signatureOk (im ++ sig) = true → (readLE s.fwBuf 0 4 ≠ ty ∨ loadTurn s ty = false) →
      ∃ s', exec .load s = .next s' ∧ s'.stage = .failed ∧ s'.failCode = 2 ∧ s'.images = s.images) ∧
    (Config.signatureOk (im ++ sig) = true → readLE s.fwBuf 0 4 = ty → loadTurn s ty = true →
      (readLE s.fwBuf 4 4 < Config.versionFloor ty → ∃ s', exec .load s = .next s' ∧ s'.stage = .failed ∧ s'.failCode = 3) ∧
      (Config.versionFloor ty ≤ readLE s.fwBuf 4 4 →
        ∃ s', exec .load s = .next s' ∧ s'.images = s.images ++ [(ty, digest im)] ∧ s'.fwCmd = 0 ∧
          s'.stage = (if ty = 3 then .ready else s.stage)))) ∧
  (∀ s, Awake s → s.fwCmd.toNat % 16 = 2 →
    ∃ s', exec .attest s = .next s' ∧ s'.fwCmd = 0 ∧ s'.stage = s.stage ∧ cread s'.fwBuf 0x1040 64 = cread s.fwBuf 0 64 ∧
      cread s'.fwBuf 0x1080 64 = measurement s 1 ∧ cread s'.fwBuf 0x10C0 64 = measurement s 2 ∧
      cread s'.fwBuf 0x1100 64 = measurement s 3 ∧
      (s.parts.length = 8 → readLE s'.fwBuf 0x1340 8 = s.clock.toNat) ∧
      ∀ x, x < 0x1000 → cget s'.fwBuf x = cget s.fwBuf x)

/-- R404 to R408: the fields of the control block: HEAVYB within its bounds, a base whose LO half waits for its HI half, the staging
buffer; a partition is enabled when it overlaps no other and its fields are legal, and disabled its keys are gone.

It rests on the model's readings of log entry 39. -/
def Obligations.ControlBlockWrites : Prop :=
  (∀ s x, Awake s → ∃ s', exec (.heavybWrite x) s = .next s' ∧
    s' = { s with heavyB := if 64 ≤ x.toNat ∧ x.toNat ≤ 2064 then x else s.heavyB }) ∧
  (∀ s (lo hi : Word), Awake s →
    ∃ s1 s2, exec (.hcbWrite 0x18 lo) s = .next s1 ∧ s1.qTable = s.qTable ∧ exec (.hcbWrite 0x1C hi) s1 = .next s2 ∧
      s2.qTable = (if lo.toNat % 65536 = 0 ∧ hi.toNat < 65536 then hi ++ lo else s.qTable) ∧ s2.mem = s.mem) ∧
  (∀ s (lo hi : Word), Awake s →
    ∃ s1 s2, exec (.hcbWrite 0x10 lo) s = .next s1 ∧ s1.countPa = s.countPa ∧ exec (.hcbWrite 0x14 hi) s1 = .next s2 ∧
      s2.countPa = (if lo.toNat % 65536 = 0 ∧ hi.toNat < 65536 then hi ++ lo else s.countPa)) ∧
  (∀ s (off : BitVec 16) x, Awake s → 0x8000 ≤ off.toNat → off.toNat % 4 = 0 →
    ∃ s', exec (.hcbWrite off x) s = .next s' ∧ readLE s'.fwBuf (off.toNat - 0x8000) 4 = x.toNat ∧
      ∀ a, (a < off.toNat - 0x8000 ∨ off.toNat - 0x8000 + 4 ≤ a) → cget s'.fwBuf a = cget s.fwBuf a) ∧
  (∀ s (p : Fin 8) q x, Awake s → s.parts[p.val]? = some q →
    ∃ s', exec (.hcbWrite (BitVec.ofNat 16 (0x100 + 64 * p.val)) x) s = .next s' ∧
      s'.parts[p.val]? = some (if q.en then q else { q with secmask := x.setWidth 8 })) ∧
  (∀ s (p : Fin 8) q (clash bad : Bool), Awake s → s.parts[p.val]? = some q → q.en = false →
    (∀ x ∈ s.parts, x.closing = false) → stopsIn s p.val = false →
    (clash = true ↔ ∃ (j : Nat) (x : Partition), j ≠ p.val ∧ s.parts[j]? = some x ∧ x.en = true ∧ partOverlap q x = true) →
    (bad = false ↔ s.stage = .ready ∧ q.secmask ≠ 0 ∧ q.qfirst ≤ q.qlast ∧ q.sptbase.toNat % 2 ^ 20 = 0 ∧
      q.ctxt.toNat % 65536 = 0 ∧ q.membase.toNat ≤ q.memlim.toNat) →
    ∃ s' q', exec (.partitionEnable p) s = .next s' ∧ s'.parts[p.val]? = some q' ∧
      (∀ j, j ≠ p.val → s'.parts[j]? = s.parts[j]?) ∧ q'.en = (!clash && !bad) ∧
      q'.pstat = if clash then 2 else if bad then 3 else 1) ∧
  (∀ s (p : Fin 8) q, Awake s → s.parts[p.val]? = some q → q.en = true → (∀ x ∈ s.parts, x.closing = false) →
    (∀ c ∈ s.ctxs, c.space / 65536 ≠ p.val) → (∀ t ∈ s.teams, t.space / 65536 ≠ p.val) →
    ∃ s' q', exec (.partitionDisable p) s = .next s' ∧ s'.parts[p.val]? = some q' ∧ q'.en = false ∧ q'.closing = false ∧
      q'.pstat = 0 ∧ s'.keys = s.keys.filter (fun k => k.space / 65536 != p.val) ∧ s'.mem = s.mem)

/-- R363, R369, R415, R416: XREQ for a page of a unified range is answered with its leaf or its subcode, and the answer stands in
the host agent's cache until INV; PREQ asks for a page that an access awaits, and PRSP lets the teams that wait for it go
on or declines it; the host writes through an answer that it holds; and a port fails for good.

It rests on the model's readings of log entries 46 and 47. -/
def Obligations.LinksCarry : Prop :=
  (∀ s space ia write c, Awake s → s.ctx? space = some c → unified c ia = true → s.invWait = false →
    (∀ tr, Warm s space ia (if write then .store else .load) false tr →
      ∃ s' e, exec (.xreq space ia write) s = .next s' ∧ s'.link = s.link ++ [.xrsp space ia (some e) 0] ∧ e.space = space ∧
        e.page = pageOf tr.big ia ∧ e.big = tr.big ∧ e.leaf = tr.leaf ∧ s'.mem = s.mem) ∧
    (∀ sub, lookup s space ia (if write then .store else .load) false = .fail sub →
      ∃ s', exec (.xreq space ia write) s = .next s' ∧ s'.link = s.link ++ [.xrsp space ia none sub])) ∧
  (∀ s as space ia e sub bs, Awake s → s.link = as ++ .xrsp space ia (some e) sub :: bs → (∀ a ∈ as, isXrsp a = false) →
    ∃ s', exec .xrsp s = .next s' ∧ s'.link = as ++ bs ∧ e ∈ s'.hostCache ∧
      ∀ x ∈ s.hostCache, ¬(x.space = e.space ∧ x.page = e.page) → x ∈ s'.hostCache) ∧
  (∀ s space ia a t, Awake s → a ∈ s.accs → savedFault s a = true → a.fault = some (0x11, 0) → a.ia / 65536 = ia / 65536 →
    s.team? a.team = some t → t.space = space →
    ∃ s', exec (.preq space ia) s = .next s' ∧ .preq space (ia / 65536 * 65536) ∈ s'.link ∧ ∀ m ∈ s.link, m ∈ s'.link) ∧
  (∀ s as space ia bs accept, Awake s → s.link = as ++ .preq space ia :: bs → (∀ a ∈ as, isPreq a = false) →
    ∃ s', exec (.prsp accept) s = .next s' ∧ s'.link = as ++ bs ∧
      (∀ u t, s.team? u = some t → t.space = space → ∃ t', s'.team? u = some t' ∧ t'.st = t.st ∧
        ∀ n, n ∈ t'.pages ↔ n ∈ t.pages ∧ n ≠ ia / 65536) ∧
      ((space, ia / 65536) ∈ s'.pagesDeclined ↔ accept = false) ∧ (accept = true → s'.tcache = [] ∧ s'.hostCache = [])) ∧
  (∀ s as space page bs, Awake s → s.link = as ++ .inv space page :: bs → (∀ a ∈ as, isInv a = false) →
    ∃ s', exec .inv s = .next s' ∧ s'.link = as ++ bs ∧ ∀ e, e ∈ s'.hostCache ↔ e ∈ s.hostCache ∧ ¬(e.space = space ∧ e.page = page)) ∧
  (∀ s, Awake s → ∃ s', exec .invack s = .next s' ∧
    s' = { s with invWait := s.invWait && s.link.any isInv }) ∧
  (∀ s (peer : Fin 8) (port : Fin 2), Awake s → peer ≠ s.pkg →
    ∃ s', exec (.fabricPortFailure peer port) s = .next s' ∧ (peer.val, port.val) ∈ s'.ports ∧ ∀ x ∈ s.ports, x ∈ s'.ports) ∧
  (∀ s space ia e x off, Awake s → NoTryAtAll s → hostEntry s space ia = some e → ia % 4 = 0 → leafW e.leaf = true →
    leafD e.leaf = true → leafNode e.leaf = false → (ownerKey s space e.leaf).isSome = true →
    off = leafFrame e.leaf + (if e.big then ia % 2 ^ 21 else ia % 65536) → off + 4 ≤ 2 ^ 39 →
    KeyedAs s (ownerKey s space e.leaf) off 4 →
    ∃ s', exec (.hostAccess space ia (some x)) s = .next s' ∧ numAt s' off 4 = BitVec.toNat x ∧
      ∀ a, (a < off ∨ off + 4 ≤ a) → cget s'.mem a = cget s.mem a)

/-! ### Reset, decoding and the step -/

/-- R404, R405, R409: what reset leaves: stage RESET, every field of the control block at its reset value, no key, no firmware, no
partition enabled; and memory in its canonical form.

It rests on the model's readings of log entry 4. -/
def Obligations.ResetValues : Prop :=
  State.reset.stage = .reset ∧ State.reset.failCode = 0 ∧ State.reset.fwCmd = 0 ∧ State.reset.countPa = 0 ∧
  State.reset.qTable = 0 ∧ State.reset.heavyB = 2064 ∧ State.reset.keys = [] ∧ State.reset.images = [] ∧
  State.reset.teams = [] ∧ Memory.wf State.reset.mem = true ∧ (∀ a, cget State.reset.fwBuf a = 0) ∧
  ∀ p : Nat, p < 8 → ∃ q, State.reset.parts[p]? = some q ∧ q.en = false ∧ q.secmask = 0 ∧ q.qfirst = 0 ∧ q.qlast = 0 ∧
    q.sptbase = 0 ∧ q.fpool = 0 ∧ q.membase = 0 ∧ q.memlim = 0 ∧ q.pstat = 0 ∧ q.ctxt = 0

/-- Every step keeps memory in its canonical form: addresses strictly rising, no entry that is 0. -/
def Obligations.MemoryFormKept : Prop :=
  ∀ s s', Memory.wf s.mem = true → step s = .next s' → Memory.wf s'.mem = true

/-- R409: only a reset of the package leaves the stage FAILED. -/
def Obligations.FailedStays : Prop :=
  ∀ i s s', s.stage = .failed → exec i s = .next s' → i ≠ .pkgrst → i ≠ .powerOn → s'.stage = .failed ∧ s'.failCode = s.failCode

/-- R148 to R157: the decoder reads every well-formed instruction back from its encoding. -/
def Obligations.DecodeEncode : Prop := ∀ i : Instr, i.wf = true → decodeBits (encode i) = .ok i

/-- R46, R150, R161: what the decoder reads is well formed, and its encoding is the bits read, but for a D field that is ignored. -/
def Obligations.DecodedIsWellFormed : Prop :=
  ∀ x i, decodeBits x = .ok i → i.wf = true ∧ (dIgnored (rawOf (trimBits x)) = false → encode i = trimBits x)

/-- R148, R158, R159, R161: words of several pages, written out from their tables, and words that are refused: an unassigned opcode, a
length that the opcode does not have, the guard `?!p7`, a reserved W, a v-register above v191, a field that is not used. -/
def Obligations.DecodeWords : Prop :=
  let h : Hdr := ⟨⟨7, false⟩, false, none⟩
  decodeTableWord 64 0x0000000000007000 = some (.nop h) ∧
  decodeTableWord 96 0x00000002_0000000000007005 = some (.bra h 2) ∧
  decodeTableWord 64 0x0000186010057200 = some (.iadd h false false (.v 5) (.v 1) (.reg (.s 3))) ∧
  decodeTableWord 64 0x0080008030027400 = some (.fadd h ⟨false, false, false, false, false, false, .rz⟩ (.v 2) (.v 3) (.reg (.v 4))) ∧
  decodeTableWord 64 0x02000000A0077600 = some (.ld h ⟨.w, .alloc, false, .b32⟩ (.v 7) ⟨.v 10, none⟩) ∧
  decodeTableWord 64 0x0000000C40037800 = some (.tdecl h 3 (.reg (.s 4))) ∧
  decodeTableWord 128 0x0000003002001005_0000006020017A22 = some (.vadd h ⟨0, .rn, 5, 1, 2, 3⟩ false 1 2 (.tile 3)) ∧
  decodeTableWord 64 0x0081808020017C14 = some (.edge h true (.v 1) (.v 2) (.v 4) (.v 6)) ∧
  decodeTableWord 64 0x0000000000087E00 = some (.rdclk h (.v 8)) ∧
  decodeTableWord 64 0x0000000000007F00 = some (.eret h) ∧
  decodeBits 0x000000000000705C = .error .opcode ∧ decodeBits 0x0000000000007001 = .error .len ∧
  decodeBits 0x000000000000F000 = .error .guard ∧ decodeBits 0x0000000005007000 = .error .wfield ∧
  decodeBits 0x0000080010057200 = .ok (.iadd h false false (.v 5) (.v 1) (.reg (.v 64))) ∧
  decodeBits 0x0000280010057200 = .error .operand ∧ decodeBits 0x0000000000017000 = .error .rsvfield

/-- R20, R25, R26, R142 to R147, R161: when the move is the issue of a lane's candidate and its port serves it now, the bytes of
the window at its PC are fetched, and those that decode to an instruction make the step that instruction's meaning for the
group, after the cycles of the move; the port counts the issue unless every lane waits.

It rests on the model's readings of log entries 2 and 11. -/
def Obligations.StepRunsDecoded : Prop :=
  (∀ s m u wi slot s0 s1 s2 t c w len bits i is s3, nextMove (settle s) = (⟨m, .issue u wi slot⟩, s0) → s1 = tick m s0 →
    s1.team? u = some t → candidateOf s1 t wi slot = some c → mayIssue s1 t.core c = true → c.trap = false → c.bin = none →
    t.warps[(c.lanes.headD (0, 0)).1]? = some w → fetch s1 t c.pc = (s2, .instr len bits) →
    decodeRaw false (!w.sup) w.ubusy (rawOf bits) = .ok i →
    is = { team := t.uid, pc := c.pc, len := len, bits := bits, lanes := likeFirst t c.lanes bits, id := s2.serial } →
    s3 = { usePort s2 t.core c.port with serial := s2.serial + 1, cur := some is } →
    (allWait (exec i s3) t.uid c.lanes = false → step s = exec i s3) ∧
    (allWait (exec i s3) t.uid c.lanes = true → step s = exec i { s2 with serial := s2.serial + 1, cur := some is })) ∧
  (∀ s t pc c ia tr len, s.ctx? t.space = some c → rangeCheck c (BitVec.setWidth 64 (pc : Pc)) .fetch = .ok ia →
    Warm s t.space ia .fetch false tr → KeyedAs s (ownerKey s t.space tr.leaf) tr.pa (min 16 (32 - pc.toNat % 32)) →
    corrupt s tr.pa (min 16 (32 - pc.toNat % 32)) = false → pc.toNat % 4 = 0 → len = lenBytes (BitVec.ofNat 2 (numAt s tr.pa 1)) → len ≠ 4 → pc.toNat % 32 + len ≤ 32 →
    (fetch s t pc).2 = .instr len (BitVec.ofNat 128 (numAt s tr.pa len)))

/-- R161 to R163: a word that does not decode traps every lane of its group with ILLOP and the subcode of the first check that
fails; with no user vector the warp enters the supervisor handler. -/
def Obligations.IllegalWordsTrap : Prop :=
  ∀ s m u wi slot s0 s1 s2 s3 t t3 w w3 c len bits e x pa, nextMove (settle s) = (⟨m, .issue u wi slot⟩, s0) → s1 = tick m s0 →
    s1.team? u = some t → candidateOf s1 t wi slot = some c → mayIssue s1 t.core c = true → c.trap = false → c.bin = none →
    c.lanes = [(wi, slot)] → t.warps[wi]? = some w → fetch s1 t c.pc = (s2, .instr len bits) →
    decodeRaw false (!w.sup) w.ubusy (rawOf bits) = .error e →
    s3 = { usePort s2 t.core c.port with serial := s2.serial + 1 } → Awake s3 → s3.team? u = some t3 → t3.warps[wi]? = some w3 →
    MayEnter s3 u wi t3 w3 x pa → mustDrain s3 u wi = false → (x.uvec = 0 ∨ w3.sup = true) →
    ∃ s', step s = .next s' ∧
      Entered s' u wi t3 w3 x pa ((ilenOf len).toNat * 2 ^ 19 + 2 ^ 18 + (illCode e).toNat * 2 ^ 8 + 3)
end

