-- ==== Sys2Proof/Laws/Cells.lean ====
section
/-! SUPPORT. Sparse storage: reading after writing, and that every writing operation keeps the canonical form. -/

namespace Sys2Proof.Machine

variable {w : Nat}

/-! ### Reading after writing -/

theorem cget_filter (m : Cells w) (p : Nat → Bool) (b : Nat) :
    cget (m.filter (fun c => p c.1)) b = if p b then cget m b else 0 := by
  induction m with
  | nil => simp [cget]
  | cons c m ih =>
    obtain ⟨k, x⟩ := c
    by_cases hp : p k = true
    · rw [List.filter_cons_of_pos (by simpa using hp)]; simp only [cget, ih]; grind
    · rw [List.filter_cons_of_neg (by simpa using hp)]; simp only [cget, ih]; grind

theorem cget_cdel (m : Cells w) (a b : Nat) : cget (cdel m a) b = if b = a then 0 else cget m b := by
  unfold cdel
  rw [cget_filter m (fun k => k != a)]
  grind

theorem cget_cins (m : Cells w) (a b : Nat) (x : BitVec w) (h : cget m a = 0) (hm : ∀ c ∈ m, c.1 ≠ a) :
    cget (cins m a x) b = if b = a then x else cget m b := by
  induction m with
  | nil => simp only [cins, cget]; grind
  | cons c m ih =>
    obtain ⟨k, y⟩ := c
    have hk : k ≠ a := hm (k, y) (by simp)
    have hm' : ∀ c ∈ m, c.1 ≠ a := fun c hc => hm c (by simp [hc])
    have h' : cget m a = 0 := by simpa [cget, hk] using h
    simp only [cins]
    split <;> simp only [cget, ih h' hm'] <;> grind

theorem cdel_keys (m : Cells w) (a : Nat) : ∀ c ∈ cdel m a, c.1 ≠ a := by
  intro c hc; simpa [cdel] using (List.mem_filter.mp hc).2

/-- Reading what was written, and leaving every other key alone. -/
theorem cget_cset (m : Cells w) (a b : Nat) (x : BitVec w) :
    cget (cset m a x) b = if b = a then x else cget m b := by
  unfold cset
  split
  · subst_vars; exact cget_cdel m a b
  · rw [cget_cins _ _ _ _ (by simp [cget_cdel]) (cdel_keys m a), cget_cdel]; grind

@[simp] theorem cget_cset_self (m : Cells w) (a : Nat) (x : BitVec w) : cget (cset m a x) a = x := by
  simp [cget_cset]

theorem cget_cset_ne (m : Cells w) {a b : Nat} (x : BitVec w) (h : b ≠ a) : cget (cset m a x) b = cget m b := by
  simp [cget_cset, h]

theorem cget_cclear (m : Cells w) (lo n b : Nat) :
    cget (cclear m lo n) b = if lo ≤ b ∧ b < lo + n then 0 else cget m b := by
  unfold cclear
  rw [cget_filter m (fun k => decide (k < lo) || decide (lo + n ≤ k))]
  grind

/-- A run written at `a`: byte k of it stands at a + k, and every other key reads as before. -/
theorem cget_cwrite (m : Cells w) (a b : Nat) (xs : List (BitVec w)) :
    cget (cwrite m a xs) b = if a ≤ b ∧ b < a + xs.length then xs.getD (b - a) 0 else cget m b := by
  induction xs generalizing m a with
  | nil => simp only [cwrite, List.length_nil]; rw [if_neg (by omega)]
  | cons x xs ih =>
    simp only [cwrite, ih, cget_cset, List.length_cons]
    by_cases h1 : b = a
    · subst h1; simp
    · by_cases h2 : a + 1 ≤ b ∧ b < a + 1 + xs.length
      · rw [if_pos h2, if_pos (by omega)]
        obtain ⟨k, rfl⟩ : ∃ k, b = a + 1 + k := ⟨b - (a + 1), by omega⟩
        have : a + 1 + k - a = k + 1 := by omega
        have h3 : a + 1 + k - (a + 1) = k := by omega
        simp [this, h3]
      · rw [if_neg h2, if_neg h1, if_neg (by omega)]

/-! ### The canonical form -/

theorem cellsWf_cons {a : Nat} {x : BitVec w} {m : Cells w} :
    cellsWf ((a, x) :: m) = true ↔ x ≠ 0 ∧ (∀ c ∈ m, a < c.1) ∧ cellsWf m = true := by
  simp [cellsWf, List.all_eq_true, and_assoc]

theorem cellsWf_filter (m : Cells w) (p : Nat × BitVec w → Bool) (h : cellsWf m = true) :
    cellsWf (m.filter p) = true := by
  induction m with
  | nil => rfl
  | cons c m ih =>
    obtain ⟨a, x⟩ := c
    obtain ⟨h0, h1, h2⟩ := cellsWf_cons.mp h
    by_cases hp : p (a, x) = true
    · rw [List.filter_cons_of_pos hp]
      exact cellsWf_cons.mpr ⟨h0, fun c hc => h1 c (List.mem_of_mem_filter hc), ih h2⟩
    · rw [List.filter_cons_of_neg hp]; exact ih h2

theorem mem_cins {m : Cells w} {a : Nat} {x : BitVec w} {c : Nat × BitVec w} (h : c ∈ cins m a x) :
    c = (a, x) ∨ c ∈ m := by
  induction m with
  | nil => simpa [cins] using h
  | cons d m ih =>
    obtain ⟨k, y⟩ := d
    simp only [cins] at h
    split at h
    · simpa using h
    · rcases List.mem_cons.mp h with h | h
      · simp [h]
      · rcases ih h with h | h <;> simp [h]

theorem cellsWf_cins (m : Cells w) (a : Nat) (x : BitVec w) (h : cellsWf m = true) (hx : x ≠ 0)
    (hm : ∀ c ∈ m, c.1 ≠ a) : cellsWf (cins m a x) = true := by
  induction m with
  | nil => simpa [cins, cellsWf] using hx
  | cons c m ih =>
    obtain ⟨k, y⟩ := c
    obtain ⟨h0, h1, h2⟩ := cellsWf_cons.mp h
    have hk : k ≠ a := hm (k, y) (by simp)
    simp only [cins]
    split
    · next hlt =>
      refine cellsWf_cons.mpr ⟨hx, fun c hc => ?_, h⟩
      rcases List.mem_cons.mp hc with rfl | hc
      · exact hlt
      · exact Nat.lt_trans hlt (h1 c hc)
    · next hge =>
      refine cellsWf_cons.mpr ⟨h0, fun c hc => ?_, ih h2 (fun c hc => hm c (by simp [hc]))⟩
      rcases mem_cins hc with rfl | hc
      · simp only; omega
      · exact h1 c hc

theorem cellsWf_cset (m : Cells w) (a : Nat) (x : BitVec w) (h : cellsWf m = true) :
    cellsWf (cset m a x) = true := by
  unfold cset cdel
  split
  · exact cellsWf_filter _ _ h
  · exact cellsWf_cins _ _ _ (cellsWf_filter _ _ h) ‹_› (cdel_keys m a)

theorem cellsWf_cclear (m : Cells w) (lo n : Nat) (h : cellsWf m = true) : cellsWf (cclear m lo n) = true :=
  cellsWf_filter _ _ h

theorem cellsWf_cwrite (m : Cells w) (a : Nat) (xs : List (BitVec w)) (h : cellsWf m = true) :
    cellsWf (cwrite m a xs) = true := by
  induction xs generalizing m a with
  | nil => exact h
  | cons x xs ih => exact ih _ _ (cellsWf_cset _ _ _ h)

theorem cellsWf_foldl {α : Type} (f : Cells w → α → Cells w) (hf : ∀ m x, cellsWf m = true → cellsWf (f m x) = true)
    (l : List α) (m : Cells w) (h : cellsWf m = true) : cellsWf (l.foldl f m) = true := by
  induction l generalizing m with
  | nil => exact h
  | cons x l ih => exact ih _ (hf _ _ h)

theorem cellsWf_memPut (m : Cells 8) (pa : Nat) (bs : List Byte) (h : cellsWf m = true) :
    cellsWf (memPut m pa bs) = true :=
  cellsWf_foldl _ (fun _ _ h => cellsWf_cset _ _ _ h) _ _ (cellsWf_cclear _ _ _ h)

/-- Equal contents are equal lists. -/
theorem cells_ext (m n : Cells w) (hm : cellsWf m = true) (hn : cellsWf n = true)
    (h : ∀ a, cget m a = cget n a) : m = n := by
  have low : ∀ (m : Cells w) (a : Nat), (∀ c ∈ m, a < c.1) → cget m a = 0 := by
    intro m a h
    induction m with
    | nil => rfl
    | cons c m ih =>
      obtain ⟨k, x⟩ := c
      have := h (k, x) (by simp)
      simp only [cget]
      rw [if_neg (by simp only at this; omega)]
      exact ih (fun c hc => h c (by simp [hc]))
  induction m generalizing n with
  | nil =>
    cases n with
    | nil => rfl
    | cons c n =>
      obtain ⟨k, x⟩ := c
      have := h k
      simp [cget] at this
      exact absurd this.symm (cellsWf_cons.mp hn).1
  | cons c m ih =>
    obtain ⟨k, x⟩ := c
    obtain ⟨h0, h1, h2⟩ := cellsWf_cons.mp hm
    cases n with
    | nil => have := h k; simp [cget] at this; exact absurd this h0
    | cons d n =>
      obtain ⟨j, y⟩ := d
      obtain ⟨g0, g1, g2⟩ := cellsWf_cons.mp hn
      have hkj : k = j := by
        rcases Nat.lt_trichotomy k j with hlt | he | hgt
        · have := h k
          rw [low ((j, y) :: n) k (fun c hc => by
            rcases List.mem_cons.mp hc with rfl | hc
            · exact hlt
            · exact Nat.lt_trans hlt (g1 c hc))] at this
          simp [cget] at this; exact absurd this h0
        · exact he
        · have := h j
          rw [low ((k, x) :: m) j (fun c hc => by
            rcases List.mem_cons.mp hc with rfl | hc
            · exact hgt
            · exact Nat.lt_trans hgt (h1 c hc))] at this
          simp [cget] at this; exact absurd this.symm g0
      subst hkj
      have hxy : x = y := by simpa [cget] using h k
      subst hxy
      congr 1
      refine ih n h2 g2 (fun a => ?_)
      by_cases ha : k = a
      · subst ha; rw [low m k h1, low n k g1]
      · simpa [cget, ha] using h a

theorem cget_putFrom (bs : List Byte) (m : Cells 8) (pa k b : Nat) :
    cget (((bs.zipIdx k).filter (fun x => x.1 != 0)).foldl (fun m x => cset m (pa + x.2) x.1) m) b =
      if pa + k ≤ b ∧ b < pa + k + bs.length ∧ bs.getD (b - (pa + k)) 0 ≠ 0 then bs.getD (b - (pa + k)) 0
      else cget m b := by
  induction bs generalizing m k with
  | nil => simp
  | cons x xs ih =>
    simp only [List.zipIdx_cons]
    by_cases hx : x = 0
    · rw [List.filter_cons_of_neg (by simp [hx]), ih]
      by_cases hb : b = pa + k
      · subst hb; simp [hx]
      · by_cases h2 : pa + (k + 1) ≤ b
        · obtain ⟨j, rfl⟩ : ∃ j, b = pa + (k + 1) + j := ⟨b - (pa + (k + 1)), by omega⟩
          have e1 : pa + (k + 1) + j - (pa + k) = j + 1 := by omega
          have e2 : pa + (k + 1) + j - (pa + (k + 1)) = j := by omega
          simp only [e1, e2, List.getD_cons_succ, List.length_cons]
          have : (pa + (k + 1) + j < pa + (k + 1) + xs.length) ↔ (pa + (k + 1) + j < pa + k + (xs.length + 1)) := by omega
          simp only [this]; congr 1; simp; omega
        · rw [if_neg (by omega), if_neg (by omega)]
    · rw [List.filter_cons_of_pos (by simpa using hx), List.foldl_cons, ih, cget_cset]
      by_cases hb : b = pa + k
      · rw [if_neg (by omega), if_pos hb, if_pos ⟨by omega, by simp only [List.length_cons]; omega, by simpa [hb] using hx⟩]; simp [hb]
      · by_cases h2 : pa + (k + 1) ≤ b
        · obtain ⟨j, rfl⟩ : ∃ j, b = pa + (k + 1) + j := ⟨b - (pa + (k + 1)), by omega⟩
          have e1 : pa + (k + 1) + j - (pa + k) = j + 1 := by omega
          have e2 : pa + (k + 1) + j - (pa + (k + 1)) = j := by omega
          have e3 : ¬ pa + (k + 1) + j = pa + k := by omega
          simp only [e1, e2, e3, if_false, List.getD_cons_succ, List.length_cons]
          have : (pa + (k + 1) + j < pa + (k + 1) + xs.length) ↔ (pa + (k + 1) + j < pa + k + (xs.length + 1)) := by omega
          simp only [this]; congr 1; simp; omega
        · rw [if_neg (by omega), if_neg hb, if_neg (by omega)]

/-- The run reads as it was written, every other address as before. -/
theorem cget_memPut (m : Cells 8) (pa b : Nat) (bs : List Byte) :
    cget (memPut m pa bs) b = if pa ≤ b ∧ b < pa + bs.length then bs.getD (b - pa) 0 else cget m b := by
  unfold memPut
  rw [cget_putFrom, cget_cclear]
  simp only [Nat.add_zero]
  by_cases h : pa ≤ b ∧ b < pa + bs.length
  · simp only [h, true_and, and_self, if_true]; grind
  · rw [if_neg (by tauto), if_neg h, if_neg h]

end Sys2Proof.Machine
end

