-- ==== Sys2Proof/Laws/Issue.lean ====
section
/-! SUPPORT. The common course of an instruction, said once: what `issueWith` and `commit` come to when nothing holds
the group back and no lane traps. -/

namespace Sys2Proof.Machine

/-! ### Teams, warps and lanes found after a change -/

theorem find?_change (ts : List Team) (u v : Nat) (f : Team → Team) (hf : ∀ t, (f t).uid = t.uid) :
    (ts.map (fun t => if t.uid == u then f t else t)).find? (fun t => t.uid == v) =
      (ts.find? (fun t => t.uid == v)).map (fun t => if v = u then f t else t) := by
  rw [List.find?_map]
  have : ((fun t : Team => t.uid == v) ∘ fun t => if (t.uid == u) = true then f t else t) = fun t => t.uid == v := by
    funext t; simp only [Function.comp]; split <;> simp [hf]
  rw [this]
  cases hfind : List.find? (fun t => t.uid == v) ts with
  | none => rfl
  | some t =>
    have : t.uid = v := by simpa using List.find?_some hfind
    simp [this]

theorem team?_modTeam (s : State) (u v : Nat) (f : Team → Team) (hf : ∀ t, (f t).uid = t.uid) :
    (s.modTeam u f).team? v = (s.team? v).map (fun t => if v = u then f t else t) :=
  find?_change s.teams u v f hf

theorem uid_of_team? {s : State} {u : Nat} {t : Team} (h : s.team? u = some t) : t.uid = u := by
  simpa using List.find?_some h

@[simp] theorem modWarp_uid (t : Team) (w : Nat) (f : Warp → Warp) : (t.modWarp w f).uid = t.uid := rfl

/-! ### The end of a step -/

theorem finish_next (s : State) (hh : s.halt = none) (hl : s.lost = []) (hq : s.saveQ = []) : finish s = .next s := by
  simp [finish, saveDrain, stopLost, hl, hh, hq]

/-! ### Latches dropped -/

/-- A lane without its latches. -/
def Lane.noBp (l : Lane) : Lane := { l with bp := noLatches }

/-- The team after the latches of some lanes have gone. -/
def Team.noBp (t : Team) (ks : List (Nat × Nat)) : Team :=
  ks.foldl (fun t k => t.modWarp k.1 (fun w => w.modLane k.2 Lane.noBp)) t

theorem noBp_frame (t : Team) (ks : List (Nat × Nat)) : t.noBp ks = { t with warps := (t.noBp ks).warps } := by
  induction ks generalizing t with
  | nil => rfl
  | cons k ks ih => simp only [Team.noBp, List.foldl_cons] at ih ⊢; rw [ih]; rfl

@[simp] theorem noBp_uid (t : Team) (ks : List (Nat × Nat)) : (t.noBp ks).uid = t.uid := by rw [noBp_frame]

theorem noBp_warp (t : Team) (ks : List (Nat × Nat)) (i : Nat) (w : Warp) (h : t.warps[i]? = some w) :
    ∃ ls, (t.noBp ks).warps[i]? = some { w with lanes := ls } ∧
      ∀ j, ls[j]? = (w.lanes[j]?).map (fun l => if (i, j) ∈ ks then l.noBp else l) := by
  induction ks generalizing t w with
  | nil => exact ⟨w.lanes, by simpa [Team.noBp] using h, by simp⟩
  | cons k ks ih =>
    have h1 : (t.modWarp k.1 (fun w => w.modLane k.2 Lane.noBp)).warps[i]? =
        some (if k.1 = i then w.modLane k.2 Lane.noBp else w) := by
      simp only [Team.modWarp, List.getElem?_modify, h]; split <;> simp
    obtain ⟨ls, h2, h3⟩ := ih _ _ h1
    refine ⟨ls, ?_, fun j => ?_⟩
    · simp only [Team.noBp, List.foldl_cons] at h2 ⊢; rw [h2]; split <;> rfl
    · rw [h3]
      by_cases hk : k.1 = i
      · simp only [hk, if_true, Warp.modLane, List.getElem?_modify]
        cases hl : w.lanes[j]? with
        | none => simp
        | some l =>
          obtain ⟨k1, k2⟩ := k
          simp only at hk; subst hk
          by_cases hj : k2 = j
          · subst hj; simp [Lane.noBp]
          · have : ¬ j = k2 := fun h => hj h.symm
            simp [hj, this]
      · simp only [hk, if_false]
        obtain ⟨k1, k2⟩ := k
        have : ¬ (i, j) = (k1, k2) := fun e => hk (by simpa using (congrArg Prod.fst e).symm)
        simp [this]

theorem foldl_modLane (s : State) (u : Nat) (ks : List (Nat × Nat)) :
    ks.foldl (fun s k => s.modLane u k.1 k.2 (fun l => { l with bp := noLatches })) s =
      s.modTeam u (fun t => t.noBp ks) := by
  induction ks generalizing s with
  | nil => simp [State.modTeam, Team.noBp]
  | cons k ks ih =>
    rw [List.foldl_cons, ih]
    simp only [State.modLane, State.modWarp, State.modTeam, List.map_map]
    congr 1
    apply List.map_congr_left
    intro t _
    simp only [Function.comp, Team.noBp, List.foldl_cons]
    split <;> rename_i h
    · simp only [modWarp_uid, h, if_true]; rfl
    · simp

/-! ### The group taken -/

/-- The team as the instruction sees it. -/
def Team.seen (t : Team) (is : Issue) : Team := if sameGroup t is.lanes then t else t.noBp is.lanes
def State.seen (s : State) (t : Team) (is : Issue) : State :=
  if sameGroup t is.lanes then s else s.modTeam is.team (fun t => t.noBp is.lanes)

theorem seen_frame (t : Team) (is : Issue) : t.seen is = { t with warps := (t.seen is).warps } := by
  unfold Team.seen; split
  · rfl
  · exact noBp_frame t is.lanes

theorem seen_warp (t : Team) (is : Issue) (i : Nat) (w : Warp) (h : t.warps[i]? = some w) :
    ∃ ls, (t.seen is).warps[i]? = some { w with lanes := ls } ∧
      ∀ j, ls[j]? = (w.lanes[j]?).map (fun l => if sameGroup t is.lanes = false ∧ (i, j) ∈ is.lanes then l.noBp else l) := by
  unfold Team.seen
  split
  · next hs => exact ⟨w.lanes, h, by simp [hs]⟩
  · next hs =>
    obtain ⟨ls, h1, h2⟩ := noBp_warp t is.lanes i w h
    exact ⟨ls, h1, by simpa [Bool.not_eq_true] using (by simp [hs, h2])⟩

theorem seen_state (s : State) (t : Team) (is : Issue) : s.seen t is = { s with teams := (s.seen t is).teams } := by
  unfold State.seen; split <;> rfl

theorem seen_team (s : State) (t : Team) (is : Issue) (h : s.team? is.team = some t) :
    (s.seen t is).team? is.team = some (t.seen is) := by
  unfold State.seen Team.seen
  split
  · exact h
  · rw [team?_modTeam _ _ _ _ (fun t => noBp_uid t _), h]; simp

theorem takeGroup_quiet {s : State} {i : Instr} {h : Hdr} {is : Issue} {t : Team} (G : Issuing s i h is t) :
    takeGroup s is (info i) = (s.seen t is, is.lanes) := by
  have hheld : is.lanes.any (fun k => gated s is.team k.1 k.2 (info i)) = false := by
    simp only [List.any_eq_false]; intro k hk; simp [G.free k hk]
  unfold takeGroup
  simp only [hheld, Bool.false_eq_true, if_false, G.team]
  unfold State.seen
  split
  · rfl
  · rw [foldl_modLane]

/-! ### What an active lane sees -/

theorem seen_lane {t : Team} {is : Issue} {k : Nat × Nat} {w : Warp} {l : Lane} (m : Member t is k w l) :
    ∃ ls, (t.seen is).warps[k.1]? = some { w with lanes := ls } ∧
      ls[k.2]? = some (if sameGroup t is.lanes then l else l.noBp) ∧
      ∀ j, ls[j]? = (w.lanes[j]?).map
        (fun l => if sameGroup t is.lanes = false ∧ (k.1, j) ∈ is.lanes then l.noBp else l) := by
  obtain ⟨hk, hw, hl⟩ := m
  obtain ⟨ls, h1, h2⟩ := seen_warp t is k.1 w hw
  refine ⟨ls, h1, ?_, h2⟩
  rw [h2, hl]
  cases hs : sameGroup t is.lanes <;> simp [hk]

@[simp] theorem guardHolds_noBp (l : Lane) (g : Guard) : guardHolds l.noBp g = guardHolds l g := rfl

/-- The context of a lane of the group: what `body` is given. -/
structure Ctx (s : State) (i : Instr) (h : Hdr) (is : Issue) (t : Team) (c : Lc) (w : Warp) (l : Lane) : Prop where
  active : Active t is h (c.wi, c.slot) w l
  issue : c.is = is
  team : c.tm = t.seen is
  warp : (t.seen is).warps[c.wi]? = some c.w
  warpEq : ∃ ls, c.w = { w with lanes := ls } ∧ ls[c.slot]? = some c.l ∧
    ∀ j, ls[j]? = (w.lanes[j]?).map
        (fun l => if sameGroup t is.lanes = false ∧ (c.wi, j) ∈ is.lanes then l.noBp else l)
  lane : c.l = if sameGroup t is.lanes then l else l.noBp
  act : c.act = ((activeLanes t is h).filter (fun a => a.1 == c.wi)).map (·.2)

theorem act_eq {s : State} {i : Instr} {h : Hdr} {is : Issue} {t : Team} (G : Issuing s i h is t) :
    is.lanes.filter (guarded (t.seen is) h) = activeLanes t is h := by
  apply List.filter_congr
  intro k hk
  obtain ⟨w, l, hw, hl⟩ := G.lanes k hk
  obtain ⟨ls, h1, h2, -⟩ := seen_lane ⟨hk, hw, hl⟩
  simp only [guarded, h1, Option.bind_some, h2, hw, hl]
  split <;> rfl

theorem mem_active {s : State} {i : Instr} {h : Hdr} {is : Issue} {t : Team} (G : Issuing s i h is t) {k : Nat × Nat} :
    k ∈ activeLanes t is h ↔ ∃ w l, Active t is h k w l := by
  simp only [activeLanes, List.mem_filter, Active, Member]
  constructor
  · rintro ⟨hk, hg⟩
    obtain ⟨w, l, hw, hl⟩ := G.lanes k hk
    exact ⟨w, l, ⟨hk, hw, hl⟩, by simpa [guarded, hw, hl] using hg⟩
  · rintro ⟨w, l, ⟨hk, hw, hl⟩, hg⟩
    exact ⟨hk, by simpa [guarded, hw, hl] using hg⟩

theorem laneCtx_active {s : State} {i : Instr} {h : Hdr} {is : Issue} {t : Team} {k : Nat × Nat} {w : Warp} {l : Lane}
    (a : Active t is h k w l) :
    ∃ c, laneCtx (t.seen is) is (activeLanes t is h) k = some c ∧ (c.wi, c.slot) = k ∧ Ctx s i h is t c w l := by
  obtain ⟨ls, h1, h2, h3⟩ := seen_lane a.1
  refine ⟨⟨is, t.seen is, k.1, { w with lanes := ls }, k.2, if sameGroup t is.lanes then l else l.noBp,
    ((activeLanes t is h).filter (fun a => a.1 == k.1)).map (·.2)⟩, by simp only [laneCtx, h1, h2], rfl,
    a, rfl, rfl, h1, ⟨ls, rfl, h2, h3⟩, rfl, rfl⟩

/-- The contexts of the active lanes, in order. -/
def contexts (h : Hdr) (is : Issue) (t : Team) : List Lc :=
  (activeLanes t is h).filterMap (laneCtx (t.seen is) is (activeLanes t is h))

theorem contexts_keys {s : State} {i : Instr} {h : Hdr} {is : Issue} {t : Team} (G : Issuing s i h is t) :
    (contexts h is t).map (fun c => (c.wi, c.slot)) = activeLanes t is h := by
  have key : ∀ ks : List (Nat × Nat), (∀ k ∈ ks, k ∈ activeLanes t is h) →
      (ks.filterMap (laneCtx (t.seen is) is (activeLanes t is h))).map (fun c => (c.wi, c.slot)) = ks := by
    intro ks hks
    induction ks with
    | nil => rfl
    | cons k ks ih =>
      obtain ⟨w, l, a⟩ := (mem_active G).mp (hks k (by simp))
      obtain ⟨c, h1, h2, -⟩ := laneCtx_active (s := s) (i := i) a
      simp only [List.filterMap_cons, h1, List.map_cons, h2]
      rw [ih (fun k hk => hks k (by simp [hk]))]
  exact key _ (fun _ hk => hk)

theorem contexts_ctx {s : State} {i : Instr} {h : Hdr} {is : Issue} {t : Team} (G : Issuing s i h is t) {c : Lc}
    (hc : c ∈ contexts h is t) : ∃ w l, Ctx s i h is t c w l := by
  obtain ⟨k, hk, e⟩ := List.mem_filterMap.mp hc
  obtain ⟨w, l, a⟩ := (mem_active G).mp hk
  obtain ⟨c', h1, -, h3⟩ := laneCtx_active (s := s) (i := i) a
  rw [h1] at e; cases e
  exact ⟨w, l, h3⟩

/-- No check refuses an active lane. -/
theorem issueCheck_none {s : State} {i : Instr} {h : Hdr} {is : Issue} {t : Team} (G : Issuing s i h is t) {c : Lc}
    {w : Warp} {l : Lane} (C : Ctx s i h is t c w l) (pre : Lc → Option LaneRes) (hp : pre c = none) :
    issueCheck i h pre c = none := by
  obtain ⟨⟨hk, hw, hl⟩, hg⟩ := C.active
  obtain ⟨h1, h2, h3⟩ := G.checks _ hk w l hw hl hg
  have hwin : c.tm.desc.win = t.desc.win := by rw [C.team, seen_frame]
  obtain ⟨ls, hcw, -, -⟩ := C.warpEq
  have hrole : c.w.role = w.role := by rw [hcw]
  have hst : staleSrc c.l (info i) = false := by
    rw [C.lane]
    cases hs : sameGroup t is.lanes with
    | true => simpa using h3
    | false =>
      have hn : ∀ r ∈ (info i).srcs, r.1.isLatch = false := by
        rcases G.latches with e | e
        · rw [hs] at e; cases e
        · exact e
      simp only [staleSrc, Bool.false_eq_true, if_false, List.any_eq_false]
      intro r hr
      have := hn r hr
      cases hr1 : r.1 <;> simp_all [Src.isLatch]
  unfold issueCheck
  simp only [hwin, h1, hrole, hp, hst, Bool.false_eq_true, if_false]
  cases hr : (info i).role with
  | none => simp
  | some r => simp [h2 r hr]

/-- What the lane reads is what it held. -/
theorem Ctx.read {s : State} {i : Instr} {h : Hdr} {is : Issue} {t : Team} (G : Issuing s i h is t) {c : Lc}
    {w : Warp} {l : Lane} (C : Ctx s i h is t c w l) (r : Src) (n k : Nat) (hr : (r, n) ∈ (info i).srcs) :
    rdSrc c.w c.l k r = rdSrc w l k r := by
  obtain ⟨ls, hcw, -, -⟩ := C.warpEq
  rw [hcw, C.lane]
  cases hs : sameGroup t is.lanes with
  | true => cases r <;> rfl
  | false =>
    have hn : r.isLatch = false := by
      rcases G.latches with e | e
      · rw [hs] at e; cases e
      · exact e _ hr
    cases r with
    | bp n => simp [Src.isLatch] at hn
    | v n => rfl
    | s n => rfl

theorem Ctx.src {s : State} {i : Instr} {h : Hdr} {is : Issue} {t : Team} (G : Issuing s i h is t) {c : Lc}
    {w : Warp} {l : Lane} (C : Ctx s i h is t c w l) (r : Src) (n : Nat) (hr : (r, n) ∈ (info i).srcs) :
    c.src r = readSrc w l r := by
  simp only [Lc.src, readSrc, C.read G r n 0 hr]

theorem Ctx.srcI {s : State} {i : Instr} {h : Hdr} {is : Issue} {t : Team} (G : Issuing s i h is t) {c : Lc}
    {w : Warp} {l : Lane} (C : Ctx s i h is t c w l) (r : SrcI) (hr : ∀ a, r = .reg a → ∃ n, (a, n) ∈ (info i).srcs) :
    c.srcI r = readSrcI w l r := by
  cases r with
  | imm x => rfl
  | reg a => obtain ⟨n, hn⟩ := hr a rfl; exact C.src G a n hn

theorem Ctx.pair {s : State} {i : Instr} {h : Hdr} {is : Issue} {t : Team} (G : Issuing s i h is t) {c : Lc}
    {w : Warp} {l : Lane} (C : Ctx s i h is t c w l) (r : Src) (n : Nat) (hr : (r, n) ∈ (info i).srcs) :
    c.pair r = readPair w l r := by
  simp only [Lc.pair, readPair, C.read G r n _ hr]

theorem Ctx.preds {s : State} {i : Instr} {h : Hdr} {is : Issue} {t : Team} {c : Lc}
    {w : Warp} {l : Lane} (C : Ctx s i h is t c w l) : c.l.p = l.p := by
  rw [C.lane]; split <;> rfl

/-! ### The body and the commit -/

/-- The lanes whose guard fails do nothing but go on. -/
def idleLanes (t : Team) (is : Issue) (h : Hdr) : List ((Nat × Nat) × LaneRes) :=
  (is.lanes.filter (fun k => !(activeLanes t is h).contains k)).map (fun k => (k, LaneRes.done { count := false }))

/-- Where every warp stands as its results found it, nothing was moved. -/
theorem stepMoved_untouched (t : Team) (rs : List ((Nat × Nat) × LaneRes)) (s : State)
    (h : ∀ wi, untouched t s wi = true) : stepMoved t rs s = s := by
  induction rs with
  | nil => rfl
  | cons r rs ih =>
    unfold stepMoved at ih ⊢
    rw [List.foldl_cons, h, Bool.true_or, if_pos rfl]
    exact ih

theorem issueWith_quiet {s : State} {i : Instr} {h : Hdr} {is : Issue} {t : Team} (G : Issuing s i h is t)
    (pre : State → Lc → Option LaneRes)
    (body : State → List Lc → State × List ((Nat × Nat) × LaneRes))
    (hp : ∀ c ∈ contexts h is t, pre (s.seen t is) c = none) :
    issueWith i h s pre body =
      commit (stepMoved (t.seen is) (body (s.seen t is) (contexts h is t)).2 (body (s.seen t is) (contexts h is t)).1) is
        (((body (s.seen t is) (contexts h is t)).2 ++ idleLanes t is h).filter
          (fun r => untouched (t.seen is) (body (s.seen t is) (contexts h is t)).1 r.1.1)) := by
  have htx : txAborts i (s.seen t is) (contexts h is t) = (s.seen t is, []) := by
    have key : ((contexts h is t).filter (fun c => decide (0 < c.w.tx.depth))).filterMap
        (fun c => (txCode i c).map (fun k => (c, k))) = [] := by
      rw [List.filterMap_eq_nil_iff]
      intro c hc
      obtain ⟨hc, hd⟩ := List.mem_filter.mp hc
      obtain ⟨w, l, C⟩ := contexts_ctx G hc
      obtain ⟨ls, hcw, -, -⟩ := C.warpEq
      rcases G.calm with e | e
      · have hf : c.foreign i = false := by
          have := e.2
          unfold Lc.foreign; unfold namesWindow at this
          split <;> simp_all
        simp [txCode, hf, e.1]
      · have := e _ C.active.1.1 w C.active.1.2.1
        rw [hcw] at hd; simp [this] at hd
    unfold txAborts
    rw [key]; rfl
  have hact := act_eq G
  have hc : List.filterMap (laneCtx (t.seen is) is (activeLanes t is h)) (activeLanes t is h) = contexts h is t := rfl
  have hchk : (contexts h is t).map (fun c => ((c.wi, c.slot), issueCheck i h (pre (s.seen t is)) c)) =
      (contexts h is t).map (fun c => ((c.wi, c.slot), (none : Option LaneRes))) := by
    apply List.map_congr_left
    intro c hc
    obtain ⟨w, l, C⟩ := contexts_ctx G hc
    rw [issueCheck_none G C _ (hp c hc)]
  have hs : staleStop ((contexts h is t).map (fun c => ((c.wi, c.slot), (none : Option LaneRes)))) = false := by
    simp [staleStop]
  have hb : ((contexts h is t).map (fun c => ((c.wi, c.slot), (none : Option LaneRes)))).filterMap
      (fun r => r.2.map (fun x => (r.1, x))) = [] := by
    simp
  have hl : (contexts h is t).filter (fun c => !([] : List Nat).contains c.wi) = contexts h is t := by simp
  have hgone : ((contexts h is t).filter (fun c => ([] : List Nat).contains c.wi)).map
      (fun c => ((c.wi, c.slot), LaneRes.stay)) = [] := by simp
  have hi : (List.filter (fun i => !([] : List Nat).contains i.1.1)
      ((is.lanes.filter (fun k => !(activeLanes t is h).contains k)).map (fun k => (k, LaneRes.done { count := false })))) =
      idleLanes t is h := by simp [idleLanes]
  unfold issueWith
  simp only [G.cur, takeGroup_quiet G, seen_team s t is G.team, hact, hc, htx, hl, hchk, hs, Bool.false_eq_true, if_false, hb, hi,
    hgone, List.any_nil, Bool.not_false, List.filter_true, List.nil_append]

/-! ### What a commit without a trap changes -/

theorem relock_frame (w : Warp) : relock w = { w with stack := (relock w).stack } := by
  unfold relock
  split
  · rfl
  · dsimp only
    split
    · split <;> rfl
    · split <;> rfl

@[simp] theorem relock_lanes (w : Warp) : (relock w).lanes = w.lanes := by rw [relock_frame]
@[simp] theorem relock_s (w : Warp) : (relock w).s = w.s := by rw [relock_frame]

theorem overtake_frame (s : State) (u w k : Nat) (rs : List Reg) (b : Option (Fin 4)) :
    overtake s u w k rs b = { s with accs := (overtake s u w k rs b).accs, results := (overtake s u w k rs b).results
                                     ops := (overtake s u w k rs b).ops } := by
  unfold overtake; split <;> rfl

/-- What a lane's effect overtakes. -/
def overtakes (u : Nat) (s : State) (r : (Nat × Nat) × LaneRes) : State :=
  match r.2.eff? with
  | some e => overtake s u r.1.1 r.1.2 e.written (e.latch.map (·.1))
  | none => s

theorem overtakes_frame (rs : List ((Nat × Nat) × LaneRes)) (s : State) (u : Nat) :
    rs.foldl (overtakes u) s =
      { s with accs := (rs.foldl (overtakes u) s).accs, results := (rs.foldl (overtakes u) s).results
               ops := (rs.foldl (overtakes u) s).ops } := by
  induction rs generalizing s with
  | nil => rfl
  | cons r rs ih =>
    simp only [List.foldl_cons]
    rw [ih]
    unfold overtakes
    split
    · rw [overtake_frame]
    · rfl

/-- Every lane of the list completes or stands. -/
def Untrapped (rs : List ((Nat × Nat) × LaneRes)) : Prop := ∀ r ∈ rs, r.2.trap? = none

theorem trapWarps_untrapped (is : Issue) (rs : List ((Nat × Nat) × LaneRes)) (s : State) (h : Untrapped rs) :
    trapWarps is rs s = s := by
  have hw : ∀ wi, warpTrap is ((rs.filter (fun r => r.1.1 == wi)).map (fun r => (r.1.2, r.2))) = none := by
    intro wi
    unfold warpTrap
    have : ((rs.filter (fun r => r.1.1 == wi)).map (fun r => (r.1.2, r.2))).findSome? (fun r => r.2.trap?) = none := by
      simp only [List.findSome?_eq_none_iff, List.mem_map, List.mem_filter]
      rintro x ⟨r, ⟨hr, -⟩, rfl⟩
      exact h r hr
    rw [this]
  unfold trapWarps
  simp only [hw]
  generalize (rs.map (fun r => r.1.1)).eraseDups = l
  induction l with
  | nil => rfl
  | cons x l ih => simp

/-- The team after the results of its lanes. -/
def Team.commit (t : Team) (is : Issue) (now : Nat) (rs : List ((Nat × Nat) × LaneRes)) : Team :=
  { t with warps := t.warps.zipIdx.map (fun x => commitWarp is now rs x.2 x.1) }

theorem commit_untrapped (s : State) (is : Issue) (rs : List ((Nat × Nat) × LaneRes)) (h : Untrapped rs) :
    ∃ accs results ops,
      commit s is rs = { s with
        accs := accs, results := results, ops := ops, cur := none
        teams := s.teams.map (fun t => if t.uid == is.team then t.commit is s.cycle rs else t) } := by
  have hf := overtakes_frame rs s is.team
  unfold commit
  change ∃ accs results ops, trapWarps is rs { State.modTeam (rs.foldl (overtakes is.team) s) is.team (fun t =>
    { t with warps := t.warps.zipIdx.map (fun x => commitWarp is (rs.foldl (overtakes is.team) s).cycle rs x.2 x.1) })
    with cur := none } = _
  rw [trapWarps_untrapped _ _ _ h, hf]
  exact ⟨_, _, _, rfl⟩

theorem commitWarp_lane (is : Issue) (now : Nat) (rs : List ((Nat × Nat) × LaneRes)) (i j : Nat) (w : Warp) (l : Lane)
    (r : LaneRes) (hl : w.lanes[j]? = some l) (hr : ((i, j), r) ∈ rs) (hn : (rs.map (·.1)).Nodup) :
    (commitWarp is now rs i w).lanes[j]? = some (passLane w.sup r (commitLane is now r l)) := by
  have hres : resOf rs i j = r := by
    unfold resOf
    have : rs.find? (fun r => r.1 == (i, j)) = some ((i, j), r) := by
      induction rs with
      | nil => cases hr
      | cons x rs ih =>
        simp only [List.map_cons, List.nodup_cons] at hn
        by_cases hx : x.1 = (i, j)
        · rcases List.mem_cons.mp hr with e | e
          · subst e; simp
          · exact absurd (List.mem_map.mpr ⟨_, e, rfl⟩) (hx ▸ hn.1)
        · rw [List.find?_cons_of_neg (by simpa using hx)]
          rcases List.mem_cons.mp hr with e | e
          · exact absurd (by rw [← e]) hx
          · exact ih e hn.2
    rw [this]
  unfold commitWarp
  have hm : (rs.filter (fun r => r.1.1 == i)).isEmpty = false := by
    rw [List.isEmpty_eq_false_iff]
    exact List.ne_nil_of_mem (List.mem_filter.mpr ⟨hr, by simp⟩)
  simp only [hm, Bool.false_eq_true, if_false, relock_lanes, List.getElem?_map, List.getElem?_zipIdx, hl,
    Option.map_some, Nat.zero_add, hres]

theorem commitWarp_s (is : Issue) (now : Nat) (rs : List ((Nat × Nat) × LaneRes)) (i : Nat) (w : Warp) :
    (commitWarp is now rs i w).s =
      (commitS is (((rs.filter (fun r => r.1.1 == i)).filterMap (fun r => r.2.eff?)).find? Eff.writesS) i w).s := by
  unfold commitWarp
  dsimp only
  split
  · next h => simp [List.isEmpty_iff.mp h, commitS]
  · rw [relock_s]

theorem wrS_frame (w : Warp) (n : Nat) (x : Word) : w.wrS n x = { w with s := (w.wrS n x).s } := by
  unfold Warp.wrS; split <;> rfl

theorem put_frame (w : Warp) (r : Reg × Word) : w.put r = { w with s := (w.put r).s } := by
  unfold Warp.put; split
  · exact wrS_frame w _ _
  · rfl

theorem effWarp_frame (e : Eff) (w : Warp) : effWarp e w = { w with s := (effWarp e w).s } := by
  unfold effWarp
  generalize e.regs = rs
  induction rs generalizing w with
  | nil => rfl
  | cons r rs ih => rw [List.foldl_cons, ih, put_frame]

theorem put_lanes (w : Warp) (r : Reg × Word) (ls : List Lane) :
    Warp.put { w with lanes := ls } r = { w.put r with lanes := ls } := by
  unfold Warp.put; split
  · unfold Warp.wrS; split <;> rfl
  · rfl

theorem effWarp_s (e : Eff) (w : Warp) (ls : List Lane) : (effWarp e { w with lanes := ls }).s = (effWarp e w).s := by
  unfold effWarp
  generalize e.regs = rs
  induction rs generalizing w with
  | nil => rfl
  | cons r rs ih => rw [List.foldl_cons, List.foldl_cons, put_lanes, ih]

/-! ### Lanes written -/

theorem lane_put_frame (l : Lane) (r : Reg × Word) : l.put r = { l with v := (l.put r).v } := by
  unfold Lane.put; split <;> rfl
theorem lane_putP_frame (l : Lane) (p : Fin 8 × Bool) : l.putP p = { l with p := (l.putP p).p } := by
  unfold Lane.putP Lane.wrP; split <;> rfl
theorem lane_putBp_frame (l : Lane) (b : Option (Fin 4 × Word)) : l.putBp b = { l with bp := (l.putBp b).bp } := by
  unfold Lane.putBp; split <;> rfl

theorem lane_puts_frame (rs : List (Reg × Word)) (l : Lane) : rs.foldl Lane.put l = { l with v := (rs.foldl Lane.put l).v } := by
  induction rs generalizing l with
  | nil => rfl
  | cons r rs ih => rw [List.foldl_cons, ih, lane_put_frame]
theorem lane_putPs_frame (ps : List (Fin 8 × Bool)) (l : Lane) : ps.foldl Lane.putP l = { l with p := (ps.foldl Lane.putP l).p } := by
  induction ps generalizing l with
  | nil => rfl
  | cons r rs ih => rw [List.foldl_cons, ih, lane_putP_frame]

theorem lane_puts_v (rs : List (Reg × Word)) (l m : Lane) (h : l.v = m.v) : (rs.foldl Lane.put l).v = (rs.foldl Lane.put m).v := by
  induction rs generalizing l m with
  | nil => exact h
  | cons r rs ih =>
    rw [List.foldl_cons, List.foldl_cons]
    apply ih
    unfold Lane.put; split
    · simp [Lane.wrV, h]
    · exact h
theorem lane_putPs_p (ps : List (Fin 8 × Bool)) (l m : Lane) (h : l.p = m.p) : (ps.foldl Lane.putP l).p = (ps.foldl Lane.putP m).p := by
  induction ps generalizing l m with
  | nil => exact h
  | cons r rs ih =>
    rw [List.foldl_cons, List.foldl_cons]
    apply ih
    unfold Lane.putP Lane.wrP; split
    · exact h
    · simp [h]

/-- A lane after its effect: registers, predicates, latch; nothing else. -/
theorem effLane_eq (e : Eff) (l : Lane) :
    effLane e l = { l with v := (e.regs.foldl Lane.put l).v, p := (e.preds.foldl Lane.putP l).p, bp := (l.putBp e.latch).bp } := by
  unfold effLane
  rw [lane_putBp_frame, lane_putPs_frame, lane_puts_frame]
  have h1 := lane_putPs_p e.preds { l with v := (e.regs.foldl Lane.put l).v } l rfl
  have h2 : ∀ (v : Cells 32) (p : BitVec 7), (Lane.putBp { l with v := v, p := p } e.latch).bp = (l.putBp e.latch).bp := by
    intro v p; unfold Lane.putBp; split <;> rfl
  simp only [h1, h2]

/-! ### Instructions on registers alone -/

/-- The results of a group: what its active lanes do, and the others going on. -/
def groupResults (t : Team) (is : Issue) (h : Hdr) (e : Nat × Nat → Eff) : List ((Nat × Nat) × LaneRes) :=
  (activeLanes t is h).map (fun k => (k, LaneRes.done (e k))) ++ idleLanes t is h

theorem untouched_seen {s : State} {i : Instr} {h : Hdr} {is : Issue} {t : Team} (G : Issuing s i h is t) (wi : Nat) :
    untouched (t.seen is) (s.seen t is) wi = true := by
  have hu : (t.seen is).uid = is.team := by rw [seen_frame]; exact (uid_of_team? G.team :)
  simp [untouched, State.warp?, hu, seen_team s t is G.team]

theorem foldLanes_pure {s : State} {i : Instr} {h : Hdr} {is : Issue} {t : Team} (G : Issuing s i h is t)
    (f : Lc → LaneRes) (e : Nat × Nat → Eff)
    (he : ∀ c w l, Ctx s i h is t c w l → f c = .done (e (c.wi, c.slot))) :
    foldLanes (fun s c => (s, f c)) (s.seen t is) (contexts h is t) =
      (s.seen t is, (activeLanes t is h).map (fun k => (k, LaneRes.done (e k)))) := by
  have key : ∀ (cs : List Lc) (acc : List ((Nat × Nat) × LaneRes)), (∀ c ∈ cs, ∃ w l, Ctx s i h is t c w l) →
      cs.foldl (fun acc c =>
        if untouched c.tm acc.1 c.wi then
          let r := (acc.1, f c)
          (r.1, acc.2 ++ [((c.wi, c.slot), r.2)])
        else acc) (s.seen t is, acc) =
      (s.seen t is, acc ++ cs.map (fun c => ((c.wi, c.slot), LaneRes.done (e (c.wi, c.slot))))) := by
    intro cs
    induction cs with
    | nil => intro acc _; simp
    | cons c cs ih =>
      intro acc hc
      obtain ⟨w, l, C⟩ := hc c (by simp)
      rw [List.foldl_cons, C.team]
      simp only [untouched_seen G, if_true]
      rw [ih _ (fun c hc' => hc c (by simp [hc'])), he c w l C]
      simp
  unfold foldLanes
  rw [key _ _ (fun c hc => contexts_ctx G hc), ← contexts_keys G]
  simp [List.map_map, Function.comp_def]

theorem groupResults_untrapped (t : Team) (is : Issue) (h : Hdr) (e : Nat × Nat → Eff) :
    Untrapped (groupResults t is h e) := by
  intro r hr
  simp only [groupResults, idleLanes, List.mem_append, List.mem_map] at hr
  rcases hr with ⟨k, -, rfl⟩ | ⟨k, -, rfl⟩ <;> rfl

theorem groupResults_keys (t : Team) (is : Issue) (h : Hdr) (e : Nat × Nat → Eff) (hn : is.lanes.Nodup) :
    ((groupResults t is h e).map (·.1)).Nodup := by
  have : (groupResults t is h e).map (·.1) =
      activeLanes t is h ++ is.lanes.filter (fun k => !(activeLanes t is h).contains k) := by
    simp [groupResults, idleLanes, List.map_map, Function.comp_def]
  rw [this]
  refine List.Nodup.append (hn.filter _) (hn.filter _) ?_
  intro k hk hk'
  have := (List.mem_filter.mp hk').2
  simp [hk] at this

/-- An instruction that only computes on registers completes for the whole group: nothing but the team's lanes and
registers changes, and results that a write overtakes are written no more. -/
theorem pureLanes_next {s : State} {i : Instr} {h : Hdr} {is : Issue} {t : Team} (G : Issuing s i h is t)
    (f : Lc → LaneRes) (e : Nat × Nat → Eff)
    (he : ∀ c w l, Ctx s i h is t c w l → f c = .done (e (c.wi, c.slot))) :
    ∃ accs results ops, pureLanes i h s f = .next { s with
      accs := accs, results := results, ops := ops, cur := none
      teams := (s.seen t is).teams.map (fun u => if u.uid == is.team
        then u.commit is s.cycle (groupResults t is h e) else u) } := by
  have hu : ∀ r : (Nat × Nat) × LaneRes, untouched (t.seen is) (s.seen t is) r.1.1 = true :=
    fun r => untouched_seen G r.1.1
  obtain ⟨accs, results, ops, hc⟩ := commit_untrapped (s.seen t is) is _ (groupResults_untrapped t is h e)
  refine ⟨accs, results, ops, ?_⟩
  unfold pureLanes
  rw [issueWith_quiet G _ _ (fun _ _ => rfl), foldLanes_pure G f e he]
  simp only [stepMoved_untouched _ _ _ (untouched_seen G), hu, List.filter_true]
  change finish (commit (s.seen t is) is (groupResults t is h e)) = _
  rw [hc]
  rw [finish_next _ (by rw [seen_state]; exact G.halt) (by rw [seen_state]; exact G.lost) (by rw [seen_state]; exact G.saved)]
  rw [seen_state]

/-- The group's team after an instruction on registers: a lane of it. -/
theorem group_lane {t : Team} {is : Issue} {h : Hdr} (now : Nat) (e : Nat × Nat → Eff) (hn : is.lanes.Nodup)
    {k : Nat × Nat} {w : Warp} {l : Lane} (m : Member t is k w l) :
    ∃ w' l', ((t.seen is).commit is now (groupResults t is h e)).warps[k.1]? = some w' ∧
      w'.lanes[k.2]? = some l' ∧
      (guardHolds l h.g = true → l' = passLane w.sup (.done (e k)) (commitLane is now
        (.done (e k)) (if sameGroup t is.lanes then l else l.noBp))) ∧
      (guardHolds l h.g = false → l' = passLane w.sup (.done { count := false }) (commitLane is now
        (.done { count := false }) (if sameGroup t is.lanes then l else l.noBp))) ∧
      w'.s = (commitS is
        ((((groupResults t is h e).filter (fun r => r.1.1 == k.1)).filterMap (fun r => r.2.eff?)).find? Eff.writesS) k.1 w).s := by
  obtain ⟨ls, hw, hl, -⟩ := seen_lane m
  have hkey := groupResults_keys t is h e hn
  obtain ⟨r, hr, hg⟩ : ∃ r, (k, r) ∈ groupResults t is h e ∧
      ((guardHolds l h.g = true → r = .done (e k)) ∧ (guardHolds l h.g = false → r = .done { count := false })) := by
    have hact : k ∈ activeLanes t is h ↔ guardHolds l h.g = true := by
      simp [activeLanes, guarded, m.1, m.2.1, m.2.2]
    by_cases hga : guardHolds l h.g = true
    · refine ⟨_, List.mem_append_left _ (List.mem_map.mpr ⟨k, hact.mpr hga, rfl⟩), fun _ => rfl, fun hf => ?_⟩
      rw [hga] at hf; cases hf
    · refine ⟨.done { count := false }, List.mem_append_right _ (List.mem_map.mpr ⟨k, ?_, rfl⟩), fun hf => absurd hf hga, fun _ => rfl⟩
      exact List.mem_filter.mpr ⟨m.1, by simpa [hact] using hga⟩
  refine ⟨commitWarp is now (groupResults t is h e) k.1 { w with lanes := ls },
    passLane w.sup r (commitLane is now r (if sameGroup t is.lanes then l else l.noBp)),
    ?_, ?_, ?_, ?_, ?_⟩
  · simp [Team.commit, hw]
  · have := commitWarp_lane is now (groupResults t is h e) k.1 k.2 { w with lanes := ls } _ r hl hr hkey
    exact this
  · intro hga; rw [hg.1 hga]
  · intro hga; rw [hg.2 hga]
  · rw [commitWarp_s]
    unfold commitS
    split
    · simp only [effWarp_s]
    · rfl

/-- The results of one warp, first its active lanes'. -/
theorem group_writer (t : Team) (is : Issue) (h : Hdr) (e : Nat × Nat → Eff) (k : Nat × Nat) (lead : Leads t is h k)
    (hs : (e k).writesS = true) :
    (((groupResults t is h e).filter (fun r => r.1.1 == k.1)).filterMap (fun r => r.2.eff?)).find? Eff.writesS = some (e k) := by
  unfold Leads at lead
  unfold groupResults
  rw [List.filter_append, List.filterMap_append, List.filter_map, List.filterMap_map]
  obtain ⟨rest, hrest⟩ : ∃ rest, (activeLanes t is h).filter (fun j => j.1 == k.1) = k :: rest := by
    cases hl : (activeLanes t is h).filter (fun j => j.1 == k.1) with
    | nil => rw [hl] at lead; cases lead
    | cons a r => rw [hl] at lead; simp at lead; exact ⟨r, by rw [lead]⟩
  have : List.filter ((fun r : (Nat × Nat) × LaneRes => r.1.1 == k.1) ∘ fun k => (k, LaneRes.done (e k))) (activeLanes t is h) =
      k :: rest := hrest
  rw [this]
  simp [LaneRes.eff?, hs]

/-- No lane of the group writes an s-register. -/
theorem group_noWriter (t : Team) (is : Issue) (h : Hdr) (e : Nat × Nat → Eff) (i : Nat)
    (hs : ∀ k ∈ activeLanes t is h, (e k).writesS = false) :
    (((groupResults t is h e).filter (fun r => r.1.1 == i)).filterMap (fun r => r.2.eff?)).find? Eff.writesS = none := by
  rw [List.find?_eq_none]
  intro x hx
  obtain ⟨r, hr, hx⟩ := List.mem_filterMap.mp hx
  have hr := List.mem_of_mem_filter hr
  simp only [groupResults, idleLanes, List.mem_append, List.mem_map] at hr
  rcases hr with ⟨k, hk, rfl⟩ | ⟨k, hk, rfl⟩
  · simp only [LaneRes.eff?, Option.some.injEq] at hx
    rw [← hx, hs k hk]; simp
  · simp only [LaneRes.eff?, Option.some.injEq] at hx
    rw [← hx]; simp [Eff.writesS]

/-! ### Completion, lane by lane -/

/-- The lane as the instruction leaves it. -/
def laneAfter (t : Team) (is : Issue) (_h : Hdr) (now : Nat) (e : Nat × Nat → Eff) (k : Nat × Nat) (w : Warp) (l : Lane) : Lane :=
  passLane w.sup (.done (e k)) (commitLane is now (.done (e k))
    (if sameGroup t is.lanes then l else l.noBp))

/-- The effect of a lane of the team, from what its warp and it hold. -/
def effOf (t : Team) (g : Warp → Lane → Eff) (k : Nat × Nat) : Eff :=
  match t.warps[k.1]? with
  | some w => match w.lanes[k.2]? with | some l => g w l | none => {}
  | none => {}

theorem effOf_active {t : Team} {is : Issue} {h : Hdr} (g : Warp → Lane → Eff) {k : Nat × Nat} {w : Warp} {l : Lane}
    (a : Active t is h k w l) : effOf t g k = g w l := by
  simp [effOf, a.1.2.1, a.1.2.2]

/-- What a claim about an instruction on registers has to show: its effect on each lane, and what follows for it. -/
theorem completes_pure {s : State} {i : Instr} {h : Hdr} {is : Issue} {t : Team} (G : Issuing s i h is t)
    (f : Lc → LaneRes) (hx : exec i s = pureLanes i h s f) (g : Warp → Lane → Eff)
    (he : ∀ c w l, Ctx s i h is t c w l → f c = .done (g w l))
    (P : Nat × Nat → Warp → Lane → Warp → Lane → Prop)
    (hP : ∀ k w l, Active t is h k w l → ∀ w' : Warp,
      (Leads t is h k → (g w l).writesS = true → w'.s = (effWarp (g w l) w).s) →
      P k w l w' (laneAfter t is h s.cycle (effOf t g) k w l)) :
    Completes i s h is t P := by
  have he' : ∀ c w l, Ctx s i h is t c w l → f c = .done (effOf t g (c.wi, c.slot)) := by
    intro c w l C; rw [effOf_active g C.active]; exact he c w l C
  obtain ⟨accs, results, ops, hn⟩ := pureLanes_next G f _ he'
  refine ⟨_, hx.trans hn, fun k w l a => ?_⟩
  obtain ⟨w', l', h1, h2, h3, -, h5⟩ := group_lane (h := h) s.cycle (effOf t g) G.nodup a.1
  refine ⟨w', l', ?_, h2, ?_⟩
  · have h0 := find?_change (s.seen t is).teams is.team is.team (fun u => u.commit
      is s.cycle (groupResults t is h (effOf t g))) (fun u => rfl)
    have := seen_team s t is G.team
    unfold State.team? at this
    simp only [State.warp?, State.team?]
    rw [h0, this]
    simpa using h1
  · rw [h3 a.2]
    refine hP k w l a w' (fun lead ws => ?_)
    rw [h5, group_writer t is h _ k lead (by rw [effOf_active g a]; exact ws), effOf_active g a]
    rfl

/-- The lane after its effect. -/
theorem laneAfter_eq {t : Team} {is : Issue} {h : Hdr} {now : Nat} {g : Warp → Lane → Eff} {k : Nat × Nat}
    {w : Warp} {l : Lane} (a : Active t is h k w l) (hu : (g w l).upd = id) (hc : (g w l).count = true) :
    laneAfter t is h now (effOf t g) k w l =
      { l with
        v := ((g w l).regs.foldl Lane.put l).v
        p := ((g w l).preds.foldl Lane.putP l).p
        bp := ((if sameGroup t is.lanes then l else l.noBp).putBp (g w l).latch).bp
        pc := (g w l).pc.getD is.after, regionCnt := l.regionCnt + 1, group := is.id
        groupN := is.lanes.length, st := .ready, wait := .retry, since := now
        stepped := l.stepped || !w.sup, bpPass := if w.sup then l.bpPass else none } := by
  unfold laneAfter
  rw [effOf_active g a]
  have h1 : ((g w l).regs.foldl Lane.put l.noBp).v = ((g w l).regs.foldl Lane.put l).v := lane_puts_v _ _ _ rfl
  have h2 : ((g w l).preds.foldl Lane.putP l.noBp).p = ((g w l).preds.foldl Lane.putP l).p := lane_putPs_p _ _ _ rfl
  simp only [commitLane, hu, hc, id, effLane_eq]
  unfold passLane
  cases w.sup <;> cases sameGroup t is.lanes <;> simp only [Bool.false_eq_true, if_false, if_true, h1, h2] <;>
    simp [LaneRes.passed, LaneRes.trap?, Issue.after, Lane.noBp]

/-! ### Destinations -/

theorem putBp_get (l : Lane) (b : Fin 4) (x : Word) : (l.putBp (some (b, x))).bp[b] = some x := by
  simp [Lane.putBp]

/-- One register or latch written, and the lane gone on. -/
theorem wrote_dst1 {t : Team} {is : Issue} {h : Hdr} {now : Nat} {g : Warp → Lane → Eff} {k : Nat × Nat} {w w' : Warp}
    {l : Lane} {d : Reg} {x : Word} (a : Active t is h k w l) (hg : g w l = dst1 h d x)
    (hw : Leads t is h k → (g w l).writesS = true → w'.s = (effWarp (g w l) w).s) :
    Wrote is h d [x] (Leads t is h k) l w' (laneAfter t is h now (effOf t g) k w l) := by
  rw [laneAfter_eq a (by rw [hg]; rfl) (by rw [hg]; rfl)]
  refine ⟨⟨by rw [hg]; rfl, rfl, rfl⟩, ?_, ?_⟩
  · intro hnw n y hy
    obtain rfl : n = 0 := by
      cases n with
      | zero => rfl
      | succ n => simp at hy
    obtain rfl : x = y := by simpa using hy
    cases d with
    | v r => simp [hg, dst1, hnw, Lane.put, Lane.rdV, Lane.wrV]
    | s r =>
      intro lead h0
      have := hw lead (by simp [hg, dst1, hnw, Eff.writesS, Reg.isS])
      rw [hg] at this
      simp only [dst1, hnw, Bool.false_eq_true, if_false, effWarp, List.foldl_cons, List.foldl_nil, Warp.put] at this
      simp only [Nat.add_zero] at h0
      simp only [Nat.add_zero, Warp.rdS, h0, if_false, this, Warp.wrS, cget_cset_self]
  · intro b hb
    refine ⟨x, rfl, ?_⟩
    simp only [hg, dst1, hb, Option.map_some]
    exact putBp_get _ b x

theorem ofNat_word (x : DWord) (k : Nat) : BitVec.ofNat 32 (x.toNat / 2 ^ (32 * k)) = x.extractLsb' (32 * k) 32 := by
  apply BitVec.eq_of_toNat_eq
  simp [BitVec.extractLsb'_toNat, Nat.shiftRight_eq_div_pow]

/-- A pair written, and the lane gone on. -/
theorem wrote_dst2 {t : Team} {is : Issue} {h : Hdr} {now : Nat} {g : Warp → Lane → Eff} {k : Nat × Nat} {w w' : Warp}
    {l : Lane} {d : Reg} {x : DWord} (a : Active t is h k w l) (hg : g w l = dst2 h d x) (hl : h.latch = none)
    (hd : regOdd d = false)
    (hw : Leads t is h k → (g w l).writesS = true → w'.s = (effWarp (g w l) w).s) :
    Wrote is h d (twoWords x) (Leads t is h k) l w' (laneAfter t is h now (effOf t g) k w l) := by
  rw [laneAfter_eq a (by rw [hg]; rfl) (by rw [hg]; rfl)]
  have hregs : h.nw = false → (dst2 h d x).regs =
      [(regAfter d 0, x.extractLsb' 0 32), (regAfter d 1, x.extractLsb' 32 32)] := by
    intro hnw
    have h0 := ofNat_word x 0
    have h1 := ofNat_word x 1
    simp only [Nat.mul_zero, Nat.mul_one] at h0 h1
    simp only [dst2, dstN, hnw, Bool.false_eq_true, if_false, List.range_succ, List.range_zero,
      List.map_cons, List.map_nil, List.nil_append, Nat.mul_zero, Nat.mul_one, h0, h1, List.cons_append]
  refine ⟨⟨by rw [hg]; rfl, rfl, rfl⟩, ?_, ?_⟩
  · intro hnw n y hy
    have hr := hregs hnw
    have hn : (n = 0 ∧ y = x.extractLsb' 0 32) ∨ (n = 1 ∧ y = x.extractLsb' 32 32) := by
      unfold twoWords at hy
      rcases n with _ | _ | n
      · simp only [List.getElem?_cons_zero, Option.some.injEq] at hy; exact .inl ⟨rfl, hy.symm⟩
      · simp only [List.getElem?_cons_succ, List.getElem?_cons_zero, Option.some.injEq] at hy; exact .inr ⟨rfl, hy.symm⟩
      · simp at hy
    cases d with
    | v r =>
      have hr2 : r.val + 1 < 192 := by simp [regOdd] at hd; omega
      have e0 : (Fin.ofNat 192 (r.val + 0)).val = r.val := by simp [Fin.ofNat]
      have e1 : (Fin.ofNat 192 (r.val + 1)).val = r.val + 1 := by simp [Fin.ofNat]; omega
      simp only [hg, hr, regAfter, List.foldl_cons, List.foldl_nil, Lane.put, Lane.rdV, Lane.wrV, e0, e1]
      rcases hn with ⟨rfl, rfl⟩ | ⟨rfl, rfl⟩
      · rw [cget_cset_ne _ _ (by omega)]; simp
      · simp
    | s r =>
      have hr2 : r.val + 1 < 64 := by simp [regOdd] at hd; omega
      have e0 : (Fin.ofNat 64 (r.val + 0)).val = r.val := by simp [Fin.ofNat]
      have e1 : (Fin.ofNat 64 (r.val + 1)).val = r.val + 1 := by simp [Fin.ofNat]; omega
      intro lead h0
      have := hw lead (by simp [hg, hr, Eff.writesS, Reg.isS, regAfter])
      rw [hg] at this
      simp only [hr, regAfter, effWarp, List.foldl_cons, List.foldl_nil, Warp.put, e0, e1] at this
      have hr1 : r.val + 1 ≠ 0 := by omega
      simp only [Warp.rdS, h0, if_false, this]
      rcases hn with ⟨rfl, rfl⟩ | ⟨rfl, rfl⟩
      · simp only [Nat.add_zero] at h0 ⊢
        simp only [Warp.wrS, h0, if_false, hr1]
        rw [cget_cset_ne _ _ (by omega)]; simp
      · by_cases hz : r.val = 0
        · simp [Warp.wrS, hz]
        · simp [Warp.wrS, hz]
  · intro b hb; rw [hl] at hb; cases hb

/-- The checks of R161 leave a pair destination without a latch, and even. -/
theorem pair_checks {t : Team} {w : Warp} {l : Lane} {h : Hdr} {x : Info} {d : Reg} {n : Nat} (p : passes t w l h x)
    (hx : x.dst = .many d n) : h.latch = none ∧ regOdd d = false := by
  obtain ⟨h1, -, -⟩ := p
  unfold operandIll at h1
  split at h1
  · cases h1
  · next hla =>
    split at h1
    · cases h1
    · next hpa =>
      constructor
      · simp only [latchIll, hx, Bool.and_true, Bool.or_eq_true, not_or, Bool.not_eq_true] at hla
        cases hh : h.latch with
        | none => rfl
        | some b => rw [hh] at hla; simp at hla
      · simp only [pairIll, hx, Bool.or_eq_true, not_or, Bool.not_eq_true] at hpa
        exact hpa.2

/-! ### Instructions that act on the state -/

/-- The contexts of a group with one active lane. -/
theorem contexts_one {s : State} {i : Instr} {h : Hdr} {is : Issue} {t : Team} {k : Nat × Nat}
    {w : Warp} {l : Lane} (one : OneLane t is h k) (a : Active t is h k w l) :
    ∃ c, contexts h is t = [c] ∧ (c.wi, c.slot) = k ∧ c.act = [k.2] ∧ Ctx s i h is t c w l := by
  obtain ⟨c, h1, h2, h3⟩ := laneCtx_active (s := s) (i := i) a
  refine ⟨c, ?_, h2, ?_, h3⟩
  · unfold contexts; unfold OneLane at one; rw [one] at h1 ⊢; simp [h1]
  · rw [h3.act]; unfold OneLane at one; rw [one]; simp [← h2]

theorem perLane_one {s : State} {i : Instr} {h : Hdr} {is : Issue} {t : Team} (G : Issuing s i h is t) {k : Nat × Nat}
    {w : Warp} {l : Lane} (one : OneLane t is h k) (a : Active t is h k w l) (f : State → Lc → State × LaneRes) :
    ∃ c, Ctx s i h is t c w l ∧ (c.wi, c.slot) = k ∧ c.act = [k.2] ∧
      perLane i h s f = finish (commit (stepMoved (t.seen is) [(k, (f (s.seen t is) c).2)] (f (s.seen t is) c).1) is
        (([(k, (f (s.seen t is) c).2)] ++ idleLanes t is h).filter (fun r => untouched (t.seen is) (f (s.seen t is) c).1 r.1.1))) := by
  obtain ⟨c, h1, h2, h3, C⟩ := contexts_one (s := s) (i := i) one a
  refine ⟨c, C, h2, h3, ?_⟩
  have hb : foldLanes f (s.seen t is) (contexts h is t) = ((f (s.seen t is) c).1, [(k, (f (s.seen t is) c).2)]) := by
    rw [h1]
    simp only [foldLanes, List.foldl_cons, List.foldl_nil, C.team, untouched_seen G, if_true, List.nil_append, h2]
  unfold perLane
  rw [issueWith_quiet G _ _ (fun _ _ => rfl), hb]

/-- The contexts of a group whose active lanes are of one warp. -/
theorem contexts_warp {s : State} {i : Instr} {h : Hdr} {is : Issue} {t : Team} (G : Issuing s i h is t) {k : Nat × Nat}
    {w : Warp} {l : Lane} (one : OneWarp t is h k) (a : Active t is h k w l) :
    ∃ c rest, contexts h is t = c :: rest ∧ (c.wi, c.slot) = k ∧ Ctx s i h is t c w l ∧
      (∀ d ∈ contexts h is t, d.wi = k.1) := by
  obtain ⟨c, h1, h2, h3⟩ := laneCtx_active (s := s) (i := i) a
  have hk := contexts_keys G
  obtain ⟨rest, hr⟩ : ∃ rest, activeLanes t is h = k :: rest := by
    cases hl : activeLanes t is h with
    | nil => rw [OneWarp, hl] at one; simp at one
    | cons x r => rw [OneWarp, hl] at one; simp at one; exact ⟨r, by rw [one.1]⟩
  refine ⟨c, (rest.filterMap (laneCtx (t.seen is) is (activeLanes t is h))), ?_, h2, h3, ?_⟩
  · unfold contexts
    conv => lhs; arg 2; rw [hr]
    rw [List.filterMap_cons, h1]
  · intro d hd
    have : (d.wi, d.slot) ∈ activeLanes t is h := by rw [← hk]; exact List.mem_map.mpr ⟨d, hd, rfl⟩
    exact one.2 _ this

theorem perWarp_one {s : State} {i : Instr} {h : Hdr} {is : Issue} {t : Team} (G : Issuing s i h is t) {k : Nat × Nat}
    {w : Warp} {l : Lane} (one : OneWarp t is h k) (a : Active t is h k w l) (f : State → Lc → State × LaneRes) :
    ∃ c, Ctx s i h is t c w l ∧ (c.wi, c.slot) = k ∧
      perWarp i h s (fun _ _ => none) f = finish (commit (stepMoved (t.seen is)
          ((activeLanes t is h).map (fun j => (j, (f (s.seen t is) c).2))) (f (s.seen t is) c).1) is
        (((activeLanes t is h).map (fun j => (j, (f (s.seen t is) c).2)) ++ idleLanes t is h).filter
          (fun r => untouched (t.seen is) (f (s.seen t is) c).1 r.1.1))) := by
  obtain ⟨c, rest, h1, h2, C, h4⟩ := contexts_warp (s := s) (i := i) G one a
  refine ⟨c, C, h2, ?_⟩
  have hcw : c.wi = k.1 := by rw [← h2]
  have hb : foldWarps f (s.seen t is) (contexts h is t) =
      ((f (s.seen t is) c).1, (activeLanes t is h).map (fun j => (j, (f (s.seen t is) c).2))) := by
    have hall : (contexts h is t).map (·.wi) = List.replicate (contexts h is t).length k.1 := by
      rw [List.eq_replicate_iff]; simp; intro d hd; exact h4 d hd
    have hed : ((contexts h is t).map (·.wi)).eraseDups = [k.1] := by
      rw [hall, h1]
      simp only [List.length_cons, List.replicate_succ, List.eraseDups_cons]
      have : (List.replicate rest.length k.1).filter (fun b => !(b == k.1)) = [] := by
        rw [List.filter_eq_nil_iff]; intro x hx; simp [List.eq_of_mem_replicate hx]
      rw [this]; rfl
    have hfil : (contexts h is t).filter (fun d => d.wi == k.1) = c :: rest := by
      rw [List.filter_eq_self.mpr (fun d hd => by simp [h4 d hd]), h1]
    unfold foldWarps
    rw [hed, List.foldl_cons, List.foldl_nil, hfil]
    simp only [C.team, untouched_seen G, if_true, List.nil_append]
    rw [← contexts_keys G, h1]
    simp [List.map_map, Function.comp_def]
  unfold perWarp
  rw [issueWith_quiet G _ _ (fun _ _ => rfl), hb]

/-- A lane of a group after a commit in which no lane traps. -/
theorem commit_lane {s : State} {is : Issue} {rs : List ((Nat × Nat) × LaneRes)} (hu : Untrapped rs)
    (hn : (rs.map (·.1)).Nodup) {k : Nat × Nat} {r : LaneRes} (hr : (k, r) ∈ rs) {t : Team} {w : Warp} {l : Lane}
    (ht : s.team? is.team = some t) (hw : t.warps[k.1]? = some w) (hl : w.lanes[k.2]? = some l) :
    ∃ w', (commit s is rs).warp? is.team k.1 = some w' ∧
      w'.lanes[k.2]? = some (passLane w.sup r (commitLane is s.cycle r l)) ∧
      w'.s = (commitS is (((rs.filter (fun r => r.1.1 == k.1)).filterMap (fun r => r.2.eff?)).find? Eff.writesS) k.1 w).s := by
  obtain ⟨accs, results, ops, hc⟩ := commit_untrapped s is rs hu
  have h0 := find?_change s.teams is.team is.team (fun u => u.commit is s.cycle rs) (fun u => rfl)
  unfold State.team? at ht
  rw [ht] at h0
  refine ⟨commitWarp is s.cycle rs k.1 w, ?_, commitWarp_lane _ _ _ _ _ w l r hl hr hn, commitWarp_s _ _ _ _ _⟩
  rw [hc]
  simp only [State.warp?, State.team?]
  rw [h0]
  simp [Team.commit, hw]

end Sys2Proof.Machine
end

