-- ==== Sys2Proof/Laws/State.lean ====
section
/-! SUPPORT. What each update of a part of the state leaves alone, one lemma per field, and what the lookups find after
it. -/

namespace Sys2Proof.Machine

section
variable (s : State) (u : Nat) (f : Team → Team)
@[simp] theorem State.modTeam_stage : (s.modTeam u f).stage = s.stage := rfl
@[simp] theorem State.modTeam_failCode : (s.modTeam u f).failCode = s.failCode := rfl
@[simp] theorem State.modTeam_countPa : (s.modTeam u f).countPa = s.countPa := rfl
@[simp] theorem State.modTeam_qTable : (s.modTeam u f).qTable = s.qTable := rfl
@[simp] theorem State.modTeam_heavyB : (s.modTeam u f).heavyB = s.heavyB := rfl
@[simp] theorem State.modTeam_fwCmd : (s.modTeam u f).fwCmd = s.fwCmd := rfl
@[simp] theorem State.modTeam_fwBuf : (s.modTeam u f).fwBuf = s.fwBuf := rfl
@[simp] theorem State.modTeam_hcbLo : (s.modTeam u f).hcbLo = s.hcbLo := rfl
@[simp] theorem State.modTeam_images : (s.modTeam u f).images = s.images := rfl
@[simp] theorem State.modTeam_parts : (s.modTeam u f).parts = s.parts := rfl
@[simp] theorem State.modTeam_keys : (s.modTeam u f).keys = s.keys := rfl
@[simp] theorem State.modTeam_peerKeys : (s.modTeam u f).peerKeys = s.peerKeys := rfl
@[simp] theorem State.modTeam_lineKey : (s.modTeam u f).lineKey = s.lineKey := rfl
@[simp] theorem State.modTeam_mem : (s.modTeam u f).mem = s.mem := rfl
@[simp] theorem State.modTeam_badBytes : (s.modTeam u f).badBytes = s.badBytes := rfl
@[simp] theorem State.modTeam_tails : (s.modTeam u f).tails = s.tails := rfl
@[simp] theorem State.modTeam_pkg : (s.modTeam u f).pkg = s.pkg := rfl
@[simp] theorem State.modTeam_cycle : (s.modTeam u f).cycle = s.cycle := rfl
@[simp] theorem State.modTeam_ctxs : (s.modTeam u f).ctxs = s.ctxs := rfl
@[simp] theorem State.modTeam_bins : (s.modTeam u f).bins = s.bins := rfl
@[simp] theorem State.modTeam_l1 : (s.modTeam u f).l1 = s.l1 := rfl
@[simp] theorem State.modTeam_reserved : (s.modTeam u f).reserved = s.reserved := rfl
@[simp] theorem State.modTeam_recs : (s.modTeam u f).recs = s.recs := rfl
@[simp] theorem State.modTeam_insts : (s.modTeam u f).insts = s.insts := rfl
@[simp] theorem State.modTeam_emitted : (s.modTeam u f).emitted = s.emitted := rfl
@[simp] theorem State.modTeam_rounds : (s.modTeam u f).rounds = s.rounds := rfl
@[simp] theorem State.modTeam_poolHead : (s.modTeam u f).poolHead = s.poolHead := rfl
@[simp] theorem State.modTeam_clusters : (s.modTeam u f).clusters = s.clusters := rfl
@[simp] theorem State.modTeam_accs : (s.modTeam u f).accs = s.accs := rfl
@[simp] theorem State.modTeam_results : (s.modTeam u f).results = s.results := rfl
@[simp] theorem State.modTeam_ops : (s.modTeam u f).ops = s.ops := rfl
@[simp] theorem State.modTeam_mcasts : (s.modTeam u f).mcasts = s.mcasts := rfl
@[simp] theorem State.modTeam_coreDels : (s.modTeam u f).coreDels = s.coreDels := rfl
@[simp] theorem State.modTeam_flits : (s.modTeam u f).flits = s.flits := rfl
@[simp] theorem State.modTeam_events : (s.modTeam u f).events = s.events := rfl
@[simp] theorem State.modTeam_migs : (s.modTeam u f).migs = s.migs := rfl
@[simp] theorem State.modTeam_tcache : (s.modTeam u f).tcache = s.tcache := rfl
@[simp] theorem State.modTeam_oldMaps : (s.modTeam u f).oldMaps = s.oldMaps := rfl
@[simp] theorem State.modTeam_stored : (s.modTeam u f).stored = s.stored := rfl
@[simp] theorem State.modTeam_owed : (s.modTeam u f).owed = s.owed := rfl
@[simp] theorem State.modTeam_hotQ : (s.modTeam u f).hotQ = s.hotQ := rfl
@[simp] theorem State.modTeam_leaves : (s.modTeam u f).leaves = s.leaves := rfl
@[simp] theorem State.modTeam_link : (s.modTeam u f).link = s.link := rfl
@[simp] theorem State.modTeam_hostCache : (s.modTeam u f).hostCache = s.hostCache := rfl
@[simp] theorem State.modTeam_invWait : (s.modTeam u f).invWait = s.invWait := rfl
@[simp] theorem State.modTeam_pagesDeclined : (s.modTeam u f).pagesDeclined = s.pagesDeclined := rfl
@[simp] theorem State.modTeam_ports : (s.modTeam u f).ports = s.ports := rfl
@[simp] theorem State.modTeam_lost : (s.modTeam u f).lost = s.lost := rfl
@[simp] theorem State.modTeam_saveQ : (s.modTeam u f).saveQ = s.saveQ := rfl
@[simp] theorem State.modTeam_logs : (s.modTeam u f).logs = s.logs := rfl
@[simp] theorem State.modTeam_cur : (s.modTeam u f).cur = s.cur := rfl
@[simp] theorem State.modTeam_tape : (s.modTeam u f).tape = s.tape := rfl
@[simp] theorem State.modTeam_issued : (s.modTeam u f).issued = s.issued := rfl
@[simp] theorem State.modTeam_serial : (s.modTeam u f).serial = s.serial := rfl
@[simp] theorem State.modTeam_named : (s.modTeam u f).named = s.named := rfl
@[simp] theorem State.modTeam_freeCtr : (s.modTeam u f).freeCtr = s.freeCtr := rfl
@[simp] theorem State.modTeam_halt : (s.modTeam u f).halt = s.halt := rfl
end

section
variable (s : State) (u w : Nat) (f : Warp → Warp)
@[simp] theorem State.modWarp_stage : (s.modWarp u w f).stage = s.stage := rfl
@[simp] theorem State.modWarp_failCode : (s.modWarp u w f).failCode = s.failCode := rfl
@[simp] theorem State.modWarp_countPa : (s.modWarp u w f).countPa = s.countPa := rfl
@[simp] theorem State.modWarp_qTable : (s.modWarp u w f).qTable = s.qTable := rfl
@[simp] theorem State.modWarp_heavyB : (s.modWarp u w f).heavyB = s.heavyB := rfl
@[simp] theorem State.modWarp_fwCmd : (s.modWarp u w f).fwCmd = s.fwCmd := rfl
@[simp] theorem State.modWarp_fwBuf : (s.modWarp u w f).fwBuf = s.fwBuf := rfl
@[simp] theorem State.modWarp_hcbLo : (s.modWarp u w f).hcbLo = s.hcbLo := rfl
@[simp] theorem State.modWarp_images : (s.modWarp u w f).images = s.images := rfl
@[simp] theorem State.modWarp_parts : (s.modWarp u w f).parts = s.parts := rfl
@[simp] theorem State.modWarp_keys : (s.modWarp u w f).keys = s.keys := rfl
@[simp] theorem State.modWarp_peerKeys : (s.modWarp u w f).peerKeys = s.peerKeys := rfl
@[simp] theorem State.modWarp_lineKey : (s.modWarp u w f).lineKey = s.lineKey := rfl
@[simp] theorem State.modWarp_mem : (s.modWarp u w f).mem = s.mem := rfl
@[simp] theorem State.modWarp_badBytes : (s.modWarp u w f).badBytes = s.badBytes := rfl
@[simp] theorem State.modWarp_tails : (s.modWarp u w f).tails = s.tails := rfl
@[simp] theorem State.modWarp_pkg : (s.modWarp u w f).pkg = s.pkg := rfl
@[simp] theorem State.modWarp_cycle : (s.modWarp u w f).cycle = s.cycle := rfl
@[simp] theorem State.modWarp_ctxs : (s.modWarp u w f).ctxs = s.ctxs := rfl
@[simp] theorem State.modWarp_bins : (s.modWarp u w f).bins = s.bins := rfl
@[simp] theorem State.modWarp_l1 : (s.modWarp u w f).l1 = s.l1 := rfl
@[simp] theorem State.modWarp_reserved : (s.modWarp u w f).reserved = s.reserved := rfl
@[simp] theorem State.modWarp_recs : (s.modWarp u w f).recs = s.recs := rfl
@[simp] theorem State.modWarp_insts : (s.modWarp u w f).insts = s.insts := rfl
@[simp] theorem State.modWarp_emitted : (s.modWarp u w f).emitted = s.emitted := rfl
@[simp] theorem State.modWarp_rounds : (s.modWarp u w f).rounds = s.rounds := rfl
@[simp] theorem State.modWarp_poolHead : (s.modWarp u w f).poolHead = s.poolHead := rfl
@[simp] theorem State.modWarp_clusters : (s.modWarp u w f).clusters = s.clusters := rfl
@[simp] theorem State.modWarp_accs : (s.modWarp u w f).accs = s.accs := rfl
@[simp] theorem State.modWarp_results : (s.modWarp u w f).results = s.results := rfl
@[simp] theorem State.modWarp_ops : (s.modWarp u w f).ops = s.ops := rfl
@[simp] theorem State.modWarp_mcasts : (s.modWarp u w f).mcasts = s.mcasts := rfl
@[simp] theorem State.modWarp_coreDels : (s.modWarp u w f).coreDels = s.coreDels := rfl
@[simp] theorem State.modWarp_flits : (s.modWarp u w f).flits = s.flits := rfl
@[simp] theorem State.modWarp_events : (s.modWarp u w f).events = s.events := rfl
@[simp] theorem State.modWarp_migs : (s.modWarp u w f).migs = s.migs := rfl
@[simp] theorem State.modWarp_tcache : (s.modWarp u w f).tcache = s.tcache := rfl
@[simp] theorem State.modWarp_oldMaps : (s.modWarp u w f).oldMaps = s.oldMaps := rfl
@[simp] theorem State.modWarp_stored : (s.modWarp u w f).stored = s.stored := rfl
@[simp] theorem State.modWarp_owed : (s.modWarp u w f).owed = s.owed := rfl
@[simp] theorem State.modWarp_hotQ : (s.modWarp u w f).hotQ = s.hotQ := rfl
@[simp] theorem State.modWarp_leaves : (s.modWarp u w f).leaves = s.leaves := rfl
@[simp] theorem State.modWarp_link : (s.modWarp u w f).link = s.link := rfl
@[simp] theorem State.modWarp_hostCache : (s.modWarp u w f).hostCache = s.hostCache := rfl
@[simp] theorem State.modWarp_invWait : (s.modWarp u w f).invWait = s.invWait := rfl
@[simp] theorem State.modWarp_pagesDeclined : (s.modWarp u w f).pagesDeclined = s.pagesDeclined := rfl
@[simp] theorem State.modWarp_ports : (s.modWarp u w f).ports = s.ports := rfl
@[simp] theorem State.modWarp_lost : (s.modWarp u w f).lost = s.lost := rfl
@[simp] theorem State.modWarp_saveQ : (s.modWarp u w f).saveQ = s.saveQ := rfl
@[simp] theorem State.modWarp_logs : (s.modWarp u w f).logs = s.logs := rfl
@[simp] theorem State.modWarp_cur : (s.modWarp u w f).cur = s.cur := rfl
@[simp] theorem State.modWarp_tape : (s.modWarp u w f).tape = s.tape := rfl
@[simp] theorem State.modWarp_issued : (s.modWarp u w f).issued = s.issued := rfl
@[simp] theorem State.modWarp_serial : (s.modWarp u w f).serial = s.serial := rfl
@[simp] theorem State.modWarp_named : (s.modWarp u w f).named = s.named := rfl
@[simp] theorem State.modWarp_freeCtr : (s.modWarp u w f).freeCtr = s.freeCtr := rfl
@[simp] theorem State.modWarp_halt : (s.modWarp u w f).halt = s.halt := rfl
end

section
variable (s : State) (u w k : Nat) (f : Lane → Lane)
@[simp] theorem State.modLane_stage : (s.modLane u w k f).stage = s.stage := rfl
@[simp] theorem State.modLane_failCode : (s.modLane u w k f).failCode = s.failCode := rfl
@[simp] theorem State.modLane_countPa : (s.modLane u w k f).countPa = s.countPa := rfl
@[simp] theorem State.modLane_qTable : (s.modLane u w k f).qTable = s.qTable := rfl
@[simp] theorem State.modLane_heavyB : (s.modLane u w k f).heavyB = s.heavyB := rfl
@[simp] theorem State.modLane_fwCmd : (s.modLane u w k f).fwCmd = s.fwCmd := rfl
@[simp] theorem State.modLane_fwBuf : (s.modLane u w k f).fwBuf = s.fwBuf := rfl
@[simp] theorem State.modLane_hcbLo : (s.modLane u w k f).hcbLo = s.hcbLo := rfl
@[simp] theorem State.modLane_images : (s.modLane u w k f).images = s.images := rfl
@[simp] theorem State.modLane_parts : (s.modLane u w k f).parts = s.parts := rfl
@[simp] theorem State.modLane_keys : (s.modLane u w k f).keys = s.keys := rfl
@[simp] theorem State.modLane_peerKeys : (s.modLane u w k f).peerKeys = s.peerKeys := rfl
@[simp] theorem State.modLane_lineKey : (s.modLane u w k f).lineKey = s.lineKey := rfl
@[simp] theorem State.modLane_mem : (s.modLane u w k f).mem = s.mem := rfl
@[simp] theorem State.modLane_badBytes : (s.modLane u w k f).badBytes = s.badBytes := rfl
@[simp] theorem State.modLane_tails : (s.modLane u w k f).tails = s.tails := rfl
@[simp] theorem State.modLane_pkg : (s.modLane u w k f).pkg = s.pkg := rfl
@[simp] theorem State.modLane_cycle : (s.modLane u w k f).cycle = s.cycle := rfl
@[simp] theorem State.modLane_ctxs : (s.modLane u w k f).ctxs = s.ctxs := rfl
@[simp] theorem State.modLane_bins : (s.modLane u w k f).bins = s.bins := rfl
@[simp] theorem State.modLane_l1 : (s.modLane u w k f).l1 = s.l1 := rfl
@[simp] theorem State.modLane_reserved : (s.modLane u w k f).reserved = s.reserved := rfl
@[simp] theorem State.modLane_recs : (s.modLane u w k f).recs = s.recs := rfl
@[simp] theorem State.modLane_insts : (s.modLane u w k f).insts = s.insts := rfl
@[simp] theorem State.modLane_emitted : (s.modLane u w k f).emitted = s.emitted := rfl
@[simp] theorem State.modLane_rounds : (s.modLane u w k f).rounds = s.rounds := rfl
@[simp] theorem State.modLane_poolHead : (s.modLane u w k f).poolHead = s.poolHead := rfl
@[simp] theorem State.modLane_clusters : (s.modLane u w k f).clusters = s.clusters := rfl
@[simp] theorem State.modLane_accs : (s.modLane u w k f).accs = s.accs := rfl
@[simp] theorem State.modLane_results : (s.modLane u w k f).results = s.results := rfl
@[simp] theorem State.modLane_ops : (s.modLane u w k f).ops = s.ops := rfl
@[simp] theorem State.modLane_mcasts : (s.modLane u w k f).mcasts = s.mcasts := rfl
@[simp] theorem State.modLane_coreDels : (s.modLane u w k f).coreDels = s.coreDels := rfl
@[simp] theorem State.modLane_flits : (s.modLane u w k f).flits = s.flits := rfl
@[simp] theorem State.modLane_events : (s.modLane u w k f).events = s.events := rfl
@[simp] theorem State.modLane_migs : (s.modLane u w k f).migs = s.migs := rfl
@[simp] theorem State.modLane_tcache : (s.modLane u w k f).tcache = s.tcache := rfl
@[simp] theorem State.modLane_oldMaps : (s.modLane u w k f).oldMaps = s.oldMaps := rfl
@[simp] theorem State.modLane_stored : (s.modLane u w k f).stored = s.stored := rfl
@[simp] theorem State.modLane_owed : (s.modLane u w k f).owed = s.owed := rfl
@[simp] theorem State.modLane_hotQ : (s.modLane u w k f).hotQ = s.hotQ := rfl
@[simp] theorem State.modLane_leaves : (s.modLane u w k f).leaves = s.leaves := rfl
@[simp] theorem State.modLane_link : (s.modLane u w k f).link = s.link := rfl
@[simp] theorem State.modLane_hostCache : (s.modLane u w k f).hostCache = s.hostCache := rfl
@[simp] theorem State.modLane_invWait : (s.modLane u w k f).invWait = s.invWait := rfl
@[simp] theorem State.modLane_pagesDeclined : (s.modLane u w k f).pagesDeclined = s.pagesDeclined := rfl
@[simp] theorem State.modLane_ports : (s.modLane u w k f).ports = s.ports := rfl
@[simp] theorem State.modLane_lost : (s.modLane u w k f).lost = s.lost := rfl
@[simp] theorem State.modLane_saveQ : (s.modLane u w k f).saveQ = s.saveQ := rfl
@[simp] theorem State.modLane_logs : (s.modLane u w k f).logs = s.logs := rfl
@[simp] theorem State.modLane_cur : (s.modLane u w k f).cur = s.cur := rfl
@[simp] theorem State.modLane_tape : (s.modLane u w k f).tape = s.tape := rfl
@[simp] theorem State.modLane_issued : (s.modLane u w k f).issued = s.issued := rfl
@[simp] theorem State.modLane_serial : (s.modLane u w k f).serial = s.serial := rfl
@[simp] theorem State.modLane_named : (s.modLane u w k f).named = s.named := rfl
@[simp] theorem State.modLane_freeCtr : (s.modLane u w k f).freeCtr = s.freeCtr := rfl
@[simp] theorem State.modLane_halt : (s.modLane u w k f).halt = s.halt := rfl
end

section
variable (s : State) (x : Nat) (f : Context → Context)
@[simp] theorem State.modCtx_stage : (s.modCtx x f).stage = s.stage := rfl
@[simp] theorem State.modCtx_failCode : (s.modCtx x f).failCode = s.failCode := rfl
@[simp] theorem State.modCtx_countPa : (s.modCtx x f).countPa = s.countPa := rfl
@[simp] theorem State.modCtx_qTable : (s.modCtx x f).qTable = s.qTable := rfl
@[simp] theorem State.modCtx_heavyB : (s.modCtx x f).heavyB = s.heavyB := rfl
@[simp] theorem State.modCtx_fwCmd : (s.modCtx x f).fwCmd = s.fwCmd := rfl
@[simp] theorem State.modCtx_fwBuf : (s.modCtx x f).fwBuf = s.fwBuf := rfl
@[simp] theorem State.modCtx_hcbLo : (s.modCtx x f).hcbLo = s.hcbLo := rfl
@[simp] theorem State.modCtx_images : (s.modCtx x f).images = s.images := rfl
@[simp] theorem State.modCtx_parts : (s.modCtx x f).parts = s.parts := rfl
@[simp] theorem State.modCtx_keys : (s.modCtx x f).keys = s.keys := rfl
@[simp] theorem State.modCtx_peerKeys : (s.modCtx x f).peerKeys = s.peerKeys := rfl
@[simp] theorem State.modCtx_lineKey : (s.modCtx x f).lineKey = s.lineKey := rfl
@[simp] theorem State.modCtx_mem : (s.modCtx x f).mem = s.mem := rfl
@[simp] theorem State.modCtx_badBytes : (s.modCtx x f).badBytes = s.badBytes := rfl
@[simp] theorem State.modCtx_tails : (s.modCtx x f).tails = s.tails := rfl
@[simp] theorem State.modCtx_pkg : (s.modCtx x f).pkg = s.pkg := rfl
@[simp] theorem State.modCtx_cycle : (s.modCtx x f).cycle = s.cycle := rfl
@[simp] theorem State.modCtx_teams : (s.modCtx x f).teams = s.teams := rfl
@[simp] theorem State.modCtx_bins : (s.modCtx x f).bins = s.bins := rfl
@[simp] theorem State.modCtx_l1 : (s.modCtx x f).l1 = s.l1 := rfl
@[simp] theorem State.modCtx_reserved : (s.modCtx x f).reserved = s.reserved := rfl
@[simp] theorem State.modCtx_recs : (s.modCtx x f).recs = s.recs := rfl
@[simp] theorem State.modCtx_insts : (s.modCtx x f).insts = s.insts := rfl
@[simp] theorem State.modCtx_emitted : (s.modCtx x f).emitted = s.emitted := rfl
@[simp] theorem State.modCtx_rounds : (s.modCtx x f).rounds = s.rounds := rfl
@[simp] theorem State.modCtx_poolHead : (s.modCtx x f).poolHead = s.poolHead := rfl
@[simp] theorem State.modCtx_clusters : (s.modCtx x f).clusters = s.clusters := rfl
@[simp] theorem State.modCtx_accs : (s.modCtx x f).accs = s.accs := rfl
@[simp] theorem State.modCtx_results : (s.modCtx x f).results = s.results := rfl
@[simp] theorem State.modCtx_ops : (s.modCtx x f).ops = s.ops := rfl
@[simp] theorem State.modCtx_mcasts : (s.modCtx x f).mcasts = s.mcasts := rfl
@[simp] theorem State.modCtx_coreDels : (s.modCtx x f).coreDels = s.coreDels := rfl
@[simp] theorem State.modCtx_flits : (s.modCtx x f).flits = s.flits := rfl
@[simp] theorem State.modCtx_events : (s.modCtx x f).events = s.events := rfl
@[simp] theorem State.modCtx_migs : (s.modCtx x f).migs = s.migs := rfl
@[simp] theorem State.modCtx_tcache : (s.modCtx x f).tcache = s.tcache := rfl
@[simp] theorem State.modCtx_oldMaps : (s.modCtx x f).oldMaps = s.oldMaps := rfl
@[simp] theorem State.modCtx_stored : (s.modCtx x f).stored = s.stored := rfl
@[simp] theorem State.modCtx_owed : (s.modCtx x f).owed = s.owed := rfl
@[simp] theorem State.modCtx_hotQ : (s.modCtx x f).hotQ = s.hotQ := rfl
@[simp] theorem State.modCtx_leaves : (s.modCtx x f).leaves = s.leaves := rfl
@[simp] theorem State.modCtx_link : (s.modCtx x f).link = s.link := rfl
@[simp] theorem State.modCtx_hostCache : (s.modCtx x f).hostCache = s.hostCache := rfl
@[simp] theorem State.modCtx_invWait : (s.modCtx x f).invWait = s.invWait := rfl
@[simp] theorem State.modCtx_pagesDeclined : (s.modCtx x f).pagesDeclined = s.pagesDeclined := rfl
@[simp] theorem State.modCtx_ports : (s.modCtx x f).ports = s.ports := rfl
@[simp] theorem State.modCtx_lost : (s.modCtx x f).lost = s.lost := rfl
@[simp] theorem State.modCtx_saveQ : (s.modCtx x f).saveQ = s.saveQ := rfl
@[simp] theorem State.modCtx_logs : (s.modCtx x f).logs = s.logs := rfl
@[simp] theorem State.modCtx_cur : (s.modCtx x f).cur = s.cur := rfl
@[simp] theorem State.modCtx_tape : (s.modCtx x f).tape = s.tape := rfl
@[simp] theorem State.modCtx_issued : (s.modCtx x f).issued = s.issued := rfl
@[simp] theorem State.modCtx_serial : (s.modCtx x f).serial = s.serial := rfl
@[simp] theorem State.modCtx_named : (s.modCtx x f).named = s.named := rfl
@[simp] theorem State.modCtx_freeCtr : (s.modCtx x f).freeCtr = s.freeCtr := rfl
@[simp] theorem State.modCtx_halt : (s.modCtx x f).halt = s.halt := rfl
end

section
variable (s : State) (x : Nat) (f : Inst → Inst)
@[simp] theorem State.modInst_stage : (s.modInst x f).stage = s.stage := rfl
@[simp] theorem State.modInst_failCode : (s.modInst x f).failCode = s.failCode := rfl
@[simp] theorem State.modInst_countPa : (s.modInst x f).countPa = s.countPa := rfl
@[simp] theorem State.modInst_qTable : (s.modInst x f).qTable = s.qTable := rfl
@[simp] theorem State.modInst_heavyB : (s.modInst x f).heavyB = s.heavyB := rfl
@[simp] theorem State.modInst_fwCmd : (s.modInst x f).fwCmd = s.fwCmd := rfl
@[simp] theorem State.modInst_fwBuf : (s.modInst x f).fwBuf = s.fwBuf := rfl
@[simp] theorem State.modInst_hcbLo : (s.modInst x f).hcbLo = s.hcbLo := rfl
@[simp] theorem State.modInst_images : (s.modInst x f).images = s.images := rfl
@[simp] theorem State.modInst_parts : (s.modInst x f).parts = s.parts := rfl
@[simp] theorem State.modInst_keys : (s.modInst x f).keys = s.keys := rfl
@[simp] theorem State.modInst_peerKeys : (s.modInst x f).peerKeys = s.peerKeys := rfl
@[simp] theorem State.modInst_lineKey : (s.modInst x f).lineKey = s.lineKey := rfl
@[simp] theorem State.modInst_mem : (s.modInst x f).mem = s.mem := rfl
@[simp] theorem State.modInst_badBytes : (s.modInst x f).badBytes = s.badBytes := rfl
@[simp] theorem State.modInst_tails : (s.modInst x f).tails = s.tails := rfl
@[simp] theorem State.modInst_pkg : (s.modInst x f).pkg = s.pkg := rfl
@[simp] theorem State.modInst_cycle : (s.modInst x f).cycle = s.cycle := rfl
@[simp] theorem State.modInst_ctxs : (s.modInst x f).ctxs = s.ctxs := rfl
@[simp] theorem State.modInst_teams : (s.modInst x f).teams = s.teams := rfl
@[simp] theorem State.modInst_bins : (s.modInst x f).bins = s.bins := rfl
@[simp] theorem State.modInst_l1 : (s.modInst x f).l1 = s.l1 := rfl
@[simp] theorem State.modInst_reserved : (s.modInst x f).reserved = s.reserved := rfl
@[simp] theorem State.modInst_recs : (s.modInst x f).recs = s.recs := rfl
@[simp] theorem State.modInst_emitted : (s.modInst x f).emitted = s.emitted := rfl
@[simp] theorem State.modInst_rounds : (s.modInst x f).rounds = s.rounds := rfl
@[simp] theorem State.modInst_poolHead : (s.modInst x f).poolHead = s.poolHead := rfl
@[simp] theorem State.modInst_clusters : (s.modInst x f).clusters = s.clusters := rfl
@[simp] theorem State.modInst_accs : (s.modInst x f).accs = s.accs := rfl
@[simp] theorem State.modInst_results : (s.modInst x f).results = s.results := rfl
@[simp] theorem State.modInst_ops : (s.modInst x f).ops = s.ops := rfl
@[simp] theorem State.modInst_mcasts : (s.modInst x f).mcasts = s.mcasts := rfl
@[simp] theorem State.modInst_coreDels : (s.modInst x f).coreDels = s.coreDels := rfl
@[simp] theorem State.modInst_flits : (s.modInst x f).flits = s.flits := rfl
@[simp] theorem State.modInst_events : (s.modInst x f).events = s.events := rfl
@[simp] theorem State.modInst_migs : (s.modInst x f).migs = s.migs := rfl
@[simp] theorem State.modInst_tcache : (s.modInst x f).tcache = s.tcache := rfl
@[simp] theorem State.modInst_oldMaps : (s.modInst x f).oldMaps = s.oldMaps := rfl
@[simp] theorem State.modInst_stored : (s.modInst x f).stored = s.stored := rfl
@[simp] theorem State.modInst_owed : (s.modInst x f).owed = s.owed := rfl
@[simp] theorem State.modInst_hotQ : (s.modInst x f).hotQ = s.hotQ := rfl
@[simp] theorem State.modInst_leaves : (s.modInst x f).leaves = s.leaves := rfl
@[simp] theorem State.modInst_link : (s.modInst x f).link = s.link := rfl
@[simp] theorem State.modInst_hostCache : (s.modInst x f).hostCache = s.hostCache := rfl
@[simp] theorem State.modInst_invWait : (s.modInst x f).invWait = s.invWait := rfl
@[simp] theorem State.modInst_pagesDeclined : (s.modInst x f).pagesDeclined = s.pagesDeclined := rfl
@[simp] theorem State.modInst_ports : (s.modInst x f).ports = s.ports := rfl
@[simp] theorem State.modInst_lost : (s.modInst x f).lost = s.lost := rfl
@[simp] theorem State.modInst_saveQ : (s.modInst x f).saveQ = s.saveQ := rfl
@[simp] theorem State.modInst_logs : (s.modInst x f).logs = s.logs := rfl
@[simp] theorem State.modInst_cur : (s.modInst x f).cur = s.cur := rfl
@[simp] theorem State.modInst_tape : (s.modInst x f).tape = s.tape := rfl
@[simp] theorem State.modInst_issued : (s.modInst x f).issued = s.issued := rfl
@[simp] theorem State.modInst_serial : (s.modInst x f).serial = s.serial := rfl
@[simp] theorem State.modInst_named : (s.modInst x f).named = s.named := rfl
@[simp] theorem State.modInst_freeCtr : (s.modInst x f).freeCtr = s.freeCtr := rfl
@[simp] theorem State.modInst_halt : (s.modInst x f).halt = s.halt := rfl
end

section
variable (s : State) (x : Nat) (f : Rec → Rec)
@[simp] theorem State.modRec_stage : (s.modRec x f).stage = s.stage := rfl
@[simp] theorem State.modRec_failCode : (s.modRec x f).failCode = s.failCode := rfl
@[simp] theorem State.modRec_countPa : (s.modRec x f).countPa = s.countPa := rfl
@[simp] theorem State.modRec_qTable : (s.modRec x f).qTable = s.qTable := rfl
@[simp] theorem State.modRec_heavyB : (s.modRec x f).heavyB = s.heavyB := rfl
@[simp] theorem State.modRec_fwCmd : (s.modRec x f).fwCmd = s.fwCmd := rfl
@[simp] theorem State.modRec_fwBuf : (s.modRec x f).fwBuf = s.fwBuf := rfl
@[simp] theorem State.modRec_hcbLo : (s.modRec x f).hcbLo = s.hcbLo := rfl
@[simp] theorem State.modRec_images : (s.modRec x f).images = s.images := rfl
@[simp] theorem State.modRec_parts : (s.modRec x f).parts = s.parts := rfl
@[simp] theorem State.modRec_keys : (s.modRec x f).keys = s.keys := rfl
@[simp] theorem State.modRec_peerKeys : (s.modRec x f).peerKeys = s.peerKeys := rfl
@[simp] theorem State.modRec_lineKey : (s.modRec x f).lineKey = s.lineKey := rfl
@[simp] theorem State.modRec_mem : (s.modRec x f).mem = s.mem := rfl
@[simp] theorem State.modRec_badBytes : (s.modRec x f).badBytes = s.badBytes := rfl
@[simp] theorem State.modRec_tails : (s.modRec x f).tails = s.tails := rfl
@[simp] theorem State.modRec_pkg : (s.modRec x f).pkg = s.pkg := rfl
@[simp] theorem State.modRec_cycle : (s.modRec x f).cycle = s.cycle := rfl
@[simp] theorem State.modRec_ctxs : (s.modRec x f).ctxs = s.ctxs := rfl
@[simp] theorem State.modRec_teams : (s.modRec x f).teams = s.teams := rfl
@[simp] theorem State.modRec_bins : (s.modRec x f).bins = s.bins := rfl
@[simp] theorem State.modRec_l1 : (s.modRec x f).l1 = s.l1 := rfl
@[simp] theorem State.modRec_reserved : (s.modRec x f).reserved = s.reserved := rfl
@[simp] theorem State.modRec_insts : (s.modRec x f).insts = s.insts := rfl
@[simp] theorem State.modRec_emitted : (s.modRec x f).emitted = s.emitted := rfl
@[simp] theorem State.modRec_rounds : (s.modRec x f).rounds = s.rounds := rfl
@[simp] theorem State.modRec_poolHead : (s.modRec x f).poolHead = s.poolHead := rfl
@[simp] theorem State.modRec_clusters : (s.modRec x f).clusters = s.clusters := rfl
@[simp] theorem State.modRec_accs : (s.modRec x f).accs = s.accs := rfl
@[simp] theorem State.modRec_results : (s.modRec x f).results = s.results := rfl
@[simp] theorem State.modRec_ops : (s.modRec x f).ops = s.ops := rfl
@[simp] theorem State.modRec_mcasts : (s.modRec x f).mcasts = s.mcasts := rfl
@[simp] theorem State.modRec_coreDels : (s.modRec x f).coreDels = s.coreDels := rfl
@[simp] theorem State.modRec_flits : (s.modRec x f).flits = s.flits := rfl
@[simp] theorem State.modRec_events : (s.modRec x f).events = s.events := rfl
@[simp] theorem State.modRec_migs : (s.modRec x f).migs = s.migs := rfl
@[simp] theorem State.modRec_tcache : (s.modRec x f).tcache = s.tcache := rfl
@[simp] theorem State.modRec_oldMaps : (s.modRec x f).oldMaps = s.oldMaps := rfl
@[simp] theorem State.modRec_stored : (s.modRec x f).stored = s.stored := rfl
@[simp] theorem State.modRec_owed : (s.modRec x f).owed = s.owed := rfl
@[simp] theorem State.modRec_hotQ : (s.modRec x f).hotQ = s.hotQ := rfl
@[simp] theorem State.modRec_leaves : (s.modRec x f).leaves = s.leaves := rfl
@[simp] theorem State.modRec_link : (s.modRec x f).link = s.link := rfl
@[simp] theorem State.modRec_hostCache : (s.modRec x f).hostCache = s.hostCache := rfl
@[simp] theorem State.modRec_invWait : (s.modRec x f).invWait = s.invWait := rfl
@[simp] theorem State.modRec_pagesDeclined : (s.modRec x f).pagesDeclined = s.pagesDeclined := rfl
@[simp] theorem State.modRec_ports : (s.modRec x f).ports = s.ports := rfl
@[simp] theorem State.modRec_lost : (s.modRec x f).lost = s.lost := rfl
@[simp] theorem State.modRec_saveQ : (s.modRec x f).saveQ = s.saveQ := rfl
@[simp] theorem State.modRec_logs : (s.modRec x f).logs = s.logs := rfl
@[simp] theorem State.modRec_cur : (s.modRec x f).cur = s.cur := rfl
@[simp] theorem State.modRec_tape : (s.modRec x f).tape = s.tape := rfl
@[simp] theorem State.modRec_issued : (s.modRec x f).issued = s.issued := rfl
@[simp] theorem State.modRec_serial : (s.modRec x f).serial = s.serial := rfl
@[simp] theorem State.modRec_named : (s.modRec x f).named = s.named := rfl
@[simp] theorem State.modRec_freeCtr : (s.modRec x f).freeCtr = s.freeCtr := rfl
@[simp] theorem State.modRec_halt : (s.modRec x f).halt = s.halt := rfl
end

section
variable (s : State) (x : Nat) (f : EngOp → EngOp)
@[simp] theorem State.modOp_stage : (s.modOp x f).stage = s.stage := rfl
@[simp] theorem State.modOp_failCode : (s.modOp x f).failCode = s.failCode := rfl
@[simp] theorem State.modOp_countPa : (s.modOp x f).countPa = s.countPa := rfl
@[simp] theorem State.modOp_qTable : (s.modOp x f).qTable = s.qTable := rfl
@[simp] theorem State.modOp_heavyB : (s.modOp x f).heavyB = s.heavyB := rfl
@[simp] theorem State.modOp_fwCmd : (s.modOp x f).fwCmd = s.fwCmd := rfl
@[simp] theorem State.modOp_fwBuf : (s.modOp x f).fwBuf = s.fwBuf := rfl
@[simp] theorem State.modOp_hcbLo : (s.modOp x f).hcbLo = s.hcbLo := rfl
@[simp] theorem State.modOp_images : (s.modOp x f).images = s.images := rfl
@[simp] theorem State.modOp_parts : (s.modOp x f).parts = s.parts := rfl
@[simp] theorem State.modOp_keys : (s.modOp x f).keys = s.keys := rfl
@[simp] theorem State.modOp_peerKeys : (s.modOp x f).peerKeys = s.peerKeys := rfl
@[simp] theorem State.modOp_lineKey : (s.modOp x f).lineKey = s.lineKey := rfl
@[simp] theorem State.modOp_mem : (s.modOp x f).mem = s.mem := rfl
@[simp] theorem State.modOp_badBytes : (s.modOp x f).badBytes = s.badBytes := rfl
@[simp] theorem State.modOp_tails : (s.modOp x f).tails = s.tails := rfl
@[simp] theorem State.modOp_pkg : (s.modOp x f).pkg = s.pkg := rfl
@[simp] theorem State.modOp_cycle : (s.modOp x f).cycle = s.cycle := rfl
@[simp] theorem State.modOp_ctxs : (s.modOp x f).ctxs = s.ctxs := rfl
@[simp] theorem State.modOp_teams : (s.modOp x f).teams = s.teams := rfl
@[simp] theorem State.modOp_bins : (s.modOp x f).bins = s.bins := rfl
@[simp] theorem State.modOp_l1 : (s.modOp x f).l1 = s.l1 := rfl
@[simp] theorem State.modOp_reserved : (s.modOp x f).reserved = s.reserved := rfl
@[simp] theorem State.modOp_recs : (s.modOp x f).recs = s.recs := rfl
@[simp] theorem State.modOp_insts : (s.modOp x f).insts = s.insts := rfl
@[simp] theorem State.modOp_emitted : (s.modOp x f).emitted = s.emitted := rfl
@[simp] theorem State.modOp_rounds : (s.modOp x f).rounds = s.rounds := rfl
@[simp] theorem State.modOp_poolHead : (s.modOp x f).poolHead = s.poolHead := rfl
@[simp] theorem State.modOp_clusters : (s.modOp x f).clusters = s.clusters := rfl
@[simp] theorem State.modOp_accs : (s.modOp x f).accs = s.accs := rfl
@[simp] theorem State.modOp_results : (s.modOp x f).results = s.results := rfl
@[simp] theorem State.modOp_mcasts : (s.modOp x f).mcasts = s.mcasts := rfl
@[simp] theorem State.modOp_coreDels : (s.modOp x f).coreDels = s.coreDels := rfl
@[simp] theorem State.modOp_flits : (s.modOp x f).flits = s.flits := rfl
@[simp] theorem State.modOp_events : (s.modOp x f).events = s.events := rfl
@[simp] theorem State.modOp_migs : (s.modOp x f).migs = s.migs := rfl
@[simp] theorem State.modOp_tcache : (s.modOp x f).tcache = s.tcache := rfl
@[simp] theorem State.modOp_oldMaps : (s.modOp x f).oldMaps = s.oldMaps := rfl
@[simp] theorem State.modOp_stored : (s.modOp x f).stored = s.stored := rfl
@[simp] theorem State.modOp_owed : (s.modOp x f).owed = s.owed := rfl
@[simp] theorem State.modOp_hotQ : (s.modOp x f).hotQ = s.hotQ := rfl
@[simp] theorem State.modOp_leaves : (s.modOp x f).leaves = s.leaves := rfl
@[simp] theorem State.modOp_link : (s.modOp x f).link = s.link := rfl
@[simp] theorem State.modOp_hostCache : (s.modOp x f).hostCache = s.hostCache := rfl
@[simp] theorem State.modOp_invWait : (s.modOp x f).invWait = s.invWait := rfl
@[simp] theorem State.modOp_pagesDeclined : (s.modOp x f).pagesDeclined = s.pagesDeclined := rfl
@[simp] theorem State.modOp_ports : (s.modOp x f).ports = s.ports := rfl
@[simp] theorem State.modOp_lost : (s.modOp x f).lost = s.lost := rfl
@[simp] theorem State.modOp_saveQ : (s.modOp x f).saveQ = s.saveQ := rfl
@[simp] theorem State.modOp_logs : (s.modOp x f).logs = s.logs := rfl
@[simp] theorem State.modOp_cur : (s.modOp x f).cur = s.cur := rfl
@[simp] theorem State.modOp_tape : (s.modOp x f).tape = s.tape := rfl
@[simp] theorem State.modOp_issued : (s.modOp x f).issued = s.issued := rfl
@[simp] theorem State.modOp_serial : (s.modOp x f).serial = s.serial := rfl
@[simp] theorem State.modOp_named : (s.modOp x f).named = s.named := rfl
@[simp] theorem State.modOp_freeCtr : (s.modOp x f).freeCtr = s.freeCtr := rfl
@[simp] theorem State.modOp_halt : (s.modOp x f).halt = s.halt := rfl
end

section
variable (s : State) (x : Nat)
@[simp] theorem State.dropOp_stage : (s.dropOp x).stage = s.stage := rfl
@[simp] theorem State.dropOp_failCode : (s.dropOp x).failCode = s.failCode := rfl
@[simp] theorem State.dropOp_countPa : (s.dropOp x).countPa = s.countPa := rfl
@[simp] theorem State.dropOp_qTable : (s.dropOp x).qTable = s.qTable := rfl
@[simp] theorem State.dropOp_heavyB : (s.dropOp x).heavyB = s.heavyB := rfl
@[simp] theorem State.dropOp_fwCmd : (s.dropOp x).fwCmd = s.fwCmd := rfl
@[simp] theorem State.dropOp_fwBuf : (s.dropOp x).fwBuf = s.fwBuf := rfl
@[simp] theorem State.dropOp_hcbLo : (s.dropOp x).hcbLo = s.hcbLo := rfl
@[simp] theorem State.dropOp_images : (s.dropOp x).images = s.images := rfl
@[simp] theorem State.dropOp_parts : (s.dropOp x).parts = s.parts := rfl
@[simp] theorem State.dropOp_keys : (s.dropOp x).keys = s.keys := rfl
@[simp] theorem State.dropOp_peerKeys : (s.dropOp x).peerKeys = s.peerKeys := rfl
@[simp] theorem State.dropOp_lineKey : (s.dropOp x).lineKey = s.lineKey := rfl
@[simp] theorem State.dropOp_mem : (s.dropOp x).mem = s.mem := rfl
@[simp] theorem State.dropOp_badBytes : (s.dropOp x).badBytes = s.badBytes := rfl
@[simp] theorem State.dropOp_tails : (s.dropOp x).tails = s.tails := rfl
@[simp] theorem State.dropOp_pkg : (s.dropOp x).pkg = s.pkg := rfl
@[simp] theorem State.dropOp_cycle : (s.dropOp x).cycle = s.cycle := rfl
@[simp] theorem State.dropOp_ctxs : (s.dropOp x).ctxs = s.ctxs := rfl
@[simp] theorem State.dropOp_teams : (s.dropOp x).teams = s.teams := rfl
@[simp] theorem State.dropOp_bins : (s.dropOp x).bins = s.bins := rfl
@[simp] theorem State.dropOp_l1 : (s.dropOp x).l1 = s.l1 := rfl
@[simp] theorem State.dropOp_reserved : (s.dropOp x).reserved = s.reserved := rfl
@[simp] theorem State.dropOp_recs : (s.dropOp x).recs = s.recs := rfl
@[simp] theorem State.dropOp_insts : (s.dropOp x).insts = s.insts := rfl
@[simp] theorem State.dropOp_emitted : (s.dropOp x).emitted = s.emitted := rfl
@[simp] theorem State.dropOp_rounds : (s.dropOp x).rounds = s.rounds := rfl
@[simp] theorem State.dropOp_poolHead : (s.dropOp x).poolHead = s.poolHead := rfl
@[simp] theorem State.dropOp_clusters : (s.dropOp x).clusters = s.clusters := rfl
@[simp] theorem State.dropOp_accs : (s.dropOp x).accs = s.accs := rfl
@[simp] theorem State.dropOp_results : (s.dropOp x).results = s.results := rfl
@[simp] theorem State.dropOp_mcasts : (s.dropOp x).mcasts = s.mcasts := rfl
@[simp] theorem State.dropOp_coreDels : (s.dropOp x).coreDels = s.coreDels := rfl
@[simp] theorem State.dropOp_flits : (s.dropOp x).flits = s.flits := rfl
@[simp] theorem State.dropOp_events : (s.dropOp x).events = s.events := rfl
@[simp] theorem State.dropOp_migs : (s.dropOp x).migs = s.migs := rfl
@[simp] theorem State.dropOp_tcache : (s.dropOp x).tcache = s.tcache := rfl
@[simp] theorem State.dropOp_oldMaps : (s.dropOp x).oldMaps = s.oldMaps := rfl
@[simp] theorem State.dropOp_stored : (s.dropOp x).stored = s.stored := rfl
@[simp] theorem State.dropOp_owed : (s.dropOp x).owed = s.owed := rfl
@[simp] theorem State.dropOp_hotQ : (s.dropOp x).hotQ = s.hotQ := rfl
@[simp] theorem State.dropOp_leaves : (s.dropOp x).leaves = s.leaves := rfl
@[simp] theorem State.dropOp_link : (s.dropOp x).link = s.link := rfl
@[simp] theorem State.dropOp_hostCache : (s.dropOp x).hostCache = s.hostCache := rfl
@[simp] theorem State.dropOp_invWait : (s.dropOp x).invWait = s.invWait := rfl
@[simp] theorem State.dropOp_pagesDeclined : (s.dropOp x).pagesDeclined = s.pagesDeclined := rfl
@[simp] theorem State.dropOp_ports : (s.dropOp x).ports = s.ports := rfl
@[simp] theorem State.dropOp_lost : (s.dropOp x).lost = s.lost := rfl
@[simp] theorem State.dropOp_saveQ : (s.dropOp x).saveQ = s.saveQ := rfl
@[simp] theorem State.dropOp_logs : (s.dropOp x).logs = s.logs := rfl
@[simp] theorem State.dropOp_cur : (s.dropOp x).cur = s.cur := rfl
@[simp] theorem State.dropOp_tape : (s.dropOp x).tape = s.tape := rfl
@[simp] theorem State.dropOp_issued : (s.dropOp x).issued = s.issued := rfl
@[simp] theorem State.dropOp_serial : (s.dropOp x).serial = s.serial := rfl
@[simp] theorem State.dropOp_named : (s.dropOp x).named = s.named := rfl
@[simp] theorem State.dropOp_freeCtr : (s.dropOp x).freeCtr = s.freeCtr := rfl
@[simp] theorem State.dropOp_halt : (s.dropOp x).halt = s.halt := rfl
end

section
variable (t : Team) (w : Nat) (f : Warp → Warp)
@[simp] theorem Team.modWarp_uid : (t.modWarp w f).uid = t.uid := rfl
@[simp] theorem Team.modWarp_space : (t.modWarp w f).space = t.space := rfl
@[simp] theorem Team.modWarp_inst : (t.modWarp w f).inst = t.inst := rfl
@[simp] theorem Team.modWarp_t : (t.modWarp w f).t = t.t := rfl
@[simp] theorem Team.modWarp_core : (t.modWarp w f).core = t.core := rfl
@[simp] theorem Team.modWarp_block : (t.modWarp w f).block = t.block := rfl
@[simp] theorem Team.modWarp_frameF : (t.modWarp w f).frameF = t.frameF := rfl
@[simp] theorem Team.modWarp_st : (t.modWarp w f).st = t.st := rfl
@[simp] theorem Team.modWarp_reason : (t.modWarp w f).reason = t.reason := rfl
@[simp] theorem Team.modWarp_desc : (t.modWarp w f).desc = t.desc := rfl
@[simp] theorem Team.modWarp_scratch : (t.modWarp w f).scratch = t.scratch := rfl
@[simp] theorem Team.modWarp_tileMem : (t.modWarp w f).tileMem = t.tileMem := rfl
@[simp] theorem Team.modWarp_tsh : (t.modWarp w f).tsh = t.tsh := rfl
@[simp] theorem Team.modWarp_ttab : (t.modWarp w f).ttab = t.ttab := rfl
@[simp] theorem Team.modWarp_rings : (t.modWarp w f).rings = t.rings := rfl
@[simp] theorem Team.modWarp_heard : (t.modWarp w f).heard = t.heard := rfl
@[simp] theorem Team.modWarp_frame : (t.modWarp w f).frame = t.frame := rfl
@[simp] theorem Team.modWarp_weight : (t.modWarp w f).weight = t.weight := rfl
@[simp] theorem Team.modWarp_grants : (t.modWarp w f).grants = t.grants := rfl
@[simp] theorem Team.modWarp_lives : (t.modWarp w f).lives = t.lives := rfl
@[simp] theorem Team.modWarp_depthOvf : (t.modWarp w f).depthOvf = t.depthOvf := rfl
@[simp] theorem Team.modWarp_pages : (t.modWarp w f).pages = t.pages := rfl
@[simp] theorem Team.modWarp_pooledAt : (t.modWarp w f).pooledAt = t.pooledAt := rfl
@[simp] theorem Team.modWarp_saving : (t.modWarp w f).saving = t.saving := rfl
end

section
variable (w : Warp) (k : Nat) (f : Lane → Lane)
@[simp] theorem Warp.modLane_st : (w.modLane k f).st = w.st := rfl
@[simp] theorem Warp.modLane_ctx : (w.modLane k f).ctx = w.ctx := rfl
@[simp] theorem Warp.modLane_idx : (w.modLane k f).idx = w.idx := rfl
@[simp] theorem Warp.modLane_role : (w.modLane k f).role = w.role := rfl
@[simp] theorem Warp.modLane_s : (w.modLane k f).s = w.s := rfl
@[simp] theorem Warp.modLane_lockstep : (w.modLane k f).lockstep = w.lockstep := rfl
@[simp] theorem Warp.modLane_uconflict : (w.modLane k f).uconflict = w.uconflict := rfl
@[simp] theorem Warp.modLane_stepBit : (w.modLane k f).stepBit = w.stepBit := rfl
@[simp] theorem Warp.modLane_det : (w.modLane k f).det = w.det := rfl
@[simp] theorem Warp.modLane_sup : (w.modLane k f).sup = w.sup := rfl
@[simp] theorem Warp.modLane_sbusy : (w.modLane k f).sbusy = w.sbusy := rfl
@[simp] theorem Warp.modLane_ubusy : (w.modLane k f).ubusy = w.ubusy := rfl
@[simp] theorem Warp.modLane_qdest : (w.modLane k f).qdest = w.qdest := rfl
@[simp] theorem Warp.modLane_tmrcmp : (w.modLane k f).tmrcmp = w.tmrcmp := rfl
@[simp] theorem Warp.modLane_armed : (w.modLane k f).armed = w.armed := rfl
@[simp] theorem Warp.modLane_fired : (w.modLane k f).fired = w.fired := rfl
@[simp] theorem Warp.modLane_active : (w.modLane k f).active = w.active := rfl
@[simp] theorem Warp.modLane_q0 : (w.modLane k f).q0 = w.q0 := rfl
@[simp] theorem Warp.modLane_q1 : (w.modLane k f).q1 = w.q1 := rfl
@[simp] theorem Warp.modLane_q2 : (w.modLane k f).q2 = w.q2 := rfl
@[simp] theorem Warp.modLane_q3 : (w.modLane k f).q3 = w.q3 := rfl
@[simp] theorem Warp.modLane_stack : (w.modLane k f).stack = w.stack := rfl
@[simp] theorem Warp.modLane_tx : (w.modLane k f).tx = w.tx := rfl
@[simp] theorem Warp.modLane_trap : (w.modLane k f).trap = w.trap := rfl
@[simp] theorem Warp.modLane_pend : (w.modLane k f).pend = w.pend := rfl
@[simp] theorem Warp.modLane_fenceMap : (w.modLane k f).fenceMap = w.fenceMap := rfl
@[simp] theorem Warp.modLane_dbgHalt : (w.modLane k f).dbgHalt = w.dbgHalt := rfl
@[simp] theorem Warp.modLane_epoch : (w.modLane k f).epoch = w.epoch := rfl
@[simp] theorem Warp.modLane_ran : (w.modLane k f).ran = w.ran := rfl
end

/-! ### Lookups after an update -/

/-- A list in which the entries of one key are changed, and keep it, gives the changed entry at that key. -/
theorem find?_changed {α : Type} (key : α → Nat) (xs : List α) (u v : Nat) (f : α → α) (hf : ∀ x, key (f x) = key x) :
    (xs.map (fun x => if key x == u then f x else x)).find? (fun x => key x == v) =
      if v = u then (xs.find? (fun x => key x == v)).map f else xs.find? (fun x => key x == v) := by
  rw [List.find?_map]
  have : ((fun x => key x == v) ∘ fun x => if (key x == u) = true then f x else x) = fun x => key x == v := by
    funext x; simp only [Function.comp]; split <;> simp [hf]
  rw [this]
  cases hfind : xs.find? (fun x => key x == v) with
  | none => simp
  | some x =>
    have : key x = v := by simpa using List.find?_some hfind
    by_cases h : v = u <;> simp [this, h]

theorem State.ctx?_modCtx (s : State) (x y : Nat) (f : Context → Context) (hf : ∀ c, (f c).space = c.space) :
    (s.modCtx x f).ctx? y = if y = x then (s.ctx? y).map f else s.ctx? y := find?_changed Context.space s.ctxs x y f hf
theorem State.inst?_modInst (s : State) (x y : Nat) (f : Inst → Inst) (hf : ∀ c, (f c).uid = c.uid) :
    (s.modInst x f).inst? y = if y = x then (s.inst? y).map f else s.inst? y := find?_changed Inst.uid s.insts x y f hf
theorem State.rec?_modRec (s : State) (x y : Nat) (f : Rec → Rec) (hf : ∀ c, (f c).id = c.id) :
    (s.modRec x f).rec? y = if y = x then (s.rec? y).map f else s.rec? y := find?_changed Rec.id s.recs x y f hf
theorem State.op?_modOp (s : State) (x y : Nat) (f : EngOp → EngOp) (hf : ∀ c, (f c).id = c.id) :
    (s.modOp x f).op? y = if y = x then (s.op? y).map f else s.op? y := find?_changed EngOp.id s.ops x y f hf

/-! ### Registers -/

@[simp] theorem Lane.rdP_seven (l : Lane) : l.rdP 7 = true := rfl
@[simp] theorem Warp.rdS_zero (w : Warp) : w.rdS 0 = 0 := rfl
@[simp] theorem Lane.wrP_seven (l : Lane) (b : Bool) : l.wrP 7 b = l := rfl
@[simp] theorem Warp.wrS_zero (w : Warp) (x : Word) : w.wrS 0 x = w := rfl

end Sys2Proof.Machine
end

