-- ==== Sys2Proof/Laws/Memory.lean ====
section
/-! SUPPORT. Every operation that writes memory keeps its canonical form, and every other operation of the memory side
leaves memory alone. -/

namespace Sys2Proof.Machine

theorem reset_mem_wf : Memory.wf State.reset.mem = true := rfl

/-- A fold whose step keeps the form keeps it. -/
theorem foldl_wf {α : Type} (f : State → α → State) (hf : ∀ s x, Memory.wf s.mem = true → Memory.wf (f s x).mem = true)
    (xs : List α) (s : State) (h : Memory.wf s.mem = true) : Memory.wf (xs.foldl f s).mem = true := by
  induction xs generalizing s with
  | nil => exact h
  | cons x xs ih => exact ih _ (hf s x h)

/-- A fold whose step leaves memory alone leaves it alone. -/
theorem foldl_mem {α : Type} (f : State → α → State) (hf : ∀ s x, (f s x).mem = s.mem) (xs : List α) (s : State) :
    (xs.foldl f s).mem = s.mem := by
  induction xs generalizing s with
  | nil => rfl
  | cons x xs ih => exact (ih _).trans (hf s x)

/-! ### Physical memory -/

@[simp] theorem noMem_mem (s : State) (pa : Nat) : (noMem s pa).mem = s.mem := by unfold noMem; split <;> rfl

theorem rekeyLine_wf (s : State) (key : BitVec 512) (line : Nat) (h : Memory.wf s.mem = true) :
    Memory.wf (rekeyLine s key line).mem = true := by
  unfold rekeyLine
  split
  · split
    · exact h
    · exact cellsWf_cwrite _ _ _ h
  · exact h

theorem pwrite_wf (s : State) (key : Option (BitVec 512)) (pa : Nat) (bs : List Byte) (h : Memory.wf s.mem = true) :
    Memory.wf (pwrite s key pa bs).mem = true := by
  unfold pwrite
  refine cellsWf_memPut _ _ _ ?_
  cases key with
  | none => simpa using h
  | some k => exact foldl_wf _ (fun s x hs => rekeyLine_wf s k x hs) _ _ (by simpa using h)

theorem writePa_wf (s : State) (pa n x : Nat) (h : Memory.wf s.mem = true) : Memory.wf (writePa s pa n x).mem = true :=
  pwrite_wf s none pa _ h

theorem bumpPa_wf (s : State) (pa : Nat) (h : Memory.wf s.mem = true) : Memory.wf (bumpPa s pa).mem = true :=
  writePa_wf s pa 8 _ h

theorem writeEntry_wf (s : State) (space pa : Nat) (e : BitVec 128) (h : Memory.wf s.mem = true) :
    Memory.wf (writeEntry s space pa e).mem = true := pwrite_wf s _ pa _ h

/-! ### Speculation leaves memory alone -/

@[simp] theorem unfile_mem (s : State) (u w : Nat) : (unfile s u w).mem = s.mem := rfl
@[simp] theorem dropOutstanding_mem (s : State) (u w start : Nat) : (dropOutstanding s u w start).mem = s.mem := rfl

@[simp] theorem abortTry_mem (s : State) (u w code info sub : Nat) : (abortTry s u w code info sub).mem = s.mem := by
  unfold abortTry
  split
  · rfl
  · split <;> rfl

@[simp] theorem conflictWith_mem (s : State) (b : Option (Nat × Nat)) (dom : Nat → Bool) (space ia n : Nat) :
    (conflictWith s b dom space ia n).mem = s.mem := by
  unfold conflictWith
  exact foldl_mem _ (fun _ _ => abortTry_mem _ _ _ _ _ _) _ s

@[simp] theorem conflictFrame_mem (s : State) (b : Option (Nat × Nat)) (dom : Nat → Bool) (pa n : Nat) :
    (conflictFrame s b dom pa n).mem = s.mem := by
  unfold conflictFrame
  exact foldl_mem _ (fun _ _ => abortTry_mem _ _ _ _ _ _) _ s

theorem updateEntry_wf (s : State) (space pa : Nat) (e : BitVec 128) (h : Memory.wf s.mem = true) :
    Memory.wf (updateEntry s space pa e).mem = true := by
  unfold updateEntry
  rw [conflictFrame_mem]; exact writeEntry_wf s space pa e h

theorem updateBits_wf (s : State) (space pa : Nat) (e : BitVec 128) (h : Memory.wf s.mem = true) :
    Memory.wf (updateBits s space pa e).mem = true := by
  unfold updateBits
  split
  · exact h
  · exact updateEntry_wf s space pa e h

/-! ### Translation -/

@[simp] theorem dropCached_mem (s : State) (p : TEntry → Bool) : (dropCached s p).mem = s.mem := rfl

@[simp] theorem countTranslation_mem (s : State) (space ia : Nat) (t : Trans) (leaf : BitVec 128) :
    (countTranslation s space ia t leaf).mem = s.mem := by unfold countTranslation; split <;> rfl

theorem touchLeaf_wf (s : State) (space ia : Nat) (need : Need) (t : Trans) (h : Memory.wf s.mem = true) :
    Memory.wf (touchLeaf s space ia need t).mem = true := by
  unfold touchLeaf
  dsimp only
  split
  · simpa using h
  · rw [countTranslation_mem]; exact updateBits_wf s space _ _ h

theorem reach_mem (space ia : Nat) (x : State × TransRes) : (reach space ia x).1.mem = x.1.mem := by
  unfold reach
  repeat' split
  all_goals rfl

/-- A translation writes memory only in its updates of an entry (R353). -/
theorem translate_wf (s : State) (space ia : Nat) (need : Need) (lane : Bool) (h : Memory.wf s.mem = true) :
    Memory.wf (translate s space ia need lane).1.mem = true := by
  unfold translate
  rw [reach_mem]
  split
  · dsimp only
    split
    · exact touchLeaf_wf _ _ _ _ _ h
    · split
      · split
        · exact h
        · exact touchLeaf_wf _ _ _ _ _ h
      · split
        · exact touchLeaf_wf _ _ _ _ _ h
        · exact h
  · exact h

theorem translateFor_wf (s : State) (space ia n : Nat) (need : Need) (lane : Bool) (h : Memory.wf s.mem = true) :
    Memory.wf (translateFor s space ia n need lane).1.mem = true := by
  have ht := translate_wf s space ia need lane h
  unfold translateFor
  split
  · rename_i hx; rw [hx] at ht; split <;> exact ht
  · exact ht

@[simp] theorem conflicts_mem (s : State) (b : Option (Nat × Nat)) (dom : Nat → Bool) (space ia n pa : Nat) :
    (conflicts s b dom space ia n pa).mem = s.mem := by simp [conflicts]

/-! ### Stores and write-backs -/

@[simp] theorem dropDirty_mem (s : State) (space ia n : Nat) (cores : Nat → Bool) :
    (dropDirty s space ia n cores).mem = s.mem := rfl
@[simp] theorem putDirty_mem (s : State) (home space ia : Nat) (bs : List Byte) : (putDirty s home space ia bs).mem = s.mem := rfl
@[simp] theorem storeL1_mem (s : State) (core : Nat) (fused : Bool) (space ia : Nat) (bs : List Byte) :
    (storeL1 s core fused space ia bs).mem = s.mem := rfl
@[simp] theorem storeSlice_mem (s : State) (core : Nat) (fused : Bool) (space ia : Nat) (bs : List Byte) :
    (storeSlice s core fused space ia bs).mem = s.mem := rfl

@[simp] theorem noteWrite_mem (s : State) (core space ia n : Nat) : (noteWrite s core space ia n).mem = s.mem := rfl
@[simp] theorem remember_mem (s : State) (space ia : Nat) (t : Trans) : (remember s space ia t).mem = s.mem := by
  unfold remember; dsimp only; split <;> rfl

@[simp] theorem l1Store_mem (s : State) (b : Option (Nat × Nat)) (core : Nat) (fused : Bool) (space ia : Nat) (bs : List Byte)
    (t : Trans) : (l1Store s b core fused space ia bs t).mem = s.mem := by simp [l1Store]
@[simp] theorem sliceStore_mem (s : State) (b : Option (Nat × Nat)) (core : Nat) (fused : Bool) (space ia : Nat) (bs : List Byte)
    (t : Trans) : (sliceStore s b core fused space ia bs t).mem = s.mem := by simp [sliceStore]

theorem memStore_wf (s : State) (b : Option (Nat × Nat)) (core : Nat) (fused : Bool) (space ia : Nat) (bs : List Byte)
    (t : Trans) (h : Memory.wf s.mem = true) : Memory.wf (memStore s b core fused space ia bs t).mem = true := by
  simpa [memStore, storeMem] using pwrite_wf (dropDirty s space ia bs.length _) _ t.pa bs (by simpa using h)

theorem putLine_wf (s : State) (x : Nat × Nat × Nat) (key : Option (BitVec 512)) (pa : Nat) (h : Memory.wf s.mem = true) :
    Memory.wf (putLine s x key pa).mem = true := by
  unfold putLine
  dsimp only
  rw [foldl_mem _ (fun s d => by simp), dropDirty_mem]
  exact foldl_wf _ (fun s d hs => by simpa using pwrite_wf s key _ _ hs) _ _ h

theorem putThrough_wf (s : State) (x : Nat × Nat × Nat) (e : TEntry) (h : Memory.wf s.mem = true) :
    Memory.wf (putThrough s x e).mem = true := putLine_wf _ _ _ _ h

@[simp] theorem putSector_mem (s : State) (x : Nat × Nat × Nat) (pa : Nat) : (putSector s x pa).mem = s.mem := by
  unfold putSector
  dsimp only
  rw [foldl_mem _ (fun s d => by simp)]
  rfl

theorem lineFate_wf (s : State) (x : Nat × Nat × Nat) (h : Memory.wf s.mem = true) :
    Memory.wf (lineFate s x).1.mem = true := by
  unfold lineFate
  split
  · split <;> exact h
  · exact translate_wf s _ _ _ _ h

theorem writeBackLine_wf (s : State) (x : Nat × Nat × Nat) (h : Memory.wf s.mem = true) :
    Memory.wf (writeBackLine s x).1.mem = true := by
  have ht := lineFate_wf s x h
  unfold writeBackLine
  split <;> rename_i hx <;> rw [hx] at ht
  · split
    · exact putThrough_wf _ _ _ ht
    · split
      · simpa using ht
      · exact putLine_wf _ _ _ _ ht
  · exact ht
  · exact ht

/-! ### The save area -/

theorem saveWrite_wf (s : State) (space off : Nat) (bs : List Byte) (h : Memory.wf s.mem = true) :
    Memory.wf (saveWrite s space off bs).mem = true := by
  unfold saveWrite
  split
  · exact h
  · split
    · exact h
    · rename_i ia _
      have ht := translate_wf s space ia .store false h
      split <;> rename_i hx <;> rw [hx] at ht
      · simpa using pwrite_wf (dropDirty _ space ia bs.length _) _ _ _ (by simpa using ht)
      · exact ht
      · exact ht

theorem saveDrain_wf (s : State) (h : Memory.wf s.mem = true) : Memory.wf (saveDrain s).mem = true := by
  unfold saveDrain
  split
  · exact h
  · exact foldl_wf _ (fun s _ hs => saveWrite_wf s _ _ _ hs) _ _ h

theorem saveRead_wf (s : State) (core : Nat) (fused : Bool) (space off n : Nat) (h : Memory.wf s.mem = true) :
    Memory.wf (saveRead s core fused space off n).1.mem = true := by
  unfold saveRead
  dsimp only
  split
  · exact h
  · split
    · exact h
    · rename_i ia _
      have ht := translate_wf s space ia .load false h
      split <;> rename_i hx <;> rw [hx] at ht
      · exact ht
      · split <;> exact ht
      · exact ht

theorem saveZero_wf (s : State) (space off n : Nat) (h : Memory.wf s.mem = true) :
    Memory.wf (saveZero s space off n).mem = true := foldl_wf _ (fun s _ hs => saveWrite_wf s space _ _ hs) _ s h
theorem saveWriteLong_wf (s : State) (space off : Nat) (m : Cells 8) (n : Nat) (h : Memory.wf s.mem = true) :
    Memory.wf (saveWriteLong s space off m n).mem = true := foldl_wf _ (fun s _ hs => saveWrite_wf s space _ _ hs) _ s h

/-! ### Migration -/

theorem copyFrame_wf (s : State) (key : Option (BitVec 512)) (old new n : Nat) (h : Memory.wf s.mem = true) :
    Memory.wf (copyFrame s key old new n).mem = true := by
  unfold copyFrame
  dsimp only
  rw [noMem_mem]
  exact cellsWf_foldl _ (fun m x hm => cellsWf_memPut _ _ _ hm) _ _
    (cellsWf_foldl _ (fun m x hm => cellsWf_cset _ _ _ hm) _ _ (cellsWf_cclear _ _ _ h))

end Sys2Proof.Machine
end

