-- ==== Sys2Proof/Tests/Demo.lean ====
section
/-! SUPPORT. A small machine for the tests, and how its states meet the conditions of Safety.lean. -/

namespace Sys2Proof.Tests
set_option Elab.async false
open Sys2Proof.Machine

/-! ### A small machine -/

/-- Unguarded, with the plain destination. -/
def h0 : Hdr := ⟨⟨7, false⟩, false, none⟩
/-- A 2 MiB leaf of frame 0, readable, writable, executable, accessed and dirty: PA = IA. -/
def leaf0 : BitVec 128 := 0x000000E000000000B000000000000000
def entry0 : TEntry := ⟨0, 0, true, 0x44000, leaf0, 1⟩
def tr0 (ia : Nat) : Trans := ⟨ia, 0x44000, leaf0, true⟩
def range0 : RangeReg := ⟨0, 0x17, 31, 0⟩
def ranges0 : List RangeReg := (List.replicate 8 noRange).set 0 range0
/-- VA = IA in the first 2 MiB; the save area begins at 0. -/
def ctx0 : Context := { blankContext 0 with rng := ranges0, savesz := 32 }
/-- A team of two warp contexts, the first with one live lane in slot 0. -/
def team0 : Team := newTeam { State.reset with serial := 3 } (probeRec 1) (probeInst 1) probeDesc 0 0 65536 [] []
def state0 : State :=
  { State.reset with
    stage := .ready, parts := State.reset.parts.set 0 probePart, keys := [⟨0, 5⟩], ctxs := [ctx0], recs := [probeRec 1]
    insts := [probeInst 1], teams := [team0], tcache := [entry0], serial := 100 }
/-- The lane of slot 0 issues. -/
def is0 : Issue := ⟨3, 0x100, 8, 0, [(0, 0)], 50⟩

/-- The machine with its team changed, as its lane issues. -/
def issue (f : Team → Team) : State := { state0 with teams := [f team0], cur := some is0 }
def warpBy (f : Warp → Warp) (t : Team) : Team := t.modWarp 0 f
def laneBy (f : Lane → Lane) : Team → Team := warpBy (fun w => w.modLane 0 f)
/-- The warp has a role (R30). -/
def roled (r : Role) (t : Team) : Team := warpBy (fun w => { w with role := r }) t
def tOf (s : State) : Team := (s.team? 3).getD team0
def wOf (s : State) : Warp := ((tOf s).warps[0]?).getD (newWarp 0 0 .general false [])
def lOf (s : State) : Lane := ((wOf s).lanes[0]?).getD (newLane false 0 0)

/-- A computed check of `Issuing` for the one lane of `is0`. -/
def ready (i : Instr) (s : State) : Bool :=
  (s.team? 3 == some (tOf s) && (tOf s).warps[0]? == some (wOf s) && (wOf s).lanes[0]? == some (lOf s)) &&
  (i.hdr? == some h0 && s.cur == some is0) && (s.halt == none && s.lost == [] && s.saveQ == []) &&
  ((wOf s).st == .live && (lOf s).st != .exited) && !gated s 3 0 0 (info i) && (info i).srcs.all (fun r => !r.1.isLatch) &&
  ((info i).tx.isNone && !namesWindow i || (wOf s).tx.depth == 0) &&
  (operandIll (tOf s).desc.win h0 (info i) == none && (info i).role.all (fun r => (wOf s).role == r) && !staleSrc (lOf s) (info i))

theorem placed {i : Instr} {s : State} (h : ready i s = true) :
    s.team? 3 = some (tOf s) ∧ (tOf s).warps[0]? = some (wOf s) ∧ (wOf s).lanes[0]? = some (lOf s) := by
  simp only [ready, Bool.and_eq_true, beq_iff_eq] at h
  exact ⟨h.1.1.1.1.1.1.1.1.1, h.1.1.1.1.1.1.1.1.2, h.1.1.1.1.1.1.1.2⟩

theorem issuing {i : Instr} {s : State} (h : ready i s = true) : Issuing s i h0 is0 (tOf s) := by
  obtain ⟨e, f, g⟩ := placed h
  simp only [ready, Bool.and_eq_true, Bool.or_eq_true, beq_iff_eq, bne_iff_ne, ne_eq, Bool.not_eq_true', Option.isNone_iff_eq_none] at h
  obtain ⟨⟨⟨⟨⟨⟨⟨-, a, b⟩, ⟨c, d⟩, z⟩, j, k⟩, l⟩, m⟩, n⟩, ⟨o, p⟩, q⟩ := h
  have hk : ∀ k ∈ is0.lanes, k = (0, 0) := by simp [is0]
  have one : ∀ k ∈ is0.lanes, ∀ w, (tOf s).warps[k.1]? = some w → w = wOf s := by
    rintro _ hx w hw; rw [hk _ hx] at hw; exact Option.some.inj (hw.symm.trans f)
  have two : ∀ k ∈ is0.lanes, ∀ w x, (tOf s).warps[k.1]? = some w → w.lanes[k.2]? = some x → w = wOf s ∧ x = lOf s := by
    intro k hx w x hw hl
    obtain rfl := one k hx w hw; rw [hk _ hx] at hl
    exact ⟨rfl, Option.some.inj (hl.symm.trans g)⟩
  refine { hdr := a, cur := b, halt := c, lost := d, saved := z, team := e, lanes := ?_, live := ?_, nodup := by decide, free := ?_,
           latches := .inr ?_, calm := ?_, checks := ?_ }
  · rintro _ hx; rw [hk _ hx]; exact ⟨_, _, f, g⟩
  · intro y hx w x hw hl; obtain ⟨rfl, rfl⟩ := two y hx w x hw hl; exact ⟨j, k⟩
  · rintro _ hx; rw [hk _ hx]; exact l
  · intro r hr; simpa using List.all_eq_true.mp m r hr
  · exact n.imp id (fun n k hx w hw => by rw [one k hx w hw]; exact n)
  · intro k hx w x hw hl _
    obtain ⟨rfl, rfl⟩ := two k hx w x hw hl
    exact ⟨o, fun r hr => by simpa [hr] using p, q⟩

theorem active {i : Instr} {s : State} (h : ready i s = true) : Active (tOf s) is0 h0 (0, 0) (wOf s) (lOf s) :=
  ⟨⟨by simp [is0], (placed h).2⟩, rfl⟩

/-- The active lanes are the one of `is0`. -/
theorem alone {i : Instr} {s : State} (h : ready i s = true) : OneLane (tOf s) is0 h0 (0, 0) := by
  obtain ⟨-, f, g⟩ := placed h
  simp [OneLane, activeLanes, is0, guarded, f, g, h0, guardHolds, Lane.rdP]

theorem aloneW {i : Instr} {s : State} (h : ready i s = true) : OneWarp (tOf s) is0 h0 (0, 0) := by
  have := alone h
  simp only [OneLane] at this
  simp [OneWarp, this]

/-- An active lane is the one of `is0`. -/
theorem only {i : Instr} {s : State} (h : ready i s = true) {k : Nat × Nat} {w : Warp} {l : Lane}
    (a : Active (tOf s) is0 h0 k w l) : k = (0, 0) ∧ w = wOf s ∧ l = lOf s := by
  have hk : k = (0, 0) := by simpa [is0] using a.1.1
  subst hk
  have b := active h
  obtain rfl := Option.some.inj (a.1.2.1.symm.trans b.1.2.1)
  exact ⟨rfl, rfl, Option.some.inj (a.1.2.2.symm.trans b.1.2.2)⟩

/-- No lane waits for a grant. -/
theorem noRequest {i : Instr} {s : State} (h : ready i s = true) (g : ((lOf s).leaveId).isNone = true) : NoRequest (tOf s) is0 h0 := by
  intro k w l a n e
  obtain ⟨-, -, rfl⟩ := only h a
  simp [Lane.leaveId, e] at g

/-! ### Its memory -/

theorem ownedAt {s : State} {sp : Nat} (hs : sp < 65536) (hk : s.keys = [⟨0, 5⟩]) : ownerKey s sp leaf0 = some 5 := by
  have h1 : leafOwner leaf0 = 0 := by decide
  have h2 : leafNode leaf0 = false := by decide
  simp [ownerKey, h1, h2, State.keyOf, hk, Nat.div_eq_of_lt hs]

theorem owned {s : State} (hk : s.keys = [⟨0, 5⟩]) : ownerKey s 0 leaf0 = some 5 := ownedAt (by decide) hk

/-- The page of `entry0` in a space. -/
theorem warmedAt {s : State} {n sp : Nat} (hs : sp < 65536) (ht : s.tcache = [{ entry0 with count := n, space := sp }])
    (hk : s.keys = [⟨0, 5⟩]) {ia : Nat} (h : ia < 2 ^ 21) (need : Need) (lane : Bool) : Warm s sp ia need lane (tr0 ia) := by
  have hc : cached s sp ia = some { entry0 with count := n, space := sp } := by
    have : ia / 2097152 = 0 := by omega
    simp [cached, ht, entry0, pageOf, this]
  have hm : ia % 2097152 = ia := by omega
  have hown := ownedAt hs hk
  refine ⟨by rw [hc]; rfl, ?_, ⟨show leafA leaf0 = true by decide, show leafD leaf0 = true by decide⟩, ?_, .inl (by simp [tr0]; omega)⟩
  · have e1 : leafFrz leaf0 = false := by decide
    have e2 : ∀ n, leafAllows leaf0 n = true := by intro n; cases n <;> decide
    have e3 : leafNode leaf0 = false := by decide
    have e4 : leafFrame leaf0 = 0 := by decide
    simp [lookup, hc, leafCheck, entry0, e1, e2, hown, e3, e4, physKey, tr0, hm]
  · have : leafNode leaf0 = false := by decide
    simp [unreachable, tr0, this]

theorem warmed {s : State} {n : Nat} (ht : s.tcache = [{ entry0 with count := n }]) (hk : s.keys = [⟨0, 5⟩]) {ia : Nat} (h : ia < 2 ^ 21)
    (need : Need) (lane : Bool) : Warm s 0 ia need lane (tr0 ia) := warmedAt (sp := 0) (by decide) ht hk h need lane

theorem warm {s : State} (ht : s.tcache = [entry0]) (hk : s.keys = [⟨0, 5⟩]) {ia : Nat} (h : ia < 2 ^ 21)
    (need : Need) (lane : Bool) : Warm s 0 ia need lane (tr0 ia) := warmed (n := 1) ht hk h need lane

/-- The first 2 MiB are allowed, VA = IA. -/
theorem ranged {c : Context} (hr : c.rng = ranges0) {va : Nat} (h : va < 2 ^ 21) (need : Need) :
    rangeCheck c (BitVec.ofNat 64 va) need = .ok va := by
  have e : (BitVec.ofNat 64 va).toNat = va := by simp only [BitVec.toNat_ofNat]; omega
  have top : ((BitVec.ofNat 64 va).extractLsb' 56 8 != 0) = false := by
    have : (BitVec.ofNat 64 va).extractLsb' 56 8 = 0 := by
      apply BitVec.eq_of_toNat_eq
      simp only [BitVec.extractLsb'_toNat, e, Nat.shiftRight_eq_div_pow]
      have : va / 2 ^ 56 % 2 ^ 8 = 0 := by omega
      simpa using this
    simp [this]
  have find : rangeOf c va = some range0 := by
    have hv : va / 65536 ≤ 31 := by omega
    unfold rangeOf
    rw [hr]
    exact List.find?_cons_of_pos (by
      have b1 : RangeReg.valid range0 = true := by decide
      have b2 : RangeReg.first range0 = 0 := by decide
      have b3 : RangeReg.last range0 = 31 := by decide
      simp [b1, b2, b3, hv])
  unfold rangeCheck
  rw [top, e, find]
  have b1 : ∀ n, RangeReg.allows range0 n = true := by intro n; cases n <;> decide
  have b2 : RangeReg.first range0 = 0 := by decide
  have b3 : RangeReg.iaFirst range0 = 0 := by decide
  simp [b1, b2, b3]

/-- The save area's page at an offset stands at that PA. -/
theorem savePageAt {s : State} {c : Context} {sp page : Nat} (hsp : sp < 65536) (ht : s.tcache = [{ entry0 with space := sp }])
    (hk : s.keys = [⟨0, 5⟩]) (hl : s.lineKey = []) (h1 : s.l1 = []) (hc : s.ctx? sp = some c) (hr : c.rng = ranges0)
    (hb : c.savebase = 0) (ha : page % 65536 = 0) (hs : page + 65536 ≤ 2 ^ 21) : SavePage s sp page c page leaf0 := by
  refine ⟨hc, ha, ?_, ?_, ?_⟩
  · intro need _ j hj
    refine ⟨page + j, tr0 (page + j), ?_, warmedAt (n := 1) hsp ht hk (by omega) need false, rfl, rfl⟩
    rw [hb, show (0 : DWord) + BitVec.ofNat 64 (page + j) = BitVec.ofNat 64 (page + j) by simp]
    exact ranged hr (by omega) need
  · intro x _ k0 h; simp [hl] at h
  · intro d hd; simp [h1] at hd

theorem savePage {s : State} {c : Context} {page : Nat} (ht : s.tcache = [entry0]) (hk : s.keys = [⟨0, 5⟩])
    (hl : s.lineKey = []) (h1 : s.l1 = []) (hc : s.ctx? 0 = some c) (hr : c.rng = ranges0) (hb : c.savebase = 0)
    (ha : page % 65536 = 0) (hs : page + 65536 ≤ 2 ^ 21) : SavePage s 0 page c page leaf0 :=
  savePageAt (by decide) ht hk hl h1 hc hr hb ha hs

theorem savePage0 {s : State} {c : Context} {space page : Nat} (hsp : space = 0) (ht : s.tcache = [entry0]) (hk : s.keys = [⟨0, 5⟩])
    (hl : s.lineKey = []) (h1 : s.l1 = []) (hc : s.ctx? 0 = some c) (hr : c.rng = ranges0) (hb : c.savebase = 0)
    (ha : page % 65536 = 0) (hs : page + 65536 ≤ 2 ^ 21) : SavePage s space page c page leaf0 := by
  subst hsp; exact savePage ht hk hl h1 hc hr hb ha hs

theorem warm0 {s : State} {space ia : Nat} (hsp : space = 0) (ht : s.tcache = [entry0]) (hk : s.keys = [⟨0, 5⟩]) (h : ia < 2 ^ 21)
    (need : Need) (lane : Bool) : Warm s space ia need lane (tr0 ia) := by
  subst hsp; exact warm ht hk h need lane

theorem noDirty {s : State} (h : s.l1 = []) (space : Nat) : NoDirty s space := by
  intro d hd; simp [h] at hd

theorem clean {s : State} (h : s.l1 = []) (space : Nat) (hp : peerLost s = false := by rfl) : CleanSpace s space :=
  ⟨noDirty h space, fun d hd => by simp [h] at hd, hp⟩

theorem unkeyed {s : State} (h : s.lineKey = []) (key : Option (BitVec 512)) (pa n : Nat) : KeyedAs s key pa n := by
  intro x _ k0 hx; simp [h] at hx

theorem stands {s : State} {c : Context} (ht : s.tcache = [entry0]) (hk : s.keys = [⟨0, 5⟩]) (hl : s.lineKey = [])
    (hc : s.ctx? 0 = some c) (hr : c.rng = ranges0) {va n : Nat} (h : va < 2 ^ 21) (hp : va % 65536 + n ≤ 65536) : StandsVa s 0 va n va :=
  ⟨c, va, tr0 va, hc, ranged hr h .store, warm ht hk h .store false, rfl, hp, unkeyed hl _ _ _⟩

theorem noBlock {s : State} (h : s.ctxs = [ctx0]) (space : Nat) : NoDebugBlock s space := by
  intro c hc
  have : c ∈ s.ctxs := List.mem_of_find?_eq_some hc
  rw [h, List.mem_singleton] at this
  subst this; rfl

theorem noTries {s : State} (h : s.teams.all (fun t => t.warps.all (fun w => w.tx.depth == 0)) = true) : NoTryAtAll s := by
  intro t ht w hw
  simpa using List.all_eq_true.mp (List.all_eq_true.mp h t ht) w hw

theorem noTry {t : Team} (h : t.warps.all (fun w => w.tx.depth == 0) = true) : NoTry t := by
  intro w hw; simpa using List.all_eq_true.mp h w hw

theorem noRun {s : State} (h : s.teams = []) (space : Nat) : NoneRuns s space := by
  intro t ht; simp [h] at ht

/-! ### Its tiles and operations -/

/-- A shape by its fields. -/
def shp (ty scale rows cols pitch base : Nat) : DWord :=
  BitVec.ofNat 64 (ty * 2 ^ 60 + scale * 2 ^ 58 + (rows - 1) * 2 ^ 46 + (cols - 1) * 2 ^ 34 + pitch * 2 ^ 18 + base / 64)
/-- The team with a tile of a shape in a state. -/
def tiled (n : Nat) (x : DWord) (st : TileSt) (t : Team) : Team :=
  { t with tsh := cset t.tsh n x, ttab := t.ttab.set n ⟨st, false, false, none⟩ }
/-- Operation 9 of the team. -/
def op0 (i : Instr) (args ias tiles : List Nat) : EngOp where
  id := 9
  ins := i
  team := 3
  warp := 0
  lane := 0
  pc := 0x100
  len := 8
  bits := 0
  args := args
  ias := ias
  tiles := tiles
  pos := 0
  stuck := false
  charge := 0
  dst := none
  latch := none
/-- The team with its operation under way. -/
def working (f : Team → Team) (o : EngOp) : State := { state0 with teams := [f team0], ops := [o] }

theorem streamed {s : State} (ht : s.tcache = [entry0]) (hk : s.keys = [⟨0, 5⟩]) (hl : s.lineKey = []) (need : Need)
    {bs : List Beat} (h : bs.all (fun b => decide (b.ia < 2 ^ 21 ∧ 0 < b.len ∧ b.ia / 128 = (b.ia + b.len - 1) / 128)) = true)
    (hb : s.badBytes = [] := by rfl) : Streamed s 0 need (some 5) bs (fun b => tr0 b.ia) := by
  have g : ∀ b ∈ bs, b.ia < 2 ^ 21 ∧ 0 < b.len ∧ b.ia / 128 = (b.ia + b.len - 1) / 128 := by
    intro b hb; simpa using List.all_eq_true.mp h b hb
  refine ⟨fun b hb => warm ht hk (g b hb).1 need false, fun b _ => ?_, fun b _ => unkeyed hl _ _ _, fun b hb => (g b hb).2,
    .inr (fun b _ => by simp [corrupt, hb])⟩
  exact owned hk

theorem rangedAll {s : State} {c : Context} (hc : s.ctx? 0 = some c) (hr : c.rng = ranges0) (need : Need) {bs : List Beat}
    (h : bs.all (fun b => decide (b.va < 2 ^ 21)) = true) : Ranged s 0 need bs :=
  ⟨c, hc, fun b hb => ⟨b.va, ranged hr (by simpa using List.all_eq_true.mp h b hb) need⟩⟩

/-- A run of the save area is warm, VA = IA = PA. -/
theorem warmRun {s : State} {c : Context} (ht : s.tcache = [entry0]) (hk : s.keys = [⟨0, 5⟩]) (hc : s.ctx? 0 = some c)
    (hr : c.rng = ranges0) (hb : c.savebase = 0) (need : Need) {off n : Nat} (h : off + n ≤ 2 ^ 21) : WarmRun s 0 need off n := by
  refine ⟨c, hc, fun j hj => ⟨off + j, tr0 (off + j), ?_, warm ht hk (by omega) need false⟩⟩
  rw [hb, show (0 : DWord) + BitVec.ofNat 64 (off + j) = BitVec.ofNat 64 (off + j) by simp]
  exact ranged hr (by omega) need

theorem saveRun {s : State} {c : Context} (ht : s.tcache = [entry0]) (hk : s.keys = [⟨0, 5⟩]) (hl : s.lineKey = []) (h1 : s.l1 = [])
    (hc : s.ctx? 0 = some c) (hr : c.rng = ranges0) (hb : c.savebase = 0) {off n : Nat} (h : off + n ≤ 2 ^ 21) :
    SaveRun s 0 off n c off (some 5) := by
  refine ⟨hc, fun j hj => ⟨off + j, tr0 (off + j), ?_, warm ht hk (by omega) .load false, rfl, ?_⟩, unkeyed hl _ _ _, noDirty h1 _⟩
  · rw [hb, show (0 : DWord) + BitVec.ofNat 64 (off + j) = BitVec.ofNat 64 (off + j) by simp]
    exact ranged hr (by omega) .load
  · exact owned hk

/-- The value of a computation, with a check of it. -/
theorem okOf {ε α : Type} (o : Except ε α) (p : α → Bool) (h : (match o with | .ok a => p a | .error _ => false) = true) :
    ∃ a, o = .ok a ∧ p a = true := by
  match o, h with
  | .ok a, h => exact ⟨a, rfl, h⟩

theorem settled {t : Team} {is : Issue} (h : t.warps.all (fun w => w.lanes.all (fun l => l.bp == noLatches)) = true) : Settled t is := by
  refine .inr (fun k w l m => ?_)
  have := List.all_eq_true.mp (List.all_eq_true.mp h w (List.mem_of_getElem? m.2.1)) l (List.mem_of_getElem? m.2.2)
  simpa using this

theorem saveable {s : State} {t : Team} {c : Context} (ht : s.tcache = [entry0]) (hk : s.keys = [⟨0, 5⟩]) (hc : s.ctx? 0 = some c)
    (hr : c.rng = ranges0) (hb : c.savebase = 0) (hs : t.space = 0)
    (hn : t.warps.length ≤ t.desc.limit ∧ t.frameF + frameSize t.desc ≤ 2 ^ 21) (hf : t.frame.st = .empty) : Saveable s t :=
  ⟨hn.1, by rw [hs]; exact warmRun ht hk hc hr hb _ hn.2, fun h => absurd hf h⟩

/-- The first warp may enter the supervisor handler: the page of its slot is at 0x20000. -/
theorem mayEnter {s : State} {t : Team} {w : Warp} {c : Context} (ht : s.tcache = [entry0]) (hk : s.keys = [⟨0, 5⟩])
    (hl : s.lineKey = []) (h1 : s.l1 = []) (hc : s.ctx? 0 = some c) (hr : c.rng = ranges0) (hb : c.savebase = 0)
    (hu : s.team? 3 = some t) (hw : t.warps[0]? = some w)
    (hx : w.lanes.length = 32 ∧ w.sbusy = false ∧ w.tx.depth = 0 ∧ t.frameF = 65536 ∧ t.space = 0)
    (hn : t.saving = none := by rfl) : MayEnter s 3 0 t w c 0x20000 := by
  obtain ⟨x1, x2, x3, x4, x5⟩ := hx
  refine ⟨hu, hw, x1, ⟨x2, x3⟩, hn, by rw [x4], leaf0, ?_⟩
  rw [show slotOff t 0 / 65536 * 65536 = 0x20000 by simp [slotOff, x4], x5]
  exact savePage ht hk hl h1 hc hr hb (by decide) (by decide)

end Sys2Proof.Tests
end

