-- ==== Sys2Proof/Tests/Slice0.lean ====
section
/-! SUPPORT. Tests: ill-formed terms, words written out from the tables of R148 to R158, R177, R200, R209, R213, R216, R217,
R220, R234, R242, R252, R258, R265 and R304, and single steps with results that the spec's own examples give. -/

namespace Sys2Proof.Tests
set_option Elab.async false
open Sys2Proof.Machine

/-! ### Terms that are not well formed -/

def plainF : FMod := ⟨false, false, false, false, false, false, .rn⟩
def w0 : AccM := ⟨.w, .alloc, false, .b32⟩
def a0 : AtomM := ⟨.d, .alloc, false, false, false⟩
def m0 : VsM := ⟨0, .rn, 1, 0, 0, 0⟩

/-- R148: the guard `?!p7`. -/
theorem test_wf_guard : (Instr.nop ⟨⟨7, true⟩, false, none⟩).wf = false := by decide
/-- R151: UN belongs to FSET alone. -/
theorem test_wf_cond : [Instr.brc h0 .un false (.v 0) 0, .iset h0 .un false 0 (.v 0) (.imm 0)].all (fun i => !i.wf) = true := by decide
/-- R200: U without SAT. -/
theorem test_wf_sat : [Instr.iadd h0 false true (.v 0) (.v 0) (.imm 0), .isub h0 false true (.v 0) (.v 0) (.imm 0)].all (fun i => !i.wf) = true := by
  decide
/-- R209: a modifier that the opcode does not have. -/
theorem test_wf_modifiers : [Instr.fadd h0 { plainF with nc := true } (.v 0) (.v 0) (.imm 0), .fmin h0 { plainF with sat := true } (.v 0) (.v 0) (.imm 0),
    .frnd h0 { plainF with nb := true } (.v 0) (.v 0), .fscale h0 { plainF with ab := true } (.v 0) (.v 0) (.imm 0),
    .hfma2 h0 { plainF with aa := true } (.v 0) (.v 0) (.v 0) (.v 0), .hadd2 h0 { plainF with nc := true } (.v 0) (.v 0) (.v 0),
    .cadd h0 { plainF with sat := true } (.v 0) (.v 0) (.v 0), .cfma h0 { plainF with sat := true } (.v 0) (.v 0) (.v 0) (.v 0),
    .cmag2 h0 { plainF with na := true } (.v 0) (.v 0), .cscale h0 { plainF with ab := true } (.v 0) (.v 0) (.imm 0)].all (fun i => !i.wf) = true := by
  decide
/-- R153: SAT without E5M2, and a rounding mode of a widening. -/
theorem test_wf_fcvt : [Instr.fcvt h0 false .e4m3 true .rn (.v 0) (.v 0), .fcvt h0 true .bf16 false .rz (.v 0) (.v 0)].all (fun i => !i.wf) = true := by decide
/-- R152, R220: an ordinary access with a scope, a hint of LDS, a store that extends, a STRONG bit of LDA, U and W64. -/
theorem test_wf_accesses : [Instr.ld h0 { w0 with scope := .d } (.v 0) ⟨.v 0, none⟩, .lds h0 { w0 with hint := .stream } (.v 0) ⟨.v 0, none⟩,
    .st h0 { w0 with width := .s8 } ⟨.v 0, none⟩ (.v 0), .sts h0 { w0 with width := .s16 } ⟨.v 0, none⟩ (.v 0),
    .lda h0 { w0 with strong := true } (.v 0) ⟨.v 0, none⟩, .stl h0 { w0 with width := .s8 } ⟨.v 0, none⟩ (.v 0),
    .atomAdd h0 { a0 with u := true } (.v 0) ⟨.v 0, none⟩ (.v 0), .atomFadd h0 { a0 with w64 := true } (.v 0) ⟨.v 0, none⟩ (.v 0),
    .acas h0 { a0 with u := true } (.v 0) ⟨.v 0, none⟩ (.v 0) (.v 0)].all (fun i => !i.wf) = true := by decide
/-- R234: a register of the wrong kind. -/
theorem test_wf_kinds : [Instr.tdecl h0 0 (.reg (.v 0)), .movTshFromS h0 0 (.v 0), .movSFromTsh h0 (.v 0) 0, .movQFromV h0 0 (.s 0),
    .movVFromQ h0 (.s 0) 0].all (fun i => !i.wf) = true := by decide
/-- R157, R242: an override that the opcode does not accept, and low bits of PBO. -/
theorem test_wf_overrides : [Instr.mlw h0 ⟨true, false, 0, 0, 0⟩, .mq h0 ⟨false, true, 0, 0, 0⟩, .mma h0 ⟨false, false, 0, 0, 32⟩].all (fun i => !i.wf) = true := by
  decide
/-- R156: a count in both places. -/
theorem test_wf_counts : [Instr.vadd h0 { m0 with sreg := 3 } false 0 0 (.tile 0), .vcpy h0 { m0 with sreg := 63 } 0 0].all (fun i => !i.wf) = true := by decide
/-- R308, R318: codes beyond their limits. -/
theorem test_wf_codes : [Instr.stamp h0 (.imm 0x10000), .leave h0 (.imm 0x105)].all (fun i => !i.wf) = true := by decide
/-- A step of another agent has no encoding. -/
theorem test_wf_events : Instr.linkTraining.wf = false := by decide

/-! ### Words -/

/-- The decoder reads a word as the instruction, and the encoder writes the word. -/
def reads (x : Nat × Nat × Instr) : Bool := decodeTableWord x.1 x.2.1 == some x.2.2 && x.2.2.wf && (encode x.2.2).toNat == x.2.1

/-- Page 0. -/
def words0 : List (Nat × Nat × Instr) :=
  [(64, 0x0000000000007000, .nop h0),
   (96, 0xFFFFFFF90000000000007005, .bra h0 0xFFFFFFF9),
   (96, 0x000000080000000070007009, .brc h0 .eq false (.v 7) 8),
   (96, 0x000000010680000FF0007009, .brc h0 .ge true (.s 63) 1),
   (64, 0x0000000BE000700C, .jmpi h0 (.v 190)),
   (96, 0x000000100000000000147011, .call h0 (.v 20) 0x10),
   (64, 0x0000000140007014, .ret h0 (.v 20)),
   (64, 0x0000000000007018, .reform h0),
   (64, 0x000000000000701C, .yield h0),
   (64, 0x0000000000007020, .exit h0),
   (96, 0x000000200100000080037025, .spawn h0 (.try_ 3) 8 0x20),
   (64, 0x0000000000067028, .elect h0 6),
   (64, 0x018000002004702C, .vote h0 (.ballot (.v 4)) ⟨false, 2⟩),
   (64, 0x01000000D001702C, .vote h0 (.eq 1) ⟨true, 5⟩),
   (96, 0x000000030080000040057031, .shfl h0 .rot (.v 5) (.v 4) (.imm 3)),
   (64, 0x0180183030057030, .shfl h0 .seg (.v 5) (.bp 3) (.reg (.s 1))),
   (64, 0x0380000000007034, .bar h0 7),
   (64, 0x6000000000007038, .phase h0 .s),
   (64, 0x028000009002703C, .emit h0 5 2 (.v 9)),
   (64, 0x0000000000007040, .region h0),
   (96, 0x000000030000000000007045, .tryOpen h0 3),
   (64, 0x0000000000007048, .tcommit h0),
   (64, 0x0080000000007048, .tcommitLane h0),
   (64, 0x018000000000404C, .tabort ⟨⟨4, false⟩, false, none⟩ 3),
   (64, 0xFF8000000000704C, .tabortLane h0 255),
   (64, 0x00000000000B7050, .tstat h0 (.v 11)),
   (64, 0x0080000000007054, .getid h0 .warp (.v 0)),
   (64, 0x0480000000017054, .getid h0 .depth (.v 1)),
   (64, 0x4000000000007058, .brk h0 0x80)]
theorem test_decode_control : words0.all reads = true := by decide +kernel

/-- Page 1. -/
def words1 : List (Nat × Nat × Instr) :=
  [(64, 0x0000009010057200, .iadd h0 false false (.v 5) (.bp 1) (.reg (.v 4))),
   (96, 0xFFFFF9000180000090097201, .iadd h0 true true (.v 9) (.v 9) (.imm 0xFFFFF900)),
   (64, 0x0100180010C27204, .isub h0 true false (.s 2) (.v 1) (.reg (.s 0))),
   (64, 0x0000008030027208, .imul h0 (.v 2) (.v 3) (.reg (.v 4))),
   (96, 0x00000005008000003002720D, .imulh h0 true (.v 2) (.v 3) (.imm 5)),
   (64, 0x0001408030027210, .imad h0 (.v 2) (.v 3) (.v 4) (.reg (.v 5))),
   (96, 0x000000070000008030027211, .imad h0 (.v 2) (.v 3) (.v 4) (.imm 7)),
   (64, 0x010000C040027214, .iadd64 h0 true (.v 2) (.v 4) (.reg (.v 6))),
   (128, 0x123456789ABCDEF00000000040027216, .iadd64 h0 false (.v 2) (.v 4) (.imm 0x123456789ABCDEF0)),
   (64, 0x010000A030027218, .imul64 h0 true false (.v 2) (.v 3) (.v 5)),
   (64, 0x010000A03002721C, .idiv h0 true false (.v 2) (.v 3) (.reg (.v 5))),
   (96, 0x000000090080000030027221, .irem h0 false true (.v 2) (.v 3) (.imm 9)),
   (64, 0x008000A030027224, .imin h0 true (.v 2) (.v 3) (.reg (.v 5))),
   (64, 0x000000A030027228, .imax h0 false (.v 2) (.v 3) (.reg (.v 5))),
   (64, 0x010000003002722C, .iabs h0 true (.v 2) (.v 3)),
   (96, 0x000000070000000022037231, .and ⟨⟨7, false⟩, false, some 1⟩ (.v 3) (.v 2) (.imm 7)),
   (64, 0x000000A030027234, .or h0 (.v 2) (.v 3) (.reg (.v 5))),
   (64, 0x000000A030027238, .xor h0 (.v 2) (.v 3) (.reg (.v 5))),
   (64, 0x000000A03002723C, .andn h0 (.v 2) (.v 3) (.reg (.v 5))),
   (96, 0x000000050000000009007241, .shl ⟨⟨7, false⟩, true, some 0⟩ (.v 0) (.v 0) (.imm 5)),
   (64, 0x000000A030027244, .shr h0 (.v 2) (.v 3) (.reg (.v 5))),
   (96, 0x000000280000000040047249, .sar h0 (.v 4) (.v 4) (.imm 40)),
   (64, 0x000000A03002724C, .rotl h0 (.v 2) (.v 3) (.reg (.v 5))),
   (96, 0x000008040080000030027251, .bfx h0 true (.v 2) (.v 3) (.imm 0x804)),
   (96, 0x00000804000000A030027255, .bfi h0 (.v 2) (.v 3) (.v 5) (.imm 0x804)),
   (64, 0x0000000030027258, .popc h0 (.v 2) (.v 3)),
   (64, 0x000000003002725C, .clz h0 (.v 2) (.v 3)),
   (64, 0x0200182050017260, .iset h0 .lt false 1 (.v 5) (.reg (.s 1))),
   (96, 0x000000000003400080087265, .sel h0 (.v 8) ⟨true, 5⟩ (.v 8) (.imm 0)),
   (64, 0x0000001000027268, .mov h0 (.v 2) (.bp 0)),
   (96, 0x7EF311C300000000000C726D, .movi h0 (.v 12) (.i32 0x7EF311C3)),
   (128, 0x80000000000000010000000000C2726E, .movi h0 (.s 2) (.i64 0x8000000000000001)),
   (64, 0x040000CC800A7270, .lea h0 true 0 (.v 10) (.s 8) (.reg (.v 6))),
   (96, 0x000000030380000120147271, .lea h0 false 7 (.v 20) (.v 18) (.imm 3)),
   (128, 0x00000000000001000780004120147272, .lea h0 true 7 (.v 20) (.v 18) (.wide (.v 2) 0x100))]
theorem test_decode_integer : words1.all reads = true := by decide +kernel

/-- Page 2. -/
def words2 : List (Nat × Nat × Instr) :=
  [(64, 0x0080008030027400, .fadd h0 ⟨false, false, false, false, false, false, .rz⟩ (.v 2) (.v 3) (.reg (.v 4))),
   (64, 0x4800008030027404, .fsub h0 ⟨false, true, false, false, true, false, .rn⟩ (.v 2) (.v 3) (.reg (.v 4))),
   (96, 0x3F8000001100000030027409, .fmul h0 ⟨false, false, false, true, false, false, .ru⟩ (.v 2) (.v 3) (.imm 0x3F800000)),
   (96, 0x3F800000800001C0C00D740D, .ffma h0 ⟨true, false, false, false, false, false, .rn⟩ (.v 13) (.v 12) (.v 14) (.imm 0x3F800000)),
   (64, 0x2603C1C0C00D740C, .ffma h0 ⟨false, false, true, false, false, true, .rna⟩ (.v 13) (.v 12) (.v 14) (.reg (.v 15))),
   (64, 0x4000008030027410, .fmin h0 ⟨false, true, false, false, false, false, .rn⟩ (.v 2) (.v 3) (.reg (.v 4))),
   (64, 0x1000008030027414, .fmax h0 ⟨false, false, false, true, false, false, .rn⟩ (.v 2) (.v 3) (.reg (.v 4))),
   (64, 0x1800004020047418, .fset h0 .un .rn 4 (.v 2) (.reg (.v 2))),
   (64, 0x000000003002741C, .fcls h0 (.v 2) (.v 3)),
   (64, 0x8180000030027420, .frnd h0 ⟨true, false, false, false, false, false, .rd⟩ (.v 2) (.v 3)),
   (96, 0xFFFFFFFF0400000030027425, .fscale h0 ⟨false, false, false, false, false, true, .rn⟩ (.v 2) (.v 3) (.imm 0xFFFFFFFF)),
   (64, 0x2480000030027428, .fcvt h0 false .e5m2 true .rz (.v 2) (.v 3)),
   (64, 0xC000000030027428, .fcvt h0 true .mxi8 false .rn (.v 2) (.v 3)),
   (64, 0xA400000030027428, .fcvt h0 true .e5m2 true .rn (.v 2) (.v 3)),
   (64, 0x100000006007742C, .icvt h0 false .f32 .s32 .rn (.v 7) (.v 6)),
   (64, 0xD88000005006742C, .icvt h0 true .bf16 .s64 .rz (.v 6) (.v 5)),
   (64, 0x008100C050047430, .hfma2 h0 ⟨false, false, false, false, false, false, .rz⟩ (.v 4) (.v 5) (.v 6) (.v 4)),
   (64, 0x800000C050047434, .hadd2 h0 ⟨true, false, false, false, false, false, .rn⟩ (.v 4) (.v 5) (.v 6)),
   (64, 0x040000C050047438, .hmul2 h0 ⟨false, false, false, false, false, true, .rn⟩ (.v 4) (.v 5) (.v 6)),
   (64, 0x2001C0C05004743C, .bfma2 h0 ⟨false, false, true, false, false, false, .rn⟩ (.v 4) (.v 5) (.v 6) (.v 7)),
   (64, 0x0800010060047440, .cadd h0 ⟨false, false, false, false, true, false, .rn⟩ (.v 4) (.v 6) (.v 8)),
   (64, 0x1000010060047444, .csub h0 ⟨false, false, false, true, false, false, .rn⟩ (.v 4) (.v 6) (.v 8)),
   (64, 0x4080010060047448, .cmul h0 ⟨false, true, false, false, false, false, .rz⟩ (.v 4) (.v 6) (.v 8)),
   (64, 0x000503016014744C, .cfma h0 ⟨false, false, false, false, false, false, .rn⟩ (.v 20) (.v 22) (.v 24) (.v 20)),
   (64, 0x1100000060057450, .cmag2 h0 ⟨false, false, false, true, false, false, .ru⟩ (.v 5) (.v 6)),
   (64, 0xC000006060047454, .cscale h0 ⟨true, true, false, false, false, false, .rn⟩ (.v 4) (.v 6) (.reg (.v 3)))]
theorem test_decode_float : words2.all reads = true := by decide +kernel

/-- Page 3. -/
def words3 : List (Nat × Nat × Instr) :=
  [(96, 0x000000108600000020047601, .ld h0 ⟨.d, .alloc, true, .b32⟩ (.v 4) ⟨.v 2, some 16⟩),
   (64, 0x1300000020047600, .ld h0 ⟨.w, .noalloc, false, .b128⟩ (.v 4) ⟨.v 2, none⟩),
   (96, 0x00000080020000C040007605, .st h0 ⟨.w, .alloc, false, .b32⟩ ⟨.v 4, some 128⟩ (.v 6)),
   (64, 0x2580000030047608, .lds h0 ⟨.t, .alloc, true, .s16⟩ (.v 4) ⟨.v 3, none⟩),
   (64, 0x02000100A000760C, .sts h0 ⟨.w, .alloc, false, .b32⟩ ⟨.v 10, none⟩ (.v 8)),
   (96, 0xFFFFFFFC0200000030047611, .ldw h0 (.v 4) ⟨.v 3, some 0xFFFFFFFC⟩),
   (64, 0x020000A030007614, .stw h0 ⟨.v 3, none⟩ (.v 5)),
   (64, 0x82000000A0077618, .lda h0 ⟨.d, .alloc, false, .b32⟩ (.v 7) ⟨.v 10, none⟩),
   (64, 0x82001800C000761C, .stl h0 ⟨.d, .alloc, false, .b32⟩ ⟨.v 12, none⟩ (.s 0)),
   (64, 0x8400008020067620, .atomAdd h0 ⟨.d, .alloc, true, false, false⟩ (.v 6) ⟨.v 2, none⟩ (.v 4)),
   (64, 0x6100008020067624, .atomMin h0 ⟨.s, .alloc, false, false, true⟩ (.v 6) ⟨.v 2, none⟩ (.v 4)),
   (64, 0x8200008020067628, .atomMax h0 ⟨.d, .alloc, false, true, false⟩ (.v 6) ⟨.v 2, none⟩ (.v 4)),
   (64, 0x880000802006762C, .atomAnd h0 ⟨.d, .stream, false, false, false⟩ (.v 6) ⟨.v 2, none⟩ (.v 4)),
   (64, 0xA000008020067630, .atomOr h0 ⟨.n, .alloc, false, false, false⟩ (.v 6) ⟨.v 2, none⟩ (.v 4)),
   (64, 0xC000008020067634, .atomXor h0 ⟨.y, .alloc, false, false, false⟩ (.v 6) ⟨.v 2, none⟩ (.v 4)),
   (64, 0x8000008020067638, .atomXchg h0 ⟨.d, .alloc, false, false, false⟩ (.v 6) ⟨.v 2, none⟩ (.v 4)),
   (64, 0x000000802006763C, .atomFadd h0 ⟨.w, .alloc, false, false, false⟩ (.v 6) ⟨.v 2, none⟩ (.v 4)),
   (64, 0x8202008020067640, .acas h0 ⟨.d, .alloc, false, true, false⟩ (.v 6) ⟨.v 2, none⟩ (.v 4) (.v 8)),
   (64, 0x8000000000007644, .fence h0 .d),
   (64, 0x0000006C80017648, .mcast h0 1 (.s 8) (.v 3)),
   (96, 0x00000004080000002000764D, .pref h0 .stream ⟨.v 2, some 4⟩)]
theorem test_decode_memory : words3.all reads = true := by decide +kernel

/-- Page 4. -/
def words4 : List (Nat × Nat × Instr) :=
  [(128, 0x100FC0FC020001000000000000097802, .tdecl h0 9 (.imm 0x100FC0FC02000100)),
   (64, 0x0000000C40037800, .tdecl h0 3 (.reg (.s 4))),
   (64, 0x0000000000017804, .tarm h0 1),
   (64, 0x000000C020047808, .cpyin h0 ⟨none, .alloc⟩ 4 ⟨.v 2, none⟩ (.v 6)),
   (96, 0x00000200B08000CC8002780D, .cpyout h0 true ⟨some .s, .alloc⟩ 2 ⟨.s 8, some 512⟩ (.v 6)),
   (64, 0x0000000090077810, .tstate h0 (.v 7) 9),
   (64, 0x00000000001F7814, .tfree h0 31),
   (64, 0x0100000000057818, .rrot h0 true false 5),
   (64, 0x000000800000781C, .rpush h0 0 (.tile 4)),
   (64, 0x008001207000781C, .rpush h0 7 (.reg (.v 9))),
   (64, 0x0000000000027820, .rpop h0 (.v 2) 0),
   (64, 0x0000000CA0047824, .movTshFromS h0 4 (.s 10)),
   (64, 0x0000000060CC7828, .movSFromTsh h0 (.s 12) 6),
   (64, 0x00000000E003782C, .movQFromV h0 3 (.v 14)),
   (64, 0x0000000020107830, .movVFromQ h0 (.v 16) 2)]
theorem test_decode_tile : words4.all reads = true := by decide +kernel

/-- Page 5. -/
def words5 : List (Nat × Nat × Instr) :=
  [(128, 0x01000ABC000001000000000000007A02, .mlw h0 ⟨false, true, 0, 0xABC, 0x100⟩),
   (128, 0x02123000000001400000000000007A06, .mma h0 ⟨true, false, 0x123, 0, 0x140⟩),
   (128, 0x000000000000FFC00000000000007A0A, .mq h0 ⟨false, false, 0, 0, 0xFFC0⟩),
   (128, 0x00000030020010050000006020017A22, .vadd h0 ⟨0, .rn, 5, 1, 2, 3⟩ false 1 2 (.tile 3)),
   (128, 0x00030000020010050000006020017A26, .vsub h0 ⟨0, .rn, 5, 1, 2, 0⟩ true 1 2 (.scalar (.v 3))),
   (128, 0x0000003002001005008003E020017A2A, .vmul h0 ⟨0, .rz, 5, 1, 2, 3⟩ false 1 2 (.tile 31)),
   (128, 0x00010000020010050000186050047A2E, .vfma h0 ⟨0, .rn, 5, 1, 2, 0⟩ false 4 5 (.scalar (.s 3))),
   (128, 0x00020030020010050000006020017A32, .vmax h0 ⟨0, .rn, 5, 1, 2, 3⟩ true 1 2 (.tile 3)),
   (128, 0x0000003002001000AC00006020017A36, .vmin h0 ⟨43, .rn, 0, 1, 2, 3⟩ false 1 2 (.tile 3)),
   (128, 0x00080000020010050000000020017A3A, .vred h0 ⟨0, .rn, 5, 1, 2, 0⟩ .min 1 2),
   (128, 0x00100000020010050200000020017A3E, .vcvt h0 ⟨0, .rna, 5, 1, 2, 0⟩ true 1 2),
   (128, 0x00000030020010050000006020017A42, .vqnt h0 ⟨0, .rn, 5, 1, 2, 3⟩ false 1 2 3),
   (128, 0x00000030020010050000006020017A46, .vdeq h0 ⟨0, .rn, 5, 1, 2, 3⟩ 1 2 3),
   (128, 0x0000000002001FFF0000000020017A4A, .vcpy h0 ⟨0, .rn, 4095, 1, 2, 0⟩ 1 2),
   (64, 0x0000008020067A60, .voxin h0 false (.v 6) (.v 2) (.v 4)),
   (64, 0x0100008C00007A64, .bevpool h0 true false (.mem (.v 4)) (.s 0)),
   (64, 0x0380000020077A64, .bevpool h0 true true (.tile 7) (.v 2))]
theorem test_decode_matrix : words5.all reads = true := by decide +kernel

/-- Page 6. -/
def words6 : List (Nat × Nat × Instr) :=
  [(64, 0x0080000040067C00, .traceNew h0 false (.v 6) (.v 4)),
   (64, 0x0400000040067C00, .trace h0 true (.v 6) (.v 4)),
   (64, 0x0000000040067C04, .tnext h0 (.v 6) (.v 4)),
   (64, 0x0080000040067C08, .thit h0 true (.v 6) (.v 4)),
   (64, 0x0002012040077C0C, .spawnray h0 (.v 7) (.v 4) (.v 9) (.v 8)),
   (64, 0x000002CD200C3C10, .boxin ⟨⟨3, false⟩, false, none⟩ (.v 12) (.s 18) (.v 22)),
   (64, 0x00838180A0057C14, .edge h0 true (.v 5) (.v 10) (.v 12) (.v 14)),
   (64, 0x0000008020077C18, .snap h0 (.v 7) (.v 2) (.v 4)),
   (64, 0x00001801400B3C1C, .bin ⟨⟨3, false⟩, false, none⟩ (.v 11) (.v 20) (.s 0)),
   (64, 0x00800000000B7C1C, .binClose h0 (.v 11)),
   (64, 0x01000000000B7C1C, .binReset h0 (.v 11)),
   (64, 0x0000000030077C20, .visres h0 (.v 7) (.v 3)),
   (64, 0x00000000900A7C24, .pidld h0 (.v 10) (.v 9)),
   (64, 0x0000008020077C28, .anim h0 (.v 7) (.v 2) (.v 4))]
theorem test_decode_geometry : words6.all reads = true := by decide +kernel

/-- Page 7. -/
def words7 : List (Nat × Nat × Instr) :=
  [(64, 0x0000000000027E00, .rdclk h0 (.v 2)),
   (64, 0x0000000000047E04, .rdtmr h0 (.v 4)),
   (96, 0x000000200000000000007E09, .stamp h0 (.imm 0x20)),
   (64, 0x0000000030007E08, .stamp h0 (.reg (.v 3))),
   (96, 0x000000090000000000007E0D, .trap h0 (some 9)),
   (64, 0x0000000000007E0C, .trap h0 none),
   (96, 0x000000110000000000037E11, .mfs h0 (.v 3) 0x11),
   (96, 0x000000000000000050007E15, .mts h0 0 (.v 5)),
   (64, 0x0000000000007F00, .eret h0),
   (64, 0x8000000000007F04, .fenceMap h0 .d),
   (64, 0x0000000000007F08, .mapsync h0),
   (64, 0x0000000040067F0C, .ctxsave h0 (.v 6) (.v 4)),
   (64, 0x0000000040067F10, .ctxload h0 (.v 6) (.v 4)),
   (64, 0x0000000040067F14, .preempt h0 (.v 6) (.v 4)),
   (96, 0x000001020000000000007F19, .leave h0 (.imm 0x102)),
   (64, 0x0000000030007F18, .leave h0 (.reg (.v 3))),
   (64, 0x000000C020077F1C, .setkey h0 (.v 7) (.v 2) (.v 6))]
theorem test_decode_system : words7.all reads = true := by decide +kernel

/-- R150, R158, R159, R161, R252, R256: words that are refused, and the subcode; the last are a VCPY with RM 1, a VRED and a VSUB
of a scalar with a step of B. -/
theorem test_refused :
    [(0x705C, Ill.opcode), (0x7004, .len), (0x7001, .len), (0xF000, .guard), (0x05007000, .wfield), (0x17000, .rsvfield),
     (0x10007000, .rsvfield), (0x280010057200, .operand), (0xC000000000017054, .rsvfield), (0x0500000000017054, .rsvfield),
     (0x0300000000077038, .rsvfield), (0x0000000002001FFF_0080000020017A4A, .rsvfield), (0x0008003002001005_0000000020017A3A, .rsvfield),
     (0x0003003002001005_0000006020017A26, .rsvfield)].all
      (fun x => match decodeBits (BitVec.ofNat 128 x.1) with | .error e => e == x.2 | .ok _ => false) = true := by decide +kernel

/-! ### Steps -/

/-- What stands after an instruction of the lane in slot 0, whose v-registers are set. -/
def ran (i : Instr) (vs : List (Nat × Nat)) : State :=
  match exec i (issue (laneBy (fun l => vs.foldl (fun l x => l.wrV x.1 (BitVec.ofNat 32 x.2)) l))) with
  | .next t => t
  | _ => State.reset
/-- v-register n of that lane. -/
def gives (i : Instr) (vs : List (Nat × Nat)) (n : Nat) : Nat := ((lOf (ran i vs)).rdV n).toNat

/-- R201. -/
theorem test_iabs_sat : gives (.iabs h0 true (.v 9) (.v 9)) [(9, 0x80000000)] 9 = 0x7FFFFFFF := by decide +kernel
/-- R202: −7 by 2. -/
theorem test_idiv : gives (.idiv h0 false false (.v 3) (.v 3) (.imm 2)) [(3, 0xFFFFFFF9)] 3 = 0xFFFFFFFD := by decide +kernel
theorem test_irem : gives (.irem h0 false false (.v 3) (.v 3) (.imm 2)) [(3, 0xFFFFFFF9)] 3 = 0xFFFFFFFF := by decide +kernel
/-- R204. -/
theorem test_sar_wide : gives (.sar h0 (.v 4) (.v 4) (.imm 40)) [(4, 0x80000000)] 4 = 0xFFFFFFFF := by decide +kernel
/-- R205. -/
theorem test_bfx : gives (.bfx h0 false (.v 5) (.v 7) (.imm 0x0A14)) [(7, 0x12345678)] 5 = 0x123 := by decide +kernel
/-- R208: 128 · 3 is added to the base. -/
theorem test_lea : gives (.lea h0 true 7 (.v 20) (.v 18) (.reg (.v 2))) [(18, 0xFFFFFFFF), (19, 1), (2, 3)] 21 = 2 := by decide +kernel
/-- R215. -/
theorem test_frnd_rna : gives (.frnd h0 { plainF with rm := .rna } (.v 5) (.v 4)) [(4, 0xC0200000)] 5 = 0xC0400000 := by decide +kernel
theorem test_fscale : gives (.fscale h0 plainF (.v 5) (.v 4) (.imm 0xFFFFFFFE)) [(4, 0x3F2AAAAB)] 5 = 0x3E2AAAAB := by decide +kernel
/-- R212. -/
theorem test_fmax_zero : gives (.fmax h0 plainF (.v 3) (.v 3) (.imm 0)) [(3, 0x80000000)] 3 = 0 := by decide +kernel
/-- R216: 1/3, 70,000 and a widening. -/
theorem test_fcvt_bf16 : gives (.fcvt h0 false .bf16 false .rn (.v 3) (.v 4)) [(4, 0x3EAAAAAB)] 3 = 0x3EAB := by decide +kernel
theorem test_fcvt_e5m2_sat : gives (.fcvt h0 false .e5m2 true .rn (.v 3) (.v 4)) [(4, 0x4788B800)] 3 = 0x7B := by decide +kernel
/-- R217. -/
theorem test_icvt_f16 : gives (.icvt h0 false .f16 .u8 .rn (.v 2) (.v 2)) [(2, 255)] 2 = 0x5BF8 := by decide +kernel
/-- R105's example: (1 + 2i)(3 + 4i) = −5 + 10i. -/
theorem test_cmul : (gives (.cmul h0 plainF (.v 2) (.v 4) (.v 6)) [(4, 0x3F800000), (5, 0x40000000), (6, 0x40400000), (7, 0x40800000)] 2,
    gives (.cmul h0 plainF (.v 2) (.v 4) (.v 6)) [(4, 0x3F800000), (5, 0x40000000), (6, 0x40400000), (7, 0x40800000)] 3) = (0xC0A00000, 0x41200000) := by
  decide +kernel
/-- R178: a CALL leaves the address behind it, and its lane goes to PC + 4 · displacement. -/
theorem test_call : (lOf (ran (.call h0 (.v 20) 0xFFFFFFFF) [])).pc = 0xFC := by decide +kernel
/-- R178: a misaligned target traps, and the supervisor handler has ALIGN. -/
theorem test_ret_align : (wOf (ran (.ret h0 (.v 20)) [(20, 2)])).sup = true := by decide +kernel
/-- R206: a write to p7 is discarded. -/
theorem test_iset : (lOf (ran (.iset h0 .lt false 1 (.v 5) (.imm 0)) [(5, 0xFFFFFFFF)])).rdP 1 = true := by decide +kernel

/-! ### R409, R412: the digest and the block cipher -/

/-- FIPS 202: the digest of no bytes begins A69F73CC A23A9AC5. -/
theorem test_sha3 : (sha3 []).take 8 = [0xA6, 0x9F, 0x73, 0xCC, 0xA2, 0x3A, 0x9A, 0xC5] := by decide +kernel
/-- FIPS 197, appendix C.3. -/
theorem test_aes : aesEncipher ((List.range 32).map (BitVec.ofNat 8)) ((List.range 16).map (fun k => BitVec.ofNat 8 (17 * k))) =
    [0x8E, 0xA2, 0xB7, 0xCA, 0x51, 0x67, 0x45, 0xBF, 0xEA, 0xFC, 0x49, 0x90, 0x4B, 0x49, 0x60, 0x89] := by decide +kernel
/-- R20, R147: from reset with a word placed, the step runs it: IADD v5, v5, 9 writes 9. -/
theorem test_fetch_runs : (match step (State.reset.withFetchWord 96 0x00000009_0000000050057201) with
    | .next t => ((t.teams.head?.bind (fun t => t.warps.head?)).bind (fun w => w.lanes.head?)).map (fun l => ((l.rdV 5).toNat, l.pc.toNat))
    | _ => none) = some (9, 0x10C) := by decide +kernel

end Sys2Proof.Tests
end

