-- ==== Sys2Proof/Tests/WitnessA.lean ====
section
/-! SUPPORT. `wit_X` denies that the hypotheses of statement X, clause by clause, are contradictory: registers and
control. -/

namespace Sys2Proof.Tests
set_option Elab.async false
open Sys2Proof.Machine

def iadd0 : Instr := .iadd h0 false false (.v 5) (.v 1) (.reg (.s 3))
def fm0 : FMod := ⟨false, false, false, false, false, false, .rn⟩
theorem ready_iadd : ready iadd0 (issue id) = true := by decide +kernel

theorem wit_IntegerResults : ¬ ∀ i s h is t, Issuing s i h is t → (∃ w l, (intRule w l i).isSome = true) →
    (∀ k w l, Active t is h k w l → (intRule w l i).isSome = true) → False :=
  fun H => H _ _ _ _ _ (issuing ready_iadd) ⟨wOf state0, lOf state0, rfl⟩ (fun _ _ _ _ => rfl)

theorem wit_FloatResults :
    (¬ ∀ i s h is t, Issuing s i h is t → (∀ w l, (floatRule w l i).isSome = true) → False) ∧
    (¬ ∀ i s h is t, Issuing s i h is t → (∀ w l, (convertRule w l i).isSome = true) → False) :=
  ⟨fun H => H _ _ _ _ _ (issuing (i := .fadd h0 fm0 (.v 5) (.v 1) (.reg (.v 2))) (s := issue id) (by decide +kernel)) (fun _ _ => rfl),
   fun H => H _ _ _ _ _ (issuing (i := .hadd2 h0 fm0 (.v 5) (.v 1) (.v 2)) (s := issue id) (by decide +kernel)) (fun _ _ => rfl)⟩

theorem wit_CompareAndSelect :
    (¬ ∀ i s h is t, Issuing s i h is t → (match i with | .iset _ c .. => c ≠ .un | .fset .. => True | _ => False) → False) ∧
    (¬ ∀ s h is t d p a b, Issuing s (.sel h d p a b) h is t → False) ∧
    (¬ ∀ s h is t cov d a b p, Issuing s (.edge h cov d a b p) h is t → False) :=
  ⟨fun H => H (.iset h0 .lt false 7 (.v 1) (.reg (.v 2))) (issue id) _ _ _ (issuing (by decide +kernel)) (by decide),
   fun H => H (issue id) h0 is0 _ (.v 8) ⟨true, 5⟩ (.v 8) (.imm 0) (issuing (by decide +kernel)),
   fun H => H (issue id) h0 is0 _ true (.v 8) (.v 2) (.v 4) (.v 2) (issuing (by decide +kernel))⟩

theorem wit_LaneCollectives : ¬ ∀ i s h is t, Issuing s i h is t →
    (match i with | .elect .. | .vote .. | .shfl .. | .getid .. | .tstat .. => True | _ => False) → False :=
  fun H => H (.vote h0 (.ballot (.v 4)) ⟨false, 7⟩) (issue id) _ _ _ (issuing (by decide +kernel)) trivial

theorem wit_BranchTargets : ¬ ∀ i s h is t, Issuing s i h is t → (∃ w l, (jumpRule is w l i).isSome = true) →
    (∀ k w l, Active t is h k w l → (jumpRule is w l i).isSome = true) → False :=
  fun H => H (.bra h0 0xFFFFFFFF) (issue id) _ _ _ (issuing (by decide +kernel)) ⟨wOf state0, lOf state0, rfl⟩ (fun _ _ _ _ => rfl)

theorem wit_RegisterFrame : ¬ ∀ i s h is t, onRegisters i = true → Issuing s i h is t →
    (∀ k w l, Active t is h k w l → trapsOn is w l i = false) → False :=
  fun H => H _ _ _ _ _ rfl (issuing ready_iadd) (fun _ _ _ _ => rfl)

theorem wit_LanesYieldFileAndExit :
    (¬ ∀ s h is t, Issuing s (.yield h) h is t → False) ∧ (¬ ∀ s h is t, Issuing s (.region h) h is t → False) ∧
    (¬ ∀ s h is t k w l, Issuing s (.reform h) h is t → OneLane t is h k → Active t is h k w l →
      (w.lockstep = true ∨ w.sup = true) → False) ∧
    (¬ ∀ s h is t k w l n, Issuing s (.reform h) h is t → OneLane t is h k → Active t is h k w l →
      w.lockstep = false → w.sup = false → (∀ b ∈ s.bins, ¬(b.core = t.core ∧ b.team = t.uid ∧ b.pc = is.after)) →
      (List.range 32).find? (fun n => !s.bins.any (fun b => b.core == t.core && b.num == n)) = some n → False) ∧
    (¬ ∀ s h is t, Issuing s (.exit h) h is t → NoDebugBlock s t.space → (∀ w ∈ t.warps, ∀ ti ∈ w.pend, ti.kind ≠ 3) → False) :=
  have r : ready (.reform h0) (issue id) = true := by decide +kernel
  have r' : ready (.reform h0) (issue (warpBy (fun w => { w with lockstep := true }))) = true := by decide +kernel
  ⟨fun H => H (issue id) _ _ _ (issuing (by decide +kernel)), fun H => H (issue id) _ _ _ (issuing (by decide +kernel)),
   fun H => H _ _ _ _ _ _ _ (issuing r') (alone r') (active r') (by decide +kernel),
   fun H => by refine H _ _ _ _ _ _ _ 0 (issuing r) (alone r) (active r) ?_ ?_ ?_ ?_ <;> decide +kernel,
   fun H => H (issue id) _ _ _ (issuing (by decide +kernel)) (noBlock rfl _) (by decide +kernel)⟩

theorem wit_SpawnCreates :
    (¬ ∀ s h is t k w l form a disp c n, Issuing s (.spawn h form a disp) h is t → OneWarp t is h k → Active t is h k w l →
      freeContext t = some (c, n) → False) ∧
    (¬ ∀ s h is t k w l form a disp, Issuing s (.spawn h form a disp) h is t → OneWarp t is h k → Active t is h k w l →
      freeContext t = none → False) :=
  have r : ready (.spawn h0 (.try_ 7) 184 64) (issue id) = true := by decide +kernel
  have r' : ready (.spawn h0 .wait 0 64) (issue (fun t => t.modWarp 1 (fun w => { w with st := .live }))) = true := by decide +kernel
  ⟨fun H => H _ _ _ _ _ _ _ _ _ _ 1 ((tOf (issue id)).warps[1]?.getD (wOf state0)) (issuing r) (aloneW r) (active r) (by decide +kernel),
   fun H => H _ _ _ _ _ _ _ _ _ _ (issuing r') (aloneW r') (active r') (by decide +kernel)⟩

theorem wit_BarrierWaitsAndCompletes :
    (¬ ∀ s h is t n, Issuing s (.bar h n) h is t → False) ∧
    (¬ ∀ (s : State) (u : Nat) (t : Team) (n : Fin 8), Awake s → s.team? u = some t → (∃ w ∈ t.warps, w.st ≠ .free) →
      (∀ w ∈ t.warps, w.st ≠ .free → ∀ l ∈ w.lanes, l.st ≠ .exited → l.st = .blocked ∧ l.wait = .bar n) → False) ∧
    (¬ ∀ (s : State) (u : Nat) (t : Team) (n : Fin 8), Awake s → s.team? u = some t →
      (∃ w ∈ t.warps, w.st ≠ .free ∧ ∃ l ∈ w.lanes, l.st ≠ .exited ∧ ¬(l.st = .blocked ∧ l.wait = .bar n)) → False) :=
  let s1 := issue (laneBy (fun l => { l with st := .blocked, wait := .bar 7 }))
  let s2 := issue (laneBy (fun l => { l with st := .halted, held := .blocked, wait := .bar 7 }))
  ⟨fun H => H (issue id) _ _ _ 7 (issuing (by decide +kernel)),
   fun H => by refine H s1 3 (tOf s1) 7 ⟨rfl, rfl, rfl⟩ ?_ ?_ ?_ <;> decide +kernel,
   fun H => by refine H s2 3 (tOf s2) 7 ⟨rfl, rfl, rfl⟩ ?_ ?_ <;> decide +kernel⟩

def twoTeams (f g : Team → Team) : State := { issue f with teams := [f team0, g { team0 with uid := 4, t := 1, core := 1 }] }
def leads (t : Team) : Team := { t with desc := { t.desc with nt := 2, lead := 1 }, heard := [(1, 3)] }

theorem wit_PhaseCounts :
    (¬ ∀ s h is t k w l scope, Issuing s (.phase h scope) h is t → OneWarp t is h k → Active t is h k w l → CleanSpace s t.space →
      (∀ k w l, Active t is h k w l → phaseWaits s t (l.phases.toNat + 1) = false) → False) ∧
    (¬ ∀ s h is t k w l scope m, Issuing s (.phase h scope) h is t → OneLane t is h k → Active t is h k w l → 0 < t.desc.lead →
      leastHeard s t = some m → m + t.desc.lead < l.phases.toNat + 1 → False) ∧
    (¬ ∀ (s : State) (u v : Nat) (t x : Team) (n : Nat), Awake s → s.team? u = some t → s.team? v = some x → t.inst = x.inst →
      x.t ∈ neighbours t → phaseNumber x = some n → False) :=
  have r : ready (.phase h0 .s) (issue (fun t => leads (laneBy (fun l => { l with phases := 3 }) t))) = true := by decide +kernel
  have r' : ready (.phase h0 .s) (issue (fun t => leads (laneBy (fun l => { l with phases := 4 }) t))) = true := by decide +kernel
  ⟨fun H => H _ _ _ _ _ _ _ _ (issuing r) (aloneW r) (active r) (clean rfl _)
     (fun k w l a => by obtain ⟨-, -, rfl⟩ := only r a; decide +kernel),
   fun H => by refine H _ _ _ _ _ _ _ _ 3 (issuing r') (alone r') (active r') ?_ ?_ ?_ <;> decide +kernel,
   fun H => by refine H (twoTeams leads id) 3 4 (leads team0) { team0 with uid := 4, t := 1, core := 1 } 0 ⟨rfl, rfl, rfl⟩ ?_ ?_ ?_ ?_ ?_ <;> decide +kernel⟩

/-- Node 0 has edge 2 into node 1, or into itself, with room for one record of four words. -/
def edge0 (deep : Bool) : Edge := ⟨2, 0x1000, 1, 4, 0, if deep then 0 else 1, 1, 0⟩
def emitRec (det deep : Bool) : Rec := { probeRec 1 with det := det, nodes := [{ probeNode with edges := [edge0 deep] }, probeNode] }
def emitting (full det deep : Bool) : State :=
  { issue (laneBy (fun l => l.wrV 4 65520)) with
    recs := [emitRec det deep]
    emitted := if full then [⟨1, 0, 2, 1, 0, if det then some 3 else none, [], 0, none⟩] else [] }

theorem wit_EmitAppends (full det deep : Bool) : ¬ ∀ s h is t k w l edge pd a r n x e, Issuing s (.emit h edge pd a) h is t → OneLane t is h k →
    Active t is h k w l → NoTry t → CleanSpace s t.space → s.teamRec? t = some r → s.inst? t.inst = some n → r.nodes[n.node]? = some x →
    x.edges.find? (fun e => e.num == edge.val && e.base != 0) = some e →
    (readSrc w l a).toNat % 4 = 0 → (readSrc w l a).toNat + 4 * e.sw ≤ 1024 * t.desc.scrK →
    (deep = true ∨ edgeFull s r t n.node e = full) → ((e.target = n.node ∧ n.depth = e.maxd) ↔ deep = true) → t.desc.trapOvf = false →
    (full = true ∨ ∃ slot pa, (∀ k, k ≤ slot → (k = slot ↔ ∀ y ∈ s.emitted, ¬(y.job = r.id ∧ y.node = n.node ∧ y.edge = e.num ∧ y.team = none ∧ y.slot = k))) ∧
      StandsVa s t.space (e.base.toNat + 4 * e.sw * slot) (4 * e.sw) pa) → False := by
  have r : ready (.emit h0 2 1 (.v 4)) (emitting full det deep) = true := by revert full det deep; decide +kernel
  intro H
  refine H _ _ _ _ _ _ _ _ _ _ (emitRec det deep) (probeInst 1) { probeNode with edges := [edge0 deep] } (edge0 deep)
    (issuing r) (alone r) (active r) (noTry ?_) (clean rfl _) ?_ ?_ ?_ ?_ ?_ ?_ ?_ ?_ ?_ ?_
  all_goals first
    | (clear H r; revert full det deep; decide +kernel)
    | skip
  refine (show full = true ∨ full = false by cases full <;> simp).imp id (fun hf => ⟨0, 0x1000, fun k hk => ?_, ?_⟩)
  · subst hf; simp [emitting]; omega
  · exact stands rfl rfl rfl (c := ctx0) rfl rfl (by cases deep <;> decide) (by cases deep <;> decide)

def inTry (d : Nat) (w : Warp) : Warp := { w with tx := { TryState.none with depth := d, target := 0x200, members := 1, ckLanes := [⟨0, [], 0, 0, 0, 0x100⟩] } }

/-- The lane's v10 holds the last byte of the first 2 MiB; its TRY has its block, none or 64 others. -/
def storing (known full : Bool) : State :=
  issue (warpBy (fun w => { (inTry 1 w).modLane 0 (fun l => l.wrV 10 0x1FFFFF) with
    tx := { (inTry 1 w).tx with entries := if full then List.range 64 else if known then [0xFFFF] else [] } }))
def byteSt : Instr := .st h0 ⟨.w, .alloc, false, .u8⟩ ⟨.v 10, none⟩ (.v 1)
def byteLd : Instr := .ld h0 ⟨.w, .alloc, false, .s8⟩ (.v 7) ⟨.v 10, none⟩
/-- Warp 1 is in a TRY that has read or written the last line, and warp 0's store of the last byte is out. -/
def storeMeets (read : Bool) : State :=
  { state0 with
    named := 7
    accs := [{ blankAccess .store 0x1FFFFF 0x1FFFFF 1 with id := 7, team := 3, pc := 0x100, len := 8 }]
    teams := [team0.modWarp 1 (fun w => { inTry 4 w with
      tx := { (inTry 4 w).tx with readLines := if read then [0x3FFF] else [], entries := if read then [] else [0xFFFF] } })] }
/-- Warp 1 is in a TRY that has read or written the scratchpad's first granule, and the lane of warp 0 stores into it. -/
def stsMeets (read : Bool) : State :=
  issue (fun t => (laneBy (fun l => l.wrV 10 1023) t).modWarp 1 (fun w => { inTry 4 w with
    tx := { (inTry 4 w).tx with readGrans := if read then [0] else [], undo := if read then [] else [(0, [(5, 3)])] } }))

theorem wit_SpeculationRuns :
    (∀ (d : Fin 5) (b : Bool), ¬ ∀ s h is t k w l disp, Issuing s (.tryOpen h disp) h is t → OneWarp t is h k →
      Active t is h k w l → w.tx.depth = d.val → (d ≠ 0 ∨ waitsInside w = b) → False) ∧
    (∀ known full : Bool, ¬ ∀ s h is t k w l m ad b c ia n tr, Issuing s (.st h m ad b) h is t → OneLane t is h k →
      Active t is h k w l → 0 < w.tx.depth → n = widthBytes m.width → s.ctx? t.space = some c → (eaOf w l ad).toNat % n = 0 →
      rangeCheck c (eaOf w l ad) .store = .ok ia → Warm s t.space ia .store true tr →
      (if full then ia / 32 ∉ w.tx.entries ∧ 64 ≤ w.tx.entries.length
        else (ia / 32 ∈ w.tx.entries ↔ known = true) ∧ w.tx.entries.length < 64) → False) ∧
    (¬ ∀ s h is t k w l m ad b c ia n sub, Issuing s (.st h m ad b) h is t → OneLane t is h k →
      Active t is h k w l → 0 < w.tx.depth → n = widthBytes m.width → s.ctx? t.space = some c → (eaOf w l ad).toNat % n = 0 →
      rangeCheck c (eaOf w l ad) .store = .ok ia → lookup s t.space ia .store true = .fail sub → False) ∧
    (¬ ∀ s h is t k w l m d ad c ia n tr, Issuing s (.ld h m d ad) h is t → OneLane t is h k → Active t is h k w l →
      0 < w.tx.depth → n = widthBytes m.width → s.ctx? t.space = some c → (eaOf w l ad).toNat % n = 0 →
      rangeCheck c (eaOf w l ad) .load = .ok ia → Warm s t.space ia .load true tr → corrupt s tr.pa n = false → False) ∧
    (∀ read : Bool, ¬ ∀ s a t tr u v i x, Awake s → s.accs.find? (fun a => a.id == s.named) = some a → a.op = .store →
      a.scope = none → a.ord = none → a.rel = none → 0 < a.width → movable s a = true → logMode s t = 0 →
      s.team? a.team = some t → Warm s t.space a.ia .store true tr → leafUnc tr.leaf = false → leafSyn tr.leaf = false →
      s.team? u = some v → v.warps[i]? = some x → 0 < x.tx.depth → (u, i) ≠ (a.team, a.warp) → v.space = t.space →
      v.l1Core a.ia = t.l1Core a.ia → (if read then a.ia / 128 ∈ x.tx.readLines else a.ia / 32 ∈ x.tx.entries) → False) ∧
    (∀ read : Bool, ¬ ∀ s h is t k w l m ad b i x (off : Nat), Issuing s (.sts h m ad b) h is t → OneLane t is h k →
      Active t is h k w l → w.tx.depth = 0 → offsetOf w l ad = (off : Int) → off % widthBytes m.width = 0 →
      off + widthBytes m.width ≤ 1024 * t.desc.scrK → t.warps[i]? = some x → i ≠ k.1 → 0 < x.tx.depth →
      (if read then off / 1024 ∈ x.tx.readGrans else ∃ g ∈ x.tx.undo, g.1 = off / 1024) → False) :=
  ⟨fun d b => by
     have r : ready (.tryOpen h0 64) (issue (warpBy (fun w => if d = 0 then w.modLane 31 (fun l => if b then { l with st := .blocked, wait := .bar 0 } else l) else inTry d w))) = true := by
       revert d b; decide +kernel
     intro H
     refine H _ _ _ _ _ _ _ _ (issuing r) (aloneW r) (active r) ?_ ?_ <;> (clear H r; revert d b; decide +kernel),
   fun known full => by
     have r : ready byteSt (storing known full) = true := by revert known full; decide +kernel
     have e : eaOf (wOf (storing known full)) (lOf (storing known full)) ⟨.v 10, none⟩ = BitVec.ofNat 64 0x1FFFFF := by
       clear r; revert known full; decide +kernel
     intro H
     refine H _ _ _ _ _ _ _ _ ⟨.v 10, none⟩ _ ctx0 0x1FFFFF _ _ (issuing r) (alone r) (active r) ?_ rfl rfl ?_
       (by rw [e]; exact ranged rfl (by decide) .store) (warm rfl rfl (by decide) .store true) ?_ <;>
       (clear H r e; revert known full; decide +kernel),
   fun H => by
     have r : ready byteSt { storing false false with keys := [] } = true := by decide +kernel
     refine H _ _ _ _ _ _ _ _ ⟨.v 10, none⟩ _ ctx0 0x1FFFFF _ 5 (issuing r) (alone r) (active r) ?_ rfl rfl ?_
       (ranged rfl (va := 0x1FFFFF) (by decide) .store) ?_ <;> decide +kernel,
   fun H => by
     have r : ready byteLd (storing true false) = true := by decide +kernel
     refine H _ _ _ _ _ _ _ _ _ ⟨.v 10, none⟩ ctx0 0x1FFFFF _ _ (issuing r) (alone r) (active r) ?_ rfl rfl ?_
       (ranged rfl (va := 0x1FFFFF) (by decide) .load) (warm rfl rfl (by decide) .load true) ?_ <;> decide +kernel,
   fun read H => by
     refine H (storeMeets read) ((storeMeets read).accs.headD (blankAccess .store 0 0 1)) (tOf (storeMeets read)) (tr0 0x1FFFFF) 3
       (tOf (storeMeets read)) 1 ((tOf (storeMeets read)).warps[1]?.getD (wOf state0)) ⟨rfl, rfl, rfl⟩ ?_ rfl rfl rfl rfl ?_ ?_ rfl ?_
       (warm (ia := 0x1FFFFF) rfl rfl (by decide) .store true) ?_ ?_ ?_ ?_ ?_ ?_ ?_ ?_ ?_ <;> (clear H; revert read; decide +kernel),
   fun read H => by
     have r : ready (.sts h0 ⟨.w, .alloc, false, .u8⟩ ⟨.v 10, none⟩ (.v 1)) (stsMeets read) = true := by clear H; revert read; decide +kernel
     refine H _ _ _ _ _ _ _ _ _ _ 1 ((tOf (stsMeets read)).warps[1]?.getD (wOf state0)) 1023 (issuing r) (alone r) (active r)
       ?_ ?_ ?_ ?_ ?_ ?_ ?_ ?_ <;> (clear H r; revert read; decide +kernel)⟩

/-- A TRY that has stored one byte of global memory and one of the scratchpad. -/
def wrote (d : Nat) (flag : Bool) (w : Warp) : Warp :=
  { w with tx := { (inTry d w).tx with laneFlag := flag, bytes := [⟨true, 0x1FFFFF, 7, some 0⟩, ⟨false, 5, 9, some 0⟩], entries := [0xFFFF], undo := [(0, [(5, 3)])] } }

theorem wit_SpeculationCommits (lane flag : Bool) (d : Fin 5) : ¬ ∀ i s h is t k w l, i = (if lane then .tcommitLane h else .tcommit h) →
    Issuing s i h is t → OneWarp t is h k → Active t is h k w l → w.tx.depth = d.val → w.tx.laneFlag = flag →
      (∀ b ∈ w.tx.bytes, b.glob = true → ∃ tr, Warm s t.space b.addr .store false tr ∧ leafUnc tr.leaf = false ∧
        leafSyn tr.leaf = false) →
      (∀ e ∈ w.tx.entries, ∃ tr, Warm s t.space (32 * e) .store false tr) →
      (w.tx.bytes.map (fun b => (b.glob, b.addr))).Nodup → False := by
  have r : ready (if lane then .tcommitLane h0 else .tcommit h0) (issue (warpBy (wrote d flag))) = true := by
    revert lane flag d; decide +kernel
  intro H
  refine H _ _ h0 _ _ _ _ _ rfl (issuing r) (aloneW r) (active r) ?_ ?_ (fun b hb g => ?_) (fun e he => ?_) ?_
  all_goals first
    | (clear H r; revert lane flag d; decide +kernel)
    | skip
  · have : b = ⟨true, 0x1FFFFF, 7, some 0⟩ ∨ b = ⟨false, 5, 9, some 0⟩ := by
      have : b ∈ [(⟨true, 0x1FFFFF, 7, some 0⟩ : TryByte), ⟨false, 5, 9, some 0⟩] := hb
      simpa using this
    obtain rfl | rfl := this
    · exact ⟨_, warm (s := issue (warpBy (wrote d flag))) rfl rfl (by decide) .store false, by decide, by decide⟩
    · cases g
  · have : e ∈ [0xFFFF] := he
    obtain rfl : e = 0xFFFF := by simpa using this
    exact ⟨_, warm (s := issue (warpBy (wrote d flag))) rfl rfl (by decide) .store false⟩

theorem wit_SpeculationAborts (lane touched : Bool) (d : Fin 5) : ¬ ∀ s h is t k w l v,
    Issuing s (if lane then .tabortLane h v else .tabort h v) h is t → OneWarp t is h k → Active t is h k w l → w.tx.depth = d.val →
      UndoOk w.tx →
      (touched = false → ∀ x ∈ w.tx.touched, ∀ b ∈ w.tx.bytes, ∀ j ∈ peers t is h k, b.writer = some j →
        (x.1, x.2.1) = (b.glob, b.addr / 32) → x.2.2 ∈ peers t is h k) →
      (touched = true → ∃ x ∈ w.tx.touched, ∃ b ∈ w.tx.bytes, ∃ j ∈ peers t is h k, b.writer = some j ∧
        (x.1, x.2.1) = (b.glob, b.addr / 32) ∧ x.2.2 ∉ peers t is h k) → False := by
  have r : ready (if lane then .tabortLane h0 255 else .tabort h0 255)
      (issue (warpBy (fun w => { w with tx := { (wrote d false w).tx with touched := [(true, 0xFFFF, if touched then 5 else 0)] } }))) = true := by
    revert lane touched d; decide +kernel
  intro H
  refine H _ h0 _ _ _ _ _ _ (issuing r) (aloneW r) (active r) ?_ ⟨?_, ?_⟩ ?_ ?_ <;> (clear H r; revert lane touched d; decide +kernel)

end Sys2Proof.Tests
end

