-- ==== Sys2Proof/Tests/WitnessB.lean ====
section
/-! SUPPORT. `wit_X` denies that the hypotheses of statement X, clause by clause, are contradictory: accesses. -/

namespace Sys2Proof.Tests
set_option Elab.async false
open Sys2Proof.Machine

def byV10 : Addr := ⟨.v 10, none⟩
def am (x : Width) : AccM := ⟨.w, .alloc, false, x⟩
/-- The lane's v10 holds x. -/
def with10 (x : Word) : State := issue (laneBy (fun l => l.wrV 10 x))

theorem wit_AccessesLeave : ¬ ∀ i s h is t k w l ad n need c ia, accessShape i = some (ad, n, need) → Issuing s i h is t →
    OneLane t is h k → Active t is h k w l → w.tx.depth = 0 → s.ctx? t.space = some c →
    (eaOf w l ad).toNat % n = 0 → rangeCheck c (eaOf w l ad) need = .ok ia → False :=
  have r : ready (.ld h0 (am .b128) (.v 188) byV10) (with10 0x1FFFF0) = true := by decide +kernel
  fun H => H _ _ _ _ _ _ _ _ byV10 16 .load ctx0 0x1FFFF0 rfl (issuing r) (alone r) (active r) (by decide +kernel) rfl
    (by decide +kernel) (ranged rfl (by decide) .load)

theorem wit_AddressChecks :
    (¬ ∀ (_ : State) (_ : Nat) (ea : DWord) (n : Nat) (_ : Need), ea.toNat % n ≠ 0 → False) ∧
    (¬ ∀ (s : State) (space : Nat) (ea : DWord) (n : Nat) (c : Context), ea.toNat % n = 0 → s.ctx? space = some c →
      2 ^ 56 ≤ ea.toNat → False) ∧
    (¬ ∀ (s : State) (space : Nat) (ea : DWord) (n : Nat) (c : Context), ea.toNat % n = 0 → s.ctx? space = some c →
      ea.toNat < 2 ^ 56 → (∀ r ∈ c.rng, r.valid = true → ea.toNat / 65536 < r.first ∨ r.last < ea.toNat / 65536) → False) ∧
    (¬ ∀ (s : State) (space : Nat) (ea : DWord) (n : Nat) (c : Context) (r : RangeReg), ea.toNat % n = 0 →
      s.ctx? space = some c → ea.toNat < 2 ^ 56 →
      c.rng.find? (fun r => r.valid && decide (r.first ≤ ea.toNat / 65536) && decide (ea.toNat / 65536 ≤ r.last)) = some r → False) :=
  ⟨fun H => H state0 0 15 16 .load (by decide), fun H => H state0 0 0x0100000000000000 16 ctx0 (by decide) rfl (by decide),
   fun H => H state0 0 0x00FFFFFFFFFFFFF0 16 ctx0 (by decide) rfl (by decide) (by decide +kernel),
   fun H => H state0 0 0x1FFFF0 16 ctx0 range0 (by decide) rfl (by decide) (by decide +kernel)⟩

/-- An access of the last 16 bytes of the first 2 MiB. -/
def acc0 : Access := { blankAccess .load 0x1FFFF0 0x1FFFF0 16 with id := 7, team := 3, pc := 0x100, len := 8 }
def ordAcc : Access := { acc0 with op := .atom 0, width := 8, scope := some .d, ord := some (0, 0) }
def gatedAcc : Access := { acc0 with scope := some .d, gated := true }
def sending (a : Access) (log : Nat) : State := { state0 with named := 7, accs := [a], recs := [{ probeRec 1 with log := log }] }

theorem performs {s : State} {a : Access} (ht : s.tcache = [entry0]) (hk : s.keys = [⟨0, 5⟩]) (hl : s.lineKey = []) (hb : s.badBytes = [])
    (h1 : s.l1 = []) (hs : s.halt = none ∧ s.lost = [] ∧ s.saveQ = []) (hn : NoTryAtAll s) (hu : s.team? a.team = some team0)
    (ha : a.ia < 2 ^ 21) (hw : a.width ≤ 16) (hp : peerLost s = false := by rfl) : Performs s team0 a (tr0 a.ia) :=
  ⟨hs, hn, hu, .inr (clean h1 _ hp), warm ht hk ha _ _, .inr (by simp [corrupt, hb]), unkeyed hl _ _ _, hw⟩

theorem wit_AccessesPerform :
    (¬ ∀ s a t tr, s.accs.find? (fun a => a.id == s.named) = some a → a.ord = none → movable s a = true → logMode s t = 0 →
      Performs s t a tr → False) ∧
    (¬ ∀ s a t tr n, s.accs.find? (fun a => a.id == n) = some a → a.ord.isSome = true → movable s a = true →
      ordReady s t a = true → logMode s t = 0 → Performs s t a tr → False) ∧
    (¬ ∀ s s1 a t tr n, s.accs.find? (fun a => a.id == n) = some a → a.ord = none → a.gated = true → earliest s a = true →
      s.team? a.team = some t → lookup s t.space a.ia a.op.need true = .ok tr →
      gatePass s t a (pointOf (s.part t.space).secmask t.core true tr.leaf a.ia (a.scope.getD .d)) = (s1, true) →
      logMode s1 t = 2 → Performs s1 t a tr → False) :=
  have p (a : Access) (log : Nat) (h : a.team = 3 ∧ a.ia < 2 ^ 21 ∧ a.width ≤ 16) : Performs (sending a log) team0 a (tr0 a.ia) :=
    performs rfl rfl rfl rfl rfl ⟨rfl, rfl, rfl⟩ (noTries (by rfl)) (by rw [h.1]; rfl) h.2.1 h.2.2
  ⟨fun H => by refine H (sending acc0 0) acc0 team0 _ ?_ rfl ?_ rfl (p acc0 0 ?_) <;> decide +kernel,
   fun H => by refine H (sending ordAcc 0) ordAcc team0 _ 7 ?_ rfl ?_ ?_ rfl (p ordAcc 0 ?_) <;> decide +kernel,
   fun H => by
     refine H (sending gatedAcc 2) (sending gatedAcc 2) gatedAcc team0 _ 7 ?_ rfl rfl ?_ rfl
       (warm rfl rfl (by decide) _ _).look (by rfl) rfl (p gatedAcc 2 ?_) <;> decide +kernel⟩

def result0 (load : Bool) : Result := ⟨7, load, 3, 0, 0, some (.v 188, 4), none, 5, false, 0⟩

theorem wit_ResultsArrive (load : Bool) : ¬ ∀ (s : State) (r : Result) (t : Team) (w : Warp) (l : Lane), Awake s →
    s.results.find? (fun r => r.id == s.named) = some r → r.load = load →
    s.team? r.team = some t → t.warps[r.warp]? = some w → w.lanes[r.lane]? = some l → False := by
  intro H
  refine H { state0 with results := [result0 load], named := 7 } (result0 load) team0 (wOf state0) (lOf state0) ⟨rfl, rfl, rfl⟩ ?_ rfl ?_ ?_ ?_ <;>
    (clear H; revert load; decide +kernel)

theorem wit_ScratchpadAccesses :
    (¬ ∀ s h is t k w l m d ad (off : Nat), Issuing s (.lds h m d ad) h is t → OneLane t is h k → Active t is h k w l → NoTry t →
      offsetOf w l ad = (off : Int) → off % widthBytes m.width = 0 → off + widthBytes m.width ≤ 1024 * t.desc.scrK → False) ∧
    (¬ ∀ s h is t k w l m ad b (off : Nat), Issuing s (.sts h m ad b) h is t → OneLane t is h k → Active t is h k w l → NoTry t →
      offsetOf w l ad = (off : Int) → off % widthBytes m.width = 0 → off + widthBytes m.width ≤ 1024 * t.desc.scrK → False) :=
  have r : ready (.lds h0 (am .b128) (.v 188) byV10) (with10 65520) = true := by decide +kernel
  have r' : ready (.sts h0 (am .s8) ⟨.v 10, some (-1)⟩ (.v 0)) (with10 65536) = true := by decide +kernel
  ⟨fun H => by refine H _ _ _ _ _ _ _ _ _ _ 65520 (issuing r) (alone r) (active r) (noTry ?_) ?_ ?_ ?_ <;> decide +kernel,
   fun H => by refine H _ _ _ _ _ _ _ _ _ _ 65535 (issuing r') (alone r') (active r') (noTry ?_) ?_ ?_ ?_ <;> decide +kernel⟩

/-- Window addresses of the second warp: the ends of the predicate words and of what is ignored. -/
def windowEdges : List Nat := [0xE100, 0xE11C, 0x9000, 0xDFFC, 0xE000, 0xE124]
/-- The lane's v10 holds one of them; the window has 32 registers. -/
def edging (n : Fin 6) : State :=
  issue (fun t => { laneBy (fun l => l.wrV 10 (BitVec.ofNat 32 (windowEdges.getD n 0))) t with desc := { t.desc with win := 4 } })

theorem wit_WindowAccesses :
    (¬ ∀ s h is t k w l d ad (wa j : Nat) x, Issuing s (.ldw h d ad) h is t → OneLane t is h k → Active t is h k w l → w.tx.depth = 0 →
      offsetOf w l ad = (wa : Int) → wa % 4 = 0 → wa ≤ 0x1FFFFC → t.warps.findIdx? (fun w => w.ctx == wa / 2 ^ 15) = some j →
      t.warps[j]? = some x → False) ∧
    (¬ ∀ s h is t k w l ad b (wa j : Nat) x m, Issuing s (.stw h ad b) h is t → OneLane t is h k → Active t is h k w l → w.tx.depth = 0 →
      offsetOf w l ad = (wa : Int) → wa % 4 = 0 → wa ≤ 0x1FFFFC → t.warps.findIdx? (fun w => w.ctx == wa / 2 ^ 15) = some j →
      t.warps[j]? = some x → wa % 2 ^ 15 < 0x6000 → wa % 2 ^ 15 / 128 < 8 * t.desc.win → x.lanes[wa / 4 % 32]? = some m → False) ∧
    (¬ ∀ s h is t k w l ad b (wa j : Nat) x, Issuing s (.stw h ad b) h is t → OneLane t is h k → Active t is h k w l → w.tx.depth = 0 →
      offsetOf w l ad = (wa : Int) → wa % 4 = 0 → wa ≤ 0x1FFFFC → t.warps.findIdx? (fun w => w.ctx == wa / 2 ^ 15) = some j →
      t.warps[j]? = some x → 0x6000 < wa % 2 ^ 15 → wa % 2 ^ 15 < 0x6100 → False) ∧
    (¬ ∀ s h is t k w l ad b (wa j : Nat) x, Issuing s (.stw h ad b) h is t → OneLane t is h k → Active t is h k w l → w.tx.depth = 0 →
      offsetOf w l ad = (wa : Int) → wa % 4 = 0 → wa ≤ 0x1FFFFC → t.warps.findIdx? (fun w => w.ctx == wa / 2 ^ 15) = some j →
      t.warps[j]? = some x → wa % 2 ^ 15 = 0x6120 → False) ∧
    (∀ at0 : Fin 6, ¬ ∀ s h is t k w l ad b (wa j : Nat) x (m : Lane), Issuing s (.stw h ad b) h is t → OneLane t is h k →
      Active t is h k w l → w.tx.depth = 0 →
      offsetOf w l ad = (wa : Int) → wa % 4 = 0 → wa ≤ 0x1FFFFC → t.warps.findIdx? (fun w => w.ctx == wa / 2 ^ 15) = some j →
      t.warps[j]? = some x → x.lanes[31]? = some m → wa = windowEdges.getD at0 0 →
      (if at0 < 2 then 0x6100 ≤ wa % 2 ^ 15 ∧ wa % 2 ^ 15 < 0x6120 else
        wa % 2 ^ 15 < 0x6000 ∧ 8 * t.desc.win ≤ wa % 2 ^ 15 / 128 ∨ wa % 2 ^ 15 = 0x6000 ∨ 0x6124 ≤ wa % 2 ^ 15) → False) :=
  let x1 : Warp := (team0.warps[1]?).getD (wOf state0)
  have r : ready (.ldw h0 (.v 7) byV10) (with10 0x8000) = true := by decide +kernel
  have s1 : ready (.stw h0 byV10 (.v 1)) (with10 0xDFFC) = true := by decide +kernel
  have s2 : ready (.stw h0 byV10 (.v 1)) (with10 0xE0FC) = true := by decide +kernel
  have s3 : ready (.stw h0 byV10 (.v 1)) (with10 0xE120) = true := by decide +kernel
  ⟨fun H => by refine H _ _ _ _ _ _ _ _ _ 0x8000 1 x1 (issuing r) (alone r) (active r) ?_ ?_ ?_ ?_ ?_ ?_ <;> decide +kernel,
   fun H => by
     refine H _ _ _ _ _ _ _ _ _ 0xDFFC 1 x1 ((x1.lanes[31]?).getD (lOf state0)) (issuing s1) (alone s1) (active s1) ?_ ?_ ?_ ?_ ?_ ?_ ?_ ?_ ?_ <;>
       decide +kernel,
   fun H => by refine H _ _ _ _ _ _ _ _ _ 0xE0FC 1 x1 (issuing s2) (alone s2) (active s2) ?_ ?_ ?_ ?_ ?_ ?_ ?_ ?_ <;> decide +kernel,
   fun H => by refine H _ _ _ _ _ _ _ _ _ 0xE120 1 x1 (issuing s3) (alone s3) (active s3) ?_ ?_ ?_ ?_ ?_ ?_ ?_ <;> decide +kernel,
   fun n H => by
     have r : ready (.stw h0 byV10 (.v 1)) (edging n) = true := by clear H; revert n; decide +kernel
     refine H _ _ _ _ _ _ _ _ _ (windowEdges.getD n 0) 1 ((tOf (edging n)).warps[1]?.getD (wOf state0))
       (((tOf (edging n)).warps[1]?.getD (wOf state0)).lanes[31]?.getD (lOf state0)) (issuing r) (alone r) (active r) ?_ ?_ ?_ ?_ ?_ ?_ ?_ rfl ?_ <;>
       (clear H r; revert n; decide +kernel)⟩

theorem wit_FencesAndPrefetches :
    (¬ ∀ s h is t k w l scope, Issuing s (.fence h scope) h is t → OneWarp t is h k → Active t is h k w l → CleanSpace s t.space → False) ∧
    (¬ ∀ s h is t k w l hint ad, Issuing s (.pref h hint ad) h is t → OneLane t is h k → Active t is h k w l →
      (hint = .noalloc ∨ ∃ c, s.ctx? t.space = some c ∧ ∀ ia, rangeCheck c (eaOf w l ad) .load = .ok ia →
        ∃ tr, Warm s t.space ia .load false tr) → False) ∧
    (¬ ∀ s h is t hint ad, Issuing s (.nop h) h is t → (∀ k ∈ is.lanes, gated s is.team k.1 k.2 (info (.pref h hint ad)) = false) →
      ad.base.isLatch = true → False) ∧
    (¬ ∀ s h is t hint ad, Issuing s (.nop h) h is t → (∀ k ∈ is.lanes, gated s is.team k.1 k.2 (info (.pref h hint ad)) = false) →
      srcOdd ad.base = true → False) ∧
    (¬ ∀ s h is t hint ad, Issuing s (.nop h) h is t → (∀ k ∈ is.lanes, gated s is.team k.1 k.2 (info (.pref h hint ad)) = false) →
      srcBeyond t.desc.win ad.base 2 = true → False) :=
  have r : ready (.fence h0 .y) (issue id) = true := by decide +kernel
  have r' : ready (.pref h0 .alloc byV10) (with10 0x1FFFFF) = true := by decide +kernel
  have n : ready (.nop h0) (issue id) = true := by decide +kernel
  have n' : ready (.nop h0) (issue (fun t => { t with desc := { t.desc with win := 1 } })) = true := by decide +kernel
  ⟨fun H => H _ _ _ _ _ _ _ _ (issuing r) (aloneW r) (active r) (clean rfl _),
   fun H => H _ _ _ _ _ _ _ _ byV10 (issuing r') (alone r') (active r')
     (.inr ⟨ctx0, rfl, fun ia hia => ⟨_, warm0 (ia := ia) rfl rfl rfl
       (by
         have e : Except.ok 0x1FFFFF = (Except.ok ia : Except Byte Nat) := (ranged (c := ctx0) rfl (va := 0x1FFFFF) (by decide) .load).symm.trans hia
         injection e with e; omega) _ _⟩⟩),
   fun H => H (issue id) _ _ _ .alloc ⟨.bp 2, none⟩ (issuing n) (by decide +kernel) rfl,
   fun H => H (issue id) _ _ _ .alloc ⟨.v 5, none⟩ (issuing n) (by decide +kernel) rfl,
   fun H => H (issue (fun t => { t with desc := { t.desc with win := 1 } })) _ _ _ .alloc ⟨.v 8, none⟩ (issuing n') (by decide +kernel) (by decide +kernel)⟩

end Sys2Proof.Tests
end

