-- ==== Sys2Proof/Tests/WitnessC.lean ====
section
/-! SUPPORT. `wit_X` denies that the hypotheses of statement X, clause by clause, are contradictory: tiles, rings and
channels. -/

namespace Sys2Proof.Tests
set_option Elab.async false
open Sys2Proof.Machine

/-- Two rows of 16 FP32 elements. -/
def rows2 : DWord := shp 0 0 2 16 64 0
def tileIs (n : Nat) (st : TileSt) : Team → Team := tiled n rows2 st

theorem wit_TilesAreDeclared :
    (¬ ∀ s h is t k w l n src x, Issuing s (.tdecl h n src) h is t → OneWarp t is h k → Active t is h k w l →
      NoDebugBlock s t.space → t.ttab.length = 32 → x = (match src with | .reg a => readPair w l a | .imm x => x) →
      (t.tile n.val).st = .ready → (shapeOf x).ok t.desc.tileK = true → False) ∧
    (¬ ∀ s h is t k w l n src x, Issuing s (.tdecl h n src) h is t → OneWarp t is h k → Active t is h k w l →
      NoDebugBlock s t.space → t.ttab.length = 32 → x = (match src with | .reg a => readPair w l a | .imm x => x) →
      (t.tile n.val).st = .draining → False) ∧
    (¬ ∀ s h is t k w l n, Issuing s (.tfree h n) h is t → OneWarp t is h k → Active t is h k w l → NoDebugBlock s t.space →
      t.ttab.length = 32 → (t.tile n.val).st = .ready → False) ∧
    (¬ ∀ s h is t k w l n, Issuing s (.tfree h n) h is t → OneWarp t is h k → Active t is h k w l → NoDebugBlock s t.space →
      t.ttab.length = 32 → (t.tile n.val).st = .filling → False) ∧
    (¬ ∀ s h is t d n, Issuing s (.tstate h d n) h is t → False) ∧
    (¬ ∀ s h is t k w l n a, Issuing s (.movTshFromS h n a) h is t → OneWarp t is h k → Active t is h k w l →
      (t.tile n.val).st = .ready → False) ∧
    (¬ ∀ s h is t k w l d n, Issuing s (.movSFromTsh h d n) h is t → OneWarp t is h k → Active t is h k w l → False) :=
  have a : ready (.tdecl h0 31 (.imm rows2)) (issue (tileIs 31 .ready)) = true := by decide +kernel
  have b : ready (.tdecl h0 31 (.reg (.s 4))) (issue (tileIs 31 .draining)) = true := by decide +kernel
  have c : ready (.tfree h0 31) (issue (tileIs 31 .ready)) = true := by decide +kernel
  have d : ready (.tfree h0 0) (issue (tileIs 0 .filling)) = true := by decide +kernel
  have e : ready (.movTshFromS h0 31 (.s 62)) (issue (tileIs 31 .ready)) = true := by decide +kernel
  have f : ready (.movSFromTsh h0 (.s 62) 31) (issue id) = true := by decide +kernel
  ⟨fun H => by refine H _ _ _ _ _ _ _ _ _ _ (issuing a) (aloneW a) (active a) (noBlock rfl _) ?_ rfl ?_ ?_ <;> decide +kernel,
   fun H => by refine H _ _ _ _ _ _ _ _ _ _ (issuing b) (aloneW b) (active b) (noBlock rfl _) ?_ rfl ?_ <;> decide +kernel,
   fun H => by refine H _ _ _ _ _ _ _ _ (issuing c) (aloneW c) (active c) (noBlock rfl _) ?_ ?_ <;> decide +kernel,
   fun H => by refine H _ _ _ _ _ _ _ _ (issuing d) (aloneW d) (active d) (noBlock rfl _) ?_ ?_ <;> decide +kernel,
   fun H => H (issue id) h0 is0 _ (.v 191) 31 (issuing (by decide +kernel)),
   fun H => H _ _ _ _ _ _ _ _ _ (issuing e) (aloneW e) (active e) (by decide +kernel),
   fun H => H _ _ _ _ _ _ _ _ _ (issuing f) (aloneW f) (active f)⟩

def cpy0 (free : Bool) : Instr := .cpyout h0 free ⟨none, .alloc⟩ 5 ⟨.v 10, none⟩ (.v 12)
def cpyin0 : Instr := .cpyin h0 ⟨none, .alloc⟩ 5 ⟨.v 10, none⟩ (.v 12)
/-- v10 = 0x1000, v12 = −64: the second row lies below the first. -/
def copying (st : TileSt) (t : Team) : Team := tileIs 5 st (laneBy (fun l => (l.wrV 10 0x1000).wrV 12 0xFFFFFFC0) t)
def copyOp (i : Instr) : EngOp := op0 i [0x1000, 0xFFFFFFC0] [0x1000, 0xFC0] [5]

theorem wit_CopiesRun :
    (¬ ∀ s h is t k w l free m n ad b g x, Issuing s (.cpyout h free m n ad b) h is t → OneWarp t is h k → Active t is h k w l →
      CleanSpace s t.space → t.ttab.length = 32 → g = eaOf w l ad → x = readSrc w l b → t.shapeOk n.val = true →
      g.toNat % 4 = 0 → x.toNat % 4 = 0 → (t.tile n.val).st = .ready → Ranged s t.space .store (rowBeats g x (t.shape n.val)) → False) ∧
    (¬ ∀ s h is t k w l m n ad b g x ias bs key tr, Issuing s (.cpyin h m n ad b) h is t → OneWarp t is h k → Active t is h k w l →
      CleanSpace s t.space → FreshName s → t.ttab.length = 32 → g = eaOf w l ad → x = readSrc w l b → t.shapeOk n.val = true →
      g.toNat % 4 = 0 → x.toNat % 4 = 0 → t.tile n.val = ⟨.empty, false, false, none⟩ →
      checkBeats s t.space .load (rowBeats g x (t.shape n.val)) = .ok ias → bs = withIas (rowBeats g x (t.shape n.val)) ias →
      Streamed s t.space .load key bs tr → Apart bs → False) ∧
    (¬ ∀ s o t h m n ad b key tr bs, Awake s → s.mcasts = [] → s.op? o.id = some o → o.ins = .cpyin h m n ad b →
      o.tiles = [n.val] → s.team? o.team = some t → opRuns s o = true → t.ttab.length = 32 →
      bs = (copyBeats t o).drop o.pos → Streamed s t.space .load key bs tr → Apart bs → False) ∧
    (¬ ∀ s o t h free m n ad b key tr bs, Awake s → NoTryAtAll s → NoDebugBlock s t.space → s.op? o.id = some o →
      o.ins = .cpyout h free m n ad b → o.tiles = [n.val] → s.team? o.team = some t → opRuns s o = true →
      t.ttab.length = 32 → bs = (copyBeats t o).drop o.pos → Streamed s t.space .store key bs tr →
      bs.Pairwise (fun a b => (tr a).pa + a.len ≤ (tr b).pa ∨ (tr b).pa + b.len ≤ (tr a).pa) → False) :=
  have a : ready (cpy0 true) (issue (fun t => roled .copy (copying .ready t))) = true := by decide +kernel
  have a' : ready cpyin0 (issue (fun t => roled .copy (copying .empty t))) = true := by decide +kernel
  ⟨fun H => by
     refine H _ _ _ _ _ _ _ true ⟨none, .alloc⟩ 5 ⟨.v 10, none⟩ (.v 12) 0x1000 0xFFFFFFC0 (issuing a) (aloneW a) (active a)
       (clean rfl _) ?_ ?_ ?_ ?_ ?_ ?_ ?_ (rangedAll (c := ctx0) rfl rfl _ ?_) <;> decide +kernel,
   fun H => by
     refine H _ _ _ _ _ _ _ ⟨none, .alloc⟩ 5 ⟨.v 10, none⟩ (.v 12) 0x1000 0xFFFFFFC0 [0x1000, 0xFC0] _ _ _ (issuing a') (aloneW a') (active a')
       (clean rfl _) ?_ ?_ ?_ ?_ ?_ ?_ ?_ ?_ ?_ rfl (streamed rfl rfl rfl _ ?_) ?_
     all_goals try unfold Apart
     all_goals try unfold FreshName
     all_goals first | decide +kernel | rfl,
   fun H => by
     refine H (working (copying .filling) { copyOp cpyin0 with pos := 1 }) { copyOp cpyin0 with pos := 1 } (copying .filling team0) h0 _ 5 _ _ _ _ _
       ⟨rfl, rfl, rfl⟩ rfl ?_ rfl rfl ?_ ?_ ?_ rfl (streamed rfl rfl rfl _ ?_) ?_
     all_goals try unfold Apart
     all_goals decide +kernel,
   fun H => by
     refine H (working (copying .draining) (copyOp (cpy0 false))) (copyOp (cpy0 false)) (copying .draining team0) h0 false _ 5 _ _ _ _ _
       ⟨rfl, rfl, rfl⟩ (noTries ?_) (noBlock rfl _) ?_ rfl rfl ?_ ?_ ?_ rfl (streamed rfl rfl rfl _ ?_) ?_ <;> decide +kernel⟩

def mcast0 : Instr := .mcast h0 5 (.v 10) (.v 12)
def masking (t : Team) : Team := roled .copy { laneBy (fun l => (l.wrV 10 0x1000).wrV 12 0x8001) (tileIs 5 .empty t) with grants := [(3, 1)] }
def mcOp : EngOp := op0 mcast0 [0x1000, 0x8001, 128, 5] [0x1000, 0x1040] [5]
def mc0 : Mcast := ⟨8, 9, 2, 0, 0, 0x1000, [0x1000, 0x1040], 128, 5, 0x8001, 0, [3, 3], [], [], [], [], []⟩
def armed (t : Team) : Team := { tileIs 5 .empty t with ttab := t.ttab.set 5 ⟨.empty, false, true, none⟩ }
def pended (t : Team) : Team := { tileIs 5 .empty t with ttab := t.ttab.set 5 ⟨.empty, false, false, some ⟨0, 0x1000, 0x1000, 128⟩⟩ }
def merging : State := { working (copying .filling) mcOp with ops := [mcOp, { copyOp cpyin0 with id := 7, ias := [0x1040, 0xFC0] }], mcasts := [{ mc0 with left := [(0, 60)] }] }
/-- A plain load of the second beat's line, of which nothing has left. -/
def late0 : Access := { blankAccess .load 0x1040 0x1040 16 with id := 7, team := 3, pc := 0x100, len := 8 }
def open66 : State := { working masking mcOp with mcasts := [mc0], cycle := 80 }
def leaving (f : Team → Team) (m : Mcast) : State := { working f mcOp with mcasts := [m], cycle := 200 }
def left1 : Mcast := { mc0 with left := [(0, 70)] }
def receiving : Mcast := { mc0 with left := [(0, 70), (1, 71)], receivers := [(3, 0)] }
def fillOp : EngOp := op0 (.tarm h0 5) [0x1000, 128] [0x1000, 0x1040] [5]

theorem wit_MulticastsRun_open :
    (¬ ∀ s h is t k w l n a b, Issuing s (.mcast h n a b) h is t → OneWarp t is h k → Active t is h k w l →
      CleanSpace s t.space → NoRequest t is h → HoldsGrant s t 3 → t.shapeOk n.val = true → (readPair w l a).toNat % 64 = 0 →
      (readSrc w l b).toNat % 65536 ≠ 0 → Ranged s t.space .load (runBeats (readPair w l a).toNat (t.shape n.val).extent 0) → False) ∧
    (¬ ∀ s o h n a b t, Awake s → s.op? o.id = some o → o.ins = .mcast h n a b → s.team? o.team = some t → opRuns s o = true →
      (∀ m ∈ s.mcasts, m.op ≠ o.id) → False) ∧
    (¬ ∀ s h is t k w l n, Issuing s (.tarm h n) h is t → OneWarp t is h k → Active t is h k w l →
      t.ttab.length = 32 → t.shapeOk n.val = true → (t.tile n.val).st = .empty → (t.tile n.val).pend = none → False) ∧
    (¬ ∀ s h is t k w l n p, Issuing s (.tarm h n) h is t → OneWarp t is h k → Active t is h k w l →
      t.ttab.length = 32 → t.shapeOk n.val = true → (t.tile n.val).st = .empty →
      (t.tile n.val).pend = some p → p.ext = (t.shape n.val).extent →
      Ranged s t.space .load (runBeats p.va.toNat p.ext (t.shape n.val).base) → False) :=
  have a : ready mcast0 (issue masking) = true := by decide +kernel
  have b : ready (.tarm h0 5) (issue pended) = true := by decide +kernel
  have c : ready (.tarm h0 5) (issue (tileIs 5 .empty)) = true := by decide +kernel
  ⟨fun H => by
     refine H _ _ _ _ _ _ _ 5 _ _ (issuing a) (aloneW a) (active a) (clean rfl _) (noRequest a ?_) ⟨(3, 1), ?_, rfl, ?_⟩ ?_ ?_ ?_
       (rangedAll (c := ctx0) rfl rfl _ ?_) <;> decide +kernel,
   fun H => by refine H (working masking mcOp) mcOp h0 5 _ _ (masking team0) ⟨rfl, rfl, rfl⟩ ?_ rfl ?_ ?_ ?_ <;> decide +kernel,
   fun H => by refine H _ _ _ _ _ _ _ 5 (issuing c) (aloneW c) (active c) ?_ ?_ ?_ ?_ <;> decide +kernel,
   fun H => by
     refine H _ _ _ _ _ _ _ 5 ⟨0, 0x1000, 0x1000, 128⟩ (issuing b) (aloneW b) (active b) ?_ ?_ ?_ ?_ ?_
       (rangedAll (c := ctx0) rfl rfl _ ?_) <;> decide +kernel⟩

theorem wit_MulticastsRun :
    (¬ ∀ s (m : Mcast) o t h cm n ad b, Awake s → s.mcast? m.id = some m → m.joined o.id true = none → s.op? o.id = some o →
      o.ins = .cpyin h cm n ad b → o.id ≠ m.op → s.team? o.team = some t → opRuns s o = true → t.space = m.space →
      t.core / 16 = m.sector → (∃ ia ∈ o.ias, ∃ j, m.beatAt ia = some j ∧ m.hasLeft j = false) → False) ∧
    (¬ ∀ s (m : Mcast) (a : Access) t j, Awake s → s.mcast? m.id = some m → s.op? a.id = none →
      s.accs.find? (fun x => x.id == a.id) = some a → a.op = .load → a.scope = none → movable s a = true → s.team? a.team = some t →
      t.space = m.space → t.core / 16 = m.sector → m.beatAt a.ia = some j → m.hasLeft (m.lineFirst j) = false →
      m.joined a.id false = none → False) ∧
    (¬ ∀ s (m : Mcast) o t (tr : Nat → Trans) ia0 n, Awake s → s.mcasts = [m] → m.left = [] → m.merged = [] → m.mask ≠ 0 →
      m.opened + 64 + m.ias.length ≤ s.mesh → s.op? m.op = some o → s.team? o.team = some t → opRuns s o = true →
      ia0 % 64 = 0 → m.ias = (List.range n).map (fun k => ia0 + 64 * k) →
      (∀ ia ∈ m.ias, Warm s m.space ia .load false (tr ia) ∧ corrupt s (tr ia).pa 64 = false) → False) ∧
    (¬ ∀ s (m : Mcast) core t, Awake s → s.mcast? m.id = some m → m.left ≠ [] → core / 16 = m.sector →
      m.mask.getLsbD (core % 16) = true → receiverAt s m.inst core = some t → s.team? t.uid = some t → t.ttab.length = 32 →
      m.tile < 32 → (t.tile m.tile).st = .empty → (t.tile m.tile).arm = true → t.shapeOk m.tile = true →
      (t.shape m.tile).extent = m.ext → False) ∧
    (¬ ∀ s (m : Mcast) core t, Awake s → s.mcast? m.id = some m → m.left ≠ [] → core / 16 = m.sector →
      m.mask.getLsbD (core % 16) = true → receiverAt s m.inst core = some t → s.team? t.uid = some t → t.ttab.length = 32 →
      m.tile < 32 → ((t.tile m.tile).st ≠ .empty ∨ (t.tile m.tile).arm = false) → (t.tile m.tile).pend = none → False) ∧
    (¬ ∀ s (m : Mcast) core u t, Awake s → s.mcast? m.id = some m → m.receivers.find? (fun x => x.2 == core) = some (u, core) →
      m.allLeft = true → s.team? u = some t → t.st = .running → t.ttab.length = 32 → m.tile < 32 → m.ext ≤ 64 * m.ias.length → False) ∧
    (¬ ∀ s o h n t key tr bs, Awake s → s.mcasts = [] → s.op? o.id = some o → o.ins = .tarm h n → o.tiles = [n.val] →
      s.team? o.team = some t → opRuns s o = true → t.ttab.length = 32 →
      bs = (withIas (runBeats (o.arg 0) (o.arg 1) (t.shape n.val).base) o.ias).drop o.pos →
      Streamed s t.space .load key bs tr → Apart bs → False) :=
  ⟨fun H => by
     refine H merging { mc0 with left := [(0, 60)] } { copyOp cpyin0 with id := 7, ias := [0x1040, 0xFC0] } (copying .filling team0) h0 _ 5 _ _
       ⟨rfl, rfl, rfl⟩ ?_ rfl ?_ rfl ?_ ?_ ?_ rfl rfl ⟨0x1040, ?_, 1, ?_, ?_⟩ <;> decide +kernel,
   fun H => by
     refine H { working id mcOp with mcasts := [mc0], accs := [late0] } mc0 late0 team0 1
       ⟨rfl, rfl, rfl⟩ ?_ ?_ ?_ rfl rfl ?_ ?_ rfl rfl ?_ ?_ ?_ <;> decide +kernel,
   fun H => by
     refine H open66 mc0 mcOp (masking team0) tr0 0x1000 2 ⟨rfl, rfl, rfl⟩ rfl rfl rfl ?_ ?_ ?_ ?_ ?_ ?_ ?_
       (fun ia hia => ⟨warm rfl rfl ?_ _ _, rfl⟩)
     all_goals first
       | decide +kernel
       | skip
     have : ia ∈ [0x1000, 0x1040] := hia
     simp at this; omega,
   fun H => by
     refine H (leaving armed left1) left1 0 (armed team0) ⟨rfl, rfl, rfl⟩ ?_ ?_ rfl ?_ ?_ ?_ ?_ ?_ ?_ ?_ ?_ ?_ <;> decide +kernel,
   fun H => by
     refine H (leaving (tileIs 5 .ready) left1) left1 0 (tileIs 5 .ready team0) ⟨rfl, rfl, rfl⟩ ?_ ?_ rfl ?_ ?_ ?_ ?_ ?_ ?_ ?_ <;> decide +kernel,
   fun H => by
     refine H (leaving (tileIs 5 .filling) receiving) receiving 0 3 (tileIs 5 .filling team0) ⟨rfl, rfl, rfl⟩ ?_ ?_ ?_ ?_ ?_ ?_ ?_ ?_ <;>
       decide +kernel,
   fun H => by
     refine H (working (tileIs 5 .filling) fillOp) fillOp h0 5 (tileIs 5 .filling team0) _ _ _ ⟨rfl, rfl, rfl⟩ rfl ?_ rfl rfl ?_ ?_ ?_ rfl
       (streamed rfl rfl rfl _ ?_) ?_
     all_goals try unfold Apart
     all_goals decide +kernel⟩

def rrot0 : Instr := .rrot h0 false false 5
def placed2 (t : Team) : Team := roled .copy (tileIs 5 .ready { t with desc := { t.desc with place := 2 } })
def member (k : Nat) : Team := { placed2 team0 with uid := 3 + k, core := k, t := k }
def memberOp (k : Nat) : EngOp := { op0 rrot0 [0] [] [5] with id := 10 + k, team := 3 + k }
def cluster : State := { state0 with teams := (List.range 4).map member, ops := (List.range 4).map memberOp }
def rotating : EngOp := { op0 rrot0 [0] [] [5] with pos := 1 }
def ringT (g : Ring) (t : Team) : Team := { t with rings := t.rings.set 7 g }
/-- A ring of one slot, full. -/
def fullRing : Ring := ⟨[(31, false)], 0, true, 0, false, 1, 1⟩
def emptyRing : Ring := ⟨[(31, true)], 0, false, 0, false, 0, 1⟩

theorem wit_RingsRun :
    (¬ ∀ s h is t k w l ring dn n, Issuing s (.rrot h ring dn n) h is t → OneWarp t is h k → Active t is h k w l →
      CleanSpace s t.space → (∀ o ∈ s.ops, o.team ≠ is.team) → NoRequest t is h →
      t.shapeOk n.val = true → (if ring then t.desc.place = 3 ∧ 2 ≤ t.desc.rlen else t.desc.place = 2) →
      (ring = true → t.desc.rlen = 16 → HoldsGrant s t 4) → False) ∧
    (¬ ∀ s inst (n : Fin 32) ms ext dn, Awake s → (s.teams.map (·.uid)).Nodup → (s.ops.map (·.id)).Nodup →
      (s.teams.filter (fun u => u.inst == inst)).findSome? (fun u => rotationAt s u n.val) = some ms →
      (ms.map (·.1.uid)).Nodup → (∀ x ∈ ms, (x.1.shape n.val).extent = ext ∧ x.2.arg 0 = dn) → False) ∧
    (¬ ∀ s o t h ring dn (n : Fin 32), Awake s → s.team? o.team = some t → t.ttab.length = 32 → opRuns s o = true →
      o.ins = .rrot h ring dn n →
      s.ops.find? (fun o => o.team == t.uid && (isRrot o.ins).isSome && o.tiles == [n.val] && o.pos == 1) = some o → False) ∧
    (¬ ∀ s h is t k w l r src g, Issuing s (.rpush h r src) h is t → OneWarp t is h k → Active t is h k w l →
      t.rings[r.val]? = some g → 0 < g.depth → g.slots.length = g.depth → g.prod < g.depth → g.count ≠ g.depth → False) ∧
    (¬ ∀ s h is t k w l r src g, Issuing s (.rpush h r src) h is t → OneWarp t is h k → Active t is h k w l →
      t.rings[r.val]? = some g → 0 < g.depth → g.slots.length = g.depth → g.prod < g.depth → g.count = g.depth → False) ∧
    (¬ ∀ s h is t k w l d r g n ph, Issuing s (.rpop h d r) h is t → OneWarp t is h k → Active t is h k w l →
      t.rings[r.val]? = some g → 0 < g.depth → g.cons < g.depth → g.slots[g.cons]? = some (n, ph) → ph = g.expPh → False) ∧
    (¬ ∀ s h is t k w l d r g n ph, Issuing s (.rpop h d r) h is t → OneWarp t is h k → Active t is h k w l →
      t.rings[r.val]? = some g → 0 < g.depth → g.cons < g.depth → g.slots[g.cons]? = some (n, ph) → ph ≠ g.expPh → False) :=
  have a : ready rrot0 (issue placed2) = true := by decide +kernel
  have p : ready (.rpush h0 7 (.tile 31)) (issue (ringT emptyRing)) = true := by decide +kernel
  have p' : ready (.rpush h0 7 (.tile 31)) (issue (ringT fullRing)) = true := by decide +kernel
  have q : ready (.rpop h0 (.v 191) 7) (issue (ringT fullRing)) = true := by decide +kernel
  have q' : ready (.rpop h0 (.v 191) 7) (issue (ringT emptyRing)) = true := by decide +kernel
  ⟨fun H => by
     refine H _ _ _ _ _ _ _ false _ 5 (issuing a) (aloneW a) (active a) (clean rfl _) ?_ (noRequest a ?_) ?_ ?_ (fun h => nomatch h) <;> decide +kernel,
   fun H => by
     refine H cluster 2 5 ((List.range 4).map (fun k => (member k, memberOp k))) 128 0 ⟨rfl, rfl, rfl⟩ ?_ ?_ ?_ ?_ ?_ <;> decide +kernel,
   fun H => by
     refine H (working placed2 rotating) rotating (placed2 team0) h0 false false 5 ⟨rfl, rfl, rfl⟩ ?_ ?_ ?_ rfl ?_ <;> decide +kernel,
   fun H => by refine H _ _ _ _ _ _ _ 7 _ emptyRing (issuing p) (aloneW p) (active p) ?_ ?_ ?_ ?_ ?_ <;> decide +kernel,
   fun H => by refine H _ _ _ _ _ _ _ 7 _ fullRing (issuing p') (aloneW p') (active p') ?_ ?_ ?_ ?_ ?_ <;> decide +kernel,
   fun H => by refine H _ _ _ _ _ _ _ _ 7 fullRing 31 false (issuing q) (aloneW q) (active q) ?_ ?_ ?_ ?_ ?_ <;> decide +kernel,
   fun H => by refine H _ _ _ _ _ _ _ _ 7 emptyRing 31 true (issuing q') (aloneW q') (active q') ?_ ?_ ?_ ?_ ?_ <;> decide +kernel⟩

/-- v10 goes to channel 3 of the warp in context 0 of core 0. -/
def toSelf (t : Team) : Team := warpBy (fun w => { w with qdest := cset w.qdest 3 0x80000003 }) t
def flit0 (bounced : Bool) : Flit := ⟨8, 0, 3, 0, 0, 3, 0x80000003, 5, bounced⟩
def sender (n : Nat) (t : Team) : Team :=
  warpBy (fun w => { w with q3 := List.replicate n 0 }) (laneBy (fun l => { l with st := .blocked, wait := .flit 8 }) t)
/-- The buffer has n entries of 16. -/
def flying (n : Nat) (bounced : Bool) : State := { state0 with named := 8, teams := [sender n team0], flits := [flit0 bounced] }

theorem wit_ChannelsCarry (b : Bool) :
    (¬ ∀ s h is t k w l q a, Issuing s (.movQFromV h q a) h is t → OneLane t is h k → Active t is h k w l →
      (cget w.qdest q.val).getLsbD 31 = true → False) ∧
    (¬ ∀ s f u j w l x, Awake s → s.flits.find? (fun g => g.id == s.named) = some f → f.bounced = b → firstOfChannel s f = true →
      flitTo s f = .room u j → s.warp? u j = some x → s.warp? f.team f.warp = some w → w.lanes[f.lane]? = some l →
      l.st = .blocked → l.wait = .flit f.id → False) ∧
    (¬ ∀ s f, Awake s → s.flits.find? (fun g => g.id == s.named) = some f → f.bounced = false → firstOfChannel s f = true →
      flitTo s f = .full → False) ∧
    (¬ ∀ s h is t k w l d q x rest, Issuing s (.movVFromQ h d q) h is t → OneLane t is h k → Active t is h k w l →
      w.chan q.val = x :: rest → False) ∧
    (¬ ∀ s h is t k w l d q, Issuing s (.movVFromQ h d q) h is t → OneLane t is h k → Active t is h k w l →
      w.chan q.val = [] → False) :=
  have a : ready (.movQFromV h0 3 (.v 190)) (issue toSelf) = true := by decide +kernel
  have c : ready (.movVFromQ h0 (.v 190) 3) (issue (warpBy (fun w => { w with q3 := [5] }))) = true := by decide +kernel
  have d : ready (.movVFromQ h0 (.v 190) 3) (issue id) = true := by decide +kernel
  ⟨fun H => H _ _ _ _ _ _ _ 3 _ (issuing a) (alone a) (active a) (by decide +kernel),
   fun H => by
     refine H (flying 15 b) (flit0 b) 3 0 (wOf (flying 15 b)) (lOf (flying 15 b)) (wOf (flying 15 b)) ⟨rfl, rfl, rfl⟩ ?_ rfl ?_ ?_ ?_ ?_ ?_ ?_ ?_ <;>
       (clear H; revert b; decide +kernel),
   fun H => by refine H (flying 16 false) (flit0 false) ⟨rfl, rfl, rfl⟩ ?_ rfl ?_ ?_ <;> decide +kernel,
   fun H => H _ _ _ _ _ _ _ _ 3 5 [] (issuing c) (alone c) (active c) (by decide +kernel),
   fun H => H _ _ _ _ _ _ _ _ 3 (issuing d) (alone d) (active d) (by decide +kernel)⟩

end Sys2Proof.Tests
end

