-- ==== Sys2Proof/Tests/WitnessD.lean ====
section
/-! SUPPORT. `wit_X` denies that the hypotheses of statement X, clause by clause, are contradictory: the matrix, vector,
point, ray and raster units. -/

namespace Sys2Proof.Tests
set_option Elab.async false
open Sys2Proof.Machine

/-- The team's scratchpad holds numbers of n bytes at offsets. -/
def scratchy (xs : List (Nat × Nat × Nat)) (t : Team) : Team :=
  { t with scratch := xs.foldl (fun m x => memPut m x.1 (leBytes x.2.1 x.2.2)) t.scratch }

/-! ### Luna -/

def one16 : DWord := shp 1 0 129 1 4 0
def one32 : DWord := shp 0 0 129 1 4 0x1000
/-- Tile 0 is BF16, tile 1 FP32; the team holds grants of kinds 1 and 2 and a weight set of one element. -/
def lunaT (a b : DWord) (ws : List (Nat × Nat × Nat)) (t : Team) : Team :=
  scratchy ws (roled .matrix { tiled 1 b .ready (tiled 0 a .ready t) with grants := [(1, 1), (2, 1)], weight := ⟨true, 1, 1, 1, 0, [], []⟩ })
def noOvr : MpExt := ⟨false, false, 0, 0, 65472⟩
/-- M is 129. -/
def movr : MpExt := ⟨true, false, 128, 0, 65472⟩
def par (dt : Nat) : List (Nat × Nat × Nat) := [(65472, 4, dt * 65536)]
def par0 (dt m : Nat) : Params := ⟨false, .rn, false, dt, 0, 0, 1, m, 1⟩

def LunaHyps (cmd : Nat) : Prop := ∀ s i h is t k w l x p kind, (i = .mlw h x ∧ cmd = 0 ∨ i = .mma h x ∧ cmd = 1 ∨ i = .mq h x ∧ cmd = 2) →
  Issuing s i h is t → OneWarp t is h k → Active t is h k w l → NoTry t → t.ttab.length = 32 →
  x.pbo.toNat + 64 ≤ 1024 * t.desc.scrK → params cmd x (cread t.scratch x.pbo.toNat 64) = some p →
  lunaCheck s t cmd p = none → (t.tile p.st).st = .ready → (cmd ≠ 0 → (t.tile p.dt).st = .ready) →
  ((if cmd = 2 then (t.shape p.dt).scale else (t.shape p.st).scale) ≠ 0 → (t.tile p.sc).st = .ready) →
  kind = (if cmd = 0 then 1 else if cmd = 1 ∧ 128 < p.m then 2 else 0) → (kind ≠ 0 → HoldsGrant s t kind) →
  NoRequest t is h → False

def mlwOp : EngOp := op0 (.mlw h0 noOvr) [1, 1, one16.toNat, 0, 0, 1, 0, 0, 0, 0] [] [0]
def mmaOp : EngOp := op0 (.mma h0 noOvr) [129, 1, one16.toNat, one32.toNat, 0, 1, 0, 0, 0, 0] [] [1, 0]
def mqOp : EngOp := op0 (.mq h0 noOvr) [129, 1, one32.toNat, one16.toNat, 0, 1, 0, 0, 0, 0] [] [0, 1]

theorem wit_LunaRuns : ¬ LunaHyps 0 ∧ ¬ LunaHyps 1 ∧ ¬ LunaHyps 2 ∧
    (¬ ∀ s o t h x, Awake s → s.op? o.id = some o → o.ins = .mlw h x → s.team? o.team = some t → opRuns s o = true →
      s.ops.find? (fun y => y.team == o.team && (lunaCmd y.ins).isSome) = some o → False) ∧
    (¬ ∀ s o t h x areaK, Awake s → s.op? o.id = some o → o.ins = .mma h x → s.team? o.team = some t → opRuns s o = true →
      s.ops.find? (fun y => y.team == o.team && (lunaCmd y.ins).isSome) = some o →
      (o.shapeArg 3).ty = 0 → (o.shapeArg 3).ok areaK = true → o.arg 0 ≤ (o.shapeArg 3).rows → o.arg 5 ≤ (o.shapeArg 3).cols →
      t.ttab.length = 32 → (∀ n ∈ o.tiles, n < 32) → o.tiles ≠ [] → False) ∧
    (¬ ∀ s o t h x areaK, Awake s → s.op? o.id = some o → o.ins = .mq h x → s.team? o.team = some t → opRuns s o = true →
      s.ops.find? (fun y => y.team == o.team && (lunaCmd y.ins).isSome) = some o → t.ttab.length = 32 →
      (∀ n ∈ o.tiles, n < 32) → o.tiles ≠ [] → (o.shapeArg 3).scale = 0 → (o.shapeArg 3).ok areaK = true →
      o.arg 0 ≤ (o.shapeArg 3).rows → o.arg 5 ≤ (o.shapeArg 3).cols → 0 < o.arg 5 → False) :=
  have a : ready (.mlw h0 noOvr) (issue (lunaT one16 one32 [])) = true := by decide +kernel
  have b : ready (.mma h0 movr) (issue (lunaT one16 one32 (par 1))) = true := by decide +kernel
  have c : ready (.mq h0 noOvr) (issue (lunaT one32 one16 (par 1))) = true := by decide +kernel
  ⟨fun H => by
     refine H _ _ _ _ _ _ _ _ noOvr (par0 0 1) 1 (.inl ⟨rfl, rfl⟩) (issuing a) (aloneW a) (active a) (noTry ?_) ?_ ?_ ?_ ?_ ?_ (absurd rfl) ?_ rfl
       (fun _ => ⟨(1, 1), ?_, rfl, ?_⟩) (noRequest a ?_) <;> decide +kernel,
   fun H => by
     refine H _ _ _ _ _ _ _ _ movr (par0 1 129) 2 (.inr (.inl ⟨rfl, rfl⟩)) (issuing b) (aloneW b) (active b) (noTry ?_) ?_ ?_ ?_ ?_ ?_ ?_ ?_ rfl
       (fun _ => ⟨(2, 1), ?_, rfl, ?_⟩) (noRequest b ?_) <;> decide +kernel,
   fun H => by
     refine H _ _ _ _ _ _ _ _ noOvr (par0 1 1) 0 (.inr (.inr ⟨rfl, rfl⟩)) (issuing c) (aloneW c) (active c) (noTry ?_) ?_ ?_ ?_ ?_ ?_ ?_ ?_ rfl
       (absurd rfl) (noRequest c ?_) <;> decide +kernel,
   fun H => by
     refine H (working (lunaT one16 one32 []) mlwOp) mlwOp (lunaT one16 one32 [] team0) h0 noOvr ⟨rfl, rfl, rfl⟩ ?_ rfl ?_ ?_ ?_ <;> decide +kernel,
   fun H => by
     refine H (working (lunaT one16 one32 []) mmaOp) mmaOp (lunaT one16 one32 [] team0) h0 noOvr 64 ⟨rfl, rfl, rfl⟩ ?_ rfl ?_ ?_ ?_ ?_ ?_ ?_ ?_ ?_ ?_ ?_ <;>
       decide +kernel,
   fun H => by
     refine H (working (lunaT one32 one16 []) mqOp) mqOp (lunaT one32 one16 [] team0) h0 noOvr 64 ⟨rfl, rfl, rfl⟩ ?_ rfl ?_ ?_ ?_ ?_ ?_ ?_ ?_ ?_ ?_ ?_ ?_ <;>
       decide +kernel⟩

/-! ### Stream vectors -/

def vec4 : DWord := shp 0 0 2 4 16 0
def vecT (t : Team) : Team := roled .vector (tiled 2 vec4 .ready (tiled 1 vec4 .ready (tiled 31 vec4 .ready t)))
/-- Two iterations, A from its last row upwards in steps of 16; or as many as s5 says, 0. -/
def two : VsM := ⟨0, .rn, 2, 16, 16, 0⟩
def many : VsM := ⟨5, .rn, 0, 0, 0, 0⟩
def vadd0 (m : VsM) : Instr := .vadd h0 m false 31 1 (.tile 2)
def vecOp : EngOp := op0 (vadd0 two) [2, vec4.toNat, vec4.toNat, vec4.toNat, 0] [] [31, 1, 2]

/-- One iteration of VQNT: two bytes of FP4, and their scale at 0x1000. -/
def one : VsM := ⟨0, .rn, 1, 0, 0, 0⟩
def quantOp : EngOp := op0 (.vqnt h0 one false 31 1 2) [1, (shp 12 1 1 4 2 0).toNat, vec4.toNat, (shp 7 0 1 1 1 0x1000).toNat, 0] [] [31, 1, 2]

theorem wit_StreamVectorsRun :
    (¬ ∀ s i h is t k w l x b, vsNames i = some (h, x, b) → Issuing s i h is t → OneWarp t is h k → Active t is h k w l →
      t.ttab.length = 32 → x.d < 32 → (∀ r ∈ x.d :: x.a :: x.b.toList, t.shapeOk r = true) →
      vsFormats i (t.shape x.d) (t.shape x.a) (x.b.map t.shape) = true →
      (match i with | .vqnt .. => x.b ≠ some x.d | _ => True) → vsTimes w x.m = 0 → False) ∧
    (¬ ∀ s i h is t k w l x b, vsNames i = some (h, x, b) → Issuing s i h is t → OneWarp t is h k → Active t is h k w l →
      t.ttab.length = 32 → x.d < 32 → (∀ r ∈ x.d :: x.a :: x.b.toList, t.shapeOk r = true) →
      vsFormats i (t.shape x.d) (t.shape x.a) (x.b.map t.shape) = true →
      (match i with | .vqnt .. => x.b ≠ some x.d | _ => True) → 0 < vsTimes w x.m → vsTimes w x.m ≤ 4095 →
      walkInside (t.shape x.d) (vsLens i (t.shape x.d) (t.shape x.a)).1 (vsTimes w x.m) x.m.sd = true →
      walkInside (t.shape x.a) (vsLens i (t.shape x.d) (t.shape x.a)).2.1 (vsTimes w x.m) x.m.sa = true →
      (∀ y, x.b = some y → walkInside (t.shape y) (vsLens i (t.shape x.d) (t.shape x.a)).2.2 (vsTimes w x.m) x.m.sb = true) →
      (∀ r ∈ x.d :: x.a :: x.b.toList, (t.tile r).st = .ready) → False) ∧
    (¬ ∀ s o t h x b, Awake s → s.op? o.id = some o → vsNames o.ins = some (h, x, b) → s.team? o.team = some t →
      opRuns s o = true → t.ttab.length = 32 → o.tiles.head? = some x.d → x.d < 32 → (∀ n ∈ o.tiles, n < 32) → False) ∧
    (∀ q : Bool, ¬ ∀ (o : EngOp) h x y i d a b c z, vsNames o.ins = some (h, x, y) → d = vsVector (o.shapeArg 1) x.m.sd i →
      a = vsVector (o.shapeArg 2) x.m.sa i → b = vsVector (o.shapeArg 3) x.m.sb i → 0 < a.cols → c < vsWidth o.ins d →
      isVqnt o.ins = q → (q = false ∨ spanEnd d d.cols ≤ b.base ∨ spanEnd b ((d.cols + 31) / 32) ≤ d.base) →
      (q = true → 0 < (d.cols + 31) / 32) → (z < d.base ∨ spanEnd d (vsWidth o.ins d) ≤ z) →
      (q = false ∨ z < b.base ∨ spanEnd b ((d.cols + 31) / 32) ≤ z) → False) :=
  have a : ready (vadd0 many) (issue vecT) = true := by decide +kernel
  have b : ready (vadd0 two) (issue vecT) = true := by decide +kernel
  ⟨fun H => by
     refine H _ _ _ _ _ _ _ _ ⟨many, 31, 1, some 2⟩ none rfl (issuing a) (aloneW a) (active a) ?_ ?_ ?_ ?_ trivial ?_ <;> decide +kernel,
   fun H => by
     refine H _ _ _ _ _ _ _ _ ⟨two, 31, 1, some 2⟩ none rfl (issuing b) (aloneW b) (active b) ?_ ?_ ?_ ?_ trivial ?_ ?_ ?_ ?_ (fun y hy => ?_) ?_
     case refine_9 => obtain rfl := Option.some.inj hy; decide +kernel
     all_goals decide +kernel,
   fun H => by
     refine H (working vecT vecOp) vecOp (vecT team0) h0 ⟨two, 31, 1, some 2⟩ none ⟨rfl, rfl, rfl⟩ ?_ rfl ?_ ?_ ?_ ?_ ?_ ?_ <;> decide +kernel,
   fun q H => by
     cases q
     · refine H vecOp h0 ⟨two, 31, 1, some 2⟩ none 1 _ _ _ 3 32 rfl rfl rfl rfl ?_ ?_ ?_ ?_ ?_ ?_ ?_ <;> decide +kernel
     · refine H quantOp h0 ⟨one, 31, 1, some 2⟩ none 0 _ _ _ 3 0x1001 rfl rfl rfl rfl ?_ ?_ ?_ ?_ ?_ ?_ ?_ <;> decide +kernel⟩

/-! ### Points -/

/-- A header of one bucket for one entry, at the last 64 bytes. -/
def header1 : List (Nat × Nat × Nat) := [(0xFFE0, 4, 1), (0xFFE4, 4, 0x1000)]
def pointT (t : Team) : Team := scratchy header1 (laneBy (fun l => (l.wrV 10 0x1FFFE0).wrV 12 0xFFC0) t)
def vox0 (nocap : Bool) : Instr := .voxin h0 nocap (.v 191) (.v 10) (.v 12)
def voxOp : EngOp := { op0 (vox0 false) [0xFFC0, 0x1FFFE0, 50, 1, 0] [0x1FFFE0] [] with dst := some (.v 191, 1) }
def inserting : State := working pointT voxOp
def inserted : State × Option Word := insertPoint inserting (pointT team0) 0xFFC0 false (leBytes 32 0)
def poolT (t : Team) : Team := tiled 31 one32 .ready (roled .vector (pointT t))
def bev (tgt : BevTgt) : Instr := .bevpool h0 false false tgt (.v 12)
def pt1 : PointHeader := ⟨0, 1, 1, 1, 0, 1, 0x1000⟩
def bevTile : EngOp := op0 (bev (.tile 31)) [0xFFC0, 1, 1, 1, 0x1000, 0, 0, one32.toNat] [] [31]
def bevMem : EngOp := op0 (bev (.mem (.v 10))) [0xFFC0, 1, 1, 1, 0x1000, 0, 0x1FFFE0] [0, 0x1FFFE0] []

theorem wit_PointsAreKept :
    (¬ ∀ (cap : Nat) (es : List Machine.Entry) (_ : Machine.Entry), (es.map Entry.key).Pairwise (· < ·) → es.length ≤ cap → 0 < cap → False) ∧
    (¬ ∀ s h is t k w l nocap d a b ia tr, Issuing s (.voxin h nocap d a b) h is t → OneLane t is h k → Active t is h k w l →
      CleanSpace s t.space → FreshName s → (∀ o ∈ s.ops, o.team ≠ is.team) → (readSrc w l b).toNat % 64 = 0 →
      (readSrc w l b).toNat + 64 ≤ 1024 * t.desc.scrK → globalCheck s t.space (readPair w l a) 32 .load = .ok ia →
      Warm s t.space ia .load false tr → corrupt s tr.pa 32 = false → False) ∧
    (¬ ∀ s o t h nocap d a b s1 x, Awake s1 → s.op? o.id = some o → o.ins = .voxin h nocap d a b → s.team? o.team = some t →
      voxinReady s o = true → o.arg 3 = 1 → insertPoint s t (o.arg 0) nocap (leBytes 32 (o.arg 4)) = (s1, some x) → False) ∧
    (¬ ∀ s h is t k w l sum clr tgt a off p, Issuing s (.bevpool h sum clr tgt a) h is t → OneWarp t is h k →
      Active t is h k w l → NoTry t → CleanSpace s t.space → off = (readSrc w l a).toNat → off % 64 = 0 →
      off + 64 ≤ 1024 * t.desc.scrK → pointHeader t.desc.scrK (cread t.scratch off 64) = some p → t.ttab.length = 32 →
      (match tgt with
        | .mem b => (readPair w l b).toNat % 4 = 0 ∧
            Ranged s t.space .store (poolBeats p.map (mapBytes p) (readPair w l b).toNat)
        | .tile d => t.shapeOk d.val = true ∧ (t.shape d.val).ty = 0 ∧ (t.shape d.val).scale = 0 ∧
            p.h * p.w ≤ (t.shape d.val).rows ∧ p.ch ≤ (t.shape d.val).cols ∧ (t.tile d.val).st = .ready) → False) ∧
    (¬ ∀ s o t h sum d a areaK, Awake s → NoTry t → s.op? o.id = some o → o.ins = .bevpool h sum false (.tile d) a →
      s.team? o.team = some t → opRuns s o = true → t.ttab.length = 32 → o.tiles = [d.val] → (o.shapeArg 7).ty = 0 →
      (o.shapeArg 7).ok areaK = true → o.arg 1 ≤ (o.shapeArg 7).rows → o.arg 2 ≤ (o.shapeArg 7).cols → False) ∧
    (¬ ∀ s o t h sum b a key tr e, Awake s → NoTryAtAll s → s.op? o.id = some o → o.ins = .bevpool h sum false (.mem b) a →
      s.team? o.team = some t → opRuns s o = true → Streamed s t.space .store key (bevBeats o) tr →
      (bevBeats o).getLast? = some e → e.len = 4 → e.off = 0 → o.arg 1 ≤ 2 ^ 24 → False) :=
  have a : ready (vox0 true) (issue pointT) = true := by decide +kernel
  have b : ready (bev (.mem (.v 10))) (issue poolT) = true := by decide +kernel
  ⟨fun H => H 1 [[5, 0]] [4, 0] (by decide) (by decide) (by decide),
   fun H => by
     refine H _ _ _ _ _ _ _ _ _ _ _ 0x1FFFE0 _ (issuing a) (alone a) (active a) (clean rfl _) ?_ ?_ ?_ ?_ (by rfl)
       (warm rfl rfl (by decide) _ _) (by rfl)
     all_goals try unfold FreshName
     all_goals decide +kernel,
   fun H => by
     refine H inserting voxOp (pointT team0) h0 false _ _ _ inserted.1 (voxStatus 0 0) ⟨?_, ?_, ?_⟩ ?_ rfl ?_ ?_ rfl
       (Prod.ext rfl (show inserted.2 = some (voxStatus 0 0) from ?_)) <;> decide +kernel,
   fun H => by
     refine H _ _ _ _ _ _ _ _ _ _ _ 0xFFC0 pt1 (issuing b) (aloneW b) (active b) (noTry ?_) (clean rfl _) ?_ ?_ ?_ ?_ ?_
       ⟨?_, rangedAll (c := ctx0) rfl rfl _ ?_⟩ <;> decide +kernel,
   fun H => by
     refine H (working poolT bevTile) bevTile (poolT team0) h0 false 31 _ 64 ⟨rfl, rfl, rfl⟩ (noTry ?_) ?_ rfl ?_ ?_ ?_ rfl ?_ ?_ ?_ ?_ <;>
       decide +kernel,
   fun H => by
     refine H (working poolT bevMem) bevMem (poolT team0) h0 false _ _ _ _ ⟨0x1FFFE0, 0x1FFFE0, 4, 0⟩ ⟨rfl, rfl, rfl⟩ (noTries ?_) ?_ rfl ?_ ?_
       (streamed rfl rfl rfl _ ?_) ?_ rfl rfl ?_ <;> decide +kernel⟩

/-! ### Rays -/

/-- Record at the last 256 bytes with its stack at 0x1000, and a child record at 0x2000. -/
def rayT (word : Nat) (t : Team) : Team :=
  scratchy [(0xFF4C, 4, 0x1000), (0xFF50, 4, word)] (laneBy (fun l => (l.wrV 10 0xFF00).wrV 12 0x2000) t)
def spawn0 : Instr := .spawnray h0 (.v 191) (.v 10) (.v 12) (.v 14)
def thit0 : Instr := .thit h0 true (.v 191) (.v 10)
def rayOp : EngOp := { op0 thit0 [0xFF00] [] [] with dst := some (.v 191, 1) }
def recAt (t : Team) : Cells 8 := memPut [] 0 (cread t.scratch 0xFF00 256)

/-- Only the page of `entry0` translates, whose accessed bit stands. -/
theorem onlyPage0 {s : State} (ht : s.tcache = [entry0]) (hb : s.badBytes.isEmpty = true)
    (hw : inWindow (s.part 0) ((s.part 0).sptbase.toNat + 16 * (0 % 65536)) = true) (he : (spaceEntry s 0).getLsbD 63 = false)
    {ia : Nat} {tr : Trans} (h : lookup s 0 ia .load false = .ok tr) : leafA tr.leaf = true := by
  unfold lookup at h
  split at h
  · rename_i e hc
    have hm : e ∈ s.tcache := List.mem_of_find?_eq_some hc
    rw [ht, List.mem_singleton] at hm
    have hl : leafA e.leaf = true := by rw [hm]; decide
    clear hc hm
    simp only [leafCheck] at h
    split at h; · cases h
    split at h; · cases h
    split at h; · cases h
    rwa [← TransRes.ok.inj h]
  · have hk : walk s 0 ia = .error 4 := by simp only [walk]; rw [hw, he]; rfl
    have hn : walkStops s 0 ia = none := by simp only [walkStops]; rw [hb]; rfl
    rw [hk, hn] at h; cases h

theorem wit_RayBatchesRun :
    (¬ ∀ s i h is t k w l d a, ((∃ n, i = .traceNew h n d a) ∨ (∃ n, i = .trace h n d a) ∨ i = .tnext h d a ∨ ∃ f, i = .thit h f d a) →
      Issuing s i h is t → OneLane t is h k → Active t is h k w l → NoTry t → CleanSpace s t.space → (readSrc w l a).toNat % 64 = 0 →
      (readSrc w l a).toNat + 256 ≤ 1024 * t.desc.scrK →
      (∀ ia tr, lookup s t.space ia .load false = .ok tr → leafA tr.leaf = true) → False) ∧
    (¬ ∀ s o t a s1 t1 r code done, Awake s1 → s.op? o.id = some o → s.team? o.team = some t → traceAct o = some a →
      opRuns s o = true → recordHeld s o.team (o.arg 0) o.id = false → runBatch s t o a = (s1, r, .code code, done) →
      s1.team? o.team = some t1 → NoTry t1 → False) :=
  have a : ready thit0 (issue (rayT 2)) = true := by decide +kernel
  let s := working (rayT 2) rayOp
  let q := runBatch s (rayT 2 team0) rayOp ⟨3, true⟩
  have e : q.2.2.1 = .code 1 := by decide +kernel
  ⟨fun H => by
     refine H _ _ _ _ _ _ _ _ (.v 191) (.v 10) (.inr (.inr (.inr ⟨true, rfl⟩))) (issuing a) (alone a) (active a) (noTry ?_) (clean rfl _) ?_ ?_
       (fun ia tr => onlyPage0 rfl (by decide +kernel) (by decide +kernel) (by decide +kernel)) <;> decide +kernel,
   fun H => by
     refine H s rayOp (rayT 2 team0) ⟨3, true⟩ q.1 (rayT 2 team0) q.2.1 1 q.2.2.2 ⟨?_, ?_, ?_⟩ ?_ ?_ ?_ ?_ ?_ (by rw [← e]) ?_ (noTry ?_) <;>
       decide +kernel⟩

def rayWord (c : Fin 4) : Nat := [0x7000, 0x8000, 0x0100, 0x9000].getD c 0

/-- The stack has room, or is full, or the generation is the last, or the record is malformed. -/
theorem wit_RaysAreSpawned (c : Fin 4) : ¬ ∀ s h is t k w l d a b n x ch m r, Issuing s (.spawnray h d a b n) h is t → OneLane t is h k →
    Active t is h k w l → NoTry t → x = (readSrc w l a).toNat → ch = (readSrc w l b).toNat → m = (readSrc w l n).toNat → x % 64 = 0 →
    x + 256 ≤ 1024 * t.desc.scrK → m ≤ 4 * t.desc.payW → m ≤ 64 → m % 4 = 0 → ch % 64 = 0 →
    ch + 64 + m ≤ 1024 * t.desc.scrK → recordHeld s is.team x 0 = false → r = memPut [] 0 (cread t.scratch x 256) →
    (match c with
      | 0 => ∃ e, tBad t.desc.scrK r = false ∧ tGen r < t.desc.depth ∧ tSp r < 8 ∧ e = tget r 0x4C 4 + 128 * tSp r ∧
          (e + 128 ≤ x ∨ x + 256 ≤ e)
      | 1 => tBad t.desc.scrK r = false ∧ tGen r < t.desc.depth ∧ tSp r = 8
      | 2 => tBad t.desc.scrK r = false ∧ t.desc.depth ≤ tGen r
      | 3 => tBad t.desc.scrK r = true) → False := by
  intro H
  have hr : ready spawn0 (issue (rayT (rayWord c))) = true := by clear H; revert c; decide +kernel
  refine H _ _ _ _ _ _ _ (.v 191) (.v 10) (.v 12) (.v 14) 0xFF00 0x2000 0 (recAt (rayT (rayWord c) team0)) (issuing hr) (alone hr) (active hr)
    (noTry ?_) ?_ ?_ ?_ ?_ ?_ ?_ ?_ ?_ ?_ ?_ ?_ rfl ?_
  case refine_13 =>
    clear H hr
    match c with
    | 0 => exact ⟨0x1380, by decide +kernel⟩
    | 1 | 2 | 3 => decide +kernel
  all_goals (clear H hr; revert c; decide +kernel)

/-! ### Scenes -/

/-- Header at 0x1000, whose root at 0x2000 is a leaf of one triangle at 0x3000; the block at 0xFFC0 names the scene. -/
def sceneMem : Cells 8 := [(0x1018, 8, 0x2000), (0x1020, 4, 1), (0x2000, 8, 2 ^ 62), (0x2008, 8, 2 ^ 56 + 0x3000)].foldl
  (fun (m : Cells 8) (x : Nat × Nat × Nat) => memPut m x.1 (leBytes x.2.1 x.2.2)) []
def sceneT (off u : Nat) (t : Team) : Team :=
  scratchy [(off, 8, 0x1000), (off + 0x10, 16, u)] (laneBy (fun l => (l.wrV 10 0x2000).wrV 12 (BitVec.ofNat 32 off)) t)
def scene (off u : Nat) : State := { issue (sceneT off u) with mem := sceneMem }
def view (s : State) : Lc := viewOf (tOf s) is0 (0, 0) (wOf s) (lOf s)

/-- What a reading answers, with a check of what it leaves. -/
theorem answered {α : Type} (o : Except (State × Stall) (Except Nat α × State)) (p : α → State → Bool)
    (h : (match o with | .ok (.ok a, s) => p a s | _ => false) = true) : ∃ a s, o = .ok (.ok a, s) ∧ p a s = true := by
  match o, h with
  | .ok (.ok a, s), h => exact ⟨a, s, rfl, h⟩

def calm (t : Team) (s : State) : Bool := s.halt == none && s.lost == [] && s.saveQ == [] && s.team? 3 == some t
theorem awake {t : Team} {s : State} (h : calm t s = true) : Awake s ∧ s.team? 3 = some t := by
  simp only [calm, Bool.and_eq_true, beq_iff_eq] at h
  exact ⟨⟨h.1.1.1, h.1.1.2, h.1.2⟩, h.2⟩

def boxin0 : Instr := .boxin h0 (.v 190) (.v 10) (.v 12)
def snap0 : Instr := .snap h0 (.v 191) (.v 10) (.v 12)
def anim0 : Instr := .anim h0 (.v 191) (.v 10) (.v 12)
/-- Vertex 2 moves by (1, 1, 1), or by (−1, 0, 0) out of the grid. -/
def inGrid : Nat := 2 * 2 ^ 32 + 2 ^ 64 + 2 ^ 76 + 2 ^ 88
def outGrid : Nat := 2 * 2 ^ 32 + 4095 * 2 ^ 64

def boxRun (s : State) : Except (State × Stall) (Except Nat (SceneHdr × List BoxAt) × State) :=
  ((pathTo (laneRead (view s)) (leNat (cread (tOf s).scratch 0xFFC0 8)) (readPair (wOf s) (lOf s) (.v 10)).toNat).run).run s
def snapRun (s : State) : Except (State × Stall) (Except Nat (List Nat) × State) :=
  ((snapCheck (laneRead (view s)) (leNat (cread (tOf s).scratch 0xFFC0 8)) (readPair (wOf s) (lOf s) (.v 10)).toNat).run).run s

theorem wit_SceneQueries_boxin : ¬ ∀ s h is t k w l d a b off hd x rest s1, Issuing s (.boxin h d a b) h is t → OneLane t is h k → Active t is h k w l →
    Settled t is → NoTry t → off = (readSrc w l b).toNat → off % 64 = 0 → off + 64 ≤ 1024 * t.desc.scrK →
    ((pathTo (laneRead (viewOf t is k w l)) (leNat (cread t.scratch off 8))
      (readPair w l a).toNat).run).run s = .ok (.ok (hd, x :: rest), s1) →
    Awake s1 → s1.team? is.team = some t → False := by
  intro H
  have r : ready boxin0 (scene 0xFFC0 0) = true := by decide +kernel
  obtain ⟨y, s1, e, h⟩ := answered (boxRun (scene 0xFFC0 0))
    (fun y s1 => !y.2.isEmpty && calm (tOf (scene 0xFFC0 0)) s1) (by decide +kernel)
  rw [Bool.and_eq_true] at h
  match y, e, h with
  | (hd, x :: rest), e, h =>
    refine H _ _ _ _ _ _ _ _ _ _ 0xFFC0 hd x rest s1 (issuing r) (alone r) (active r) (settled ?_) (noTry ?_) ?_ ?_ ?_ e
      (awake h.2).1 (awake h.2).2 <;> decide +kernel
  | (hd, []), e, h => exact absurd h.1 (by simp)

theorem wit_SceneQueries_snap : ¬ ∀ s h is t k w l d a b off vs s1, Issuing s (.snap h d a b) h is t → OneLane t is h k → Active t is h k w l →
    Settled t is → NoTry t → off = (readSrc w l b).toNat → off % 64 = 0 → off + 16 ≤ 1024 * t.desc.scrK →
    ((snapCheck (laneRead (viewOf t is k w l)) (leNat (cread t.scratch off 8)) (readPair w l a).toNat).run).run s
      = .ok (.ok vs, s1) → Awake s1 → s1.team? is.team = some t → False := by
  intro H
  have r : ready snap0 (scene 0xFFC0 0) = true := by decide +kernel
  obtain ⟨vs, s1, e, h⟩ := answered (snapRun (scene 0xFFC0 0))
    (fun _ s1 => calm (tOf (scene 0xFFC0 0)) s1) (by decide +kernel)
  refine H _ _ _ _ _ _ _ _ _ _ 0xFFC0 vs s1 (issuing r) (alone r) (active r) (settled ?_) (noTry ?_) ?_ ?_ ?_ e
    (awake h).1 (awake h).2 <;> decide +kernel

def AnimHyps (escapes : Bool) : Prop := ∀ s h is t k w l d a b off u mv s1, Issuing s (.anim h d a b) h is t → OneLane t is h k →
  Active t is h k w l → Settled t is → NoTry t → off = (readSrc w l b).toNat → off % 16 = 0 → off + 80 ≤ 1024 * t.desc.scrK →
  u = leNat (cread t.scratch (off + 0x10) 16) → leNat (cread t.scratch off 8) % 64 = 0 →
  ((animRun (laneRead (viewOf t is k w l)) (readPair w l a).toNat (leNat (cread t.scratch off 8)) u
    (2 ^ 63 + off + 0x10)).run).run s = .ok (.ok mv, s1) → Awake s1 → s1.team? is.team = some t →
  (escapes = true → ∃ p axes, mv = .escaped p axes) →
  (escapes = false → ∃ va x c ia tr, mv = .record va x ∧ NoTryAtAll s1 ∧ s1.ctx? t.space = some c ∧
    rangeCheck c (BitVec.ofNat 64 va) .store = .ok ia ∧ ia / 128 = (ia + 15) / 128 ∧ Warm s1 t.space ia .store true tr ∧
    KeyedAs s1 (ownerKey s1 t.space tr.leaf) tr.pa 16) → False

def animIn (s : State) (u : Nat) : Except (State × Stall) (Except Nat Moved × State) :=
  ((animRun (laneRead (view s)) (readPair (wOf s) (lOf s) (.v 10)).toNat (leNat (cread (tOf s).scratch 0xFFB0 8)) u (2 ^ 63 + 0xFFB0 + 0x10)).run).run s

theorem wit_SceneQueries_anim : ¬ AnimHyps true ∧ ¬ AnimHyps false := by
  constructor
  · intro H
    have r : ready anim0 (scene 0xFFB0 outGrid) = true := by decide +kernel
    obtain ⟨mv, s1, e, h⟩ := answered (animIn (scene 0xFFB0 outGrid) outGrid)
      (fun mv s1 => (match mv with | .escaped .. => true | _ => false) && calm (tOf (scene 0xFFB0 outGrid)) s1) (by decide +kernel)
    rw [Bool.and_eq_true] at h
    refine H _ _ _ _ _ _ _ _ _ _ 0xFFB0 outGrid mv s1 (issuing r) (alone r) (active r) (settled (by decide +kernel)) (noTry ?_) ?_ ?_ ?_ ?_ ?_
      e (awake h.2).1 (awake h.2).2 (fun _ => ?_) (by simp)
    all_goals try decide +kernel
    match mv, h.1 with
    | .escaped p axes, _ => exact ⟨p, axes, rfl⟩
  · intro H
    have r : ready anim0 (scene 0xFFB0 inGrid) = true := by decide +kernel
    obtain ⟨mv, s1, e, h⟩ := answered (animIn (scene 0xFFB0 inGrid) inGrid)
      (fun mv s1 => (match mv with | .record va _ => va == 0x3000 | _ => false) && calm (tOf (scene 0xFFB0 inGrid)) s1 &&
        (s1.tcache == [{ entry0 with count := 5 }] && s1.keys == [⟨0, 5⟩] && s1.lineKey == [] && s1.ctx? 0 == some ctx0 &&
          s1.teams.all (fun t => t.warps.all (fun w => w.tx.depth == 0)))) (by decide +kernel)
    simp only [Bool.and_eq_true, beq_iff_eq] at h
    obtain ⟨⟨hm, hc⟩, ⟨⟨⟨ht, hk⟩, hl⟩, hx⟩, hn⟩ := h
    refine H _ _ _ _ _ _ _ _ _ _ 0xFFB0 inGrid mv s1 (issuing r) (alone r) (active r) (settled (by decide +kernel)) (noTry ?_) ?_ ?_ ?_ ?_ ?_
      e (awake hc).1 (awake hc).2 (by simp) (fun _ => ?_)
    all_goals try decide +kernel
    match mv, hm with
    | .record va x, hm =>
      obtain rfl : va = 0x3000 := by simpa using hm
      exact ⟨0x3000, x, ctx0, 0x3000, tr0 0x3000, rfl, noTries hn, hx, ranged rfl (by decide) _, by decide, warmed ht hk (by decide) _ _, unkeyed hl _ _ _⟩

/-! ### Frames -/

def frameT (st : FrameSt) (t : Team) : Team := laneBy (fun l => l.wrV 12 0xFFC0) { t with frame := { t.frame with st := st } }
def bin0 : Instr := .bin h0 (.v 191) (.v 12) (.v 10)
def close0 : Instr := .binClose h0 (.v 191)

def wordT (word : Word) (t : Team) : Team := laneBy (fun l => l.wrV 10 word) (frameT .empty t)

theorem wit_RasterFrames_bin (c : Fin 3) : ¬ ∀ s h is t k w l d a b off, Issuing s (.bin h d a b) h is t → OneLane t is h k →
    Active t is h k w l → NoTry t → off = (readSrc w l a).toNat → off % 16 = 0 → off + 64 ≤ 1024 * t.desc.scrK →
    (match c with
      | 0 => t.frame.st = .closed
      | 1 => t.frame.st = .empty ∧ 2 ^ 16 ≤ (readSrc w l b).toNat
      | 2 => t.frame.st = .empty ∧ (readSrc w l b).toNat < 2 ^ 16 ∧ ∃ g, openFrame s t (readSrc w l b) = some g) → False := by
  intro H
  match c with
  | 0 =>
    have a : ready bin0 (issue (frameT .closed)) = true := by decide +kernel
    refine H _ _ _ _ _ _ _ _ _ _ 0xFFC0 (issuing a) (alone a) (active a) (noTry ?_) ?_ ?_ ?_ ?_ <;> decide +kernel
  | 1 =>
    have a : ready bin0 (issue (wordT 0x10000)) = true := by decide +kernel
    refine H _ _ _ _ _ _ _ _ _ _ 0xFFC0 (issuing a) (alone a) (active a) (noTry ?_) ?_ ?_ ?_ ?_ <;> decide +kernel
  | 2 =>
    have a : ready bin0 (issue (wordT 0)) = true := by decide +kernel
    refine H _ _ _ _ _ _ _ _ _ _ 0xFFC0 (issuing a) (alone a) (active a) (noTry ?_) ?_ ?_ ?_ ⟨?_, ?_, Option.isSome_iff_exists.mp ?_⟩ <;>
      decide +kernel

theorem wit_RasterFrames :
    (¬ ∀ (f : RasterFrame) (id x y : Nat), id < 2 ^ 32 → x < frameW f.word → y < frameH f.word → False) ∧
    (¬ ∀ s h is t k w l d a b off, Issuing s (.bin h d a b) h is t → OneLane t is h k → Active t is h k w l →
      NoTry t → off = (readSrc w l a).toNat → off % 16 = 0 → off + 64 ≤ 1024 * t.desc.scrK → t.frame.st = .opened →
      (∀ o ∈ s.ops, o.team ≠ is.team) → False) ∧
    (¬ ∀ s h is t k w l d, Issuing s (.binClose h d) h is t → OneWarp t is h k → Active t is h k w l → t.frame.st = .opened → False) ∧
    (¬ ∀ s h is t k w l d, Issuing s (.binClose h d) h is t → OneWarp t is h k → Active t is h k w l → t.frame.st ≠ .opened → False) ∧
    (¬ ∀ s o t h d w, Awake s → s.team? o.team = some t → t.st = .running → t.frame.st = .opened →
      s.ops.filter (fun y => y.team == o.team && isBinClose y.ins) = [o] → o.ins = .binClose h d → o.dead = 0 → t.warps[o.warp]? = some w → False) ∧
    (¬ ∀ s h is t k w l d, Issuing s (.binReset h d) h is t → OneWarp t is h k → Active t is h k w l → False) ∧
    (¬ ∀ s h is t k w l d a tx ty, Issuing s (.visres h d a) h is t → OneWarp t is h k → Active t is h k w l →
      tx = (readSrc w l a).toNat / 256 % 256 → ty = (readSrc w l a).toNat % 256 → t.frame.st = .opened → False) ∧
    (¬ ∀ s h is t k w l d a tx ty, Issuing s (.visres h d a) h is t → OneWarp t is h k → Active t is h k w l →
      tx = (readSrc w l a).toNat / 256 % 256 → ty = (readSrc w l a).toNat % 256 → t.frame.st ≠ .opened → False) ∧
    (¬ ∀ s h is t k w l d a x y, Issuing s (.pidld h d a) h is t → OneLane t is h k → Active t is h k w l →
      x = (readSrc w l a).toNat % 65536 → y = (readSrc w l a).toNat / 65536 → t.frame.st = .opened → False) ∧
    (¬ ∀ s h is t k w l d a x y, Issuing s (.pidld h d a) h is t → OneLane t is h k → Active t is h k w l →
      x = (readSrc w l a).toNat % 65536 → y = (readSrc w l a).toNat / 65536 → t.frame.st ≠ .opened → False) :=
  have a : ready bin0 (issue (frameT .opened)) = true := by decide +kernel
  have b : ready close0 (issue (frameT .opened)) = true := by decide +kernel
  have b' : ready close0 (issue (frameT .closed)) = true := by decide +kernel
  have c : ready (.binReset h0 (.v 191)) (issue (frameT .closed)) = true := by decide +kernel
  have d : ready (.visres h0 (.v 191) (.v 12)) (issue (frameT .opened)) = true := by decide +kernel
  have d' : ready (.visres h0 (.v 191) (.v 12)) (issue (frameT .closed)) = true := by decide +kernel
  have e : ready (.pidld h0 (.v 190) (.v 12)) (issue (frameT .opened)) = true := by decide +kernel
  have e' : ready (.pidld h0 (.v 190) (.v 12)) (issue (frameT .empty)) = true := by decide +kernel
  let o := op0 close0 [] [] []
  ⟨fun H => H (frameT .closed team0).frame 0xFFFFFFFF 31 31 (by decide) (by decide +kernel) (by decide +kernel),
   fun H => by refine H _ _ _ _ _ _ _ _ _ _ 0xFFC0 (issuing a) (alone a) (active a) (noTry ?_) ?_ ?_ ?_ ?_ ?_ <;> decide +kernel,
   fun H => H _ _ _ _ _ _ _ _ (issuing b) (aloneW b) (active b) (by decide +kernel),
   fun H => H _ _ _ _ _ _ _ _ (issuing b') (aloneW b') (active b') (by decide +kernel),
   fun H => by
     refine H (working (frameT .opened) o) o (frameT .opened team0) h0 (.v 191) (wOf (working (frameT .opened) o)) ⟨rfl, rfl, rfl⟩ ?_ ?_ ?_ ?_
       rfl rfl ?_ <;> decide +kernel,
   fun H => H _ _ _ _ _ _ _ _ (issuing c) (aloneW c) (active c),
   fun H => H _ _ _ _ _ _ _ _ _ _ _ (issuing d) (aloneW d) (active d) rfl rfl (by decide +kernel),
   fun H => H _ _ _ _ _ _ _ _ _ _ _ (issuing d') (aloneW d') (active d') rfl rfl (by decide +kernel),
   fun H => H _ _ _ _ _ _ _ _ _ _ _ (issuing e) (alone e) (active e) rfl rfl (by decide +kernel),
   fun H => H _ _ _ _ _ _ _ _ _ _ _ (issuing e') (alone e') (active e') rfl rfl (by decide +kernel)⟩

end Sys2Proof.Tests
end

