-- ==== Sys2Proof/Tests/WitnessE.lean ====
section
/-! SUPPORT. `wit_X` denies that the hypotheses of statement X, clause by clause, are contradictory: the instructions of
page 7, and bins. -/

namespace Sys2Proof.Tests
set_option Elab.async false
open Sys2Proof.Machine

/-- The machine with its context changed, as its lane issues. -/
def inCtx (g : Context → Context) (f : Team → Team) : State := { issue f with ctxs := [g ctx0] }
def sup (t : Team) : Team := warpBy (fun w => { w with sup := true, sbusy := true }) t
/-! ### Traps -/

def TrapHyps (sup0 : Bool) : Prop := ∀ s i h is t k w l (cause : Nat) (sub : Byte) sup c pa leaf page, ((∃ x, i = .trap h x ∧ cause = 1 ∧ sub = x.getD 0) ∨
    (i = .brk h sub ∧ cause = 2 ∧ ∀ c, s.ctx? t.space = some c → (c.dbgctl.getLsbD 31 && c.dbgctl.getLsbD 30 && !w.sup) = false)) →
  Issuing s i h is t → OneWarp t is h k → Active t is h k w l → w.tx.depth = 0 → Quiet s is.team k.1 →
  t.frameF % 65536 = 0 → w.lanes.length = 32 → page = slotOff t k.1 / 65536 * 65536 → SavePage s t.space page c pa leaf →
  (if sup then (c.uvec = 0 ∨ w.sup = true) ∧ w.sbusy = false else c.uvec ≠ 0 ∧ w.sup = false ∧ w.ubusy = false) → sup = sup0 → False

def userVec (c : Context) : Context := { c with uvec := 0x200 }
def right (c : Context) : Context := { c with dbgctl := 0xC0000000 }

theorem wit_TrapsEnter : ¬ TrapHyps true ∧ ¬ TrapHyps false :=
  have a : ready (.trap h0 (some 255)) (issue id) = true := by decide +kernel
  have b : ready (.brk h0 255) (inCtx userVec id) = true := by decide +kernel
  ⟨fun H => by
     refine H _ _ _ _ _ _ _ _ 1 255 true ctx0 131072 leaf0 131072 (.inl ⟨some 255, rfl, rfl, rfl⟩) (issuing a) (aloneW a) (active a) ?_
       ⟨?_, ?_⟩ ?_ ?_ ?_ (savePage0 rfl rfl rfl rfl rfl rfl rfl rfl ?_ ?_) ⟨.inl ?_, ?_⟩ rfl <;> decide +kernel,
   fun H => by
     refine H _ _ _ _ _ _ _ _ 2 255 false (userVec ctx0) 131072 leaf0 131072
       (.inr ⟨rfl, rfl, fun c hc => ?_⟩) (issuing b) (aloneW b) (active b) ?_
       ⟨?_, ?_⟩ ?_ ?_ ?_ (savePage0 rfl rfl rfl rfl rfl rfl rfl rfl ?_ ?_) ⟨?_, ?_, ?_⟩ rfl
     case refine_1 =>
       obtain rfl := Option.some.inj ((show (inCtx userVec id).ctx? 0 = some (userVec ctx0) from rfl).symm.trans hc)
       decide +kernel
     all_goals decide +kernel⟩

theorem wit_BreaksHaltAndEretReturns :
    (¬ ∀ s h is t k w l code c, Issuing s (.brk h code) h is t → OneWarp t is h k → Active t is h k w l →
      s.ctx? t.space = some c → (c.dbgctl.getLsbD 31 && c.dbgctl.getLsbD 30) = true → w.sup = false → False) ∧
    (¬ ∀ s h is t k w l c pa leaf page, Issuing s (.eret h) h is t → OneWarp t is h k → Active t is h k w l →
      t.frameF % 65536 = 0 → page = slotOff t k.1 / 65536 * 65536 → SavePage s t.space page c pa leaf → c.defer = none → False) :=
  have c : ready (.brk h0 255) (inCtx right id) = true := by decide +kernel
  have a : ready (.eret h0) (issue sup) = true := by decide +kernel
  ⟨fun H => by refine H _ _ _ _ _ _ _ _ (right ctx0) (issuing c) (aloneW c) (active c) rfl ?_ ?_ <;> decide +kernel,
   fun H => by
     refine H _ _ _ _ _ _ _ ctx0 131072 leaf0 131072 (issuing a) (aloneW a) (active a) ?_ ?_
       (savePage0 rfl rfl rfl rfl rfl rfl rfl rfl ?_ ?_) rfl <;> decide +kernel⟩

/-! ### System registers -/

def with10' (x : Word) (f : Team → Team) : State := issue (fun t => f (laneBy (fun l => l.wrV 10 x) t))

theorem wit_RegisterWrites :
    (¬ ∀ s u k w (_ : Word), Awake s → s.warp? u k = some w → False) ∧
    (¬ ∀ (s : State) (space : Nat) (c : Context) (hi lo _x1 _x0 : Word), Awake s → s.ctx? space = some c →
      (lo = 0x20 ∨ lo = 0x22 ∨ lo = 0x24) → hi = lo + 1 → False) ∧
    (¬ ∀ (s : State) (space : Nat) (c : Context) (i : Fin 8) (x0 x1 x2 x3 n : Word) (r : RangeReg), Awake s → s.ctx? space = some c → c.rng.length = 8 →
      c.rngPend.length = 8 → n.toNat = 0x100 + 4 * i.val → r = (⟨x0, x1 &&& 0xFFFFF01F, x2, x3⟩ : RangeReg) → False) ∧
    (¬ ∀ (s : State) (space : Nat) (c : Context) (_x : Word), Awake s → s.ctx? space = some c → False) ∧
    (¬ ∀ s h is t k w l num a, Issuing s (.mts h num a) h is t → OneWarp t is h k → Active t is h k w l → Settled t is →
      mayWrite w.sup num.toNat = true → num.toNat < 4 → False) ∧
    (¬ ∀ s h is t k w l num a, Issuing s (.mts h num a) h is t → OneWarp t is h k → Active t is h k w l → Settled t is → num = 0x12 → False) ∧
    (¬ ∀ s h is t k w l num a i, Issuing s (.mts h num a) h is t → OneWarp t is h k → Active t is h k w l → Settled t is →
      mayWrite w.sup num.toNat = true → contextWrite t.space num (readSrc w l a) = some i →
      (num = 0x30 → ∀ u ∈ s.teams, isSaved u = false) → num = 0x30 → (readSrc w l a).getLsbD 31 = true → False) ∧
    (¬ ∀ s h is t k w l num a, Issuing s (.mts h num a) h is t → OneWarp t is h k → Active t is h k w l → Settled t is →
      mayRead w.sup num.toNat = true → mayWrite w.sup num.toNat = false → False) :=
  have a : ready (.mts h0 3 (.v 10)) (with10' 0xFFFFFFFF id) = true := by decide +kernel
  have b : ready (.mts h0 0x12 (.v 10)) (with10' 0 id) = true := by decide +kernel
  have c : ready (.mts h0 0x30 (.v 10)) (with10' 0x80000000 sup) = true := by decide +kernel
  have d : ready (.mts h0 0x26 (.v 10)) (with10' 0 id) = true := by decide +kernel
  ⟨fun H => H state0 3 0 (wOf state0) 0 ⟨rfl, rfl, rfl⟩ (by decide +kernel),
   fun H => H state0 0 ctx0 0x25 0x24 0 0 ⟨rfl, rfl, rfl⟩ rfl (by decide) (by decide),
   fun H => H state0 0 ctx0 7 0 0 0 0 0x11C _ ⟨rfl, rfl, rfl⟩ rfl rfl rfl (by decide) rfl,
   fun H => H state0 0 ctx0 0 ⟨rfl, rfl, rfl⟩ rfl,
   fun H => H _ _ _ _ _ _ _ 3 _ (issuing a) (aloneW a) (active a) (settled (by decide +kernel)) (by decide +kernel) (by decide),
   fun H => H _ _ _ _ _ _ _ 0x12 _ (issuing b) (aloneW b) (active b) (settled (by decide +kernel)) rfl,
   fun H => by
     refine H _ _ _ _ _ _ _ 0x30 _ (.sysregWrite 0 0x30 0x80000000) (issuing c) (aloneW c) (active c) (settled ?_) ?_ ?_ ?_ rfl ?_ <;> decide +kernel,
   fun H => H _ _ _ _ _ _ _ 0x26 _ (issuing d) (aloneW d) (active d) (settled (by decide +kernel)) (by decide +kernel) (by decide +kernel)⟩

/-- A debug block at page 1 whose stamp ring has taken n records. -/
def stamped (n : Nat) : State :=
  { inCtx (fun c => { c with dbgctl := 1 }) id with mem := memPut [] 0x11200 (leBytes 4 n) }

def StampHyps (p : Nat → Prop) : Prop := ∀ s h is t k w l src c pa leaf n, Issuing s (.stamp h src) h is t → OneWarp t is h k → Active t is h k w l →
  k.1 < 64 → n = (c.dbgctl.extractLsb' 0 16).toNat → n ≠ 0 → SavePage s t.space (65536 * n) c pa leaf →
  p ((numAt s (pa + 0x1200) 4 + 2 ^ 32 - numAt s (pa + 0x1204) 4) % 2 ^ 32) → False

theorem wit_ClocksStampsAndRegisters :
    (¬ ∀ s h is t d, Issuing s (.rdclk h d) h is t → False) ∧ (¬ ∀ s h is t d, Issuing s (.rdtmr h d) h is t → False) ∧
    (¬ ∀ s h is t d num c, Issuing s (.mfs h d num) h is t → s.ctx? t.space = some c →
      (∀ k w l, Active t is h k w l → mayRead w.sup num.toNat = true) → False) ∧
    (¬ ∀ s h is t k w l src, Issuing s (.stamp h src) h is t → OneWarp t is h k → Active t is h k w l → k.1 < 64 → NoDebugBlock s t.space → False) ∧
    ¬ StampHyps (· < 896) ∧ ¬ StampHyps (896 ≤ ·) :=
  have a : ready (.mfs h0 (.v 191) 0x11F) (issue sup) = true := by decide +kernel
  have b : ready (.stamp h0 (.imm 65535)) (issue id) = true := by decide +kernel
  have c : ready (.stamp h0 (.imm 65535)) (stamped 895) = true := by decide +kernel
  have d : ready (.stamp h0 (.imm 65535)) (stamped 896) = true := by decide +kernel
  ⟨fun H => H (issue id) h0 is0 _ (.v 190) (issuing (by decide +kernel)), fun H => H (issue id) h0 is0 _ (.s 62) (issuing (by decide +kernel)),
   fun H => H _ _ _ _ (.v 191) 0x11F ctx0 (issuing a) rfl (fun k w l x => by obtain ⟨-, rfl, -⟩ := only a x; decide +kernel),
   fun H => H _ _ _ _ _ _ _ _ (issuing b) (aloneW b) (active b) (by decide) (noBlock rfl _),
   fun H => by
     refine H _ _ _ _ _ _ _ _ { ctx0 with dbgctl := 1 } 65536 leaf0 1 (issuing c) (aloneW c) (active c) ?_ ?_ ?_
       (savePage0 rfl rfl rfl rfl rfl rfl rfl rfl ?_ ?_) ?_ <;> decide +kernel,
   fun H => by
     refine H _ _ _ _ _ _ _ _ { ctx0 with dbgctl := 1 } 65536 leaf0 1 (issuing d) (aloneW d) (active d) ?_ ?_ ?_
       (savePage0 rfl rfl rfl rfl rfl rfl rfl rfl ?_ ?_) ?_ <;> decide +kernel⟩

/-! ### Mappings and moves -/

def fenced (t : Team) : Team := warpBy (fun w => { w with fenceMap := some .y }) t
def oldPage : TEntry := { entry0 with leaf := leaf0 }
/-- Memory holds the tables of the probe, and core 127 a dirty byte of the line at IA 0xFF80. -/
def dirty : State := { issue fenced with mem := probeTables [], l1 := [⟨127, 0, 0xFFFF, 5⟩], oldMaps := [oldPage] }

theorem wit_MappingsAndKeys_mappings :
    (¬ ∀ s h is t k w l scope, Issuing s (.fenceMap h scope) h is t → OneWarp t is h k → Active t is h k w l →
      CleanSpace s t.space → (scope = .n ∨ scope = .y → peerLost s = false) →
      (scope = .y → s.invWait = false ∧ s.hostCache = []) → scope = .y → False) ∧
    (¬ ∀ s h is t k w l, Issuing s (.mapsync h) h is t → OneWarp t is h k → Active t is h k w l → w.fenceMap = none → False) ∧
    (¬ ∀ s h is t k w l, Issuing s (.mapsync h) h is t → OneWarp t is h k → Active t is h k w l → w.fenceMap ≠ none → s.l1 = [] → False) ∧
    (¬ ∀ s h is t k w l (e : TEntry) core line y pa, Issuing s (.mapsync h) h is t → OneWarp t is h k → Active t is h k w l →
      w.fenceMap ≠ none → NoTryAtAll s → s.l1 ≠ [] → core < Config.cores →
      (∀ d ∈ s.l1, d.core = core ∧ d.space = e.space ∧ d.ia / 128 = line) → (s.l1.map (·.ia)).Nodup →
      s.oldMaps.find? (fun x => x.space == e.space && x.page == pageOf x.big (line * 128)) = some e →
      walk s e.space (line * 128) = .ok y → leafW y.2.1 = true → leafNode e.leaf = false →
      pa = leafFrame e.leaf + (if e.big then line * 128 % 2 ^ 21 else line * 128 % 65536) → pa + 128 ≤ 2 ^ 39 →
      KeyedAs s (ownerKey s e.space e.leaf) pa 128 → False) := by
  have a : ready (.fenceMap h0 .y) (issue id) = true := by decide +kernel
  have b : ready (.mapsync h0) (issue id) = true := by decide +kernel
  have c : ready (.mapsync h0) (issue fenced) = true := by decide +kernel
  have d : ready (.mapsync h0) dirty = true := by decide +kernel
  obtain ⟨y, e, hy⟩ := okOf (walk dirty 0 0xFF80) (fun y => leafW y.2.1) (by decide +kernel)
  exact ⟨fun H => H _ _ _ _ _ _ _ _ (issuing a) (aloneW a) (active a) (clean rfl _) (by decide +kernel) (by decide +kernel) rfl,
   fun H => H _ _ _ _ _ _ _ (issuing b) (aloneW b) (active b) (by decide +kernel),
   fun H => H _ _ _ _ _ _ _ (issuing c) (aloneW c) (active c) (by decide +kernel) rfl,
   fun H => by
     refine H _ _ _ _ _ _ _ oldPage 127 511 y 0xFF80 (issuing d) (aloneW d) (active d) ?_ (noTries ?_) ?_ ?_ ?_ ?_ ?_ e hy ?_ ?_ ?_
       (unkeyed rfl _ _ _) <;> decide +kernel⟩

/-- Another team, whose frame is at 0x100000. -/
def other (st : TeamSt) (own : Nat) : Team := { team0 with uid := 4, core := 1, t := 1, frameF := 0x100000, st := st, desc := { team0.desc with place := own } }
/-- v10 names a frame. -/
def naming (f : Word) (u : Team) (ops : List EngOp) : State :=
  { issue (laneBy (fun l => l.wrV 10 f)) with teams := [laneBy (fun l => l.wrV 10 f) team0, u], ops := ops }
def cs0 : Instr := .ctxsave h0 (.v 191) (.v 10)
def cl0 : Instr := .ctxload h0 (.v 191) (.v 10)
def otherOp : EngOp := { op0 (.vcpy h0 ⟨0, .rn, 1, 0, 0, 0⟩ 0 1) [] [] [0, 1] with team := 4 }

def MoveHyps (P : State → Issue → Team → Team → Bool → Prop) : Prop := ∀ s i h is t k w l d a hold f u,
  (i = .ctxsave h d a ∧ hold = true ∨ i = .preempt h d a ∧ hold = false) →
  Issuing s i h is t → OneWarp t is h k → Active t is h k w l → w.tx.depth = 0 → f = (readSrc w l a).toNat →
  f % 65536 = 0 → f ≠ t.frameF → frameTeam s t.space f = some u → s.team? u.uid = some u → P s is t u hold → False

/-- The other team is named; the check of what a clause asks beyond that. -/
theorem moveHyps (st : TeamSt) (own : Nat) (ops : List EngOp) (P : State → Issue → Team → Team → Bool → Prop)
    (hr : ready cs0 (naming 0x100000 (other st own) ops) = true)
    (hx : (wOf (naming 0x100000 (other st own) ops)).tx.depth = 0 ∧
      0x100000 = (readSrc (wOf (naming 0x100000 (other st own) ops)) (lOf (naming 0x100000 (other st own) ops)) (.v 10)).toNat ∧
      0x100000 ≠ (tOf (naming 0x100000 (other st own) ops)).frameF ∧
      frameTeam (naming 0x100000 (other st own) ops) 0 0x100000 = some (other st own) ∧
      (naming 0x100000 (other st own) ops).team? 4 = some (other st own))
    (hp : P (naming 0x100000 (other st own) ops) is0 (tOf (naming 0x100000 (other st own) ops)) (other st own) true) : ¬ MoveHyps P :=
  fun H => H _ _ _ _ _ _ _ _ (.v 191) (.v 10) true 0x100000 (other st own) (.inl ⟨rfl, rfl⟩) (issuing hr) (aloneW hr) (active hr) hx.1 hx.2.1 (by decide)
    hx.2.2.1 hx.2.2.2.1 hx.2.2.2.2 hp

theorem wit_TeamsMove :
    (¬ ∀ s i h is t k w l d a hold f code, (i = .ctxsave h d a ∧ hold = true ∨ i = .preempt h d a ∧ hold = false) →
      Issuing s i h is t → OneWarp t is h k → Active t is h k w l → w.tx.depth = 0 → f = (readSrc w l a).toNat →
      (f % 65536 ≠ 0 ∧ code = 4 ∨ f % 65536 = 0 ∧ f = t.frameF ∧ code = 3 ∨
        f % 65536 = 0 ∧ f ≠ t.frameF ∧ frameTeam s t.space f = none ∧ code = 2) → False) ∧
    (¬ MoveHyps fun s is _ u _ => u.st = .running ∧ is.team ∉ runningGroup s u ∧ u.saving = none ∧
      ∀ v ∈ runningGroup s u, saveWaits s v = false ∧ ∀ x, s.team? v = some x → Saveable s x) ∧
    (¬ MoveHyps fun s _ _ u _ => u.st = .running ∧ ∃ v ∈ runningGroup s u, saveWaits s v = true) ∧
    (¬ MoveHyps fun s is _ u _ => u.st = .running ∧ u.saving = none ∧ is.team ∈ runningGroup s u) ∧
    (¬ MoveHyps fun s _ _ u _ => u.st = .ending ∧ WarmRun s u.space .store u.frameF 64) ∧
    (¬ MoveHyps fun _ _ _ u hold => u.st = .saved true ∧ hold = true) ∧
    (¬ MoveHyps fun _ _ _ u _ => u.st = .saved false) ∧
    (¬ ∀ s h is t k w l d a f code, Issuing s (.ctxload h d a) h is t → OneWarp t is h k → Active t is h k w l →
      CleanSpace s t.space → f = (readSrc w l a).toNat →
      (f % 65536 ≠ 0 ∧ code = 4 ∨ f % 65536 = 0 ∧ f = t.frameF ∧ code = 3 ∨
        f % 65536 = 0 ∧ f ≠ t.frameF ∧ (∀ u, frameTeam s t.space f = some u → u.st ≠ .saved false) ∧ code = 2) → False) ∧
    (¬ ∀ s h is t k w l d a f u c pa leaf, Issuing s (.ctxload h d a) h is t → OneWarp t is h k → Active t is h k w l →
      CleanSpace s t.space → f = (readSrc w l a).toNat → f % 65536 = 0 → f ≠ t.frameF → frameTeam s t.space f = some u → s.team? u.uid = some u →
      u.st = .saved false → SavePage s t.space 0 c pa leaf → c.defer = none → c.faultBuf = [] →
      (∀ j, j < 64 → numAt s (pa + 0x100 + 256 * j) 4 ≠ 1) → False) :=
  have a : ready cs0 (naming 0x10000 (other .running 0) []) = true := by decide +kernel
  have b : ready cl0 (naming 0x100000 (other (.saved false) 0) []) = true := by decide +kernel
  have b' : ready cl0 (naming 0x10001 (other (.saved false) 0) []) = true := by decide +kernel
  ⟨fun H => by
     refine H _ _ _ _ _ _ _ _ (.v 191) (.v 10) true 65536 3 (.inl ⟨rfl, rfl⟩) (issuing a) (aloneW a) (active a) ?_ ?_
       (.inr (.inl ⟨?_, ?_, rfl⟩)) <;> decide +kernel,
   moveHyps .running 0 [] _ (by decide +kernel) (by decide +kernel) ⟨rfl, by decide +kernel, rfl, fun v hv => by
     have e : runningGroup (naming 0x100000 (other .running 0) []) (other .running 0) = [4] := by decide +kernel
     rw [e, List.mem_singleton] at hv
     subst hv
     refine ⟨by decide +kernel, fun x hx => ?_⟩
     obtain rfl := Option.some.inj ((show (naming 0x100000 (other .running 0) []).team? 4 = some (other .running 0) by decide +kernel).symm.trans hx)
     exact ⟨by decide +kernel, warmRun (c := ctx0) rfl rfl rfl rfl rfl _ (by decide +kernel), fun h => absurd (show (other .running 0).frame.st = .empty by decide +kernel) h⟩⟩,
   moveHyps .running 0 [otherOp] _ (by decide +kernel) (by decide +kernel) ⟨rfl, 4, by decide +kernel, by decide +kernel⟩,
   moveHyps .running 2 [] _ (by decide +kernel) (by decide +kernel) ⟨rfl, rfl, by decide +kernel⟩,
   moveHyps .ending 0 [] _ (by decide +kernel) (by decide +kernel) ⟨rfl, warmRun (c := ctx0) rfl rfl rfl rfl rfl _ (by decide +kernel)⟩,
   moveHyps (.saved true) 0 [] _ (by decide +kernel) (by decide +kernel) ⟨rfl, rfl⟩,
   moveHyps (.saved false) 0 [] _ (by decide +kernel) (by decide +kernel) rfl,
   fun H => by
     refine H _ _ _ _ _ _ _ (.v 191) (.v 10) 0x10001 4 (issuing b') (aloneW b') (active b') (clean rfl _) ?_ (.inl ⟨?_, rfl⟩) <;> decide +kernel,
   fun H => by
     refine H _ _ _ _ _ _ _ (.v 191) (.v 10) 0x100000 (other (.saved false) 0) ctx0 0 leaf0 (issuing b) (aloneW b) (active b) (clean rfl _)
       ?_ ?_ ?_ ?_ ?_ rfl (savePage0 rfl rfl rfl rfl rfl rfl rfl rfl ?_ ?_) rfl rfl ?_ <;> decide +kernel⟩

/-! ### The governor, keys, bins -/

def leave0 (x : Word) : Instr := .leave h0 (.imm x)
/-- Two grants of kind 1, of which n have come, asked for by request 60. -/
def req0 (n : Nat) (arrived : Bool) : LeaveReq := ⟨60, 3, 0, 0x100, false, 1, 2, arrived, n⟩
def asking (r : LeaveReq) (heavy : Word) : State := { issue (laneBy (fun l => { l with wait := .leave 60 })) with leaves := [r], heavyB := heavy }

theorem wit_LeavesAreGranted :
    (¬ ∀ s h is t k w l src x, Issuing s (.leave h src) h is t → OneWarp t is h k → Active t is h k w l →
      x = readSrcI w l src → leaveWordOk x = true → x = 0 → False) ∧
    (¬ ∀ s h is t k w l src x, Issuing s (.leave h src) h is t → OneWarp t is h k → Active t is h k w l →
      x = readSrcI w l src → leaveWordOk x = true → x ≠ 0 → NoRequest t is h → False) ∧
    (¬ ∀ s h is t k w l src x r, Issuing s (.leave h src) h is t → OneWarp t is h k → Active t is h k w l →
      x = readSrcI w l src → leaveWordOk x = true → x ≠ 0 → l.wait = .leave r.id → (l.st = .blocked ∨ l.st = .ready) →
      s.leaves.find? (fun y => y.id == r.id) = some r → r.count ≤ r.got → False) ∧
    (¬ ∀ s h is t k w l src x r, Issuing s (.leave h src) h is t → OneWarp t is h k → Active t is h k w l →
      x = readSrcI w l src → leaveWordOk x = true → x ≠ 0 → l.wait = .leave r.id → (l.st = .blocked ∨ l.st = .ready) →
      s.leaves.find? (fun y => y.id == r.id) = some r → r.got < r.count → False) ∧
    (¬ ∀ (s : State) (as : List LeaveReq) r bs, Awake s → s.leaves = as ++ r :: bs → (∀ a ∈ as, a.arrived = true) → r.arrived = false → False) ∧
    (¬ ∀ (s : State) (as : List LeaveReq) r bs t, Awake s → s.leaves = as ++ r :: bs → (∀ a ∈ as, a.count ≤ a.got) → r.got < r.count → r.arrived = true →
      (∀ a ∈ as ++ bs, a.id ≠ r.id) → s.team? r.team = some t → s.heavyB.toNat < heldTotal s + chargeOf r.kind → False) ∧
    (¬ ∀ (s : State) (as : List LeaveReq) r bs t, Awake s → s.leaves = as ++ r :: bs → (∀ a ∈ as, a.count ≤ a.got) → r.got < r.count → r.arrived = true →
      (∀ a ∈ as ++ bs, a.id ≠ r.id) → s.team? r.team = some t → heldTotal s + chargeOf r.kind ≤ s.heavyB.toNat → False) ∧
    (¬ ∀ s u t, Awake s → s.team? u = some t → False) :=
  have a : ready (leave0 0) (issue id) = true := by decide +kernel
  have b : ready (leave0 0x201) (issue id) = true := by decide +kernel
  have c (n : Fin 3) : ready (leave0 0x201) (asking (req0 n true) 64) = true := by revert n; decide +kernel
  ⟨fun H => by refine H _ _ _ _ _ _ _ _ 0 (issuing a) (aloneW a) (active a) rfl ?_ rfl; decide +kernel,
   fun H => by refine H _ _ _ _ _ _ _ _ 0x201 (issuing b) (aloneW b) (active b) rfl ?_ ?_ (noRequest b ?_) <;> decide +kernel,
   fun H => by
     refine H _ _ _ _ _ _ _ _ 0x201 (req0 2 true) (issuing (c 2)) (aloneW (c 2)) (active (c 2)) rfl ?_ ?_ ?_ (.inr ?_) ?_ ?_ <;> decide +kernel,
   fun H => by
     refine H _ _ _ _ _ _ _ _ 0x201 (req0 1 true) (issuing (c 1)) (aloneW (c 1)) (active (c 1)) rfl ?_ ?_ ?_ (.inr ?_) ?_ ?_ <;> decide +kernel,
   fun H => by refine H (asking (req0 0 false) 64) [] (req0 0 false) [] ⟨rfl, rfl, rfl⟩ rfl ?_ rfl; decide +kernel,
   fun H => by
     refine H (asking (req0 1 true) 15) [] (req0 1 true) [] (tOf (asking (req0 1 true) 15)) ⟨rfl, rfl, rfl⟩ rfl ?_ ?_ rfl ?_ ?_ ?_ <;> decide +kernel,
   fun H => by
     refine H (asking (req0 1 true) 16) [] (req0 1 true) [] (tOf (asking (req0 1 true) 16)) ⟨rfl, rfl, rfl⟩ rfl ?_ ?_ rfl ?_ ?_ ?_ <;> decide +kernel,
   fun H => H state0 3 team0 ⟨rfl, rfl, rfl⟩ rfl⟩

def keying (owner : Word) : State := issue (laneBy (fun l => (l.wrV 10 0x1FFFC0).wrV 12 owner))
def setkey0 : Instr := .setkey h0 (.v 191) (.v 10) (.v 12)

def KeyHyps (busy : Bool) : Prop := ∀ s h is t k w l d a b c ia tr space, Issuing s (.setkey h d a b) h is t → OneWarp t is h k → Active t is h k w l →
  t.space % 65536 = 0 → (readSrc w l b).toNat < 65536 → space = t.space + (readSrc w l b).toNat →
  (readPair w l a).toNat % 64 = 0 → s.ctx? t.space = some c → rangeCheck c (readPair w l a) .load = .ok ia →
  Warm s t.space ia .load true tr → corrupt s tr.pa 64 = false →
  (busy = true → ∃ u ∈ s.teams, u.space = space ∧ u.st ≠ .gone) → (busy = false → ∀ u ∈ s.teams, u.space = space → u.st = .gone) → False

theorem wit_MappingsAndKeys_keys : ¬ KeyHyps true ∧ ¬ KeyHyps false :=
  have a : ready setkey0 (keying 0) = true := by decide +kernel
  have b : ready setkey0 (keying 0xFFFF) = true := by decide +kernel
  have e : readPair (wOf (keying 0)) (lOf (keying 0)) (.v 10) = BitVec.ofNat 64 0x1FFFC0 := by decide +kernel
  have e' : readPair (wOf (keying 0xFFFF)) (lOf (keying 0xFFFF)) (.v 10) = BitVec.ofNat 64 0x1FFFC0 := by decide +kernel
  ⟨fun H => by
     refine H _ _ _ _ _ _ _ (.v 191) (.v 10) (.v 12) ctx0 0x1FFFC0 _ 0 (issuing a) (aloneW a) (active a) ?_ ?_ ?_ ?_ ?_
       (by rw [e]; exact ranged rfl (by decide) .load) (warm0 ?_ rfl rfl ?_ _ _) rfl (fun _ => ⟨tOf (keying 0), ?_, ?_⟩) (fun h => nomatch h) <;>
       decide +kernel,
   fun H => by
     refine H _ _ _ _ _ _ _ (.v 191) (.v 10) (.v 12) ctx0 0x1FFFC0 _ 0xFFFF (issuing b) (aloneW b) (active b) ?_ ?_ ?_ ?_ ?_
       (by rw [e']; exact ranged rfl (by decide) .load) (warm0 ?_ rfl rfl ?_ _ _) rfl (fun h => nomatch h) (fun _ => ?_) <;> decide +kernel⟩

/-- The team, its context and the page's translation belong to ASID 7. -/
def asid7 : State :=
  { issue (fun t => { t with space := 7 }) with ctxs := [{ ctx0 with space := 7 }], tcache := [{ entry0 with space := 7 }] }

theorem wit_MappingsAndKeys_priv : ¬ ∀ s h is t k w l d a b c pa, Issuing s (.setkey h d a b) h is t → OneWarp t is h k →
    Active t is h k w l → t.space % 65536 ≠ 0 → MayEnter s is.team k.1 t w c pa → Quiet s is.team k.1 →
    (c.uvec = 0 ∨ w.sup = true) → False := by
  intro H
  have a : ready setkey0 asid7 = true := by decide +kernel
  refine H _ _ _ _ _ _ _ (.v 191) (.v 10) (.v 12) { ctx0 with space := 7 } 0x20000 (issuing a) (aloneW a) (active a) ?_
    ⟨?_, ?_, ?_, ⟨?_, ?_⟩, ?_, ?_, leaf0, ?_⟩ ⟨?_, ?_⟩ (.inl ?_)
  case refine_9 => exact savePageAt (by decide) rfl rfl rfl rfl rfl rfl rfl (by decide) (by decide)
  all_goals decide +kernel

def bin31 : Bin := ⟨0, 31, 3, 0x108, [], [(0, 0)], 0, false⟩

theorem wit_BinsAge :
    (¬ ∀ (s : State) (core n : Nat) (_fixed : Bool) (j : Nat) (b : Bin) (t : Team), Awake s → s.bins[j]? = some b → s.team? b.team = some t → b.core = core → b.num = n → False) ∧
    (¬ ∀ s core n b x w l, Awake s → s.bins.find? (fun b => b.core == core && b.num == n) = some b →
      b.waiting.find? (fun x => !b.slots.any (fun y => y.1 == x.1)) = some x → s.warp? b.team x.2 = some w →
      w.sup = false → w.lockstep = false → w.lanes[x.1]? = some l → l.st = .blocked → False) ∧
    (¬ ∀ s u k w, Awake s → s.warp? u k = some w → False) :=
  let u : Team := laneBy (fun l => { l with st := .blocked, wait := .binSlot }) team0
  let s : State := { state0 with teams := [u], bins := [bin31] }
  ⟨fun H => by refine H s 0 31 true 0 bin31 u ⟨rfl, rfl, rfl⟩ ?_ ?_ ?_ ?_ <;> decide +kernel,
   fun H => by refine H s 0 31 bin31 (0, 0) (wOf s) (lOf s) ⟨rfl, rfl, rfl⟩ ?_ ?_ ?_ ?_ ?_ ?_ ?_ <;> decide +kernel,
   fun H => H state0 3 0 (wOf state0) ⟨rfl, rfl, rfl⟩ (by decide +kernel)⟩

end Sys2Proof.Tests
end

