-- ==== Sys2Proof/Tests/WitnessF.lean ====
section
/-! SUPPORT. `wit_X` denies that the hypotheses of statement X, clause by clause, are contradictory: faults, saves,
migrations and debugging. -/

namespace Sys2Proof.Tests
set_option Elab.async false
open Sys2Proof.Machine

/-! ### Faults -/

/-- An access of lane 0 that has met a cause. -/
def lateAcc (cause sub : Byte) : Access :=
  { blankAccess .load 0x300000 0x300000 16 with id := 7, team := 3, pc := 0x100, len := 8, fault := some (cause, sub) }
def late : State := { state0 with accs := [lateAcc 0x10 1] }
/-- A copy of one row of 64 bytes from IA 2^21, which nothing maps. -/
def farOp : EngOp := op0 (.cpyin h0 ⟨none, .alloc⟩ 5 ⟨.v 10, none⟩ (.v 12)) [0x200000, 0] [0x200000] [5]
def far (t : Team) : Team := tiled 5 (shp 0 0 1 16 64 0) .filling t
def lastLine : Nat := 2 ^ 57 - 1
def dirty1 : State := { state0 with teams := [], recs := [], l1 := [⟨127, 0, lastLine * 128 + 127, 5⟩] }
def timed : Team := warpBy (fun w => { w with fired := true }) team0
def timing : State := { state0 with teams := [timed] }

theorem lookupIs {s : State} {space ia : Nat} {need : Need} {lane : Bool} {sub : Byte}
    (h : (match lookup s space ia need lane with | .fail x => x == sub | _ => false) = true) : lookup s space ia need lane = .fail sub := by
  revert h
  cases lookup s space ia need lane <;> simp

theorem fateIs {s : State} {x : Nat × Nat × Nat} {sub : Byte} (h : (lineFate s x).1 = s)
    (g : (match (lineFate s x).2 with | .fail y => y == sub | _ => false) = true) : lineFate s x = (s, .fail sub) := by
  refine Prod.ext h ?_
  revert g
  cases (lineFate s x).2 <;> simp

theorem walkIs {s : State} {space ia : Nat} {x : Nat × BitVec 128 × Bool}
    (h : (match walk s space ia with | .ok y => y == x | .error _ => false) = true) : walk s space ia = .ok x := by
  revert h
  cases walk s space ia <;> simp

theorem wit_FaultsAreTaken :
    (¬ ∀ s u wi t w c pa a cause sub, Awake s → MayEnter s u wi t w c pa → w.st = .live → w.trap = none → w.fired = false →
      Machine.settled s u wi = true → (faultsOf s u wi).find? (fun a => !savedFault s a) = some a → a.fault = some (cause, sub) →
      0x0C < cause → (∀ o ∈ s.ops, o.team ≠ u) → stepLanes s t w = [] → (∀ b ∈ s.accs, b.team = u → b.warp = wi → ∃ f ∈ faultsOf s u wi, f.lane = b.lane) →
      (∀ b ∈ faultsOf s u wi, ∀ m, w.lanes[b.lane]? = some m → m.st ≠ .exited) → False) ∧
    (¬ ∀ s o t w h m n ad b out e j rest sub f, Awake s → s.op? o.id = some o → s.team? o.team = some t → opRuns s o = true →
      (o.ins = .cpyin h m n ad b ∧ out = false ∨ o.ins = .cpyout h f m n ad b ∧ out = true) →
      beatsFrom o (copyBeats t o) = (e, j) :: rest → lookup s t.space e.ia (if out then .store else .load) false = .fail sub →
      (sub ≠ 0 ∨ hostPage s t.space e.ia = false) → t.warps[o.warp]? = some w → liveWarp w = true → False) ∧
    (¬ ∀ s core space line sub c pa leaf, Awake s → s.l1 ≠ [] → NoneRuns s space → line < 2 ^ 57 →
      (∀ d ∈ s.l1, d.core = core ∧ d.space = space ∧ d.ia / 128 = line) → (s.l1.map (·.ia)).Nodup →
      lineFate s (core, space, line) = (s, .fail sub) → SavePage { s with l1 := [] } space 0 c pa leaf → c.halted = false →
      (∀ r ∈ s.recs, r.space = space → r.ended = true) → numAt s (pa + 0x100) 4 = 0 → False) ∧
    (¬ ∀ (s : State) (space : Nat) (sub : Byte) (_ : DWord) c pa leaf, sub = 0 ∨ sub = 1 → Awake s → NoneRuns s space → SavePage s space 0 c pa leaf →
      c.halted = false → (∀ r ∈ s.recs, r.space = space → r.ended = true) → False) ∧
    (¬ ∀ (s : State) (space : Nat) (sub : Byte) (ad : DWord) (a : Nat), sub = 0 ∨ sub = 1 → Awake s → s.ctx? space = none →
      a = s.countPa.toNat + 8192 + 64 * hashAll 0xFF (ad.toNat / 128) + 8 → a + 8 ≤ 2 ^ 39 → False) ∧
    (¬ ∀ (s : State) (slice : Bool) (n a : Nat), Awake s → n < 128 → a = s.countPa.toNat + (if slice then 8192 + 64 * n else 64 * n + 0x28) →
      a + 8 ≤ 2 ^ 39 → False) ∧
    (¬ ∀ s u wi t w c pa, Awake s → MayEnter s u wi t w c pa → w.st = .live → t.st = .running → t.saving = none → w.trap = none →
      w.fired = true → mustDrain s u wi = false → stepLanes s t w = [] → False) :=
  have faults : faultsOf late 3 0 = [lateAcc 0x10 1] := by decide +kernel
  ⟨fun H => by
     refine H late 3 0 team0 (wOf state0) ctx0 _ (lateAcc 0x10 1) 0x10 1 ⟨rfl, rfl, rfl⟩
       (mayEnter rfl rfl rfl rfl rfl rfl rfl ?_ ?_ ?_) ?_ ?_ ?_ ?_ ?_ rfl ?_ ?_ ?_ (fun b hb _ _ => ?_) (fun b hb m hm => ?_)
     case refine_12 =>
       obtain rfl := List.mem_singleton.mp (show b ∈ [lateAcc 0x10 1] from hb)
       exact ⟨_, by rw [faults]; exact List.mem_singleton.mpr rfl, rfl⟩
     case refine_13 =>
       rw [faults, List.mem_singleton] at hb
       subst hb
       obtain rfl := Option.some.inj ((show (wOf state0).lanes[0]? = some (lOf state0) by decide +kernel).symm.trans hm)
       decide +kernel
     all_goals decide +kernel,
   fun H => by
     refine H (working far farOp) farOp (far team0) (wOf (working far farOp)) h0 _ _ _ _ false ⟨0x200000, 0x200000, 64, 0⟩ 0 [] 4 false ⟨rfl, rfl, rfl⟩
       ?_ ?_ ?_ (.inl ⟨rfl, rfl⟩) ?_ (lookupIs ?_) (.inl ?_) ?_ ?_ <;> decide +kernel,
   fun H => by
     refine H dirty1 127 0 lastLine 4 ctx0 0 leaf0 ⟨rfl, rfl, rfl⟩ ?_ (noRun rfl _) ?_ ?_ ?_ (fateIs ?_ ?_)
       (savePage0 rfl rfl rfl rfl rfl rfl rfl rfl ?_ ?_) ?_ ?_ ?_ <;> decide +kernel,
   fun H => by
     refine H { state0 with teams := [], recs := [] } 0 1 0 ctx0 0 leaf0 (.inr rfl) ⟨rfl, rfl, rfl⟩ (noRun rfl _)
       (savePage0 rfl rfl rfl rfl rfl rfl rfl rfl ?_ ?_) ?_ ?_ <;> decide +kernel,
   fun H => by refine H state0 7 0 0 8200 (.inl rfl) ⟨rfl, rfl, rfl⟩ rfl ?_ ?_ <;> decide +kernel,
   fun H => by refine H state0 true 127 16320 ⟨rfl, rfl, rfl⟩ ?_ ?_ ?_ <;> decide +kernel,
   fun H => by
     refine H timing 3 0 timed (wOf timing) ctx0 _ ⟨rfl, rfl, rfl⟩ (mayEnter rfl rfl rfl rfl rfl rfl rfl ?_ ?_ ?_) ?_ ?_ ?_ ?_ ?_ ?_ ?_ <;> decide +kernel⟩

/-! ### Saves -/

def frozen : State := { state0 with accs := [lateAcc 0x11 3] }
def waits : EngOp := op0 (.vcpy h0 ⟨0, .rn, 1, 0, 0, 0⟩ 0 1) [] [] [0, 1]
/-- An instance of higher priority that cannot be placed. -/
def ranked (ops : List EngOp) : State :=
  { state0 with ops := ops, recs := [probeRec 1, { probeRec 2 with prio := 2, stopped := true }], insts := [probeInst 1, { probeInst 2 with inPool := true }] }
def saved0 : Team := { team0 with st := .saved true, warps := team0.warps.map (fun w => { w with st := .stopped }) }
def pooled (version : Nat) : State :=
  { state0 with teams := [saved0], recs := [{ probeRec 1 with ended := true }], mem := memPut [] 65536 (leBytes 2 version) }

def RestoreHyps (P : State → Nat → Team → Prop) : Prop := ∀ s u t core c pa key e, Awake s → serves s = some e → e.inst = false → e.id = u → s.team? u = some t → t.uid = u →
  t.st = .saved true → groupSite s t (some core) = some [(t.t, core)] → savedGroup s t = some [t] → s.l1 = [] →
  t.desc.fusedOwn = false → (∀ x ∈ s.teams, x.desc.fused = false) → c.defer = none → t.warps.length ≤ t.desc.limit →
  SaveRun s t.space t.frameF (frameSize t.desc) c pa key → P s pa t → False

theorem restoreHyps (version : Nat) (P : State → Nat → Team → Prop)
    (hx : serves (pooled version) = some ⟨3, false, 0, 0⟩ ∧ groupSite (pooled version) saved0 (some 0) = some [(0, 0)] ∧
      savedGroup (pooled version) saved0 = some [saved0]) (hp : P (pooled version) 65536 saved0) : ¬ RestoreHyps P :=
  fun H => H (pooled version) 3 saved0 0 ctx0 65536 _ ⟨3, false, 0, 0⟩ ⟨rfl, rfl, rfl⟩ hx.1 rfl rfl rfl rfl rfl hx.2.1 hx.2.2 rfl rfl
    (fun x hm => by obtain rfl := List.mem_singleton.mp hm; rfl) rfl (by decide +kernel)
    (saveRun rfl rfl rfl rfl rfl rfl rfl (by decide +kernel)) hp

theorem ranked3 {s : State} (P : Team → Prop) {t : Team} (e : runningGroup s t = [3]) (w : saveWaits s 3 = false) (h : ∀ x, s.team? 3 = some x → P x) :
    ∀ v ∈ runningGroup s t, saveWaits s v = false ∧ ∀ x, s.team? v = some x → P x := by
  intro v hv
  rw [e, List.mem_singleton] at hv
  subst hv
  exact ⟨w, h⟩

def rankedWhile (x : Saving) : State := { ranked [] with teams := [{ team0 with saving := some x }] }

theorem wit_TeamsAreSavedAndRestored :
    (¬ ∀ s u t fs, Awake s → s.team? u = some t → t.st = .running → fs = s.accs.filter (fun a => a.team == u && savedFault s a) →
      fs ≠ [] → (∀ a ∈ fs, asked s t.space a = true) →
      (∀ v ∈ runningGroup s t, teamSettled s v = true ∧ saveWaits s v = false ∧ ∀ x, s.team? v = some x → Saveable s x) → False) ∧
    (¬ ∀ s u t, Awake s → s.team? u = some t → t.st = .running → t.saving = none → outranked s t = true →
      (∀ v ∈ runningGroup s t, saveWaits s v = false ∧ ∀ x, s.team? v = some x → Saveable s x) → False) ∧
    (¬ ∀ s u t, Awake s → s.team? u = some t → t.st = .running → t.saving = none → outranked s t = true →
      (∃ v ∈ runningGroup s t, saveWaits s v = true) → False) ∧
    (¬ ∀ s u t (x : Saving), Awake s → s.team? u = some t → t.st = .running → t.saving = some x → x.reason ≠ .stop → x.own = none →
      (∀ v ∈ runningGroup s t, saveWaits s v = false ∧ ∀ y, s.team? v = some y → Saveable s y) → False) ∧
    (¬ RestoreHyps fun s pa t => numAt s pa 2 ≠ 1 ∧ NoneRuns s t.space ∧ (∀ x ∈ s.recs, x.space = t.space → x.ended = true) ∧
      ∃ c r leaf, SavePage s t.space 0 c r leaf) ∧
    (¬ RestoreHyps fun s pa t => numAt s pa 2 = 1 ∧ numAt s (pa + 4) 4 = t.space % 65536 ∧ numAt s (pa + 0xA804) 4 = 0 ∧
      (∀ j, j < 8 → numAt s (pa + 0x1C0 + 16 * j + 13) 1 ≤ 8) ∧ (∀ j, j < 32 → numAt s (pa + 0x40 + 4 * j) 4 % 2 = 0) ∧
      (∀ j, j < 5 → numAt s (pa + 0x2000 + 4 * j) 4 = 0) ∧ numAt s (pa + 0xA40) 4 = 0 ∧
      (∀ wi w, t.warps[wi]? = some w → w.st ≠ .free ∧ w.lanes.length = 32 ∧ ∀ j, j < 32 →
        numAt s (pa + 0x10000 + 0x8000 * wi + 0x280 + 8 * j + 7) 1 = 0)) :=
  ⟨fun H => by
     refine H frozen 3 team0 frozen.accs ⟨rfl, rfl, rfl⟩ rfl rfl ?_ ?_ ?_ (fun v hv => ?_)
     case refine_4 =>
       have e : runningGroup frozen team0 = [3] := by decide +kernel
       rw [e, List.mem_singleton] at hv
       subst hv
       refine ⟨by decide +kernel, by decide +kernel, fun x hx => ?_⟩
       obtain rfl := Option.some.inj ((show frozen.team? 3 = some team0 from rfl).symm.trans hx)
       exact saveable (c := ctx0) rfl rfl rfl rfl rfl rfl (by decide +kernel) rfl
     all_goals decide +kernel,
   fun H => by
     refine H (ranked []) 3 team0 ⟨rfl, rfl, rfl⟩ rfl rfl rfl (by decide +kernel) (ranked3 _ (by decide +kernel) (by decide +kernel) (fun x hx => ?_))
     obtain rfl := Option.some.inj ((show (ranked []).team? 3 = some team0 from rfl).symm.trans hx)
     exact saveable (c := ctx0) rfl rfl rfl rfl rfl rfl (by decide +kernel) rfl,
   fun H => H (ranked [waits]) 3 team0 ⟨rfl, rfl, rfl⟩ rfl rfl rfl (by decide +kernel) ⟨3, by decide +kernel, by decide +kernel⟩,
   fun H => by
     refine H (rankedWhile ⟨.ctxsave, 4, 0, 0x100, none⟩) 3 { team0 with saving := some ⟨.ctxsave, 4, 0, 0x100, none⟩ } ⟨.ctxsave, 4, 0, 0x100, none⟩
       ⟨rfl, rfl, rfl⟩ rfl rfl rfl nofun rfl (ranked3 _ (by decide +kernel) (by decide +kernel) (fun x hx => ?_))
     obtain rfl := Option.some.inj ((show (rankedWhile ⟨.ctxsave, 4, 0, 0x100, none⟩).team? 3 = _ from rfl).symm.trans hx)
     exact saveable (c := ctx0) rfl rfl rfl rfl rfl rfl (by decide +kernel) rfl,
   restoreHyps 2 _ (by decide +kernel) ⟨by decide +kernel, by unfold NoneRuns; decide +kernel, by decide +kernel, ctx0, 0, leaf0,
     savePage0 rfl rfl rfl rfl rfl rfl rfl rfl (by decide) (by decide)⟩,
   restoreHyps 1 _ (by decide +kernel) (by
     refine ⟨?_, ?_, ?_, ?_, ?_, ?_, ?_, fun wi w h => ?_⟩
     case refine_8 =>
       have n := (List.getElem?_eq_some_iff.mp h).1
       have e : saved0.warps.length = 2 := by decide +kernel
       rw [e] at n
       have g : ∀ k < 2, (match saved0.warps[k]? with
         | some w => w.st != .free && w.lanes.length == 32 && (List.range 32).all (fun j => numAt (pooled 1) (65536 + 0x10000 + 0x8000 * k + 0x280 + 8 * j + 7) 1 == 0)
         | none => false) = true := by decide +kernel
       have := g wi n
       rw [h] at this
       simp only [Bool.and_eq_true, bne_iff_ne, ne_eq, beq_iff_eq, List.all_eq_true, List.mem_range] at this
       exact ⟨this.1.1, this.1.2, this.2⟩
     all_goals decide +kernel)⟩

/-! ### Migrations -/

/-- The tables of the probe with another leaf, and a pool at PA 0x60000 of `cap` entries, of which `n` are listed. -/
def mapped (lo n cap : Nat) (ms : List Migration) : State :=
  { state0 with
    tcache := [], migs := ms, parts := State.reset.parts.set 0 { probePart with fpool := 0x60000 }
    mem := memPut (memPut (memPut (probeTables []) 0x44000 (leBytes 8 lo)) 0x44008 (leBytes 8 0x1E000000000)) 0x60000
      (leBytes 4 n ++ leBytes 4 cap ++ leBytes 4 0x7FFFFF) }
def leafOn : Nat := 0xB000000000050000
def leafOff : Nat := 0xB800000000050000
def leafBits (lo : Nat) : BitVec 128 := BitVec.ofNat 128 (0x1E000000000 * 2 ^ 64 + lo)
def mig0 (stage : Nat) : Migration := ⟨0, 0, false, stage, 0x50000, 0x7FFFFF0000⟩

theorem wit_PagesMigrate :
    (¬ ∀ s space ia x p n f, Awake s → walk s space ia = .ok x → x.2.2 = false → p = s.part space → p.en = true →
      s.invWait = false → migrates s x.2.1 = true → migOf s space ia = none → p.fpool ≠ 0 → n = numAt s p.fpool.toNat 4 →
      0 < n → f = numAt s (p.fpool.toNat + 4 + 4 * n) 4 → p.fpool.toNat + 8 + 4 * n ≤ 2 ^ 39 → x.1 + 16 ≤ 2 ^ 39 →
      (x.1 + 16 ≤ p.fpool.toNat ∨ p.fpool.toNat + 4 ≤ x.1) → KeyedAs s (tableKey s space) x.1 16 → False) ∧
    (¬ ∀ s space ia m x n, Awake s → cellsWf s.mem = true → migOf s space ia = some m → m.stage = 1 → s.invWait = false → walk s space ia = .ok x →
      leafFrz x.2.1 = true → x.2.2 = m.big → leafFrame x.2.1 = m.oldFrame → n = 65536 * (if m.big then 32 else 1) →
      m.oldFrame % 65536 = 0 → m.newFrame % 65536 = 0 → m.newFrame + n ≤ 2 ^ 39 →
      (m.oldFrame + n ≤ m.newFrame ∨ m.newFrame + n ≤ m.oldFrame) → KeyedAs s (ownerKey s space x.2.1) m.oldFrame n → False) ∧
    (¬ ∀ s space ia m x, Awake s → migOf s space ia = some m → m.stage = 2 → s.invWait = false → walk s space ia = .ok x →
      leafFrz x.2.1 = true → x.2.2 = m.big → leafFrame x.2.1 = m.oldFrame → m.newFrame % 65536 = 0 → m.newFrame < 2 ^ 48 →
      x.1 + 16 ≤ 2 ^ 39 → False) ∧
    (¬ ∀ s space ia m x p n, Awake s → migOf s space ia = some m → m.stage = 3 → m.big = false → s.invWait = false →
      walk s space ia = .ok x → leafFrz x.2.1 = true → x.2.2 = m.big → p = s.part space → p.fpool ≠ 0 →
      n = numAt s p.fpool.toNat 4 → n < numAt s (p.fpool.toNat + 4) 4 → m.oldFrame < 2 ^ 48 →
      p.fpool.toNat + 12 + 4 * n ≤ 2 ^ 39 → (x.1 + 16 ≤ p.fpool.toNat ∨ p.fpool.toNat + 12 + 4 * n ≤ x.1) → x.1 + 16 ≤ 2 ^ 39 →
      KeyedAs s (tableKey s space) x.1 16 → False) ∧
    (¬ ∀ (s : State) (k pa n : Nat), Awake s → s.hotQ[k]? = some (pa, n) → pa + 12 ≤ 2 ^ 39 → False) :=
  ⟨fun H => by
     refine H (mapped leafOn 1 1 []) 0 0xFFFF (0x44000, leafBits leafOn, false) { probePart with fpool := 0x60000 } 1 0x7FFFFF ⟨rfl, rfl, rfl⟩
       (walkIs ?_) rfl ?_ rfl rfl ?_ ?_ ?_ ?_ ?_ ?_ ?_ ?_ ?_ (unkeyed rfl _ _ _) <;> decide +kernel,
   fun H => by
     refine H (mapped leafOff 0 1 [mig0 1]) 0 0xFFFF (mig0 1) (0x44000, leafBits leafOff, false) 65536 ⟨rfl, rfl, rfl⟩ ?_ ?_ rfl rfl
       (walkIs ?_) ?_ rfl ?_ rfl ?_ ?_ ?_ ?_ (unkeyed rfl _ _ _) <;> decide +kernel,
   fun H => by
     refine H (mapped leafOff 0 1 [mig0 2]) 0 0xFFFF (mig0 2) (0x44000, leafBits leafOff, false) ⟨rfl, rfl, rfl⟩ ?_ rfl rfl
       (walkIs ?_) ?_ rfl ?_ ?_ ?_ ?_ <;> decide +kernel,
   fun H => by
     refine H (mapped leafOff 0 1 [mig0 3]) 0 0xFFFF (mig0 3) (0x44000, leafBits leafOff, false) { probePart with fpool := 0x60000 } 0 ⟨rfl, rfl, rfl⟩ ?_
       rfl rfl rfl (walkIs ?_) ?_ rfl ?_ ?_ ?_ ?_ ?_ ?_ ?_ ?_ (unkeyed rfl _ _ _) <;> decide +kernel,
   fun H => by refine H { state0 with hotQ := [(2 ^ 39 - 12, 2 ^ 32 - 1)] } 0 (2 ^ 39 - 12) (2 ^ 32 - 1) ⟨rfl, rfl, rfl⟩ rfl ?_; decide⟩

/-! ### Debugging -/

/-- The debug block is page 30 of the save area, and holds numbers of n bytes. -/
def ctxD (ctl : Word) : Context := { ctx0 with dbgctl := ctl + 30, go := true }
def debugged (ctl : Word) (f : Team → Team) (xs : List (Nat × Nat × Nat)) : State :=
  { state0 with teams := [f team0], ctxs := [ctxD ctl], mem := xs.foldl (fun m x => memPut m (0x1E0000 + x.1) (leBytes x.2.1 x.2.2)) [] }
/-- Breakpoint 7 at the lane's PC. -/
def bp7 : List (Nat × Nat × Nat) := [(0x70, 8, 2 ^ 63 + 0x100)]
def stepping (t : Team) : Team := warpBy (fun w => { w with stepBit := true }) (laneBy (fun l => { l with stepped := true }) t)
def event0 : DebugEvent := ⟨0, 3, 0, 0, 2, 255, 0x100, 0⟩
/-- A command on the team at frame 0x10000. -/
def command (op warp : Nat) : List (Nat × Nat × Nat) := [(0x1100, 4, op), (0x1104, 4, 1), (0x1108, 4, warp)]

def StopHyps (haltEv : Bool) : Prop := ∀ s u wi slot t w l c pa leaf d b, Awake s → s.team? u = some t → t.warps[wi]? = some w →
  w.lanes[(slot : Fin 32).val]? = some l →
  stoppable t w = true → SavePage s t.space d c pa leaf → d = 65536 * (c.dbgctl.extractLsb' 0 16).toNat → d ≠ 0 →
  (c.dbgctl.getLsbD 31 && c.dbgctl.getLsbD 29) = true → w.sup = false → l.bpPass ≠ some (b, l.pc) → (∀ m ∈ w.lanes, m.stepped = false) → (l.st = .ready ∨ l.st = .filed) →
  b < 8 → numAt s (pa + 16 * b) 8 % 2 ^ 56 = l.pc.toNat → numAt s (pa + 16 * b) 8 / 2 ^ 63 = 1 → numAt s (pa + 16 * b + 8) 4 = 0 →
  (∀ j, j < b → numAt s (pa + 16 * j) 8 / 2 ^ 63 = 0) → (fetch s t l.pc).2 ≠ .skip → c.dbgctl.getLsbD 28 = haltEv →
  (haltEv = false → mustDrain s t.uid wi = false ∧ ∃ q, MayEnter s u wi t w c q) → False

def StepHyps (haltEv : Bool) : Prop := ∀ (s : State) (u wi : Nat) (t : Team) (w : Warp) (c : Context) (j : Nat) (l : Lane), Awake s → s.team? u = some t → t.warps[wi]? = some w → stoppable t w = true →
  s.ctx? t.space = some c → c.dbgctl.getLsbD 31 = true → w.stepBit = true → w.sup = false → w.lanes[j]? = some l → l.st ≠ .exited →
  l.stepped = true → c.dbgctl.getLsbD 28 = haltEv →
  (haltEv = false → mustDrain s t.uid wi = false ∧ ∃ q, MayEnter s u wi t w c q) → False

theorem wit_DebugRuns_stops : ¬ StopHyps true ∧ ¬ StopHyps false ∧ ¬ StepHyps true ∧ ¬ StepHyps false ∧
    (¬ ∀ s e rest c pa leaf d a, Awake s → s.events = e :: rest → SavePage s e.space d c pa leaf →
      d = 65536 * (c.dbgctl.extractLsb' 0 16).toNat → d ≠ 0 →
      (numAt s (pa + 0x80) 4 + 2 ^ 32 - numAt s (pa + 0x84) 4) % 2 ^ 32 < 64 → a = pa + 0x100 + 64 * (numAt s (pa + 0x80) 4 % 64) → False) :=
  have nofetch (ctl : Word) (h : (match (fetch (debugged ctl id bp7) team0 0x100).2 with | .skip => false | _ => true) = true) :
      (fetch (debugged ctl id bp7) team0 0x100).2 ≠ .skip := by intro e; rw [e] at h; simp at h
  ⟨fun H => by
     refine H (debugged 0xB0000000 id bp7) 3 0 0 team0 (wOf state0) (lOf state0) (ctxD 0xB0000000) 0x1E0000 leaf0 0x1E0000 7 ⟨rfl, rfl, rfl⟩ rfl
       ?_ ?_ ?_ (savePage0 rfl rfl rfl rfl rfl rfl rfl rfl ?_ ?_) ?_ ?_ ?_ ?_ ?_ ?_ (.inl ?_) ?_ ?_ ?_ ?_ ?_ (nofetch _ ?_) ?_ nofun <;> decide +kernel,
   fun H => by
     refine H (debugged 0xA0000000 id bp7) 3 0 0 team0 (wOf state0) (lOf state0) (ctxD 0xA0000000) 0x1E0000 leaf0 0x1E0000 7 ⟨rfl, rfl, rfl⟩ rfl
       ?_ ?_ ?_ (savePage0 rfl rfl rfl rfl rfl rfl rfl rfl ?_ ?_) ?_ ?_ ?_ ?_ ?_ ?_ (.inl ?_) ?_ ?_ ?_ ?_ ?_ (nofetch _ ?_) ?_
       (fun _ => ⟨?_, _, mayEnter rfl rfl rfl rfl rfl rfl rfl ?_ ?_ ?_⟩) <;> decide +kernel,
   fun H => by
     refine H (debugged 0x90000000 stepping []) 3 0 (stepping team0) (wOf (debugged 0x90000000 stepping [])) (ctxD 0x90000000) 0
       (lOf (debugged 0x90000000 stepping [])) ⟨rfl, rfl, rfl⟩ ?_ ?_ ?_ rfl ?_ ?_ ?_ ?_ ?_ ?_ ?_ nofun <;> decide +kernel,
   fun H => by
     refine H (debugged 0x80000000 stepping []) 3 0 (stepping team0) (wOf (debugged 0x80000000 stepping [])) (ctxD 0x80000000) 0
       (lOf (debugged 0x80000000 stepping [])) ⟨rfl, rfl, rfl⟩ ?_ ?_ ?_ rfl ?_ ?_ ?_ ?_ ?_ ?_ ?_
       (fun _ => ⟨?_, _, mayEnter rfl rfl rfl rfl rfl rfl rfl ?_ ?_ ?_⟩) <;> decide +kernel,
   fun H => by
     refine H { debugged 0 id [(0x80, 4, 63)] with events := [event0] } event0 [] (ctxD 0) 0x1E0000 leaf0 0x1E0000 0x1E10C0 ⟨rfl, rfl, rfl⟩ rfl
       (savePage0 rfl rfl rfl rfl rfl rfl rfl rfl ?_ ?_) ?_ ?_ ?_ ?_ <;> decide +kernel⟩

def CommandHyps (P : State → Nat → Context → Nat → Nat → Prop) : Prop := ∀ s space op i c pa leaf d wi, (op = 1 ∧ i = Instr.halt space ∨ op = 2 ∧ i = .resume space ∨
    op = 3 ∧ i = .stepon space ∨ op = 4 ∧ i = .stepoff space) →
  Awake s → NoTryAtAll s → SavePage s space d c pa leaf → d = 65536 * (c.dbgctl.extractLsb' 0 16).toNat → d ≠ 0 → c.go = true →
  wi = numAt s (pa + 0x1108) 4 → P s op c pa wi → False

theorem commandHyps (ctl : Word) (op code warp : Nat) (i : Instr) (P : State → Nat → Context → Nat → Nat → Prop)
    (hc : (65536 * ((ctxD ctl).dbgctl.extractLsb' 0 16).toNat = 0x1E0000) ∧ warp = numAt (debugged ctl id (command code warp)) (0x1E0000 + 0x1108) 4)
    (hi : op = 1 ∧ i = Instr.halt 0 ∨ op = 2 ∧ i = .resume 0 ∨ op = 3 ∧ i = .stepon 0 ∨ op = 4 ∧ i = .stepoff 0)
    (hp : P (debugged ctl id (command code warp)) op (ctxD ctl) 0x1E0000 warp) : ¬ CommandHyps P :=
  fun H => H (debugged ctl id (command code warp)) 0 op i (ctxD ctl) 0x1E0000 leaf0 0x1E0000 warp hi ⟨rfl, rfl, rfl⟩ (noTries (show (team0.warps.all (fun w => w.tx.depth == 0) && true) = true by decide +kernel))
    (savePage0 rfl rfl rfl rfl rfl rfl rfl rfl (by decide) (by decide)) hc.1.symm (by decide) rfl hc.2 hp

theorem wit_DebugRuns_commands :
    (¬ CommandHyps fun s op c pa _ => numAt s (pa + 0x1100) 4 % 16 = op ∧ c.dbgctl.getLsbD 31 = false) ∧
    (¬ CommandHyps fun s op c pa _ => (numAt s (pa + 0x1100) 4 % 16 = 0 ∨ 4 < numAt s (pa + 0x1100) 4 % 16) ∧ op = 1 ∧ c.dbgctl.getLsbD 31 = true) ∧
    (¬ CommandHyps fun s op c pa wi => numAt s (pa + 0x1100) 4 % 16 = op ∧ c.dbgctl.getLsbD 31 = true ∧
      ∀ t, frameTeam s 0 (65536 * numAt s (pa + 0x1104) 4) = some t → ∀ w, t.warps[wi]? = some w → w.st = .free ∨ t.st = .ending) ∧
    (¬ CommandHyps fun s op c pa wi => numAt s (pa + 0x1100) 4 % 16 = op ∧ c.dbgctl.getLsbD 31 = true ∧ ∃ t w,
      frameTeam s 0 (65536 * numAt s (pa + 0x1104) 4) = some t ∧ s.team? t.uid = some t ∧ t.warps[wi]? = some w ∧
      w.st ≠ .free ∧ t.st = .running ∧ c.defer = none ∧ (op = 2 → ∀ e ∈ s.events, e.team ≠ t.uid)) ∧
    (¬ ∀ s space c, Awake s → s.ctx? space = some c → (∀ t ∈ s.teams, isSaved t = false) → c.defer = none → (s.teams.map (·.uid)).Nodup → False) :=
  ⟨commandHyps 0 4 4 0 (.stepoff 0) _ (by decide +kernel) (by decide) (by decide +kernel),
   commandHyps 0x80000000 1 5 0 (.halt 0) _ (by decide +kernel) (by decide) (by decide +kernel),
   commandHyps 0x80000000 3 3 1 (.stepon 0) _ (by decide +kernel) (by decide) ⟨by decide +kernel, by decide +kernel, fun t ht w hw => by
     obtain rfl := Option.some.inj ((show frameTeam (debugged 0x80000000 id (command 3 1)) 0
       (65536 * numAt (debugged 0x80000000 id (command 3 1)) (0x1E0000 + 0x1104) 4) = some team0 by decide +kernel).symm.trans ht)
     obtain ⟨y, e, f⟩ : ∃ y, team0.warps[1]? = some y ∧ y.st = .free := ⟨(team0.warps[1]?).getD (wOf state0), by decide +kernel, by decide +kernel⟩
     obtain rfl := Option.some.inj (e.symm.trans hw)
     exact .inl f⟩,
   commandHyps 0x80000000 2 2 0 (.resume 0) _ (by decide +kernel) (by decide) (by
     refine ⟨?_, ?_, team0, wOf state0, ?_, ?_, ?_, ?_, ?_, rfl, fun _ => ?_⟩ <;> decide +kernel),
   fun H => by refine H (debugged 0x80000000 id []) 0 (ctxD 0x80000000) ⟨rfl, rfl, rfl⟩ rfl ?_ rfl ?_ <;> decide +kernel⟩

end Sys2Proof.Tests
end

