-- ==== Sys2Proof/Tests/WitnessG.lean ====
section
/-! SUPPORT. `wit_X` denies that the hypotheses of statement X, clause by clause, are contradictory: records, instances
and placement. -/

namespace Sys2Proof.Tests
set_option Elab.async false
open Sys2Proof.Machine

/-! ### Records -/

/-- Memory with numbers of n bytes at addresses. -/
def memOf (xs : List (Nat × Nat × Nat)) : Cells 8 := xs.foldl (fun m x => memPut m x.1 (leBytes x.2.1 x.2.2)) []
/-- Queue 0, whose descriptor is at 0x100000 and whose ring of two slots is at 0x110000. -/
def queueMem (tail head done : Nat) : List (Nat × Nat × Nat) :=
  [(0x100000, 8, 0x110000), (0x100008, 4, 2 ^ 31 + 0x101), (0x100010, 4, tail), (0x100014, 4, head), (0x100018, 4, done)]
/-- A launch record of one node at 0x120000 in slot 1. -/
def recordMem : List (Nat × Nat × Nat) :=
  [(0x110040, 4, 1), (0x110048, 8, 0x120000), (0x110050, 8, 0x130000), (0x120000, 8, 0x100), (0x120010, 4, 0x101), (0x120014, 4, 0x100),
   (0x12001C, 4, 32 * 2 ^ 24 + 16 * 2 ^ 10), (0x120024, 4, 2 ^ 31)]
/-- A team that CTXSAVE holds keeps the context. -/
def queued (c : List Context) (xs : List (Nat × Nat × Nat)) : State :=
  { state0 with qTable := 0x100000, teams := if c = [] then [] else [{ team0 with st := .saved false }], recs := [], insts := [], ctxs := c, mem := memOf xs }
def queue0 (tail head done : Nat) : Queue := ⟨0x110000, true, 0, 1, 1, 0, tail, head, done⟩
def slot1 : Nat := 0x110000 + 64 * (1 % 2 ^ 1)

def AdmitHyps (P : State → Nat → Queue → Prop) : Prop := ∀ (s : State) (n : Nat) (q : Queue) (pa : Nat), Awake s → queueOf s n = some q →
  pa = s.qTable.toNat + 64 * n → pa + 64 ≤ 2 ^ 39 → P s n q → False

theorem admitHyps (c : List Context) (xs : List (Nat × Nat × Nat)) (tail head done : Nat) (P : State → Nat → Queue → Prop)
    (hq : queueOf (queued c xs) 0 = some (queue0 tail head done)) (hp : P (queued c xs) 0 (queue0 tail head done)) : ¬ AdmitHyps P :=
  fun H => H _ 0 _ 0x100000 ⟨rfl, rfl, rfl⟩ hq rfl (by decide) hp

def open0 (s : State) : State := (openContext s 0).getD s
theorem opened {s : State} (h : (openContext s 0).isSome = true) : openContext s 0 = some (open0 s) := by
  unfold open0; cases e : openContext s 0 <;> simp_all

theorem wit_RecordsAreAdmitted :
    (¬ AdmitHyps fun s n q => s.stage = .ready ∧ (queuePart s n).isSome = true ∧ q.en = true ∧ q.overrun = true) ∧
    (¬ AdmitHyps fun s n q => q.overrun = false ∧ pickQueue s = some n ∧ ∃ s1 s2 ns l c, openContext s (queueSpace s n q) = some s1 ∧
      ((readRecord (queueSpace s n q) (q.ring + 64 * (q.head % 2 ^ q.lsz))).run).run s1 = .ok (.ok (l, ns), s2) ∧
      Awake s2 ∧ s2.ctx? (queueSpace s n q) = some c ∧ logging c = false ∧ ∀ x ∈ s2.recs, x.id ≠ s2.serial) ∧
    (¬ AdmitHyps fun s n q => q.overrun = false ∧ pickQueue s = some n ∧ ∃ s1 s2 e, openContext s (queueSpace s n q) = some s1 ∧
      ((readRecord (queueSpace s n q) (q.ring + 64 * (q.head % 2 ^ q.lsz))).run).run s1 = .ok (.error e, s2) ∧ Awake s2) ∧
    (¬ AdmitHyps fun s n q => q.overrun = false ∧ pickQueue s = some n ∧ openContext s (queueSpace s n q) = none) :=
  ⟨admitHyps [ctx0] (queueMem 5 2 2) 5 2 2 _ (by decide +kernel) (by decide +kernel),
   admitHyps [ctx0] (queueMem 2 1 1 ++ recordMem) 2 1 1 _ (by decide +kernel) (by
     have sp : queueSpace (queued [ctx0] (queueMem 2 1 1 ++ recordMem)) 0 (queue0 2 1 1) = 0 := by decide +kernel
     rw [sp]
     have o : (match ((readRecord 0 slot1).run).run (open0 (queued [ctx0] (queueMem 2 1 1 ++ recordMem))) with
       | .ok (.ok _, s) => s.halt == none && s.lost == [] && s.saveQ == [] && s.ctx? 0 == some ctx0 && s.recs.all (fun x => x.id != s.serial)
       | _ => false) = true := by decide +kernel
     refine ⟨by decide +kernel, by decide +kernel, open0 (queued [ctx0] (queueMem 2 1 1 ++ recordMem)), ?_⟩
     revert o
     rcases h : ((readRecord 0 slot1).run).run (open0 (queued [ctx0] (queueMem 2 1 1 ++ recordMem))) with _ | ⟨_ | ⟨l, ns⟩, s2⟩
     · simp
     · simp
     · intro o
       simp only [Bool.and_eq_true, beq_iff_eq] at o
       exact ⟨s2, ns, l, ctx0, opened (by decide +kernel), h, ⟨o.1.1.1.1, o.1.1.1.2, o.1.1.2⟩, o.1.2, by decide,
         fun x hx => by simpa using List.all_eq_true.mp o.2 x hx⟩),
   admitHyps [ctx0] (queueMem 2 1 1) 2 1 1 _ (by decide +kernel) (by
     have sp : queueSpace (queued [ctx0] (queueMem 2 1 1)) 0 (queue0 2 1 1) = 0 := by decide +kernel
     rw [sp]
     have o : (match ((readRecord 0 slot1).run).run (open0 (queued [ctx0] (queueMem 2 1 1))) with
       | .ok (.error _, s) => s.halt == none && s.lost == [] && s.saveQ == []
       | _ => false) = true := by decide +kernel
     refine ⟨by decide +kernel, by decide +kernel, open0 (queued [ctx0] (queueMem 2 1 1)), ?_⟩
     revert o
     rcases h : ((readRecord 0 slot1).run).run (open0 (queued [ctx0] (queueMem 2 1 1))) with _ | ⟨e | _, s2⟩
     · simp
     · intro o
       simp only [Bool.and_eq_true, beq_iff_eq] at o
       exact ⟨s2, e, opened (by decide +kernel), h, ⟨o.1.1, o.1.2, o.2⟩⟩
     · simp),
   admitHyps [] (queueMem 2 1 1) 2 1 1 _ (by decide +kernel) (by decide +kernel)⟩

def CompleteHyps (code : Nat) (P : State → Rec → Nat → Prop) : Prop := ∀ (s : State) (id : Nat) (r : Rec) (pa : Nat), Awake s → s.rec? id = some r →
  s.l1 = [] → NoTryAtAll s → r.ended = false → r.log = 0 → r.nstat = 0 →
  (r.bad = true ∧ code = 1 ∨ r.bad = false ∧ r.stopped = true ∧ code = 2 ∧ (∀ t ∈ s.teams, t.st = .gone ∨ isSaved t = true) ∨
    r.bad = false ∧ r.stopped = false ∧ code = 0 ∧ ∀ n ∈ r.nodes, n.complete = true) →
  pa = s.qTable.toNat + 64 * r.queue → pa + 64 ≤ 2 ^ 39 → P s r pa → False

def doneNode : Node := { probeNode with complete := true }
def finished (r : Rec) : State := { state0 with teams := [], insts := [], recs := [r], qTable := 0x100000 }
def worded : Rec := { probeRec 1 with nodes := [doneNode], cword := 0x1FFFFC }

/-- The context is being stopped for TRAP. -/
def stoppingCtx : Context := { ctx0 with stopping := some ⟨0x01, 0, 0, 0, 0⟩ }

/-- A record that has run, that was bad, or that was stopped. -/
def endRec (b : Fin 3) : Rec := { probeRec 1 with nodes := [doneNode], bad := b == 1, stopped := b == 2 }

theorem wit_RecordsComplete (b : Fin 3) :
    (¬ CompleteHyps b.val fun s r _ => r.cword = 0 ∧ ∀ c, s.ctx? r.space = some c → c.stopping = none) ∧
    (¬ CompleteHyps 0 fun s r pa => ∃ c ia tr, r.cword ≠ 0 ∧ s.ctx? r.space = some c ∧ c.stopping = none ∧ rangeCheck c r.cword .store = .ok ia ∧
      Warm s r.space ia .store false tr ∧ KeyedAs s (ownerKey s r.space tr.leaf) tr.pa 4 ∧ (tr.pa + 4 ≤ pa ∨ pa + 64 ≤ tr.pa)) ∧
    (¬ CompleteHyps 2 fun s r _ => ∃ c i q leaf, r.cword = 0 ∧ SavePage s r.space 0 c q leaf ∧ c.stopping = some i ∧
      ∀ x ∈ s.recs, x.space = r.space → x.id = 1 ∨ x.ended = true) := by
  refine ⟨fun H => H (finished (endRec b)) 1 (endRec b) 0x100000 ⟨rfl, rfl, rfl⟩ (by simp [finished, State.rec?, endRec, probeRec, blankRec]) rfl (noTries rfl) rfl rfl rfl ?_ rfl
       (by decide) ⟨rfl, fun c hc => ?_⟩,
     fun H => H (finished worded) 1 worded 0x100000 ⟨rfl, rfl, rfl⟩ rfl rfl (noTries rfl) rfl rfl rfl
       (.inr (.inr ⟨rfl, rfl, rfl, by decide +kernel⟩)) rfl (by decide)
       ⟨ctx0, 0x1FFFFC, tr0 0x1FFFFC, by decide, rfl, rfl, ranged (va := 0x1FFFFC) rfl (by decide) .store,
         warm0 rfl rfl rfl (by decide) .store false, unkeyed rfl _ _ _, .inr (by decide)⟩,
     fun H => H { finished { probeRec 1 with stopped := true } with ctxs := [stoppingCtx] } 1 { probeRec 1 with stopped := true } 0x100000 ⟨rfl, rfl, rfl⟩ rfl rfl
       (noTries rfl) rfl rfl rfl (.inr (.inl ⟨rfl, rfl, rfl, by decide +kernel⟩)) rfl (by decide)
       ⟨stoppingCtx, ⟨0x01, 0, 0, 0, 0⟩, 0, leaf0, rfl, savePage0 rfl rfl rfl rfl rfl rfl rfl rfl (by decide) (by decide), rfl, by decide +kernel⟩⟩
  · clear H; revert b; decide +kernel
  · obtain rfl := Option.some.inj ((show (finished (endRec b)).ctx? 0 = some ctx0 from rfl).symm.trans hc)
    rfl

/-! ### Instances -/

def rootNode : Node := { probeNode with rootDone := false }
def edge7 : Edge := ⟨7, 0x150000, 64, 1, 0, 0, 1, 64⟩
def batched : Rec := { probeRec 1 with nodes := [{ probeNode with edges := [edge7] }] }
def emitted0 : Emitted := ⟨1, 0, 7, 0, 0, none, [1, 2, 3, 4], 0, none⟩
def endingTeam : Team := { team0 with st := .ending }

theorem wit_InstancesFormAndEnd :
    (¬ ∀ (s : State) (id : Nat) (r : Rec) (k : Nat) (n : Node), Awake s → s.rec? id = some r → r.nodes[k]? = some n → r.stopped = false →
      poolCount s < 4096 → n.desc.root = true → n.rootDone = false → n.predsLeft = 0 → False) ∧
    (¬ ∀ (s : State) (id : Nat) (r : Rec) (k : Nat) (n : Node) (e : Edge) (es : List Emitted) (tgt : Node), Awake s → s.rec? id = some r →
      r.nodes[k]? = some n → r.stopped = false → poolCount s < 4096 → e.num < 8 → n.edges.find? (fun x => x.num == e.num) = some e →
      s.emitted = es → (∀ y ∈ es, y.job = r.id ∧ y.node = k ∧ y.edge = e.num ∧ y.team = none ∧ y.depth = 0) → 0 < e.batch →
      e.batch ≤ es.length → r.nodes[e.target]? = some tgt → tgt.predsLeft = 0 → CleanSpace s r.space → False) ∧
    (¬ ∀ (s : State) (u : Nat) (t : Team) (i : Inst), Awake s → s.team? u = some t → t.st = .ending → (∀ o ∈ s.ops, o.team ≠ t.uid) →
      (∀ e ∈ t.ttab, e.st ≠ .filling ∧ e.st ≠ .draining) → goneTurn s t = true → NoDebugBlock s t.space → s.inst? t.inst = some i →
      (∀ r ∈ s.recs, r.ended = false) → (∀ e ∈ s.emitted, e.team ≠ some u) → False) ∧
    (¬ ∀ (s : State) (u : Nat) (i : Inst) (r : Rec) (n : Node), Awake s → s.inst? u = some i → s.rec? i.job = some r → r.nodes[i.node]? = some n →
      s.l1 = [] → (i.gone = n.desc.nt ∨ (r.stopped = true ∧ i.gone = i.nextT)) → (∀ t ∈ s.teams, t.inst ≠ i.uid) → False) :=
  ⟨fun H => H { state0 with recs := [{ probeRec 1 with nodes := [rootNode] }] } 1 _ 0 rootNode ⟨rfl, rfl, rfl⟩ rfl rfl rfl (by decide +kernel) rfl rfl rfl,
   fun H => by
     refine H { state0 with recs := [batched], emitted := [emitted0] } 1 batched 0 _ edge7 [emitted0] _ ⟨rfl, rfl, rfl⟩ rfl rfl rfl ?_
       ?_ rfl rfl ?_ ?_ ?_ rfl rfl (clean rfl _) <;> decide +kernel,
   fun H => by
     refine H { state0 with teams := [endingTeam] } 3 endingTeam _ ⟨rfl, rfl, rfl⟩ rfl rfl ?_ ?_ ?_ (noBlock rfl _) rfl ?_ ?_ <;> decide +kernel,
   fun H => by
     refine H { state0 with teams := [], insts := [{ probeInst 1 with gone := 1 }] } 2 _ _ _ ⟨rfl, rfl, rfl⟩ rfl rfl rfl rfl (.inl rfl) ?_; decide +kernel⟩

/-! ### Placement -/

def inst0 : Inst := { probeInst 1 with inPool := true, nextT := 0 }
/-- An instance of one team that waits in the pool, on the last core when the others are reserved. -/
def unplaced : State := { state0 with teams := [], insts := [inst0] }
def entryOf (i : Inst) : PoolEntry := ⟨i.uid, true, 0, i.pooledAt⟩
def wideDesc : Desc := { probeDesc with nt := 32 }
def wideRec : Rec := { probeRec 1 with shape := 0x23, nodes := [{ probeNode with desc := wideDesc }] }
/-- The teams of logical cluster 0 of eight are GONE; physical cluster 0 hosts the first two. -/
def wideInst : Inst := { probeInst 1 with det := true, placed := (List.range 32).filter (fun k => (teamCurve 0x23 k).1 == 0) }
def wide : State := { state0 with teams := [], insts := [wideInst], recs := [wideRec] }

theorem wit_TeamsArePlaced :
    (¬ ∀ (s : State) (e : PoolEntry) (i : Inst) (r : Rec) (d : Desc) (core f k : Nat) (args : List Word) (tsh : Cells 64) (s1 : State), Awake s →
      serves s = some e → e.inst = true → e.id = i.uid → s.inst? i.uid = some i → instDesc s i = some (r, d) →
      instSite s i = some [((k, core), f)] → d.fusedOwn = false → (∀ x ∈ s.teams, x.desc.fused = false ∧ x.uid ≠ s1.serial) →
      (readLaunch r.space d).run s = .ok ((args, tsh), s1) → Awake s1 → s1.teams = s.teams → s1.insts = s.insts → False) ∧
    (¬ ∀ (s : State), Awake s → pool s = [] → False) ∧
    (¬ ∀ (s : State) (e : PoolEntry) (rest : List PoolEntry), Awake s → pool s = e :: rest → (∀ x, s.poolHead = some x → x.1 ≠ e.id) → False) ∧
    (¬ ∀ (s : State) (e : PoolEntry) (rest : List PoolEntry) (at_ : Nat) (d : Desc) (cores : List Nat), Awake s → pool s = e :: rest →
      s.poolHead = some (e.id, at_) → at_ + 4096 ≤ s.mesh → entryNeeds s e = some (d, cores) → False) ∧
    (¬ ∀ (s : State) (i : Inst) (r : Rec) (d : Desc) (cl pos p : Nat), Awake s → s.insts = [i] → i.det = true → instDesc s i = some (r, d) →
      (∀ t ∈ s.teams, t.inst ≠ i.uid) → runsCluster s r i cl = some pos → (∀ k, k < d.nt → (teamCurve r.shape k).1 = pos → k ∈ i.placed) →
      (((hosted s r cl).filter (fun p => pos < p)) ++ ((hosted s r cl).filter (fun p => p < pos))).find? (fun p =>
        (List.range d.nt).any (fun k => (teamCurve r.shape k).1 == p && !i.placed.contains k)) = some p → False) :=
  ⟨fun H => by
     have o : (match (readLaunch 0 probeDesc).run unplaced with
       | .ok (_, s1) => s1.halt == none && s1.lost == [] && s1.saveQ == [] && s1.teams == [] && s1.insts == [inst0]
       | .error _ => false) = true := by decide +kernel
     revert o
     rcases h : (readLaunch 0 probeDesc).run unplaced with _ | ⟨⟨args, tsh⟩, s1⟩
     · simp
     · intro o
       simp only [Bool.and_eq_true, beq_iff_eq] at o
       exact H unplaced (entryOf inst0) inst0 (probeRec 1) probeDesc 0 65536 0 args tsh s1 ⟨rfl, rfl, rfl⟩ (by decide +kernel) rfl rfl rfl rfl (by decide +kernel)
         rfl (fun x hx => absurd hx (by simp [unplaced])) h ⟨o.1.1.1.1, o.1.1.1.2, o.1.1.2⟩ o.1.2 o.2,
   fun H => H { state0 with teams := [], insts := [] } ⟨rfl, rfl, rfl⟩ rfl,
   fun H => H unplaced (entryOf inst0) [] ⟨rfl, rfl, rfl⟩ (by decide +kernel) (fun x hx => by simp [unplaced, state0, State.reset] at hx),
   fun H => H { unplaced with poolHead := some (2, 0), cycle := 1000000 } (entryOf inst0) [] 0 _ _ ⟨rfl, rfl, rfl⟩ (by decide +kernel) rfl (by decide +kernel) rfl,
   fun H => H wide wideInst wideRec wideDesc 0 0 1 ⟨rfl, rfl, rfl⟩ rfl rfl rfl (by decide +kernel) (by decide +kernel) (by decide +kernel) (by decide +kernel)⟩

end Sys2Proof.Tests
end

