-- ==== Sys2Proof/Tests/WitnessH.lean ====
section
/-! SUPPORT. `wit_X` denies that the hypotheses of statement X, clause by clause, are contradictory: the host, decoding and
the step. -/

namespace Sys2Proof.Tests
set_option Elab.async false
open Sys2Proof.Machine

/-! ### The host -/

def stagedAt (st : Stage) (ty body : Nat) : State :=
  { State.reset with stage := st, fwCmd := BitVec.ofNat 32 (1 + 16 * ty), fwBuf := memPut (memPut [] 0 (leBytes 4 ty)) 8 (leBytes 4 body) }

/-- What LOAD needs, but for what the opaque values of Config answer. -/
def LoadHyps (turn : Bool) : Prop := ∀ (s : State) (ty n : Nat) (im sig : List Byte), Awake s → s.fwCmd.toNat = 1 + 16 * ty → n = readLE s.fwBuf 8 4 →
  (s.stage = .fwload ∨ s.stage = .memready) → 64 + n + 4627 ≤ 32768 → (∀ j, j < 52 → cget s.fwBuf (12 + j) = 0) → im = cread s.fwBuf 0 (64 + n) →
  sig = cread s.fwBuf (64 + n) 4627 → ty < 16 → (readLE s.fwBuf 0 4 = ty ∧ loadTurn s ty = true) = (turn = true) → False

/-- Image 2 is loaded. -/
def cecropia : State := { State.reset with stage := .fwload, images := [(2, 0)] }
/-- The nonce's command is staged. -/
def attesting : State := { State.reset with stage := .ready, fwCmd := 2 }

theorem wit_PackageComesUp :
    (¬ ∀ (s : State) (i : Instr), Awake s → i = .pkgrst → False) ∧ (¬ ∀ (s : State) (i : Instr), Awake s → i = .powerOn → False) ∧
    (¬ ∀ (s : State), Awake s → s.stage = .reset → False) ∧
    (¬ ∀ (s : State) (failed : Option (Fin 8)), Awake s → s.stage = .fwload → hasImage s 2 = true → failed = some 7 → False) ∧
    ¬ LoadHyps true ∧ ¬ LoadHyps false ∧
    (¬ ∀ s : State, Awake s → s.fwCmd.toNat % 16 = 2 → s.parts.length = 8 → False) :=
  ⟨fun H => H state0 _ ⟨rfl, rfl, rfl⟩ rfl, fun H => H state0 _ ⟨rfl, rfl, rfl⟩ rfl, fun H => H State.reset ⟨rfl, rfl, rfl⟩ rfl,
   fun H => H cecropia (some 7) ⟨rfl, rfl, rfl⟩ rfl rfl rfl,
   fun H => H (stagedAt .fwload 1 28077) 1 28077 _ _ ⟨rfl, rfl, rfl⟩ rfl (by decide +kernel) (.inl rfl) (by decide) (by decide +kernel) rfl rfl (by decide)
     (by decide +kernel),
   fun H => H (stagedAt .memready 1 0) 1 0 _ _ ⟨rfl, rfl, rfl⟩ rfl (by decide +kernel) (.inr rfl) (by decide) (by decide +kernel) rfl rfl (by decide)
     (by decide +kernel),
   fun H => H attesting ⟨rfl, rfl, rfl⟩ rfl rfl⟩

/-- A partition like `probePart` on other stacks and queues. -/
def part7 : Partition := { probePart with en := false, secmask := 2, qfirst := 1, qlast := 1, membase := 0x800000, memlim := 0x800000 }
def partitioned (p : Partition) : State := { state0 with parts := state0.parts.set 7 p }

def EnableHyps (clash bad : Bool) : Prop := ∀ (s : State) (p : Fin 8) (q : Partition), Awake s → s.parts[p.val]? = some q → q.en = false →
  (∀ x ∈ s.parts, x.closing = false) → stopsIn s p.val = false →
  (clash = true ↔ ∃ (j : Nat) (x : Partition), j ≠ p.val ∧ s.parts[j]? = some x ∧ x.en = true ∧ partOverlap q x = true) →
  (bad = false ↔ s.stage = .ready ∧ q.secmask ≠ 0 ∧ q.qfirst ≤ q.qlast ∧ q.sptbase.toNat % 2 ^ 20 = 0 ∧
    q.ctxt.toNat % 65536 = 0 ∧ q.membase.toNat ≤ q.memlim.toNat) → False

theorem noClash {q : Partition} (h : (partitioned q).parts.zipIdx.all (fun x => x.2 == 7 || !x.1.en || !partOverlap q x.1) = true) :
    ¬ ∃ (j : Nat) (x : Partition), j ≠ (7 : Fin 8).val ∧ (partitioned q).parts[j]? = some x ∧ x.en = true ∧ partOverlap q x = true := by
  rintro ⟨j, x, hj, hx, he, ho⟩
  have := List.all_eq_true.mp h (x, j) (List.mem_zipIdx_iff_getElem?.mpr hx)
  simp only [Bool.or_eq_true, beq_iff_eq, Bool.not_eq_true', he, ho] at this
  simp at this
  exact hj this

theorem wit_ControlBlockWrites :
    (¬ ∀ (s : State) (_ : Word), Awake s → False) ∧
    (¬ ∀ (s : State) (off : BitVec 16) (_ : Word), Awake s → 0x8000 ≤ off.toNat → off.toNat % 4 = 0 → False) ∧
    (¬ ∀ (s : State) (p : Fin 8) (q : Partition) (_ : Word), Awake s → s.parts[p.val]? = some q → False) ∧
    ¬ EnableHyps false false ∧ ¬ EnableHyps true false ∧ ¬ EnableHyps false true ∧
    (¬ ∀ (s : State) (p : Fin 8) (q : Partition), Awake s → s.parts[p.val]? = some q → q.en = true → (∀ x ∈ s.parts, x.closing = false) →
      (∀ c ∈ s.ctxs, c.space / 65536 ≠ p.val) → (∀ t ∈ s.teams, t.space / 65536 ≠ p.val) → False) :=
  ⟨fun H => H state0 0 ⟨rfl, rfl, rfl⟩, fun H => H state0 0xFFFC 0 ⟨rfl, rfl, rfl⟩ (by decide) (by decide), fun H => H state0 7 _ 0 ⟨rfl, rfl, rfl⟩ rfl,
   fun H => H (partitioned part7) 7 part7 ⟨rfl, rfl, rfl⟩ rfl rfl (by decide +kernel) (by decide +kernel)
     (iff_of_false nofun (noClash (by decide +kernel))) (by decide +kernel),
   fun H => H (partitioned { part7 with secmask := 1 }) 7 { part7 with secmask := 1 } ⟨rfl, rfl, rfl⟩ rfl rfl (by decide +kernel) (by decide +kernel)
     (iff_of_true rfl ⟨0, probePart, by decide, rfl, rfl, by decide +kernel⟩) (by decide +kernel),
   fun H => H (partitioned { part7 with membase := 0x800001 }) 7 { part7 with membase := 0x800001 } ⟨rfl, rfl, rfl⟩ rfl rfl
     (by decide +kernel) (by decide +kernel) (iff_of_false nofun (noClash (by decide +kernel))) (by decide +kernel),
   fun H => by refine H (partitioned { part7 with en := true }) 7 _ ⟨rfl, rfl, rfl⟩ rfl rfl ?_ ?_ ?_ <;> decide +kernel⟩

/-! ### The links -/

def uniCtx : Context := { ctx0 with rng := (List.replicate 8 noRange).set 0 { range0 with w1 := 0x1F } }
def linked (ms : List LinkMsg) : State := { state0 with ctxs := [uniCtx], teams := [], link := ms }
def faultedAt (a : Access) : State := { state0 with ctxs := [uniCtx], accs := [a] }
def page0 : Access := { blankAccess .load 0x10004 0x10004 4 with id := 7, team := 3, pc := 0x100, len := 8, fault := some (0x11, 0) }

theorem failIs {s : State} {space ia : Nat} {need : Need} {sub : Byte}
    (h : (match lookup s space ia need false with | .fail x => x == sub | _ => false) = true) : lookup s space ia need false = .fail sub := by
  revert h
  cases lookup s space ia need false <;> simp

theorem wit_LinksCarry :
    (¬ ∀ (s : State) (space ia : Nat) (c : Context) (tr : Trans), Awake s → s.ctx? space = some c → unified c ia = true → s.invWait = false →
      Warm s space ia .store false tr → False) ∧
    (¬ ∀ (s : State) (space ia : Nat) (c : Context) (sub : Byte), Awake s → s.ctx? space = some c → unified c ia = true → s.invWait = false →
      lookup s space ia .load false = .fail sub → False) ∧
    (¬ ∀ (s : State) (as : List LinkMsg) (space ia : Nat) (e : TEntry) (sub : Byte) (bs : List LinkMsg), Awake s →
      s.link = as ++ .xrsp space ia (some e) sub :: bs → (∀ a ∈ as, isXrsp a = false) → False) ∧
    (¬ ∀ (s : State) (space ia : Nat) (a : Access) (t : Team), Awake s → a ∈ s.accs → savedFault s a = true → a.fault = some (0x11, 0) →
      a.ia / 65536 = ia / 65536 → s.team? a.team = some t → t.space = space → False) ∧
    (¬ ∀ (s : State) (as : List LinkMsg) (space ia : Nat) (bs : List LinkMsg), Awake s →
      s.link = as ++ .preq space ia :: bs → (∀ a ∈ as, isPreq a = false) → False) ∧
    (¬ ∀ (s : State) (as : List LinkMsg) (space page : Nat) (bs : List LinkMsg), Awake s →
      s.link = as ++ .inv space page :: bs → (∀ a ∈ as, isInv a = false) → False) ∧
    (¬ ∀ (s : State) (peer : Fin 8) (_ : Fin 2), Awake s → peer ≠ s.pkg → False) ∧
    (¬ ∀ (s : State) (space ia : Nat) (e : TEntry) (off : Nat), Awake s → NoTryAtAll s → hostEntry s space ia = some e → ia % 4 = 0 → leafW e.leaf = true →
      leafD e.leaf = true → leafNode e.leaf = false → (ownerKey s space e.leaf).isSome = true →
      off = leafFrame e.leaf + (if e.big then ia % 2 ^ 21 else ia % 65536) → off + 4 ≤ 2 ^ 39 → KeyedAs s (ownerKey s space e.leaf) off 4 → False) :=
  ⟨fun H => H (linked []) 0 0x1FFFFF uniCtx _ ⟨rfl, rfl, rfl⟩ rfl (by decide +kernel) rfl (warm0 rfl rfl rfl (by decide) .store false),
   fun H => H { linked [] with tcache := [] } 0 0x1F0000 uniCtx 4 ⟨rfl, rfl, rfl⟩ rfl (by decide +kernel) rfl (failIs (by decide +kernel)),
   fun H => H (linked [.preq 0 0, .xrsp 0 0 (some entry0) 0]) [.preq 0 0] 0 0 entry0 0 [] ⟨rfl, rfl, rfl⟩ rfl (by decide +kernel),
   fun H => H (faultedAt page0) 0 0x1FFFF page0 team0 ⟨rfl, rfl, rfl⟩ (by decide +kernel) (by decide +kernel) rfl (by decide) rfl rfl,
   fun H => H (linked [.inv 0 0, .preq 0 0]) [.inv 0 0] 0 0 [] ⟨rfl, rfl, rfl⟩ rfl (by decide +kernel),
   fun H => H (linked [.preq 0 0, .inv 0 0]) [.preq 0 0] 0 0 [] ⟨rfl, rfl, rfl⟩ rfl (by decide +kernel),
   fun H => H state0 7 1 ⟨rfl, rfl, rfl⟩ (by decide +kernel),
   fun H => by
     refine H { linked [] with hostCache := [entry0] } 0 0x1FFFFC entry0 0x1FFFFC ⟨rfl, rfl, rfl⟩ (noTries ?_) ?_ ?_ ?_ ?_ ?_ ?_ ?_ ?_
       (unkeyed rfl _ _ _) <;> decide +kernel⟩

/-! ### The step -/

/-- An instruction of some bits at VA 0x100, where the lane of slot 0 issues. -/
def fetching (x : Nat) : State :=
  { state0 with mem := memPut [] 0x100 (leBytes 16 x), tcache := [{ entry0 with count := 0 }], tape := [⟨1, .issue 3 0 0⟩] }
def ticked (x : Nat) : State := tick 1 (nextMove (settle (fetching x))).2
/-- The lane's candidate. -/
def chosen (x : Nat) : Cand := (candidateOf (ticked x) (tOf (ticked x)) 0 0).getD (candOf team0 [] 0 none false)
def fetched (x : Nat) : State × Fetched := fetch (ticked x) (tOf (ticked x)) (chosen x).pc

def nopWord : Nat := 0x0000000000007000

theorem moveIs {p : Move × State} {m : Move} (h : p.1 = m) : p = (m, p.2) := by
  subst h; rfl

theorem fetchedIs {x : State × Fetched} {len : Nat} {bits : BitVec 128} (h : (match x.2 with | .instr n b => n == len && b == bits | _ => false) = true) :
    x = (x.1, .instr len bits) := by
  obtain ⟨s, f⟩ := x
  cases f <;> simp_all

theorem decodes {r : Raw} {user ubusy : Bool} {i : Instr} (h : (match decodeRaw false user ubusy r with | .ok x => x == i | _ => false) = true) :
    decodeRaw false user ubusy r = .ok i := by
  revert h
  cases decodeRaw false user ubusy r <;> simp

theorem refuses {r : Raw} {user ubusy : Bool} {e : Ill} (h : (match decodeRaw false user ubusy r with | .error x => x == e | _ => false) = true) :
    decodeRaw false user ubusy r = .error e := by
  revert h
  cases decodeRaw false user ubusy r <;> simp

theorem wit_MemoryFormKept : ¬ ∀ (s s' : State), Memory.wf s.mem = true → step s = .next s' → False := by
  intro H
  have h : (match step (fetching 0x0000000000007000) with | .next _ => true | _ => false) = true := by decide +kernel
  revert h
  cases e : step (fetching 0x0000000000007000) with
  | next t => exact fun _ => H _ t (by decide +kernel) e
  | fault f => simp
  | refused r => simp

theorem wit_FailedStays : ¬ ∀ (i : Instr) (s s' : State), s.stage = .failed → exec i s = .next s' → i ≠ .pkgrst → i ≠ .powerOn → False := by
  intro H
  have h : (match exec .linkTraining { State.reset with stage := .failed } with | .next _ => true | _ => false) = true := by decide +kernel
  revert h
  cases e : exec .linkTraining { State.reset with stage := .failed } with
  | next t => exact fun _ => H _ _ t rfl e nofun nofun
  | fault f => simp
  | refused r => simp

theorem wit_DecodeEncode : ¬ ∀ i : Instr, i.wf = true → False :=
  fun H => H (.vadd h0 ⟨0, .rn, 5, 1, 2, 3⟩ false 1 2 (.tile 31)) (by decide +kernel)

theorem wit_DecodedIsWellFormed : ¬ ∀ (x : BitVec 128) (i : Instr), decodeBits x = .ok i → dIgnored (rawOf (trimBits x)) = false → False :=
  fun H => H 0x0000000000007000 (.nop h0) (by decide +kernel) (by decide +kernel)

theorem wit_StepRunsDecoded :
    (¬ ∀ (s : State) (m : Nat) (u wi slot : Nat) (s0 s1 s2 s3 : State) (t : Team) (c : Cand) (w : Warp) (len : Nat)
      (bits : BitVec 128) (i : Instr) (is : Issue), nextMove (settle s) = (⟨m, .issue u wi slot⟩, s0) → s1 = tick m s0 → s1.team? u = some t →
      candidateOf s1 t wi slot = some c → mayIssue s1 t.core c = true → c.trap = false → c.bin = none →
      t.warps[(c.lanes.headD (0, 0)).1]? = some w → fetch s1 t c.pc = (s2, .instr len bits) →
      decodeRaw false (!w.sup) w.ubusy (rawOf bits) = .ok i →
      is = { team := t.uid, pc := c.pc, len := len, bits := bits, lanes := likeFirst t c.lanes bits, id := s2.serial } →
      s3 = { usePort s2 t.core c.port with serial := s2.serial + 1, cur := some is } →
      allWait (exec i s3) t.uid c.lanes = false → False) ∧
    (¬ ∀ (s : State) (t : Team) (pc : Pc) (c : Context) (ia : Nat) (tr : Trans) (len : Nat), s.ctx? t.space = some c →
      rangeCheck c (BitVec.setWidth 64 pc) .fetch = .ok ia → Warm s t.space ia .fetch false tr →
      KeyedAs s (ownerKey s t.space tr.leaf) tr.pa (min 16 (32 - pc.toNat % 32)) →
      corrupt s tr.pa (min 16 (32 - pc.toNat % 32)) = false → pc.toNat % 4 = 0 →
      len = lenBytes (BitVec.ofNat 2 (numAt s tr.pa 1)) → len ≠ 4 → pc.toNat % 32 + len ≤ 32 → False) :=
  ⟨fun H => by
     refine H (fetching nopWord) 1 3 0 0 (nextMove (settle (fetching nopWord))).2 (ticked nopWord) (fetched nopWord).1 _ (tOf (ticked nopWord))
       (chosen nopWord) (wOf (ticked nopWord)) 8 0x7000 (.nop h0) _ (moveIs ?_) (ticked.eq_1 _) ?_ ?_ ?_ ?_ ?_ ?_
       (fetchedIs (x := fetched nopWord) ?_) (decodes ?_) rfl rfl ?_ <;> decide +kernel,
   fun H => by
     refine H { state0 with mem := memPut [] 0x118 (leBytes 8 0x7000) } team0 0x118 ctx0 0x118 (tr0 0x118) 8 rfl
       (ranged (va := 0x118) rfl ?_ .fetch) (warm0 rfl rfl rfl ?_ .fetch false) (unkeyed rfl _ _ _) ?_ ?_ ?_ ?_ ?_ <;> decide +kernel⟩

theorem wit_IllegalWordsTrap : ¬ ∀ (s : State) (m : Nat) (u wi slot : Nat) (s0 s1 s2 s3 : State) (t t3 : Team) (w w3 : Warp) (c : Cand) (len : Nat)
    (bits : BitVec 128) (e : Ill) (x : Context) (pa : Nat), nextMove (settle s) = (⟨m, .issue u wi slot⟩, s0) → s1 = tick m s0 →
    s1.team? u = some t → candidateOf s1 t wi slot = some c → mayIssue s1 t.core c = true → c.trap = false → c.bin = none →
    c.lanes = [(wi, slot)] → t.warps[wi]? = some w → fetch s1 t c.pc = (s2, .instr len bits) →
    decodeRaw false (!w.sup) w.ubusy (rawOf bits) = .error e →
    s3 = { usePort s2 t.core c.port with serial := s2.serial + 1 } → Awake s3 → s3.team? u = some t3 → t3.warps[wi]? = some w3 →
    MayEnter s3 u wi t3 w3 x pa → mustDrain s3 u wi = false → (x.uvec = 0 ∨ w3.sup = true) → False := by
  intro H
  let s3 : State := { usePort (fetched 0x705C).1 (tOf (ticked 0x705C)).core (chosen 0x705C).port with serial := (fetched 0x705C).1.serial + 1 }
  refine H (fetching 0x705C) 1 3 0 0 (nextMove (settle (fetching 0x705C))).2 (ticked 0x705C) (fetched 0x705C).1 s3 (tOf (ticked 0x705C)) (tOf s3)
    (wOf (ticked 0x705C)) (wOf s3) (chosen 0x705C) 8 0x705C .opcode ctx0 0x20000
    (moveIs ?_) (ticked.eq_1 _) ?_ ?_ ?_ ?_ ?_ ?_ ?_ (fetchedIs (x := fetched 0x705C) ?_) (refuses ?_) rfl ⟨?_, ?_, ?_⟩ ?_ ?_ (mayEnter ?_ ?_ ?_ ?_ ?_ ?_ ?_ ?_ ?_ ?_ ?_) ?_ (.inl rfl) <;>
    decide +kernel

end Sys2Proof.Tests
end

section
/-! SUPPORT. Memory's canonical form through the operations that every meaning shares: the save area, traps, releases, and the
common course of an issue. A lemma `f_mem` says that `f` leaves memory alone, a lemma `f_wf` that it keeps the form. -/

namespace Sys2Proof.Machine

/-! ### Folds, and answers that come in pairs -/

section
variable {α β : Type}

/-- A fold whose step keeps the form keeps it. -/
theorem fold_wf {f : State → α → State} {xs : List α} {s : State} (h : Memory.wf s.mem = true)
    (hf : ∀ s x, Memory.wf s.mem = true → Memory.wf (f s x).mem = true) : Memory.wf (xs.foldl f s).mem = true :=
  foldl_wf f hf xs s h

/-- A fold that carries more than the state. -/
theorem foldFst_wf {f : State × β → α → State × β} {xs : List α} {r : State × β} (h : Memory.wf r.1.mem = true)
    (hf : ∀ r x, Memory.wf r.1.mem = true → Memory.wf (f r x).1.mem = true) : Memory.wf (xs.foldl f r).1.mem = true := by
  induction xs generalizing r with
  | nil => exact h
  | cons x xs ih => exact ih (hf r x h)

theorem foldFst_mem {f : State × β → α → State × β} {xs : List α} {r : State × β}
    (hf : ∀ r x, (f r x).1.mem = r.1.mem) : (xs.foldl f r).1.mem = r.1.mem := by
  induction xs generalizing r with
  | nil => rfl
  | cons x xs ih => exact ih.trans (hf r x)

theorem fold_mem {f : State → α → State} {xs : List α} {s : State} (hf : ∀ s x, (f s x).mem = s.mem) :
    (xs.foldl f s).mem = s.mem := foldl_mem f hf xs s

/-- The state of an answer, once its parts are named. -/
theorem wf_of_eq {p : State × α} {s : State} {x : α} (e : p = (s, x)) (h : Memory.wf p.1.mem = true) :
    Memory.wf s.mem = true := by
  subst e; exact h

/-- Both branches of a choice. -/
theorem ite_wf {c : Prop} [Decidable c] {p q : State × α} (hp : Memory.wf p.1.mem = true) (hq : Memory.wf q.1.mem = true) :
    Memory.wf (if c then p else q).1.mem = true := by
  split
  · exact hp
  · exact hq

theorem iteState_wf {c : Prop} [Decidable c] {s t : State} (hs : Memory.wf s.mem = true) (ht : Memory.wf t.mem = true) :
    Memory.wf (if c then s else t).mem = true := by
  split
  · exact hs
  · exact ht

theorem wf_of_mem {s s' : State} (e : s'.mem = s.mem) (h : Memory.wf s.mem = true) : Memory.wf s'.mem = true := by
  rw [e]; exact h
end

/-! ### The save area and the stop of a context -/

@[simp] theorem countTry_mem (u w : Nat) (s : State) (x : TryStore) : (countTry u w s x).mem = s.mem := rfl

@[simp] theorem applyResult_mem (s : State) (r : Result) : (applyResult s r).mem = s.mem := by
  unfold applyResult
  dsimp only
  repeat' split
  all_goals simp

@[simp] theorem toRegion_mem (s : State) (a : Access) : (toRegion s a).mem = s.mem := by
  rw [toRegion, State.modLane_mem]
  exact fold_mem (fun s _ => fold_mem (fun s _ => countTry_mem _ _ s _))

@[simp] theorem unissue_mem (s : State) (a : Access) : (unissue s a).mem = s.mem := rfl
@[simp] theorem withdrawUnsent_mem (s : State) (p : Access → Bool) : (withdrawUnsent s p).mem = s.mem := fold_mem unissue_mem
@[simp] theorem modLife_mem (s : State) (u n : Nat) (f : TileLife → TileLife) : (modLife s u n f).mem = s.mem := rfl

@[simp] theorem countWaits_mem (s : State) (u w : Nat) : (countWaits s u w).mem = s.mem := by
  unfold countWaits
  split
  · exact fold_mem (fun s _ => modLife_mem s _ _ _)
  · rfl

theorem saveReadLong_wf {s : State} {core space off n : Nat} (h : Memory.wf s.mem = true) :
    Memory.wf (saveReadLong s core space off n).1.mem = true := by
  unfold saveReadLong
  exact foldFst_wf h (fun _ _ h => saveRead_wf _ _ _ _ _ _ h)

theorem saveTeam_wf {s : State} {u : Nat} {reason : SaveReason} {pooled : Bool} (h : Memory.wf s.mem = true) :
    Memory.wf (saveTeam s u reason pooled).mem = true := by
  unfold saveTeam
  split
  · exact h
  · extract_lets s1 s2 s3 regions s4 s5 s6 s7
    have h7 : Memory.wf s7.mem = true := by
      have e1 : s1.mem = s.mem := fold_mem (fun s _ => abortTry_mem s _ _ _ _ _)
      have e2 : s2.mem = s1.mem := fold_mem applyResult_mem
      have e3 : s4.mem = s3.mem := fold_mem toRegion_mem
      have e4 : s6.mem = s4.mem := fold_mem (fun s _ => countWaits_mem s _ _)
      rw [State.modTeam_mem, e4, e3, withdrawUnsent_mem, e2, e1]
      exact h
    clear_value s7
    split
    · exact h7
    · extract_lets s8 s9 s10 s11 s12 s13 s14
      have h9 : Memory.wf s9.mem = true := fold_wf (saveZero_wf _ _ _ _ h7) (fun s _ hs => saveZero_wf s _ _ _ hs)
      have h10 : Memory.wf s10.mem = true := fold_wf h9 (fun s _ hs => saveWrite_wf s _ _ _ hs)
      have h11 : Memory.wf s11.mem = true := fold_wf h10 (fun s _ hs => fold_wf hs (fun s _ hs => saveWrite_wf s _ _ _ hs))
      have h12 : Memory.wf s12.mem = true := by
        unfold s12
        split
        · exact fold_wf h11 (fun s _ hs => saveWrite_wf s _ _ _ hs)
        · exact h11
      have h14 : Memory.wf s14.mem = true := saveWriteLong_wf _ _ _ _ _ (saveWriteLong_wf _ _ _ _ _ h12)
      split
      · exact h14
      · exact saveWriteLong_wf _ _ _ _ _ h14

theorem writeStop_wf {s : State} {space : Nat} (h : Memory.wf s.mem = true) : Memory.wf (writeStop s space).mem = true := by
  unfold writeStop
  split
  · exact h
  · split
    · exact h
    · exact saveWrite_wf (s.modCtx _ _) _ _ _ h

theorem stopStep_wf {s : State} {space : Nat} (h : Memory.wf s.mem = true) : Memory.wf (stopStep s space).mem = true := by
  unfold stopStep
  split
  · exact h
  · apply writeStop_wf
    exact fold_wf h (fun _ _ h => saveTeam_wf h)

theorem stopContext_wf {s : State} {space : Nat} {cause sub : Byte} {addr : DWord} {f ctx : Nat}
    (h : Memory.wf s.mem = true) : Memory.wf (stopContext s space cause sub addr f ctx).mem = true := by
  unfold stopContext
  split
  · exact h
  · split
    · exact h
    · exact stopStep_wf h

/-! ### The end of a step -/

theorem stopLost_wf {s : State} (h : Memory.wf s.mem = true) : Memory.wf (stopLost s).mem = true := by
  unfold stopLost
  split
  · exact h
  · exact fold_wf h (fun _ _ h => stopContext_wf h)

/-- A state that the outcome goes on to holds memory in its form. -/
structure KeepsForm (o : Host.Outcome State Fault Refusal) : Prop where
  next : ∀ s', o = .next s' → Memory.wf s'.mem = true

theorem finish_form {s : State} (h : Memory.wf s.mem = true) : KeepsForm (finish s) := by
  refine ⟨fun s' e => ?_⟩
  unfold finish at e
  dsimp only at e
  split at e
  · cases e
  · cases e
    exact stopLost_wf (saveDrain_wf s h)

/-! ### Traps -/

@[simp] theorem giveBack_mem (s : State) (o : EngOp) : (giveBack s o).mem = s.mem := by unfold giveBack; split <;> rfl

@[simp] theorem withdraw_mem (s : State) (u w : Nat) : (withdraw s u w).mem = s.mem := by
  unfold withdraw
  exact (fold_mem giveBack_mem).trans (withdrawUnsent_mem _ _)

@[simp] theorem holdLate_mem (s : State) (u w : Nat) : (holdLate s u w).mem = s.mem := by
  unfold holdLate
  dsimp only
  split
  · exact fold_mem toRegion_mem
  · exact fold_mem toRegion_mem

theorem enterFrame_wf {s : State} {u w : Nat} {ti : TrapInfo} {sup : Bool} (h : Memory.wf s.mem = true) :
    Memory.wf (enterFrame s u w ti sup).mem = true := by
  unfold enterFrame
  extract_lets s0 s1
  have h0 : Memory.wf s0.mem = true := by simpa [s0] using h
  clear_value s0
  split
  · extract_lets c f vec regions s2 s3 s4
    have h1 : Memory.wf s1.mem = true := by unfold s1; split <;> exact h0
    rw [State.modWarp_mem]
    exact saveWrite_wf _ _ _ _ (saveWrite_wf _ _ _ _ (saveWrite_wf _ _ _ _ h1))
  · exact h0

theorem takeTrap_wf {s : State} {u w : Nat} {ti : TrapInfo} (h : Memory.wf s.mem = true) :
    Memory.wf (takeTrap s u w ti).mem = true := by
  unfold takeTrap
  split
  · dsimp only
    split
    · exact h
    · split
      · exact h
      · split
        · split <;> exact enterFrame_wf h
        · split
          · exact stopContext_wf h
          · exact enterFrame_wf h
  · exact h

theorem raiseTrap_wf {s : State} {u w : Nat} {ti : TrapInfo} (h : Memory.wf s.mem = true) :
    Memory.wf (raiseTrap s u w ti).mem = true := by
  unfold raiseTrap
  split
  · split
    · simpa using h
    · exact takeTrap_wf h
  · exact h

theorem returnFrom_wf {s : State} {u w : Nat} {act : List Nat} (h : Memory.wf s.mem = true) :
    Memory.wf (returnFrom s u w act).mem = true := by
  unfold returnFrom
  dsimp only
  split
  · rw [State.modWarp_mem]
    exact saveRead_wf _ _ _ _ _ _ (saveRead_wf _ _ _ _ _ _ h)
  · exact h

/-! ### The common course of an issue -/

@[simp] theorem overtake_mem (s : State) (u w k : Nat) (rs : List Reg) (b : Option (Fin 4)) :
    (overtake s u w k rs b).mem = s.mem := by rw [overtake_frame]

theorem trapWarps_wf {is : Issue} {rs : List ((Nat × Nat) × LaneRes)} {s : State} (h : Memory.wf s.mem = true) :
    Memory.wf (trapWarps is rs s).mem = true := by
  unfold trapWarps
  refine fold_wf h (fun s w hs => ?_)
  split
  · exact raiseTrap_wf hs
  · exact hs

theorem commit_wf {s : State} {is : Issue} {rs : List ((Nat × Nat) × LaneRes)} (h : Memory.wf s.mem = true) :
    Memory.wf (commit s is rs).mem = true := by
  unfold commit
  refine trapWarps_wf (wf_of_mem (s := s) ?_ h)
  refine fold_mem (fun s r => ?_)
  split <;> simp

@[simp] theorem holdGroup_mem (s : State) (is : Issue) : (holdGroup s is).mem = s.mem := fold_mem (fun s _ => State.modLane_mem s _ _ _ _)

@[simp] theorem takeGroup_mem (s : State) (is : Issue) (x : Info) : (takeGroup s is x).1.mem = s.mem := by
  unfold takeGroup
  split
  · exact holdGroup_mem s is
  · split
    · rfl
    · split
      · rfl
      · exact fold_mem (fun s _ => State.modLane_mem s _ _ _ _)

@[simp] theorem txAborts_mem (i : Instr) (s : State) (cs : List Lc) : (txAborts i s cs).1.mem = s.mem := by
  refine foldFst_mem (fun r x => ?_)
  split
  · rfl
  · exact abortTry_mem _ _ _ _ _ _

@[simp] theorem stepMoved_mem (t : Team) (rs : List ((Nat × Nat) × LaneRes)) (s : State) : (stepMoved t rs s).mem = s.mem := by
  refine fold_mem (fun s r => ?_)
  split <;> rfl

/-- An issue keeps the form when what its instruction does for the lanes that pass the checks does. -/
theorem issueWith_wf {i : Instr} {h : Hdr} {s : State} {pre : State → Lc → Option LaneRes}
    {body : State → List Lc → State × List ((Nat × Nat) × LaneRes)} (hs : Memory.wf s.mem = true)
    (hb : ∀ s cs, Memory.wf s.mem = true → Memory.wf (body s cs).1.mem = true) :
    Memory.wf (issueWith i h s pre body).mem = true := by
  unfold issueWith
  split
  · exact hs
  · rename_i is0 _
    extract_lets r is
    have hr : Memory.wf r.1.mem = true := by simpa [r] using hs
    split
    · exact hr
    · extract_lets act idle all q lcs idle' gone chk stop bad ok b
      have hq : Memory.wf q.1.mem = true := by simpa [q] using hr
      split
      · exact commit_wf (by simpa using hq)
      · exact commit_wf (by simpa using hb _ _ hq)

section
variable {i : Instr} {h : Hdr} {s : State} {cs : List Lc}

theorem foldLanes_wf {f : State → Lc → State × LaneRes} (hs : Memory.wf s.mem = true)
    (hf : ∀ s c, Memory.wf s.mem = true → Memory.wf (f s c).1.mem = true) : Memory.wf (foldLanes f s cs).1.mem = true := by
  refine foldFst_wf hs (fun r c hr => ?_)
  split
  · exact hf _ _ hr
  · exact hr

theorem foldWarps_wf {f : State → Lc → State × LaneRes} (hs : Memory.wf s.mem = true)
    (hf : ∀ s c, Memory.wf s.mem = true → Memory.wf (f s c).1.mem = true) : Memory.wf (foldWarps f s cs).1.mem = true := by
  refine foldFst_wf hs (fun r c hr => ?_)
  split
  · exact hr
  · split
    · exact hf _ _ hr
    · exact hr

theorem readThenAct_wf {α : Type} {read : State → Lc → State × α} {act : State → Lc → α → State × LaneRes}
    (hs : Memory.wf s.mem = true) (hr : ∀ s c, Memory.wf s.mem = true → Memory.wf (read s c).1.mem = true)
    (ha : ∀ s c x, Memory.wf s.mem = true → Memory.wf (act s c x).1.mem = true) :
    Memory.wf (readThenAct read act s cs).1.mem = true := by
  refine foldFst_wf (foldFst_wf hs (fun r c h => ?_)) (fun r c h => ?_)
  · split
    · exact hr _ _ h
    · exact h
  · split
    · exact ha _ _ _ h
    · exact h

theorem pureLanes_form {f : Lc → LaneRes} (hs : Memory.wf s.mem = true) : KeepsForm (pureLanes i h s f) :=
  finish_form (issueWith_wf hs (fun _ _ h => foldLanes_wf h (fun _ _ h => h)))

theorem perLane_form {f : State → Lc → State × LaneRes} (hs : Memory.wf s.mem = true)
    (hf : ∀ s c, Memory.wf s.mem = true → Memory.wf (f s c).1.mem = true) : KeepsForm (perLane i h s f) :=
  finish_form (issueWith_wf hs (fun _ _ h => foldLanes_wf h hf))

theorem perLaneRead_form {α : Type} {read : State → Lc → State × α} {act : State → Lc → α → State × LaneRes}
    (hs : Memory.wf s.mem = true) (hr : ∀ s c, Memory.wf s.mem = true → Memory.wf (read s c).1.mem = true)
    (ha : ∀ s c x, Memory.wf s.mem = true → Memory.wf (act s c x).1.mem = true) : KeepsForm (perLaneRead i h s read act) :=
  finish_form (issueWith_wf hs (fun _ _ h => readThenAct_wf h hr ha))

theorem perWarp_form {pre : State → Lc → Option LaneRes} {f : State → Lc → State × LaneRes} (hs : Memory.wf s.mem = true)
    (hf : ∀ s c, Memory.wf s.mem = true → Memory.wf (f s c).1.mem = true) : KeepsForm (perWarp i h s pre f) :=
  finish_form (issueWith_wf hs (fun _ _ h => foldWarps_wf h hf))

theorem event_form {f : State → State} (hf : Memory.wf (f s).mem = true) : KeepsForm (event s f) := finish_form hf
end

/-! ### Stamps, deferred write faults and releases -/

theorem saveNat_wf {s : State} {space off n : Nat} (h : Memory.wf s.mem = true) : Memory.wf (saveNat s space off n).1.mem = true :=
  saveRead_wf _ _ _ _ _ _ h

theorem stampRecord_wf {s : State} {space : Nat} {bs : List Byte} (h : Memory.wf s.mem = true) :
    Memory.wf (stampRecord s space bs).mem = true := by
  unfold stampRecord
  split
  · exact h
  · extract_lets w a
    have ha : Memory.wf a.1.mem = true := saveNat_wf (saveNat_wf h)
    clear_value a
    split
    · exact saveWrite_wf _ _ _ _ (saveWrite_wf _ _ _ _ ha)
    · exact saveWrite_wf _ _ _ _ (saveNat_wf ha)

theorem stamp_wf {s : State} {t : Team} {kind warp tile : Nat} {fs : List Nat} (h : Memory.wf s.mem = true) :
    Memory.wf (stamp s t kind warp tile fs).mem = true := stampRecord_wf h

theorem retireWarps_wf {s : State} {u : Nat} (h : Memory.wf s.mem = true) : Memory.wf (retireWarps s u).mem = true := by
  unfold retireWarps
  split
  · exact h
  · extract_lets dn s1 held s2 gone orphan s3 heir s4
    have h1 : Memory.wf s1.mem = true := fold_wf h (fun _ _ h => stamp_wf h)
    have h4 : Memory.wf s4.mem = true := fold_wf h1 (fun _ _ h => h)
    clear_value s4 heir
    split
    · exact h
    · cases heir with
      | some x => exact h4
      | none =>
        dsimp only
        split
        · exact stopContext_wf h4
        · exact h4

theorem freeLogEntry_wf {s : State} {space : Nat} (h : Memory.wf s.mem = true) : Memory.wf (freeLogEntry s space).1.mem = true := by
  refine foldFst_wf h (fun r k hr => ?_)
  split
  · exact hr
  · exact saveNat_wf hr

@[simp] theorem stopOthers_mem (s : State) (space u w : Nat) : (stopOthers s space u w).mem = s.mem := rfl

theorem deferLine_wf {s : State} {x : Nat × Nat × Nat} {sub : Byte} {a : Option FenceAt} (h : Memory.wf s.mem = true) :
    Memory.wf (deferLine s x sub a).mem = true := by
  unfold deferLine
  extract_lets space ds ia s1 tm f wc r
  have hr : Memory.wf r.1.mem = true := freeLogEntry_wf (by simpa [s1] using h)
  clear_value r
  split
  · exact stopContext_wf hr
  · extract_lets off s2 s3
    have h3 : Memory.wf s3.mem = true := saveWrite_wf _ _ _ _ (saveWrite_wf _ _ _ _ hr)
    clear_value s3
    split
    · exact stopContext_wf h3
    · exact takeTrap_wf (by simpa using h3)

theorem entryIa_wf {s : State} {space k : Nat} (h : Memory.wf s.mem = true) : Memory.wf (entryIa s space k).1.mem = true := saveNat_wf h

theorem replayEntry_wf {s : State} {space k : Nat} (h : Memory.wf s.mem = true) : Memory.wf (replayEntry s space k).1.mem = true := by
  unfold replayEntry
  extract_lets off ia mask data
  have hd : Memory.wf data.1.mem = true := saveRead_wf _ _ _ _ _ _ (saveNat_wf (entryIa_wf h))
  clear_value data
  split
  next e =>
    have ht := wf_of_eq e (translate_wf _ _ _ _ _ hd)
    refine saveWrite_wf _ _ _ _ (fold_wf ht (fun s j hs => ?_))
    split
    · rw [conflicts_mem]; exact pwrite_wf _ _ _ _ hs
    · exact hs
  next e => exact wf_of_eq e (translate_wf _ _ _ _ _ hd)
  next e => exact wf_of_eq e (translate_wf _ _ _ _ _ hd)

theorem replayLog_wf {s : State} {space : Nat} (h : Memory.wf s.mem = true) : Memory.wf (replayLog s space).1.mem = true := by
  refine foldFst_wf h (fun r k hr => ?_)
  split
  · exact hr
  · split
    next e => exact wf_of_eq e (replayEntry_wf hr)
    next e => exact wf_of_eq e (replayEntry_wf hr)

theorem replayAfter_wf {s : State} {space : Nat} {a : FenceAt} (h : Memory.wf s.mem = true) :
    Memory.wf (replayAfter s space a).mem = true := by
  unfold replayAfter
  split
  next s1 e => exact (wf_of_eq e (replayLog_wf h) : Memory.wf s1.mem = true)
  next e => exact takeTrap_wf (saveNat_wf (entryIa_wf (wf_of_eq e (replayLog_wf h))))

theorem writeBackAll_wf {s : State} {lines : List (Nat × Nat × Nat)}
    {bad : State × RelRes → (Nat × Nat × Nat) → Byte → State × RelRes} (h : Memory.wf s.mem = true)
    (hb : ∀ r x sub, Memory.wf r.1.mem = true → Memory.wf (bad r x sub).1.mem = true) :
    Memory.wf (writeBackAll s lines bad).1.mem = true := by
  refine foldFst_wf h (fun r x hr => ?_)
  split
  · exact hr
  · have hw := writeBackLine_wf r.1 x hr
    split <;> rename_i e <;> rw [e] at hw
    · exact hw
    · exact hw
    · exact hb _ _ _ hw

theorem release_wf {s : State} {a : FenceAt} {scope : Scope} (h : Memory.wf s.mem = true) :
    Memory.wf (release s a scope).1.mem = true := by
  unfold release
  split
  · exact h
  · extract_lets bad r r'
    have hb : ∀ r x sub, Memory.wf r.1.mem = true → Memory.wf (bad r x sub).1.mem = true := by
      intro r x sub hr
      unfold bad
      split <;> exact deferLine_wf hr
    have h1 : Memory.wf r.1.mem = true := by
      unfold r
      split
      · exact writeBackAll_wf h hb
      · exact h
    have h2 : Memory.wf r'.1.mem = true := by
      unfold r'
      split
      · exact h1
      · exact writeBackAll_wf h1 hb
    clear_value r'
    split <;> exact h2

theorem flushCores_wf {s : State} {cores : List Nat} {space : Nat} (h : Memory.wf s.mem = true) :
    Memory.wf (flushCores s cores space).1.mem = true := by
  unfold flushCores
  extract_lets flush
  have hf : ∀ r holders, Memory.wf r.1.mem = true → Memory.wf (flush r holders).1.mem = true := by
    intro r holders hr
    refine foldFst_wf hr (fun r x hr => ?_)
    have hw := writeBackLine_wf r.1 x hr
    split <;> rename_i e <;> rw [e] at hw
    · exact hw
    · exact hw
    · exact deferLine_wf hw
  exact hf _ _ (hf _ _ h)

end Sys2Proof.Machine
end

section
/-! SUPPORT. Memory's canonical form through control, accesses and the memory side. -/

namespace Sys2Proof.Machine

/-! ### Control, R177 to R196 -/

theorem bumpCore_wf {s : State} {core k : Nat} (h : Memory.wf s.mem = true) : Memory.wf (bumpCore s core k).mem = true :=
  bumpPa_wf _ _ h

theorem fileLane_mem {s s' : State} {t : Team} {w k : Nat} {pc : Pc} {b : Bool} (e : fileLane s t w k pc = some (s', b)) :
    s'.mem = s.mem := by
  unfold fileLane at e
  dsimp only at e
  repeat' split at e
  all_goals cases e
  all_goals rfl

theorem execReform_form {hd : Hdr} {s : State} (h : Memory.wf s.mem = true) : KeepsForm (execReform hd s) := by
  refine perLane_form h (fun s c hs => ?_)
  split
  · exact hs
  · split
    next e => exact wf_of_mem (fileLane_mem e) hs
    next e => exact wf_of_mem (fileLane_mem e) hs
    · exact bumpCore_wf hs

theorem execExit_form {hd : Hdr} {s : State} (h : Memory.wf s.mem = true) : KeepsForm (execExit hd s) := by
  have hi := issueWith_wf (i := .exit hd) (h := hd) (pre := fun _ _ => none) h
    (fun s cs hs => foldLanes_wf (f := fun s _ => (s, .done { upd := fun l => { l with st := .exited } })) (cs := cs) hs (fun _ _ h => h))
  refine finish_form ?_
  unfold retireAfter
  split
  · exact retireWarps_wf hi
  · exact hi

theorem execSpawn_form {hd : Hdr} {form : SpawnForm} {a : Fin 192} {disp : Word} {s : State} (h : Memory.wf s.mem = true) :
    KeepsForm (execSpawn hd form a disp s) := by
  refine perWarp_form h (fun s c hs => ?_)
  repeat' split
  all_goals exact hs

theorem execBarrierCompletion_form {u : Nat} {n : Fin 8} {s : State} (h : Memory.wf s.mem = true) :
    KeepsForm (execBarrierCompletion u n s) := by
  refine event_form ?_
  repeat' split
  all_goals exact h

theorem execPhase_form {hd : Hdr} {scope : Scope} {s : State} (h : Memory.wf s.mem = true) : KeepsForm (execPhase hd scope s) := by
  refine finish_form (issueWith_wf h (fun s cs hs => ?_))
  refine foldWarps_wf hs (fun s c hs => ?_)
  have hr := release_wf (a := c.fence) (scope := scope) hs
  split <;> rename_i e <;> exact wf_of_eq e hr

theorem execPhaseNumberExchange_form {u v : Nat} {s : State} (h : Memory.wf s.mem = true) :
    KeepsForm (execPhaseNumberExchange u v s) := by
  refine event_form ?_
  repeat' split
  all_goals exact h

@[simp] theorem modNode_mem (s : State) (r n : Nat) (f : Node → Node) : (s.modNode r n f).mem = s.mem := rfl

@[simp] theorem scratchMeets_mem (s : State) (u : Nat) (b : Option Nat) (off n : Nat) (write : Bool) :
    (scratchMeets s u b off n write).mem = s.mem := by
  unfold scratchMeets
  split
  · rfl
  · exact fold_mem (fun s _ => abortTry_mem s _ _ _ _ _)

theorem writeVa_wf {s : State} {space va : Nat} {bs : List Byte} (h : Memory.wf s.mem = true) :
    Memory.wf (writeVa s space va bs).mem = true := by
  unfold writeVa
  extract_lets n off s1
  have h1 : Memory.wf s1.mem = true := by
    unfold s1
    split
    · exact h
    · exact saveWrite_wf _ _ _ _ h
  split
  · exact saveWrite_wf _ _ _ _ h1
  · exact h1

theorem appendRecord_wf {s : State} {space : Nat} {e : Edge} {x : Emitted} (h : Memory.wf s.mem = true) :
    Memory.wf (appendRecord s space e x).mem = true := writeVa_wf h

theorem emitOne_wf {hd : Hdr} {edge pd : Fin 8} {a : Word} {s : State} {c : Lc} (h : Memory.wf s.mem = true) :
    Memory.wf (emitOne hd edge pd a s c).1.mem = true := by
  unfold emitOne
  split
  · exact h
  split
  · split
    · exact h
    dsimp only
    split
    · exact h
    split
    · split <;> exact h
    split
    · exact h
    have hr := release_wf (a := c.fence) (scope := if c.tm.desc.nscope then .n else .d) h
    split <;> rename_i e <;> rw [e] at hr
    · exact hr
    · split
      · simpa using hr
      · exact appendRecord_wf (by simpa using hr)
  · exact h

theorem execBrk_form {hd : Hdr} {code : Byte} {s : State} (h : Memory.wf s.mem = true) : KeepsForm (execBrk hd code s) := by
  refine finish_form ?_
  extract_lets s1
  have h1 : Memory.wf s1.mem = true := by
    refine issueWith_wf h (fun s cs hs => foldLanes_wf hs (fun s c hs => ?_))
    dsimp only
    split <;> exact hs
  split <;> exact h1

theorem execTryOpen_form {hd : Hdr} {disp : Word} {s : State} (h : Memory.wf s.mem = true) : KeepsForm (execTryOpen hd disp s) := by
  refine perWarp_form h (fun s c hs => ?_)
  repeat' split
  all_goals simpa using hs

theorem storeMem_wf {s : State} {core : Nat} {fused : Bool} {space ia : Nat} {bs : List Byte} {t : Trans}
    (h : Memory.wf s.mem = true) : Memory.wf (storeMem s core fused space ia bs t).mem = true :=
  pwrite_wf (dropDirty s space ia bs.length _) _ t.pa bs h

theorem commitByte_wf {t : Team} {s : State} {b : TryByte} (h : Memory.wf s.mem = true) : Memory.wf (commitByte t s b).mem = true := by
  unfold commitByte
  split
  · exact h
  · split
    · split
      · rw [noteWrite_mem]; exact storeMem_wf h
      · exact h
    · exact h

@[simp] theorem commitConflict_mem (t : Team) (w : Nat) (s : State) (b : TryByte) : (commitConflict t w s b).mem = s.mem := by
  unfold commitConflict
  split
  · rfl
  · dsimp only
    split <;> simp

@[simp] theorem countCommitted_mem (u w : Nat) (s : State) (x : TryStore) : (countCommitted u w s x).mem = s.mem := by
  unfold countCommitted
  split <;> rfl

theorem commitLeaf_wf {t : Team} {s : State} {b : Nat} (h : Memory.wf s.mem = true) : Memory.wf (commitLeaf t s b).mem = true := by
  have ht := translate_wf s t.space (32 * b) .store false h
  unfold commitLeaf
  split <;> rename_i e <;> rw [e] at ht
  · split
    · exact ht
    · rw [remember_mem]; exact ht
  · exact ht

theorem commitTry_wf {s : State} {t : Team} {wi : Nat} {w : Warp} (h : Memory.wf s.mem = true) :
    Memory.wf (commitTry s t wi w).mem = true := by
  unfold commitTry
  extract_lets s1 s2 s3 s4
  have h1 : Memory.wf s1.mem = true := fold_wf h (fun _ _ h => commitLeaf_wf h)
  split
  · exact h1
  · rw [fold_mem (fun s b => commitConflict_mem t wi s b)]
    have e3 : s4.mem = s2.mem := fold_mem (fun s x => countCommitted_mem _ _ s x)
    rw [e3]
    exact fold_wf h1 (fun _ _ h => commitByte_wf h)

theorem tcommitOne_wf {lane : Bool} {s : State} {c : Lc} (h : Memory.wf s.mem = true) :
    Memory.wf (tcommitOne lane s c).1.mem = true := by
  unfold tcommitOne
  split
  · exact h
  split
  · split
    · simpa using h
    split
    · exact h
    · exact commitTry_wf h
  · exact h

theorem execTabort_form {hd : Hdr} {value : Byte} {s : State} (h : Memory.wf s.mem = true) : KeepsForm (execTabort hd value s) := by
  refine perWarp_form h (fun s c hs => ?_)
  split <;> simpa using hs

@[simp] theorem laneAbort_mem (s : State) (c : Lc) (value : Byte) : (laneAbort s c value).mem = s.mem := by
  unfold laneAbort
  dsimp only
  split
  · exact abortTry_mem _ _ _ _ _ _
  · rfl

theorem execTabortLane_form {hd : Hdr} {value : Byte} {s : State} (h : Memory.wf s.mem = true) :
    KeepsForm (execTabortLane hd value s) := by
  refine perWarp_form h (fun s c hs => ?_)
  split <;> simpa using hs

/-! ### Bins -/

@[simp] theorem fileWaiting_mem (s : State) (b : Bin) : (fileWaiting s b).mem = s.mem := by
  unfold fileWaiting
  split <;> rfl

@[simp] theorem fileFree_mem (s : State) (core num : Nat) : (fileFree s core num).mem = s.mem := by
  unfold fileFree
  split
  · rfl
  · refine fold_mem (fun s _ => ?_)
    split <;> simp

theorem execBinSlotFile_form {core bin : Nat} {s : State} (h : Memory.wf s.mem = true) : KeepsForm (execBinSlotFile core bin s) := by
  refine event_form ?_
  split <;> simpa using h

/-! ### Accesses of lanes -/

@[simp] theorem markUniform_mem (s : State) (c : Lc) (d : Option (Reg × Nat)) : (markUniform s c d).mem = s.mem := by
  unfold markUniform
  repeat' split
  all_goals rfl

@[simp] theorem addResult_mem (s : State) (team warp lane : Nat) (load acq : Bool) (dst : Option (Reg × Nat))
    (latch : Option (Fin 4)) (val : BitVec 128) (dead : BitVec 4) :
    (addResult s team warp lane load acq dst latch val dead).mem = s.mem := rfl

@[simp] theorem claim_mem (c : Lc) (s : State) (d : Option (Reg × Nat)) (b : Option (Fin 4)) : (c.claim s d b).mem = s.mem := by
  simp [Lc.claim]

@[simp] theorem later_mem (c : Lc) (h : Hdr) (s : State) (d : Reg) (n : Nat) (load acq : Bool) (val : BitVec 128) :
    (c.later h s d n load acq val).mem = s.mem := by simp [Lc.later]

@[simp] theorem scratchPut_mem (s : State) (u off : Nat) (bs : List Byte) : (scratchPut s u off bs).mem = s.mem := rfl

@[simp] theorem scratchLoad_mem (s : State) (c : Lc) (off n : Nat) : (scratchLoad s c off n).1.mem = s.mem := by simp [scratchLoad]

@[simp] theorem scratchStore_mem (s : State) (c : Lc) (off : Nat) (bs : List Byte) : (scratchStore s c off bs).1.mem = s.mem := by
  unfold scratchStore
  dsimp only
  repeat' split
  all_goals simp

theorem probe_wf {s : State} {c : Lc} {ia n : Nat} {need : Need} (h : Memory.wf s.mem = true) :
    Memory.wf (probe s c ia n need).1.mem = true := by
  have ht := translateFor_wf s c.space ia n need true h
  unfold probe
  split <;> rename_i e <;> rw [e] at ht
  · exact ht
  · exact ht
  · split <;> simpa using ht
  · split <;> simpa using ht

@[simp] theorem laneBytes_mem (s : State) (c : Lc) (ia n : Nat) (t : Trans) : (laneBytes s c ia n t).1.mem = s.mem := by
  unfold laneBytes
  dsimp only
  repeat' split
  all_goals rfl

theorem tryLoad_wf {s : State} {c : Lc} {ia n : Nat} (h : Memory.wf s.mem = true) : Memory.wf (tryLoad s c ia n).1.mem = true := by
  have hp := probe_wf (c := c) (ia := ia) (n := n) (need := .load) h
  unfold tryLoad
  split <;> rename_i e <;> rw [e] at hp
  · exact hp
  · exact hp
  · exact hp
  · simpa using hp

theorem tryStore_wf {s : State} {c : Lc} {va : DWord} {ia n : Nat} {bs : List Byte} (h : Memory.wf s.mem = true) :
    Memory.wf (tryStore s c va ia n bs).1.mem = true := by
  have hp := probe_wf (c := c) (ia := ia) (n := n) (need := .store) h
  unfold tryStore
  split <;> rename_i e <;> rw [e] at hp
  · exact hp
  · exact hp
  · exact hp
  · dsimp only
    repeat' split
    all_goals simpa using hp

theorem streamAt_wf {s : State} {space stream : Nat} (h : Memory.wf s.mem = true) : Memory.wf (streamAt s space stream).1.mem = true := by
  unfold streamAt
  split
  · exact h
  · split
    · exact h
    · exact saveNat_wf (saveNat_wf h)

theorem logFlag_wf {s : State} {space bit : Nat} (h : Memory.wf s.mem = true) : Memory.wf (logFlag s space bit).mem = true := by
  unfold logFlag
  split
  · exact h
  · exact saveWrite_wf _ _ _ _ (saveNat_wf h)

@[simp] theorem setLogPos_mem (s : State) (job stream chunk used : Nat) : (setLogPos s job stream chunk used).mem = s.mem := rfl

theorem recordAccess_wf {s : State} {t : Team} {w k point : Nat} (h : Memory.wf s.mem = true) :
    Memory.wf (recordAccess s t w k point).mem = true := by
  have hs := streamAt_wf (space := t.space) (stream := point) h
  unfold recordAccess
  split <;> rename_i e <;> rw [e] at hs
  · exact hs
  · dsimp only
    split
    · exact hs
    split
    · exact saveWrite_wf _ _ _ _ hs
    split
    · rw [setLogPos_mem]; exact logFlag_wf hs
    · exact saveWrite_wf _ _ _ _ (saveWrite_wf _ _ _ _ hs)

@[simp] theorem dropAccess_mem (s : State) (id : Nat) : (dropAccess s id).mem = s.mem := rfl
@[simp] theorem faultAccess_mem (s : State) (id : Nat) (cause sub : Byte) : (faultAccess s id cause sub).mem = s.mem := rfl

theorem storeFor_wf {s : State} {t : Team} {a : Access} {p : Place} {bs : List Byte} {tr : Trans} (h : Memory.wf s.mem = true) :
    Memory.wf (storeFor s t a p bs tr).mem = true := by
  unfold storeFor
  dsimp only
  split
  · exact memStore_wf _ _ _ _ _ _ _ _ h
  · simpa using h
  · simpa using h

theorem performOn_wf {s : State} {t : Team} {a : Access} {tr : Trans} {old : List Byte} (h : Memory.wf s.mem = true) :
    Memory.wf (performOn s t a tr old).mem = true := by
  unfold performOn
  extract_lets mode p logged s1 result s2 s3 s4
  have h1 : Memory.wf s1.mem = true := by
    unfold s1
    split
    · exact recordAccess_wf h
    · exact h
  have h2 : Memory.wf s2.mem = true := h1
  clear_value s2
  rw [fold_mem (fun s x => countTry_mem _ _ s x)]
  unfold s4
  split
  · exact h2
  · exact storeFor_wf h2
  · exact storeFor_wf h2
  · split
    · exact storeFor_wf h2
    · exact h2

theorem performWith_wf {s : State} {t : Team} {a : Access} {tr : Trans} (h : Memory.wf s.mem = true) :
    Memory.wf (performWith s t a tr).mem = true := performOn_wf h

theorem relFirst_wf {s : State} {a : Access} (h : Memory.wf s.mem = true) : Memory.wf (relFirst s a).1.mem = true := by
  unfold relFirst
  split
  · exact h
  · dsimp only
    split
    next e => exact wf_of_eq e (release_wf h)
    next e => exact wf_of_eq e (release_wf h)
    · exact release_wf (wf_of_mem (fold_mem unissue_mem) h)

theorem performAccess_wf {s : State} {a : Access} (h : Memory.wf s.mem = true) : Memory.wf (performAccess s a).mem = true := by
  unfold performAccess
  split
  · exact h
  · rename_i t _
    have hr := relFirst_wf (a := a) h
    split <;> rename_i e <;> rw [e] at hr
    · exact hr
    · rename_i s1
      have ht := translateFor_wf s1 t.space a.ia a.width (needOf s1 t a) true hr
      split <;> rename_i e <;> rw [e] at ht
      · exact performWith_wf ht
      · exact ht
      · exact ht
      · exact ht

/-! ### Replay gates -/

theorem skipChunks_wf {s : State} {space job stream base n f : Nat} (h : Memory.wf s.mem = true) :
    Memory.wf (skipChunks s space job stream base n f).mem = true := by
  induction f generalizing s with
  | zero => exact h
  | succ f ih =>
    unfold skipChunks
    dsimp only
    split
    · exact ih (by rw [setLogPos_mem]; exact logFlag_wf h)
    · exact h

theorem skipGone_wf {s : State} (h : Memory.wf s.mem = true) : Memory.wf (skipGone s).mem = true := by
  unfold skipGone
  refine fold_wf h (fun s r hs => ?_)
  split
  · exact hs
  · refine fold_wf hs (fun s k hs => ?_)
    have hr := streamAt_wf (space := r.space) (stream := k) hs
    split <;> rename_i e <;> rw [e] at hr
    · exact skipChunks_wf hr
    · exact hr

theorem gatePass_wf {s : State} {t : Team} {a : Access} {point : Nat} (h : Memory.wf s.mem = true) :
    Memory.wf (gatePass s t a point).1.mem = true := by
  unfold gatePass
  split
  · exact h
  split
  · exact h
  · have hr := streamAt_wf (space := t.space) (stream := point) h
    split <;> rename_i e <;> rw [e] at hr
    · exact hr
    · extract_lets n s1 pos x lane
      have h1 : Memory.wf s1.mem = true := skipChunks_wf hr
      clear_value s1
      split
      · exact logFlag_wf h1
      · split
        · split <;> exact h1
        · exact h1

/-! ### Page 3 -/

@[simp] theorem sendAccess_mem (s : State) (c : Lc) (a : Access) : (sendAccess s c a).mem = s.mem := by
  unfold sendAccess
  dsimp only
  repeat' split
  all_goals simp

theorem loadOne_wf {hd : Hdr} {m : AccM} {acq : Bool} {d : Reg} {ad : Addr} {s : State} {c : Lc} (h : Memory.wf s.mem = true) :
    Memory.wf (loadOne hd m acq d ad s c).1.mem = true := by
  unfold loadOne
  dsimp only
  split
  · exact h
  · split
    · rename_i ia _ _
      have hl := tryLoad_wf (c := c) (ia := ia) (n := widthBytes m.width) h
      split <;> rename_i e <;> rw [e] at hl <;> simpa using hl
    · simpa using h

theorem storeOne_wf {m : AccM} {rel : Bool} {ad : Addr} {b : Src} {s : State} {c : Lc} (h : Memory.wf s.mem = true) :
    Memory.wf (storeOne m rel ad b s c).1.mem = true := by
  unfold storeOne
  dsimp only
  split
  · exact h
  · split
    · exact tryStore_wf h
    · simpa using h

@[simp] theorem atomOne_mem (hd : Hdr) (m : AtomM) (op : AccOp) (d : Reg) (ad : Addr) (b : Nat) (cmp : DWord) (s : State) (c : Lc) :
    (atomOne hd m op d ad b cmp s c).1.mem = s.mem := by
  unfold atomOne
  dsimp only
  split
  · rfl
  · exact sendAccess_mem _ _ _

theorem atom_form {op : Nat} {i : Instr} {hd : Hdr} {m : AtomM} {d : Reg} {ad : Addr} {b : Src} {s : State}
    (h : Memory.wf s.mem = true) : KeepsForm (atom op i hd m d ad b s) :=
  perLane_form h (fun _ _ hs => wf_of_mem (atomOne_mem _ _ _ _ _ _ _ _ _) hs)

theorem execAcas_form {hd : Hdr} {m : AtomM} {d : Reg} {ad : Addr} {b c : Src} {s : State} (h : Memory.wf s.mem = true) :
    KeepsForm (execAcas hd m d ad b c s) :=
  perLane_form h (fun _ _ hs => wf_of_mem (atomOne_mem _ _ _ _ _ _ _ _ _) hs)

theorem execLds_form {hd : Hdr} {m : AccM} {d : Reg} {ad : Addr} {s : State} (h : Memory.wf s.mem = true) :
    KeepsForm (execLds hd m d ad s) := by
  refine perLane_form h (fun s c hs => ?_)
  dsimp only
  repeat' split
  all_goals simpa using hs

theorem execSts_form {hd : Hdr} {m : AccM} {ad : Addr} {b : Src} {s : State} (h : Memory.wf s.mem = true) :
    KeepsForm (execSts hd m ad b s) := by
  refine perLane_form h (fun s c hs => ?_)
  dsimp only
  split
  · exact hs
  · split
    next e => exact wf_of_eq e (by simpa using hs)
    next e => exact wf_of_eq e (by simpa using hs)

theorem execLdw_form {hd : Hdr} {d : Reg} {ad : Addr} {s : State} (h : Memory.wf s.mem = true) :
    KeepsForm (execLdw hd d ad s) := by
  refine perLane_form h (fun s c hs => ?_)
  repeat' split
  all_goals exact hs

@[simp] theorem unfileSlots_mem (s : State) (u w : Nat) : (unfileSlots s u w).mem = s.mem := rfl

@[simp] theorem stwOne_mem (ad : Addr) (b : Src) (s : State) (c : Lc) : (stwOne ad b s c).1.mem = s.mem := by
  unfold stwOne
  split
  · rfl
  · extract_lets x locks s1 s2 s3
    have h1 : s1.mem = s.mem := by unfold s1; split <;> rfl
    unfold s3
    split <;> exact h1

theorem execFence_form {hd : Hdr} {scope : Scope} {s : State} (h : Memory.wf s.mem = true) : KeepsForm (execFence hd scope s) := by
  refine perWarp_form h (fun s c hs => ?_)
  have hr := release_wf (a := c.fence) (scope := scope) hs
  split <;> rename_i e <;> exact wf_of_eq e hr

theorem prefOne_wf {hint : Hint} {ad : Addr} {s : State} {c : Lc} (h : Memory.wf s.mem = true) :
    Memory.wf (prefOne hint ad s c).mem = true := by
  unfold prefOne
  split
  · exact h
  · split
    · exact h
    · exact translate_wf _ _ _ _ _ h

/-! ### The memory side -/

theorem throughGate_wf {s : State} {t : Team} {a : Access} {leaf : BitVec 128} (h : Memory.wf s.mem = true) :
    Memory.wf (throughGate s t a leaf).mem = true := by
  unfold throughGate
  dsimp only
  split
  · exact performAccess_wf (gatePass_wf h)
  · exact h

theorem execTranslationWalk_form {s : State} (h : Memory.wf s.mem = true) : KeepsForm (execTranslationWalk s) := by
  refine event_form ?_
  split
  · split
    · exact h
    · split
      · split
        · exact performAccess_wf h
        · split
          · exact throughGate_wf h
          · exact h
      · exact performAccess_wf h
  · exact h

@[simp] theorem arrive_mem (s : State) (load : Bool) : (arrive s load).mem = s.mem := by
  unfold arrive
  repeat' split
  all_goals simp

theorem execOrdAccessArrival_form {acc : Nat} {s : State} (h : Memory.wf s.mem = true) : KeepsForm (execOrdAccessArrival acc s) := by
  refine event_form ?_
  repeat' split
  · exact performAccess_wf h
  all_goals exact h

theorem execReplayGateArrival_form {acc : Nat} {s : State} (h : Memory.wf s.mem = true) : KeepsForm (execReplayGateArrival acc s) := by
  refine event_form ?_
  dsimp only
  repeat' split
  · exact h
  · exact throughGate_wf h
  all_goals exact h

/-! ### Late faults -/

@[simp] theorem forgetDeclined_mem (s : State) (fs : List Access) : (forgetDeclined s fs).mem = s.mem := rfl

theorem takeLate_wf {s : State} {u w : Nat} (h : Memory.wf s.mem = true) : Memory.wf (takeLate s u w).mem = true := by
  unfold takeLate
  split
  · dsimp only
    split
    · exact h
    split
    · simpa using h
    split
    · exact h
    · exact takeTrap_wf (wf_of_mem (fold_mem toRegion_mem) h)
  · exact h

theorem savePages_wf {s : State} {us : List Nat} (h : Memory.wf s.mem = true) : Memory.wf (savePages s us).mem = true :=
  fold_wf h (fun _ _ h => saveTeam_wf h)

theorem pageFaultSave_wf {s : State} {u : Nat} (h : Memory.wf s.mem = true) : Memory.wf (pageFaultSave s u).mem = true := by
  unfold pageFaultSave
  split
  · exact h
  · dsimp only
    split
    · exact h
    split
    · exact savePages_wf h
    · exact fold_wf h (fun _ _ h => h)

end Sys2Proof.Machine
end

section
/-! SUPPORT. Memory's canonical form through tiles, copies, multicasts, rings and channels. -/

namespace Sys2Proof.Machine

/-! ### What engine operations share -/

theorem setTile_wf {s : State} {u n : Nat} {st : TileSt} {c : Bool} (h : Memory.wf s.mem = true) :
    Memory.wf (setTile s u n st c).mem = true := by
  unfold setTile
  split
  · exact h
  · dsimp only
    split
    · exact stamp_wf h
    · exact h

@[simp] theorem computeStart_mem (s : State) (u n : Nat) : (computeStart s u n).mem = s.mem := by
  unfold computeStart; split <;> rfl
@[simp] theorem computeEnd_mem (s : State) (u n : Nat) : (computeEnd s u n).mem = s.mem := by
  unfold computeEnd; split <;> rfl
@[simp] theorem copyOutEnd_mem (s : State) (u n : Nat) : (copyOutEnd s u n).mem = s.mem := rfl
@[simp] theorem dropOp_mem (s : State) (id : Nat) : (s.dropOp id).mem = s.mem := rfl

@[simp] theorem takeLeave_mem (s : State) (c : Lc) (kind : Nat) : (takeLeave s c kind).1.mem = s.mem := by
  unfold takeLeave
  repeat' split
  all_goals rfl

@[simp] theorem addOp_mem (s : State) (o : EngOp) : (addOp s o).mem = s.mem := by simp [addOp]

/-- Beats keep the form when what each does keeps it. -/
theorem makeBeats_wf {space : Nat} {need : Need} {act : State → Beat → Trans → State} {s : State} {bs : List (Beat × Nat)}
    (h : Memory.wf s.mem = true) (ha : ∀ s b tr, Memory.wf s.mem = true → Memory.wf (act s b tr).mem = true) :
    Memory.wf (makeBeats space need act s bs).1.mem = true := by
  refine foldFst_wf h (fun r x hr => ?_)
  split
  · exact hr
  · have ht := translateFor_wf r.1 space x.1.ia x.1.len need false hr
    split <;> rename_i e <;> rw [e] at ht
    · exact ha _ _ _ ht
    · exact ht

theorem runBeatsOf_wf {space : Nat} {need : Need} {act : State → Beat → Trans → State} {s : State} {o : EngOp} {bs : List Beat}
    (h : Memory.wf s.mem = true) (ha : ∀ s b tr, Memory.wf s.mem = true → Memory.wf (act s b tr).mem = true) :
    Memory.wf (runBeatsOf space need act s o bs).1.mem = true := by
  have hm := makeBeats_wf (space := space) (need := need) (bs := beatsFrom o bs) h ha
  unfold runBeatsOf
  split <;> rename_i e <;> rw [e] at hm <;> exact hm

@[simp] theorem fillFrom_mem (u : Nat) (s : State) (b : Beat) (tr : Trans) : (fillFrom u s b tr).mem = s.mem := by
  unfold fillFrom; split <;> rfl

theorem fillFrom_wf {u : Nat} (s : State) (b : Beat) (tr : Trans) (h : Memory.wf s.mem = true) :
    Memory.wf (fillFrom u s b tr).mem = true := wf_of_mem (fillFrom_mem u s b tr) h

theorem drainTo_wf {u : Nat} (s : State) (b : Beat) (tr : Trans) (h : Memory.wf s.mem = true) :
    Memory.wf (drainTo u s b tr).mem = true := by
  unfold drainTo
  split
  · exact h
  · exact memStore_wf _ _ _ _ _ _ _ _ h

theorem engineFault_wf {s : State} {o : EngOp} {cause sub : Byte} {va ia pos : Nat} (h : Memory.wf s.mem = true) :
    Memory.wf (engineFault s o cause sub va ia pos).mem = true := by
  unfold engineFault
  split
  · exact h
  · extract_lets s1 ti k
    clear_value k
    cases k with
    | some k => exact h
    | none => exact stopContext_wf h

@[simp] theorem resumeOps_mem (s : State) (u w : Nat) : (resumeOps s u w).mem = s.mem := rfl

theorem forkRelease_wf {s : State} {c : Lc} {scope : Scope} {k : State → State × LaneRes} (h : Memory.wf s.mem = true)
    (hk : ∀ s, Memory.wf s.mem = true → Memory.wf (k s).1.mem = true) : Memory.wf (forkRelease s c scope k).1.mem = true := by
  have hr := release_wf (a := c.fence) (scope := scope) h
  unfold forkRelease
  split <;> rename_i e <;> rw [e] at hr
  · exact hk _ hr
  · exact hr
  · exact hr

/-! ### Declarations and TARM -/

theorem freeTile_wf {s : State} {u n : Nat} (h : Memory.wf s.mem = true) : Memory.wf (freeTile s u n).mem = true := by
  unfold freeTile
  dsimp only
  split
  · exact h
  · exact setTile_wf h

theorem execTdecl_form {hd : Hdr} {t : Fin 32} {src : TdeclSrc} {s : State} (h : Memory.wf s.mem = true) :
    KeepsForm (execTdecl hd t src s) := by
  refine perWarp_form h (fun s c hs => ?_)
  split
  · exact hs
  · extract_lets x s1
    exact ite_wf hs (freeTile_wf hs)

theorem execTfree_form {hd : Hdr} {t : Fin 32} {s : State} (h : Memory.wf s.mem = true) : KeepsForm (execTfree hd t s) := by
  refine perWarp_form h (fun s c hs => ?_)
  split
  · exact hs
  · exact freeTile_wf hs

theorem execMovTshFromS_form {hd : Hdr} {t : Fin 32} {a : Src} {s : State} (h : Memory.wf s.mem = true) :
    KeepsForm (execMovTshFromS hd t a s) := by
  refine perWarp_form h (fun s c hs => ?_)
  split <;> exact hs

theorem startFill_wf {i : Instr} {c : Lc} {t : Nat} {p : Delivery} {sh : Shape} {s : State} (h : Memory.wf s.mem = true) :
    Memory.wf (startFill i c t p sh s).1.mem = true := by
  unfold startFill
  split
  · exact h
  · dsimp only
    rw [addOp_mem]
    exact setTile_wf h

theorem execTarm_form {hd : Hdr} {t : Fin 32} {s : State} (h : Memory.wf s.mem = true) : KeepsForm (execTarm hd t s) := by
  refine perWarp_form h (fun s c hs => ?_)
  split
  · exact hs
  · dsimp only
    split
    · exact hs
    split
    · exact hs
    split
    · exact startFill_wf hs
    · exact hs

/-! ### Copies -/

theorem fillRun_wf {s : State} {o : EngOp} (h : Memory.wf s.mem = true) : Memory.wf (fillRun s o).1.mem = true := by
  unfold fillRun
  split
  · exact h
  · exact runBeatsOf_wf h fillFrom_wf

theorem newest_wf {s : State} {f : EngOp → State} (h : Memory.wf s.mem = true) (hf : ∀ o, Memory.wf (f o).mem = true) :
    Memory.wf (newest s f).mem = true := by
  unfold newest
  split
  · exact hf _
  · exact h

theorem copyOne_wf {i : Instr} {out free : Bool} {m : CpyM} {t : Nat} {ad : Addr} {b : Src} {s : State} {c : Lc}
    (h : Memory.wf s.mem = true) : Memory.wf (copyOne i out free m t ad b s c).1.mem = true := by
  unfold copyOne
  split
  · exact h
  · refine ite_wf h (ite_wf h (ite_wf h ?_))
    cases checkBeats s c.space (if out then .store else .load) _ with
    | error e => exact h
    | ok ias =>
      refine forkRelease_wf h (fun s hs => ?_)
      extract_lets s1 s2 o s3
      have h1 : Memory.wf s1.mem = true := iteState_wf hs hs
      have h3 : Memory.wf s3.mem = true := by
        rw [addOp_mem, computeStart_mem]
        exact setTile_wf h1
      split
      · exact h3
      · exact newest_wf h3 (fun _ => fillRun_wf h3)

@[simp] theorem modMcast_mem (s : State) (id : Nat) (f : Mcast → Mcast) : (s.modMcast id f).mem = s.mem := rfl

@[simp] theorem endMcast_mem (s : State) (id : Nat) : (endMcast s id).mem = s.mem := by
  unfold endMcast
  split
  · rfl
  · dsimp only
    split
    · split <;> simp
    · split <;> rfl

@[simp] theorem leaveMerges_mem (s : State) (op : Nat) : (leaveMerges s op).mem = s.mem := fold_mem endMcast_mem

@[simp] theorem fillMerged_mem (s : State) (o : EngOp) (bs : List Beat) : (fillMerged s o bs).mem = s.mem := by
  refine fold_mem (fun s x => ?_)
  split <;> rfl

theorem endMerge_wf {s : State} {t : Team} {o : EngOp} (h : Memory.wf s.mem = true) : Memory.wf (endMerge s t o).1.mem = true := by
  unfold endMerge
  dsimp only
  split
  · exact h
  · have hm := makeBeats_wf (space := t.space) (need := .load)
      (bs := (copyBeats t o).zipIdx.filter (fun x => missedBeat s o.id x.2)) h (fillFrom_wf (u := o.team))
    split <;> rename_i e <;> rw [e] at hm
    · exact h
    · simpa using hm

theorem execCpyinCompletion_form {op : Nat} {s : State} (h : Memory.wf s.mem = true) : KeepsForm (execCpyinCompletion op s) := by
  refine event_form ?_
  split
  · rename_i o _
    split
    · exact h
    · have hf := fillRun_wf (o := o) h
      split <;> rename_i e <;> rw [e] at hf
      · exact hf
      · split
        · rename_i t _
          have hm := endMerge_wf (t := t) (o := o) hf
          split <;> rename_i e <;> rw [e] at hm
          · exact setTile_wf (by simpa using hm)
          · exact hm
        · exact hf
  · exact h

theorem execCpyoutCompletion_form {op : Nat} {s : State} (h : Memory.wf s.mem = true) : KeepsForm (execCpyoutCompletion op s) := by
  refine event_form ?_
  split
  · rename_i o _
    split
    · rename_i t free _ _
      split
      · exact h
      · have hf := runBeatsOf_wf (space := t.space) (need := .store) (o := o) (bs := copyBeats t o) h (drainTo_wf (u := o.team))
        split <;> rename_i e <;> rw [e] at hf
        · exact hf
        · exact setTile_wf (by simpa using hf)
    · exact h
  · exact h

/-! ### Masked multicast -/

theorem execMcast_form {hd : Hdr} {t : Fin 32} {a b : Src} {s : State} (h : Memory.wf s.mem = true) :
    KeepsForm (execMcast hd t a b s) := by
  refine perWarp_form h (fun s c hs => ?_)
  split
  · exact hs
  · dsimp only
    split
    · exact hs
    split
    · exact hs
    split
    · exact hs
    · refine forkRelease_wf hs (fun s hs => ?_)
      have ht : Memory.wf (takeLeave s c 3).1.mem = true := by simpa using hs
      split <;> rename_i e <;> rw [e] at ht
      · exact ht
      · simpa using ht

@[simp] theorem openMcast_mem (s : State) (t : Team) (o : EngOp) : (openMcast s t o).mem = s.mem := rfl
@[simp] theorem mergeOp_mem (s : State) (mc core : Nat) (o : EngOp) (cov : List (Nat × Bool)) :
    (mergeOp s mc core o cov).mem = s.mem := rfl

theorem execMcastRequestArrival_form {op : Nat} {s : State} (h : Memory.wf s.mem = true) :
    KeepsForm (execMcastRequestArrival op s) := by
  refine event_form ?_
  repeat' split
  all_goals exact h

theorem execMergeRequestArrival_form {mc op : Nat} {s : State} (h : Memory.wf s.mem = true) :
    KeepsForm (execMergeRequestArrival mc op s) := by
  refine event_form ?_
  dsimp only
  repeat' split
  all_goals exact h

theorem lateRead_wf {m : Mcast} {s : State} {a : Access} (h : Memory.wf s.mem = true) : Memory.wf (lateRead m s a).mem = true := by
  unfold lateRead
  split
  · exact h
  · split
    next e => exact performOn_wf (wf_of_eq e (translateFor_wf _ _ _ _ _ _ h))
    · exact performAccess_wf h

theorem performMerged_wf {s : State} {mc k : Nat} (h : Memory.wf s.mem = true) : Memory.wf (performMerged s mc k).mem = true := by
  unfold performMerged
  split
  · exact h
  · dsimp only
    refine fold_wf h (fun s a hs => ?_)
    split
    · exact hs
    split
    · exact lateRead_wf hs
    · exact performAccess_wf hs

theorem leaveBeat_wf {mc k : Nat} {s : State} (h : Memory.wf s.mem = true) : Memory.wf (leaveBeat mc k s).mem = true := by
  unfold leaveBeat
  split
  · exact h
  · dsimp only
    split
    · exact h
    split
    · split
      · exact performMerged_wf h
      · exact h
    split
    · exact h
    split
    · split
      · exact performMerged_wf h
      · exact h
    split
    · exact h
    · split
      next e =>
        have ht := wf_of_eq e (translateFor_wf _ _ _ _ _ _ h)
        exact performMerged_wf ht
      next e => exact wf_of_eq e (translateFor_wf _ _ _ _ _ _ h)

theorem execMergeWindowClose_form {mc : Nat} {s : State} (h : Memory.wf s.mem = true) : KeepsForm (execMergeWindowClose mc s) := by
  refine event_form ?_
  split
  · exact h
  · split
    · exact h
    · rename_i m _ _
      have hl : Memory.wf ((List.range m.ias.length).foldl (fun s k => leaveBeat mc k s) s).mem = true :=
        fold_wf h (fun _ _ h => leaveBeat_wf h)
      dsimp only
      split
      · simpa using hl
      · exact hl

theorem dropDelivery_wf {s : State} {m : Mcast} {core : Nat} (h : Memory.wf s.mem = true) :
    Memory.wf (dropDelivery s m core).mem = true := by
  have hb : ∀ (p : Prop) [Decidable p], Memory.wf (if p then bumpCore s core 8 else s).mem = true :=
    fun _ _ => iteState_wf (bumpCore_wf h) h
  unfold dropDelivery
  extract_lets d
  cases receiverAt s m.inst core with
  | some t => exact hb _
  | none => exact hb _

theorem execMcastFirstBeatArrival_form {mc core : Nat} {s : State} (h : Memory.wf s.mem = true) :
    KeepsForm (execMcastFirstBeatArrival mc core s) := by
  refine event_form ?_
  split
  · exact h
  · split
    · exact h
    · dsimp only
      split
      · split
        · rw [modMcast_mem]; exact setTile_wf h
        · rw [endMcast_mem]; exact dropDelivery_wf h
      · rw [endMcast_mem]; exact dropDelivery_wf h

theorem execMcastDeliveryComplete_form {mc core : Nat} {s : State} (h : Memory.wf s.mem = true) :
    KeepsForm (execMcastDeliveryComplete mc core s) := by
  refine event_form ?_
  split
  · split
    · split
      · exact h
      · dsimp only
        rw [endMcast_mem, modMcast_mem]
        exact setTile_wf h
    · exact h
  · split
    · rename_i o _
      split
      · rename_i t _
        dsimp only
        split
        · exact h
        · have hf := runBeatsOf_wf (space := t.space) (need := .load) (o := o)
            (bs := withIas (runBeats (o.arg 0) (o.arg 1) (t.shape (o.tiles.headD 0)).base) o.ias) h (fillFrom_wf (u := o.team))
          split <;> rename_i e <;> rw [e] at hf
          · exact setTile_wf hf
          · exact hf
      · exact h
    · exact h

/-! ### Ring rotation -/

theorem rrotOne_wf {i : Instr} {ring dn : Bool} {n : Nat} {s : State} {c : Lc} (h : Memory.wf s.mem = true) :
    Memory.wf (rrotOne i ring dn n s c).1.mem = true := by
  unfold rrotOne
  split
  · exact h
  · rename_i tm _
    refine ite_wf h (ite_wf h (ite_wf h (forkRelease_wf h (fun s hs => ?_))))
    · have ht : Memory.wf (if (ring && tm.desc.rlen == 16) then takeLeave s c 4 else (s, none)).1.mem = true :=
        ite_wf (by simpa using hs) hs
      split <;> rename_i e <;> rw [e] at ht
      · exact ht
      · simpa using ht

@[simp] theorem wakeOp_mem (s : State) (o : EngOp) (dn : Bool) : (wakeOp s o dn).mem = s.mem := rfl

theorem rotate_wf {s : State} {ms : List (Team × EngOp)} {n : Nat} (h : Memory.wf s.mem = true) :
    Memory.wf (rotate s ms n).mem = true := by
  unfold rotate
  dsimp only
  split
  · exact h
  · split
    · refine fold_wf h (fun s x hs => ?_)
      rw [wakeOp_mem, State.modOp_mem, modLife_mem, computeStart_mem]
      exact setTile_wf hs
    · exact fold_wf h (fun _ _ h => h)

theorem execRrotRotation_form {inst : Nat} {t : Fin 32} {s : State} (h : Memory.wf s.mem = true) :
    KeepsForm (execRrotRotation inst t s) := by
  refine event_form ?_
  split
  · exact rotate_wf h
  · exact h

theorem execRrotCompletion_form {u : Nat} {t : Fin 32} {s : State} (h : Memory.wf s.mem = true) :
    KeepsForm (execRrotCompletion u t s) := by
  refine event_form ?_
  split
  · split
    · exact setTile_wf (by simpa using h)
    · exact h
  · exact h

/-! ### Stage rings and message channels -/

theorem execRpush_form {hd : Hdr} {r : Fin 8} {src : RpSrc} {s : State} (h : Memory.wf s.mem = true) :
    KeepsForm (execRpush hd r src s) := by
  refine perWarp_form h (fun s c hs => ?_)
  dsimp only
  repeat' split
  all_goals exact hs

theorem execRpop_form {hd : Hdr} {d : Reg} {r : Fin 8} {s : State} (h : Memory.wf s.mem = true) : KeepsForm (execRpop hd d r s) := by
  refine perWarp_form h (fun s c hs => ?_)
  dsimp only
  repeat' split
  all_goals exact hs

theorem execMovQFromV_form {hd : Hdr} {q : Fin 4} {a : Src} {s : State} (h : Memory.wf s.mem = true) :
    KeepsForm (execMovQFromV hd q a s) := by
  refine perLane_form h (fun s c hs => ?_)
  dsimp only
  split <;> exact hs

theorem execMovVFromQ_form {hd : Hdr} {d : Reg} {q : Fin 4} {s : State} (h : Memory.wf s.mem = true) :
    KeepsForm (execMovVFromQ hd d q s) := by
  refine perLane_form h (fun s c hs => ?_)
  repeat' split
  all_goals exact hs

@[simp] theorem acceptFlit_mem (s : State) (f : Flit) : (acceptFlit s f).mem = s.mem := rfl

theorem arriveFlit_wf {s : State} {f : Flit} (h : Memory.wf s.mem = true) : Memory.wf (arriveFlit s f).mem = true := by
  unfold arriveFlit
  split
  · exact h
  · exact h
  · rw [acceptFlit_mem]; exact bumpCore_wf h

theorem execFlitArrival_form {s : State} (h : Memory.wf s.mem = true) : KeepsForm (execFlitArrival s) := by
  refine event_form ?_
  repeat' split
  · exact arriveFlit_wf h
  all_goals exact h

theorem execFlitRetry_form {s : State} (h : Memory.wf s.mem = true) : KeepsForm (execFlitRetry s) := by
  refine event_form ?_
  repeat' split
  · exact arriveFlit_wf h
  all_goals exact h

end Sys2Proof.Machine
end

section
/-! SUPPORT. Memory's canonical form through Luna, the stream vector unit and the point unit. -/

namespace Sys2Proof.Machine

/-! ### Tiles of a command -/

@[simp] theorem readParams_mem (s : State) (c : Lc) (cmd : Nat) (x : MpExt) : (readParams s c cmd x).1.mem = s.mem := by
  unfold readParams
  dsimp only
  repeat' split
  all_goals simp

theorem fillTiles_wf {s : State} {u : Nat} {ns : List Nat} (h : Memory.wf s.mem = true) : Memory.wf (fillTiles s u ns).mem = true :=
  fold_wf h (fun _ _ h => setTile_wf h)
theorem readyTiles_wf {s : State} {u : Nat} {ns : List Nat} (h : Memory.wf s.mem = true) : Memory.wf (readyTiles s u ns).mem = true :=
  fold_wf h (fun _ _ h => setTile_wf h)
@[simp] theorem startAll_mem (s : State) (u : Nat) (ns : List Nat) : (startAll s u ns).mem = s.mem :=
  fold_mem (fun s n => computeStart_mem s u n)
@[simp] theorem endAll_mem (s : State) (u : Nat) (ns : List Nat) : (endAll s u ns).mem = s.mem :=
  fold_mem (fun s n => computeEnd_mem s u n)

/-! ### Luna -/

theorem lunaOne_wf {i : Instr} {cmd : Nat} {x : MpExt} {s : State} {c : Lc} (h : Memory.wf s.mem = true) :
    Memory.wf (lunaOne i cmd x s c).1.mem = true := by
  have hp : Memory.wf (readParams s c cmd x).1.mem = true := by simpa using h
  unfold lunaOne
  split <;> rename_i e <;> rw [e] at hp
  · exact hp
  split
  · exact hp
  split
  · exact hp
  extract_lets served use dsts tiles kind
  split
  · exact hp
  have ht : Memory.wf (if kind = 0 then (_, none) else takeLeave _ c kind).1.mem = true := ite_wf hp (by simpa using hp)
  split <;> rename_i e <;> rw [e] at ht
  · exact ht
  · rw [addOp_mem, startAll_mem]
    exact fillTiles_wf ht

theorem execMlwLatch_form {op : Nat} {s : State} (h : Memory.wf s.mem = true) : KeepsForm (execMlwLatch op s) := by
  refine event_form ?_
  split
  · split
    · exact h
    · simpa using h
  · exact h

theorem execMmaCompletion_form {op : Nat} {s : State} (h : Memory.wf s.mem = true) : KeepsForm (execMmaCompletion op s) := by
  refine event_form ?_
  split
  · split
    · exact h
    · exact readyTiles_wf (by simpa using h)
  · exact h

theorem execMqCompletion_form {op : Nat} {s : State} (h : Memory.wf s.mem = true) : KeepsForm (execMqCompletion op s) := by
  refine event_form ?_
  split
  · split
    · exact h
    · exact readyTiles_wf (by simpa using h)
  · exact h

/-! ### The stream vector unit -/

theorem vsOne_wf {i : Instr} {x : VsArgs} {b : Option Src} {s : State} {c : Lc} (h : Memory.wf s.mem = true) :
    Memory.wf (vsOne i x b s c).1.mem = true := by
  unfold vsOne
  split
  · exact h
  dsimp only
  split
  · exact h
  split
  · exact h
  · rw [addOp_mem, startAll_mem]
    exact fillTiles_wf h

theorem vsRun_form {i : Instr} {hd : Hdr} {x : VsArgs} {b : Option Src} {s : State} (h : Memory.wf s.mem = true) :
    KeepsForm (vsRun i hd x b s) := perWarp_form h (fun _ _ hs => vsOne_wf hs)

theorem vsBin_form {i : Instr} {hd : Hdr} {m : VsM} {d a : Fin 32} {b : VsB} {s : State} (h : Memory.wf s.mem = true) :
    KeepsForm (vsBin i hd m d a b s) := by
  cases b <;> exact vsRun_form h

theorem execStreamVectorCompletion_form {op : Nat} {s : State} (h : Memory.wf s.mem = true) :
    KeepsForm (execStreamVectorCompletion op s) := by
  refine event_form ?_
  split
  · split
    · split
      · exact h
      · exact readyTiles_wf (by simpa using h)
    · exact h
  · exact h

/-! ### The point unit -/

@[simp] theorem unitStore_mem (s : State) (u off : Nat) (bs : List Byte) : (unitStore s u off bs).mem = s.mem := by simp [unitStore]
@[simp] theorem unitAdd_mem (s : State) (u off : Nat) : (unitAdd s u off).mem = s.mem := unitStore_mem _ _ _ _

@[simp] theorem insertPoint_mem (s : State) (t : Team) (off : Nat) (nocap : Bool) (rec : List Byte) :
    (insertPoint s t off nocap rec).1.mem = s.mem := by
  unfold insertPoint
  extract_lets s1 word
  have h1 : s1.mem = s.mem := scratchMeets_mem _ _ _ _ _ _
  clear_value s1
  split
  · exact h1
  extract_lets w y k base s2 n s3 new i s4 s5 s6
  have h2 : s2.mem = s.mem := (scratchMeets_mem _ _ _ _ _ _).trans h1
  have h3 : s3.mem = s.mem := by
    unfold s3
    split
    · exact h2
    · exact (scratchMeets_mem _ _ _ _ _ _).trans h2
  have h4 : s4.mem = s.mem := (fold_mem (fun s _ => unitStore_mem s _ _ _)).trans h3
  have h5 : s5.mem = s.mem := by
    unfold s5
    split
    · exact (unitStore_mem _ _ _ _).trans h4
    · exact h4
  have h6 : s6.mem = s.mem := by
    unfold s6
    split
    · exact (unitAdd_mem _ _ _).trans h5
    · exact h5
  split
  · exact (unitAdd_mem _ _ _).trans h1
  split
  · exact h3
  split
  · exact h3
  · exact h6

theorem voxinRead_wf {s : State} {o : EngOp} (h : Memory.wf s.mem = true) : Memory.wf (voxinRead s o).1.mem = true := by
  unfold voxinRead
  split
  · exact h
  split
  · rename_i t b _ _
    have ht := translateFor_wf s t.space b.ia 32 .load false h
    split <;> rename_i e <;> rw [e] at ht
    · exact ht
    · exact ht
  · exact h

theorem voxinOne_wf {hd : Hdr} {nocap : Bool} {d : Reg} {a b : Src} {s : State} {c : Lc} (h : Memory.wf s.mem = true) :
    Memory.wf (voxinOne hd nocap d a b s c).1.mem = true := by
  unfold voxinOne
  dsimp only
  split
  · exact h
  split
  · exact h
  split
  · exact h
  · refine forkRelease_wf h (fun s hs => ?_)
    have ha : ∀ o, Memory.wf (addOp (markUniform s c (c.outDst hd d 1)) o).mem = true := fun o => by simpa using hs
    exact newest_wf (ha _) (fun _ => voxinRead_wf (ha _))

@[simp] theorem giveStatus_mem (s : State) (o : EngOp) (x : Word) : (giveStatus s o x).mem = s.mem := applyResult_mem _ _

theorem execVoxinInsertion_form {op : Nat} {s : State} (h : Memory.wf s.mem = true) : KeepsForm (execVoxinInsertion op s) := by
  refine event_form ?_
  split
  · rename_i o _
    split
    · rename_i t nocap _ _
      split
      · exact h
      · have hv := voxinRead_wf (o := o) h
        split <;> rename_i e <;> rw [e] at hv
        · exact hv
        · rename_i s1
          have hi : ∀ x, Memory.wf (insertPoint s1 t (o.arg 0) nocap x).1.mem = true := fun x => by simpa using hv
          dsimp only
          split <;> rename_i e <;> have hi := wf_of_eq e (hi _)
          · split <;> simpa using hi
          · exact hi
    · exact h
  · exact h

@[simp] theorem addPool_mem (s : State) (o : EngOp) : (addPool s o).mem = s.mem := by
  rw [addPool, addOp_mem]
  exact fold_mem (fun s k => by simp)

theorem bevpoolOne_wf {hd : Hdr} {sum clr : Bool} {tgt : BevTgt} {a : Src} {s : State} {c : Lc} (h : Memory.wf s.mem = true) :
    Memory.wf (bevpoolOne hd sum clr tgt a s c).1.mem = true := by
  unfold bevpoolOne
  extract_lets off i s1
  have h1 : Memory.wf s1.mem = true := by simpa [s1] using h
  split
  · exact h
  split
  · exact h
  clear_value s1
  split
  · exact h1
  extract_lets args
  cases tgt with
  | mem b =>
    refine ite_wf h1 ?_
    split
    · exact h1
    · exact forkRelease_wf h1 (fun s hs => by simpa using hs)
  | tile d =>
    refine ite_wf h1 ?_
    split
    · exact h1
    · rw [addPool_mem, computeStart_mem]
      exact fillTiles_wf h1

@[simp] theorem clearBuckets_mem (s : State) (o : EngOp) : (clearBuckets s o).mem = s.mem := by
  rw [clearBuckets, unitStore_mem]
  exact fold_mem (fun s _ => unitStore_mem s _ _ _)

theorem execBevpoolCompletion_form {op : Nat} {s : State} (h : Memory.wf s.mem = true) : KeepsForm (execBevpoolCompletion op s) := by
  refine event_form ?_
  split
  · rename_i o _
    split
    · rename_i t sum clr mem _ _
      refine iteState_wf h ?_
      extract_lets vals filled clear bytes bs last put sh n fill s1
      have hc : ∀ s, Memory.wf s.mem = true → Memory.wf (clear s).mem = true := by
        intro s hs
        unfold clear
        split
        · simpa using hs
        · exact hs
      have hput : ∀ bytes s b tr, Memory.wf s.mem = true → Memory.wf (put bytes s b tr).mem = true :=
        fun _ _ _ _ hs => memStore_wf _ _ _ _ _ _ _ _ hs
      refine iteState_wf ?_ ?_
      · have hm := makeBeats_wf (space := t.space) (need := .store) (bs := (bs.zipIdx.take last).drop o.pos) h (hput bytes)
        split <;> rename_i e <;> rw [e] at hm
        · exact hm
        · exact iteState_wf hm (by rw [dropOp_mem]; exact makeBeats_wf (hc _ hm) (hput _))
      · have h1 : Memory.wf s1.mem = true := hc (s.modTeam o.team fill) h
        exact setTile_wf (by simpa using h1)
    · exact h
  · exact h

end Sys2Proof.Machine
end

section
/-! SUPPORT. Memory's canonical form through the records of a scene, the batches of a trace and the raster frame. -/

namespace Sys2Proof.Machine

/-! ### Computations that read memory -/

/-- Wherever a computation that reads ends, it leaves memory in its form. -/
def EndsWell {α : Type} : Except (State × Stall) (α × State) → Prop
  | .ok p => Memory.wf p.2.mem = true
  | .error p => Memory.wf p.1.mem = true

structure ReadKeeps {α : Type} (m : ReadM α) : Prop where
  ends : ∀ s, Memory.wf s.mem = true → EndsWell (m.run s)

def SceneKeeps {α : Type} (m : SceneM α) : Prop := ReadKeeps m.run

def ReaderKeeps (rd : Reader) : Prop := ∀ va n, ReadKeeps (rd va n)

section
variable {α β : Type}

theorem readKeeps_pure (x : α) : ReadKeeps (pure x) := ⟨fun _ h => h⟩

theorem readKeeps_bind {m : ReadM α} {k : α → ReadM β} (hm : ReadKeeps m) (hk : ∀ x, ReadKeeps (k x)) : ReadKeeps (m >>= k) := by
  refine ⟨fun s h => ?_⟩
  have h1 := hm.ends s h
  rw [StateT.run_bind]
  revert h1
  cases m.run s with
  | error e => exact id
  | ok p => exact fun h1 => (hk p.1).ends p.2 h1

theorem readKeeps_ite {c : Prop} [Decidable c] {a b : ReadM α} (ha : ReadKeeps a) (hb : ReadKeeps b) : ReadKeeps (if c then a else b) := by
  split
  · exact ha
  · exact hb

theorem readKeeps_pair {x y : α} {c : Prop} [Decidable c] : ReadKeeps (if c then pure x else pure y : ReadM α) :=
  readKeeps_ite (readKeeps_pure _) (readKeeps_pure _)

theorem sceneKeeps_pure (x : α) : SceneKeeps (pure x) := readKeeps_pure _
theorem sceneKeeps_throw (a : Nat) : SceneKeeps (throwThe Nat a : SceneM α) := readKeeps_pure _
theorem sceneKeeps_lift {m : ReadM α} (hm : ReadKeeps m) : SceneKeeps (ExceptT.lift m) :=
  readKeeps_bind hm (fun _ => readKeeps_pure _)

theorem sceneKeeps_bind {m : SceneM α} {k : α → SceneM β} (hm : SceneKeeps m) (hk : ∀ x, SceneKeeps (k x)) :
    SceneKeeps (m >>= k) := by
  refine readKeeps_bind hm (fun x => ?_)
  cases x with
  | error a => exact readKeeps_pure _
  | ok x => exact hk x

theorem sceneKeeps_ite {c : Prop} [Decidable c] {a b : SceneM α} (ha : SceneKeeps a) (hb : SceneKeeps b) :
    SceneKeeps (if c then a else b) :=
  readKeeps_ite ha hb

/-- A check, and what goes on when it passes. -/
theorem sceneKeeps_unless {c : Prop} [Decidable c] {a : Nat} {m : SceneM α} (hm : SceneKeeps m) :
    SceneKeeps (if c then throwThe Nat a >>= fun _ : PUnit => m else m) := by
  split
  · exact sceneKeeps_bind (sceneKeeps_throw a) (fun _ => hm)
  · exact hm

theorem sceneKeeps_mapM {f : α → SceneM β} (hf : ∀ x, SceneKeeps (f x)) (xs : List α) : SceneKeeps (xs.mapM f) := by
  induction xs with
  | nil => exact sceneKeeps_pure _
  | cons x xs ih =>
    rw [List.mapM_cons]
    exact sceneKeeps_bind (hf x) (fun _ => sceneKeeps_bind ih (fun _ => sceneKeeps_pure _))
end

theorem engineRead_keeps (t : Team) : ReaderKeeps (engineRead t) := by
  refine fun va n => ⟨fun s h => ?_⟩
  change EndsWell (engineRead t va n s)
  unfold engineRead
  cases s.ctx? t.space with
  | none => exact h
  | some c =>
    dsimp only
    cases rangeCheck c (BitVec.ofNat 64 va) .load with
    | error sub => exact h
    | ok ia =>
      dsimp only
      have ht := translateFor_wf s t.space ia n .load false h
      revert ht
      rcases translateFor s t.space ia n .load false with ⟨s', tr | _ | _⟩ <;> exact id

theorem laneRead_keeps (c : Lc) : ReaderKeeps (laneRead c) := by
  refine fun va n => ⟨fun s h => ?_⟩
  change EndsWell (laneRead c va n s)
  unfold laneRead
  cases s.ctx? c.space with
  | none => exact h
  | some x =>
    dsimp only
    cases rangeCheck x (BitVec.ofNat 64 va) .load with
    | error sub => exact h
    | ok ia =>
      dsimp only
      have ht := translateFor_wf s c.space ia n .load true h
      revert ht
      rcases translateFor s c.space ia n .load true with ⟨s', tr | (_ | _) | _⟩
      · exact fun ht => wf_of_mem (laneBytes_mem _ _ _ _ _) ht
      all_goals exact id

/-! ### Records of a scene -/

section
variable {rd : Reader} (hr : ReaderKeeps rd)
include hr

theorem sceneHeader_keeps (va : Nat) : SceneKeeps (sceneHeader rd va) := by
  unfold sceneHeader
  refine sceneKeeps_unless (sceneKeeps_bind (sceneKeeps_lift (hr _ _)) (fun bs => ?_))
  split
  · exact sceneKeeps_pure _
  · exact sceneKeeps_throw _

theorem readBox_keeps (va : Nat) : SceneKeeps (readBox rd va) := by
  unfold readBox
  refine sceneKeeps_unless (sceneKeeps_bind (sceneKeeps_lift (hr _ _)) (fun bs => ?_))
  split
  · exact sceneKeeps_pure _
  · exact sceneKeeps_throw _

theorem readParent_keeps (r : BoxRec) : SceneKeeps (readParent rd r) := by
  unfold readParent
  refine sceneKeeps_bind (sceneKeeps_lift (hr _ _)) (fun bs => ?_)
  cases parseBox (recordAt r.va r.parent) bs with
  | some p => exact sceneKeeps_unless (sceneKeeps_pure _)
  | none => exact sceneKeeps_unless (sceneKeeps_throw _)

theorem climb_keeps (root start f : Nat) (r : BoxRec) (acc : List BoxRec) : SceneKeeps (climb rd root start f r acc) := by
  induction f generalizing r acc with
  | zero => exact sceneKeeps_unless (sceneKeeps_unless (sceneKeeps_pure _))
  | succ f ih =>
    unfold climb
    refine sceneKeeps_unless ?_
    split
    · exact sceneKeeps_pure _
    · exact sceneKeeps_bind (readParent_keeps hr _) (fun p => ih _ _)

theorem pathFrom_keeps (hd : SceneHdr) (va : Nat) : SceneKeeps (pathFrom rd hd va) := by
  unfold pathFrom
  refine sceneKeeps_bind (readBox_keeps hr _) (fun r => sceneKeeps_bind (climb_keeps hr _ _ _ _ _) (fun rs => ?_))
  split
  · exact sceneKeeps_pure _
  · exact sceneKeeps_throw _

theorem pathTo_keeps (scene va : Nat) : SceneKeeps (pathTo rd scene va) := by
  unfold pathTo
  exact sceneKeeps_bind (sceneHeader_keeps hr _) (fun h => sceneKeeps_bind (pathFrom_keeps hr _ _) (fun bs => sceneKeeps_pure _))

theorem readTriWord_keeps (b : BoxRec) (i : Nat) : SceneKeeps (readTriWord rd b i) := by
  unfold readTriWord
  exact sceneKeeps_bind (sceneKeeps_lift (hr _ _)) (fun bs => sceneKeeps_unless (sceneKeeps_pure _))

theorem leafTris_keeps (b : BoxAt) : SceneKeeps (leafTris rd b) :=
  sceneKeeps_mapM (fun _ => sceneKeeps_bind (readTriWord_keeps hr _ _) (fun _ => sceneKeeps_pure _)) _

theorem partnersOf_keeps (scene : Nat) (a : BoxAt) (up : List BoxAt) : SceneKeeps (partnersOf rd scene a up) := by
  refine sceneKeeps_bind (sceneKeeps_mapM (fun va => ?_) _) (fun _ => sceneKeeps_pure _)
  refine sceneKeeps_bind (pathTo_keeps hr _ _) (fun x => ?_)
  split
  · split
    · exact sceneKeeps_bind (leafTris_keeps hr _) (fun _ => sceneKeeps_pure _)
    · exact sceneKeeps_pure _
  · exact sceneKeeps_pure _

theorem snapCheck_keeps (scene va : Nat) : SceneKeeps (snapCheck rd scene va) := by
  refine sceneKeeps_bind (pathTo_keeps hr _ _) (fun x => ?_)
  split
  · exact sceneKeeps_throw _
  · exact sceneKeeps_unless (sceneKeeps_bind (leafTris_keeps hr _)
      (fun _ => sceneKeeps_bind (partnersOf_keeps hr _ _ _) (fun _ => sceneKeeps_pure _)))

theorem animLeaf_keeps (f scene : Nat) : SceneKeeps (animLeaf rd f scene) := by
  refine sceneKeeps_bind (readBox_keeps hr _) (fun r => sceneKeeps_unless (sceneKeeps_bind (pathTo_keeps hr _ _) (fun x => ?_)))
  split
  · exact sceneKeeps_pure _
  · exact sceneKeeps_throw _

theorem animRun_keeps (f scene u uaddr : Nat) : SceneKeeps (animRun rd f scene u uaddr) := by
  refine sceneKeeps_bind (animLeaf_keeps hr _ _) (fun a => sceneKeeps_unless (sceneKeeps_bind (readTriWord_keeps hr _ _) (fun _ => ?_)))
  exact sceneKeeps_ite (sceneKeeps_pure _) (sceneKeeps_pure _)

/-! ### The walk of a ray -/

theorem enterAt_keeps (r : Cells 8) (ray : Ray) (hd : SceneHdr) : ReadKeeps (enterAt rd r ray hd) := by
  refine readKeeps_bind (pathFrom_keeps hr _ _) (fun x => ?_)
  split
  · split <;> exact readKeeps_pure _
  · exact readKeeps_pure _
  · exact readKeeps_pure _

theorem childAt_keeps (r : Cells 8) : ReadKeeps (childAt rd r) := by
  refine readKeeps_bind (readBox_keeps hr _) (fun x => ?_)
  split
  · exact readKeeps_pure _
  · split
    · exact readKeeps_pure _
    · split <;> exact readKeeps_pure _

theorem triangleAt_keeps (r : Cells 8) (ray : Ray) (hd : SceneHdr) : ReadKeeps (triangleAt rd r ray hd) := by
  refine readKeeps_bind (pathFrom_keeps hr _ _) (fun x => ?_)
  split
  · exact readKeeps_pure _
  · exact readKeeps_pure _
  · refine readKeeps_ite (readKeeps_pure _) (readKeeps_ite (readKeeps_pure _) (readKeeps_bind (readTriWord_keeps hr _ _) (fun y => ?_)))
    split
    · exact readKeeps_pure _
    · extract_lets r1
      split <;> exact readKeeps_pure _

theorem ascendAt_keeps (r : Cells 8) (root : Nat) : ReadKeeps (ascendAt rd r root) := by
  unfold ascendAt
  extract_lets pbox
  clear_value pbox
  refine readKeeps_ite (readKeeps_pure _) (readKeeps_bind (readBox_keeps hr _) (fun x => ?_))
  split
  · exact readKeeps_pure _
  refine readKeeps_ite (readKeeps_pure _) (readKeeps_bind (readBox_keeps hr _) (fun y => ?_))
  split
  · exact readKeeps_pure _
  · exact readKeeps_ite (readKeeps_pure _) readKeeps_pair

theorem traceStep_keeps (self : Nat) (r : Cells 8) : ReadKeeps (traceStep rd self r) := by
  unfold traceStep
  extract_lets mode budget r1
  clear_value mode budget r1
  split
  · apply readKeeps_pure
  refine readKeeps_ite ?_ (readKeeps_bind (sceneHeader_keeps hr _) (fun x => ?_))
  · apply readKeeps_pure
  split
  · apply readKeeps_pure
  split
  · exact enterAt_keeps hr _ _ _
  · exact childAt_keeps hr _
  · exact triangleAt_keeps hr _ _ _
  · exact ascendAt_keeps hr _ _

theorem traceStart_keeps (self : Nat) (node : Bool) (r : Cells 8) : ReadKeeps (traceStart rd self node r) := by
  refine readKeeps_bind (sceneHeader_keeps hr _) (fun x => ?_)
  split
  · apply readKeeps_pure
  · split <;> apply readKeeps_pure

theorem tracePop_keeps (scratch r : Cells 8) : ReadKeeps (tracePop rd scratch r) := by
  refine readKeeps_bind (sceneHeader_keeps hr _) (fun x => ?_)
  split
  · apply readKeeps_pure
  · extract_lets k e r1 r2 r3 r4
    clear_value r4
    apply readKeeps_pair

theorem traceBegin_keeps (areaK self : Nat) (scratch : Cells 8) (a : TraceAct) (r : Cells 8) :
    ReadKeeps (traceBegin rd areaK self scratch a r) := by
  unfold traceBegin
  refine readKeeps_ite ?_ ?_
  · apply readKeeps_pure
  split
  · exact traceStart_keeps hr _ _ _
  · refine readKeeps_ite ?_ (readKeeps_ite ?_ (readKeeps_ite ?_ (tracePop_keeps hr _ _))) <;> apply readKeeps_pure
  · apply readKeeps_pair
  · refine readKeeps_ite ?_ ?_
    · apply readKeeps_pair
    · apply readKeeps_pure
  · apply readKeeps_pure

theorem runTrace_wf (self f : Nat) {s : State} (r : Cells 8) (h : Memory.wf s.mem = true) :
    Memory.wf (runTrace rd self f s r).1.mem = true := by
  induction f generalizing s r with
  | zero => exact h
  | succ f ih =>
    have hs := (traceStep_keeps hr self r).ends s h
    unfold runTrace
    split <;> rename_i e <;> rw [e] at hs
    · exact hs
    · exact hs
    · exact ih _ hs

end

/-! ### Batches -/

@[simp] theorem batchMeets_mem (s : State) (u off : Nat) (a : TraceAct) : (batchMeets s u off a).mem = s.mem := by
  unfold batchMeets
  dsimp only
  split
  · split <;> simp
  · simp

theorem runBatch_wf {s : State} {t : Team} {o : EngOp} {a : TraceAct} (h : Memory.wf s.mem = true) :
    Memory.wf (runBatch s t o a).1.mem = true := by
  unfold runBatch
  split
  · exact h
  · extract_lets s1 rd self scratch r
    have h1 : Memory.wf s1.mem = true := by simpa [s1] using h
    have hb := (traceBegin_keeps (engineRead_keeps t) t.desc.scrK self scratch a r).ends s1 h1
    split <;> rename_i e <;> rw [e] at hb
    · exact hb
    · exact hb
    · exact runTrace_wf (engineRead_keeps t) _ _ _ hb

theorem forkBatch_wf {s : State} {o : EngOp} (h : Memory.wf s.mem = true) : Memory.wf (forkBatch s o).mem = true := by
  unfold forkBatch
  split
  · rename_i t a _ _
    split
    · exact h
    · have hb := runBatch_wf (t := t) (o := o) (a := a) h
      split
      next e => rw [e] at hb; exact hb
      · exact h
  · exact h

@[simp] theorem writeRecord_mem (s : State) (u off : Nat) (r : Cells 8) : (writeRecord s u off r).mem = s.mem := by
  unfold writeRecord
  split
  · rfl
  · exact unitStore_mem _ _ _ _

theorem traceOne_wf {i : Instr} {hd : Hdr} {d : Reg} {a : Src} {node : Option Bool} {s : State} {c : Lc}
    (h : Memory.wf s.mem = true) : Memory.wf (traceOne i hd d a node s c).1.mem = true := by
  unfold traceOne
  extract_lets off s1 node'
  have h1 : Memory.wf s1.mem = true := iteState_wf (by simpa using h) h
  refine ite_wf h (ite_wf h (forkRelease_wf h1 (fun s hs => ?_)))
  have ha : ∀ o, Memory.wf (addOp (markUniform s c (c.outDst hd d 1)) o).mem = true := fun o => by simpa using hs
  exact newest_wf (ha _) (fun _ => forkBatch_wf (ha _))

theorem execTraceBatchCompletion_form {op : Nat} {s : State} (h : Memory.wf s.mem = true) :
    KeepsForm (execTraceBatchCompletion op s) := by
  refine event_form ?_
  split
  · rename_i o _
    split
    · rename_i t a _ _
      split
      · exact h
      · have hb := runBatch_wf (t := t) (o := o) (a := a) h
        split
        next e => rw [e] at hb; simpa using hb
        · exact h
    · exact h
  · exact h

/-! ### SPAWNRAY -/

@[simp] theorem spawnrayRead_mem (a cc n : Nat) (s : State) (c : Lc) : (spawnrayRead a cc n s c).1.mem = s.mem := by
  unfold spawnrayRead
  split <;> simp

@[simp] theorem spawnrayOne_mem (hd : Hdr) (d : Reg) (a cc n : Nat) (again : Bool) (s : State) (c : Lc) (x : List Byte × Cells 8) :
    (spawnrayOne hd d a cc n again s c x).1.mem = s.mem := by
  unfold spawnrayOne
  split
  · rfl
  split
  · rfl
  extract_lets r give
  have hg : ∀ s r n, (give s r n).1.mem = s.mem := fun s r n => later_mem _ _ _ _ _ _ _ _
  split
  · exact hg _ _ _
  · split
    dsimp only
    rw [hg, unitStore_mem]
    split
    · rfl
    · split
      · exact unitStore_mem _ _ _ _
      · rfl

/-! ### Records of a lane -/

@[simp] theorem recordStall_mem (s : State) (c : Lc) (x : Stall) : (recordStall s c x).1.mem = s.mem := by
  unfold recordStall
  split
  · rfl
  · split <;> simp

@[simp] theorem recordBad_mem (hd : Hdr) (d : Reg) (n : Nat) (s : State) (c : Lc) (off addr : Nat) (x : Word) :
    (recordBad hd d n s c off addr x).1.mem = s.mem := by
  have hs := scratchStore_mem s c off (leBytes 8 addr)
  unfold recordBad
  split <;> rename_i e <;> rw [e] at hs
  · exact (later_mem _ _ _ _ _ _ _ _).trans hs
  · exact hs

@[simp] theorem blockLoad_mem (s : State) (c : Lc) (va off align n total : Nat) :
    (blockLoad s c va off align n total).1.mem = s.mem := by
  unfold blockLoad
  split <;> simp

theorem boxinOne_wf {hd : Hdr} {d : Reg} {va off : Nat} {s : State} {c : Lc} (h : Memory.wf s.mem = true) :
    Memory.wf (boxinOne hd d va off s c).1.mem = true := by
  unfold boxinOne
  extract_lets b
  have hb : Memory.wf b.1.mem = true := by simpa [b] using h
  clear_value b
  split
  · exact hb
  · rename_i scene _
    have hp : EndsWell (ExceptT.run (pathTo (laneRead c) scene va) b.1) := (pathTo_keeps (laneRead_keeps c) scene va).ends b.1 hb
    split <;> rename_i e <;> rw [e] at hp
    · exact wf_of_mem (recordStall_mem _ _ _) hp
    · exact wf_of_mem (recordBad_mem _ _ _ _ _ _ _ _) hp
    · exact wf_of_mem (recordBad_mem _ _ _ _ _ _ _ _) hp
    · exact wf_of_mem (later_mem _ _ _ _ _ _ _ _) hp

theorem snapOne_wf {hd : Hdr} {d : Reg} {va off : Nat} {s : State} {c : Lc} (h : Memory.wf s.mem = true) :
    Memory.wf (snapOne hd d va off s c).1.mem = true := by
  unfold snapOne
  extract_lets b
  have hb : Memory.wf b.1.mem = true := by simpa [b] using h
  clear_value b
  split
  · exact hb
  · rename_i scene _
    have hp : EndsWell (ExceptT.run (snapCheck (laneRead c) scene va) b.1) := (snapCheck_keeps (laneRead_keeps c) scene va).ends b.1 hb
    split <;> rename_i e <;> rw [e] at hp
    · exact wf_of_mem (recordStall_mem _ _ _) hp
    · exact wf_of_mem (recordBad_mem _ _ _ _ _ _ _ _) hp
    · exact wf_of_mem (later_mem _ _ _ _ _ _ _ _) hp

theorem animStore_wf {s : State} {c : Lc} {va w : Nat} {dn : State → State × LaneRes} (h : Memory.wf s.mem = true)
    (hd : ∀ s, Memory.wf s.mem = true → Memory.wf (dn s).1.mem = true) : Memory.wf (animStore s c va w dn).1.mem = true := by
  unfold animStore
  split
  · simpa using h
  split
  · simpa using h
  split
  · rename_i ia _ _
    have ht := tryStore_wf (c := c) (va := BitVec.ofNat 64 va) (ia := ia) (n := 16) (bs := leBytes 16 w) h
    split
    next e => rw [e] at ht; exact hd _ ht
    · exact ht
  · rename_i ia _ _
    have ht := translateFor_wf s c.space ia 16 .store true h
    split <;> rename_i e <;> rw [e] at ht
    · exact hd _ (storeFor_wf ht)
    · exact ht
    · simpa using ht
    · simpa using ht

theorem animRead_wf {f off : Nat} {s : State} {c : Lc} (h : Memory.wf s.mem = true) : Memory.wf (animRead f off s c).1.mem = true := by
  unfold animRead
  extract_lets b
  have hb : Memory.wf b.1.mem = true := by simpa [b] using h
  clear_value b
  split
  · exact hb
  · rename_i scene _
    have hp : EndsWell (ExceptT.run (animRun (laneRead c) f scene (field b.2 0x10 16) (2 ^ 63 + off + 0x10)) b.1) :=
      (animRun_keeps (laneRead_keeps c) f scene (field b.2 0x10 16) (2 ^ 63 + off + 0x10)).ends b.1 hb
    split <;> rename_i e <;> rw [e] at hp <;> exact hp

theorem animAct_wf {hd : Hdr} {d : Reg} {off : Nat} {s : State} {c : Lc} {x : AnimRead} (h : Memory.wf s.mem = true) :
    Memory.wf (animAct hd d off s c x).1.mem = true := by
  unfold animAct
  split
  · exact h
  · simpa using h
  · extract_lets give
    have hg : ∀ n s, Memory.wf s.mem = true → Memory.wf (give n s).1.mem = true :=
      fun n s hs => wf_of_mem (later_mem _ _ _ _ _ _ _ _) hs
    split
    · simpa using h
    · rename_i p axes
      have hs : Memory.wf (scratchStore s c (off + 0x20) (fineBytes p)).1.mem = true := by simpa using h
      split <;> rename_i e <;> rw [e] at hs
      · exact hg _ _ hs
      · exact hs
    · exact animStore_wf h (hg 0)

/-! ### The raster frame -/

@[simp] theorem binOne_mem (hd : Hdr) (d : Reg) (off : Nat) (word : Word) (s : State) (c : Lc) :
    (binOne hd d off word s c).1.mem = s.mem := by
  unfold binOne
  dsimp only
  repeat' split
  all_goals simp

theorem execBinClose_form {hd : Hdr} {d : Reg} {s : State} (h : Memory.wf s.mem = true) : KeepsForm (execBinClose hd d s) := by
  refine perWarp_form h (fun s c hs => ?_)
  split
  · exact hs
  · split
    · exact hs
    · simpa using hs

@[simp] theorem endClose_mem (s : State) (o : EngOp) : (endClose s o).mem = s.mem := by
  unfold endClose
  split
  · extract_lets slots dst part s1
    have h1 : s1.mem = s.mem := by unfold s1; split <;> rfl
    exact (fold_mem (fun s k => by simp)).trans ((dropOp_mem _ _).trans h1)
  · rfl

theorem execFrameResolved_form {u : Nat} {s : State} (h : Memory.wf s.mem = true) : KeepsForm (execFrameResolved u s) := by
  refine event_form ?_
  split
  · split
    · exact wf_of_mem (fold_mem endClose_mem) h
    · exact h
  · exact h

theorem execBinReset_form {hd : Hdr} {d : Reg} {s : State} (h : Memory.wf s.mem = true) : KeepsForm (execBinReset hd d s) := by
  refine perWarp_form h (fun s c hs => ?_)
  repeat' split
  all_goals exact hs

theorem execVisres_form {hd : Hdr} {d : Reg} {a : Src} {s : State} (h : Memory.wf s.mem = true) : KeepsForm (execVisres hd d a s) := by
  refine perWarp_form h (fun s c hs => ?_)
  dsimp only
  repeat' split
  all_goals exact hs

theorem execPidld_form {hd : Hdr} {d : Reg} {a : Src} {s : State} (h : Memory.wf s.mem = true) : KeepsForm (execPidld hd d a s) := by
  refine perLane_form h (fun s c hs => ?_)
  dsimp only
  repeat' split
  all_goals exact hs

end Sys2Proof.Machine
end

section
/-! SUPPORT. Memory's canonical form through debug stops and commands and through the instructions of page 7. -/

namespace Sys2Proof.Machine

/-! ### Debug stops and events -/

theorem stopLanes_wf {s : State} {t : Team} {wi : Nat} {lanes : List (Nat × Lane)} {kind : Nat} {code : Nat → Nat} {sub : Byte}
    (h : Memory.wf s.mem = true) : Memory.wf (stopLanes s t wi lanes kind code sub).mem = true := by
  unfold stopLanes
  extract_lets ks mark evs
  have hm : Memory.wf (mark s).mem = true := by simpa [mark] using h
  refine iteState_wf ?_ (raiseTrap_wf hm)
  exact wf_of_mem (State.modWarp_mem _ _ _ _) hm

theorem execBreakpointStop_form {team warp : Nat} {lane : Fin 32} {s : State} (h : Memory.wf s.mem = true) :
    KeepsForm (execBreakpointStop team warp lane s) := by
  refine event_form ?_
  split
  · exact iteState_wf h (stopLanes_wf h)
  · exact h

theorem execStepStop_form {team warp : Nat} {s : State} (h : Memory.wf s.mem = true) : KeepsForm (execStepStop team warp s) := by
  refine event_form ?_
  split
  · exact iteState_wf h (stopLanes_wf h)
  · exact h

theorem execDebugEventWrite_form {s : State} (h : Memory.wf s.mem = true) : KeepsForm (execDebugEventWrite s) := by
  refine event_form ?_
  split
  · exact h
  · extract_lets rest
    split
    · exact h
    · exact saveWrite_wf _ _ _ _ (saveWrite_wf _ _ _ _ (saveNat_wf h))

/-! ### Debug commands -/

theorem savedHalt_wf {s : State} {t : Team} {wi : Nat} (h : Memory.wf s.mem = true) : Memory.wf (savedHalt s t wi).mem = true := by
  refine fold_wf h (fun s k hs => ?_)
  refine iteState_wf (saveNat_wf hs) (saveWrite_wf _ _ _ _ ?_)
  exact wf_of_mem (State.modLane_mem _ _ _ _ _) (saveNat_wf hs)

theorem savedResume_wf {s : State} {t : Team} {wi : Nat} (h : Memory.wf s.mem = true) : Memory.wf (savedResume s t wi).mem = true :=
  fold_wf h (fun _ _ hs => iteState_wf (saveWrite_wf _ _ _ _ (saveNat_wf hs)) (saveNat_wf hs))

theorem savedStep_wf {s : State} {t : Team} {wi : Nat} {on : Bool} (h : Memory.wf s.mem = true) :
    Memory.wf (savedStep s t wi on).mem = true := saveWrite_wf _ _ _ _ (saveNat_wf h)

theorem commandHalt_wf {s : State} {t : Team} {wi : Nat} (h : Memory.wf s.mem = true) : Memory.wf (commandHalt s t wi).mem = true := by
  unfold commandHalt
  refine iteState_wf (savedHalt_wf ?_) ?_
  all_goals simpa using h

theorem commandResume_wf {s : State} {t : Team} {wi : Nat} (h : Memory.wf s.mem = true) :
    Memory.wf (commandResume s t wi).mem = true := by
  unfold commandResume
  refine iteState_wf (savedResume_wf ?_) (iteState_wf ?_ ?_)
  all_goals simpa using h

theorem commandStep_wf {on : Bool} {s : State} {t : Team} {wi : Nat} (h : Memory.wf s.mem = true) :
    Memory.wf (commandStep on s t wi).mem = true := by
  unfold commandStep
  refine iteState_wf (savedStep_wf ?_) ?_
  all_goals simpa using h

theorem runCommand_wf {op : Nat} {f : State → Team → Nat → State} {s : State} {space : Nat} (h : Memory.wf s.mem = true)
    (hf : ∀ s t wi, Memory.wf s.mem = true → Memory.wf (f s t wi).mem = true) : Memory.wf (runCommand op f s space).mem = true := by
  unfold runCommand
  split
  · extract_lets bad x wi answer
    have hw : Memory.wf wi.1.mem = true := saveNat_wf (saveNat_wf h)
    have ha : ∀ s r, Memory.wf s.mem = true → Memory.wf (answer s r).mem = true :=
      fun s r hs => wf_of_mem (State.modCtx_mem _ _ _) (saveWrite_wf _ _ _ _ hs)
    clear_value answer wi
    refine iteState_wf h (iteState_wf (ha _ _ hw) (iteState_wf (ha _ _ hw) ?_))
    split
    · exact ha _ _ hw
    split
    · exact ha _ _ hw
    · exact iteState_wf (ha _ _ hw) (iteState_wf h (ha _ _ (hf _ _ _ hw)))
  · exact h

theorem revokeRight_wf {s : State} {space : Nat} (h : Memory.wf s.mem = true) : Memory.wf (revokeRight s space).mem = true :=
  fold_wf (by simpa using h) (fun _ _ hs => fold_wf hs (fun _ _ hs => commandStep_wf (commandResume_wf hs)))

/-! ### Stamps and system registers -/

theorem execStamp_form {hd : Hdr} {src : RegOrImm} {s : State} (h : Memory.wf s.mem = true) : KeepsForm (execStamp hd src s) :=
  perWarp_form h (fun _ _ hs => stamp_wf hs)

theorem writeDbgctl_wf {s : State} {space : Nat} {x : Word} (h : Memory.wf s.mem = true) :
    Memory.wf (writeDbgctl s space x).mem = true := by
  unfold writeDbgctl
  extract_lets s1 s2
  have h1 : Memory.wf s1.mem = true := by simpa [s1] using h
  have h2 : Memory.wf s2.mem = true := iteState_wf h1 (revokeRight_wf h1)
  exact iteState_wf h (iteState_wf (by simpa using h2) h2)

theorem writeCtxReg_wf {s : State} {space num : Nat} {x : Word} (h : Memory.wf s.mem = true) :
    Memory.wf (writeCtxReg s space num x).mem = true := by
  unfold writeCtxReg
  refine iteState_wf (writeDbgctl_wf h) ?_
  repeat' split
  all_goals simpa using h

theorem execMts_form {hd : Hdr} {num : Word} {a : Src} {s : State} (h : Memory.wf s.mem = true) : KeepsForm (execMts hd num a s) := by
  refine perWarp_form h (fun s c hs => ?_)
  refine ite_wf hs (ite_wf (by simpa using hs) (ite_wf (by simpa using hs) (writeCtxReg_wf hs)))

/-! ### ERET and the fences of translations -/

theorem eretOne_wf {s : State} {c : Lc} (h : Memory.wf s.mem = true) : Memory.wf (eretOne s c).1.mem = true := by
  unfold eretOne
  extract_lets attributed s1
  have h1 : Memory.wf s1.mem = true := wf_of_mem (resumeOps_mem _ _ _) (returnFrom_wf h)
  clear_value s1 attributed
  refine ite_wf h ?_
  cases attributed with
  | some x => exact replayAfter_wf h1
  | none => exact h1

@[simp] theorem dropTranslations_mem (s : State) : (dropTranslations s).mem = s.mem := by simp [dropTranslations]

@[simp] theorem hostInvalidate_mem (s : State) (p : TEntry → Bool) : (hostInvalidate s p).1.mem = s.mem := by
  unfold hostInvalidate
  extract_lets stale s1
  split
  · rfl
  · split <;> rfl

theorem fenceMapOne_wf {scope : Scope} {s : State} {c : Lc} (h : Memory.wf s.mem = true) :
    Memory.wf (fenceMapOne scope s c).1.mem = true := by
  have hr := release_wf (a := c.fence) (scope := mapScope scope) h
  unfold fenceMapOne
  split <;> rename_i e <;> rw [e] at hr
  · exact hr
  · exact hr
  · extract_lets s1 r
    have h1 : Memory.wf s1.mem = true := by simpa [s1] using hr
    have h2 : Memory.wf r.1.mem = true := ite_wf (by simpa using h1) h1
    exact ite_wf (by simpa using h2) h2

theorem syncTo_wf {e : TEntry} {s : State} {x : Nat × Nat × Nat} (h : Memory.wf s.mem = true) : Memory.wf (syncTo e s x).mem = true :=
  iteState_wf (deferLine_wf h) (putThrough_wf _ _ _ h)

theorem syncLine_wf {s : State} {x : Nat × Nat × Nat} (h : Memory.wf s.mem = true) : Memory.wf (syncLine s x).mem = true := by
  unfold syncLine
  split
  · exact h
  · exact syncTo_wf h

theorem payOwed_wf {s : State} (h : Memory.wf s.mem = true) : Memory.wf (payOwed s).mem = true :=
  fold_wf h (fun s x hs => fold_wf (s := { s with l1 := x.2 }) hs (fun _ _ hs => syncTo_wf hs))

theorem mapsyncOne_wf {s : State} {c : Lc} (h : Memory.wf s.mem = true) : Memory.wf (mapsyncOne s c).1.mem = true := by
  unfold mapsyncOne
  split
  · exact h
  · exact fold_wf h (fun _ _ hs => syncLine_wf hs)

/-! ### Moving teams -/

@[simp] theorem markEnded_mem (s : State) (t : Team) (x : Saving) : (markEnded s t x).mem = s.mem := by
  refine fold_mem (fun s u => ?_)
  repeat' split
  all_goals simp

theorem saveTeams_wf {s : State} {us : List Nat} {reason : SaveReason} {pooled : Bool} (h : Memory.wf s.mem = true) :
    Memory.wf (us.foldl (fun s u => saveTeam s u reason pooled) s).mem = true := fold_wf h (fun _ _ hs => saveTeam_wf hs)

theorem preemptGroup_wf {s : State} {c : Lc} {t : Team} {x : Saving} {pooled : Bool} (h : Memory.wf s.mem = true) :
    Memory.wf (preemptGroup s c t x pooled).1.mem = true := by
  unfold preemptGroup
  extract_lets us s1
  have h1 : Memory.wf s1.mem = true := by simpa [s1] using h
  clear_value us s1
  split
  · exact ite_wf (saveTeams_wf h) h
  · exact ite_wf (saveTeams_wf h1) (fold_wf h1 (fun _ _ hs => by simpa using hs))

@[simp] theorem keepAsked_mem (s : State) (c : Lc) (f : Nat) : (keepAsked s c f).mem = s.mem :=
  fold_mem (fun _ _ => State.modLane_mem _ _ _ _ _)

theorem preemptOne_wf {hd : Hdr} {d : Reg} {hold : Bool} {f : Nat} {s : State} {c : Lc} (h : Memory.wf s.mem = true) :
    Memory.wf (preemptOne hd d hold f s c).1.mem = true := by
  unfold preemptOne
  extract_lets reason x
  split
  · exact h
  split
  · rename_i t _ _ _
    have hp := preemptGroup_wf (c := c) (t := t) (x := x) (pooled := !hold) h
    split <;> rename_i e <;> rw [e] at hp
    · exact hp
    · simpa using hp
  · exact ite_wf (saveWrite_wf _ _ _ _ h) h
  · exact ite_wf (fold_wf h (fun _ _ hs => by simpa using hs)) h
  · exact h

/-! ### CTXLOAD -/

theorem replayBuffered_wf {s : State} {space : Nat} (h : Memory.wf s.mem = true) :
    Memory.wf (replayBuffered s space).1.mem = true := by
  unfold replayBuffered
  split
  · exact h
  · refine foldFst_wf h (fun r x hr => ?_)
    dsimp only
    split
    · exact hr
    · have ht := translate_wf r.1 space x.1 .store false hr
      split <;> rename_i e <;> rw [e] at ht
      · refine wf_of_mem (State.modCtx_mem _ _ _) ?_
        refine fold_wf ht (fun s j hs => iteState_wf ?_ hs)
        rw [conflicts_mem]
        exact pwrite_wf _ _ _ _ hs
      · exact ht
      · exact ht

theorem replayAtLoad_wf {s : State} {space : Nat} {c : Lc} (h : Memory.wf s.mem = true) :
    Memory.wf (replayAtLoad s space c).1.mem = true := by
  have hl := replayLog_wf (space := space) h
  unfold replayAtLoad
  extract_lets again
  split <;> rename_i e <;> rw [e] at hl
  · exact stopContext_wf (entryIa_wf hl)
  · have hb := replayBuffered_wf (space := space) hl
    split <;> rename_i e <;> rw [e] at hb
    · exact stopContext_wf hb
    · exact hb

theorem execCtxload_form {hd : Hdr} {d : Reg} {a : Src} {s : State} (h : Memory.wf s.mem = true) : KeepsForm (execCtxload hd d a s) := by
  refine perWarp_form h (fun s c hs => ?_)
  have hr := release_wf (a := c.fence) (scope := .d) hs
  split <;> rename_i e <;> rw [e] at hr
  · simpa using hr
  · exact hr
  split
  · exact hr
  · extract_lets r
    have h1 : Memory.wf r.1.mem = true := ite_wf (replayAtLoad_wf hr) hr
    clear_value r
    refine ite_wf hr (ite_wf (by simpa using hr) (ite_wf (by simpa using h1) h1))

/-! ### LEAVE and SETKEY -/

theorem leaveOne_wf {x : Word} {s : State} {c : Lc} (h : Memory.wf s.mem = true) : Memory.wf (leaveOne x s c).1.mem = true := by
  unfold leaveOne
  refine ite_wf h (ite_wf (by simpa using h) ?_)
  split
  · exact ite_wf h h
  · exact h

theorem execLeaveRequestArrival_form {s : State} (h : Memory.wf s.mem = true) : KeepsForm (execLeaveRequestArrival s) := event_form h

theorem execLeaveGrant_form {s : State} (h : Memory.wf s.mem = true) : KeepsForm (execLeaveGrant s) := by
  refine event_form ?_
  split
  · exact h
  · exact iteState_wf h (by simpa using h)

theorem execGrantLapse_form {team : Nat} {s : State} (h : Memory.wf s.mem = true) : KeepsForm (execGrantLapse team s) :=
  event_form (by simpa using h)

/-- Whether the key was read or the lane stalls. -/
theorem readKey_wf {s : State} {c : Lc} {ea : DWord} {ia n : Nat} (h : Memory.wf s.mem = true) :
    Memory.wf (readKey s c ea ia n).1.mem = true ∧
    ∀ s' r, readKey s c ea ia n = (s', .error r) → Memory.wf r.1.mem = true := by
  have ht := translateFor_wf s c.space ia n .load true h
  unfold readKey
  split <;> rename_i e <;> rw [e] at ht
  all_goals
    refine ⟨ht, fun s' r hr => ?_⟩
    cases hr
  all_goals simpa using ht

theorem setkeyOne_wf {hd : Hdr} {d : Reg} {ea : DWord} {owner : Word} {s : State} {c : Lc} (h : Memory.wf s.mem = true) :
    Memory.wf (setkeyOne hd d ea owner s c).1.mem = true := by
  unfold setkeyOne
  refine ite_wf h ?_
  split
  · exact h
  · rename_i ia _
    obtain ⟨hk, hstall⟩ := readKey_wf (c := c) (ea := ea) (ia := ia) (n := 64) h
    extract_lets space
    refine ite_wf h ?_
    split
    next e => exact hstall _ _ e
    next s1 bs e =>
      have h1 : Memory.wf s1.mem = true := wf_of_eq e hk
      exact h1

end Sys2Proof.Machine
end

section
/-! SUPPORT. Memory's canonical form through Hawkmoth: admission, instances, completion, and the placement and the end of teams. -/

namespace Sys2Proof.Machine

/-! ### Reads of records and descriptors -/

theorem hawkRead_keeps (space : Nat) : ReaderKeeps (hawkRead space) := by
  refine fun va n => ⟨fun s h => ?_⟩
  change EndsWell (hawkRead space va n s)
  unfold hawkRead
  cases s.ctx? space with
  | none => exact h
  | some c =>
    dsimp only
    cases rangeCheck c (BitVec.ofNat 64 va) .load with
    | error sub => exact h
    | ok ia =>
      dsimp only
      have ht := translateFor_wf s space ia n .load false h
      revert ht
      rcases translateFor s space ia n .load false with ⟨s', tr | _ | _⟩ <;> exact id

theorem readKeeps_foldlM {α β : Type} {f : β → α → ReadM β} (hf : ∀ b x, ReadKeeps (f b x)) (b : β) (xs : List α) :
    ReadKeeps (xs.foldlM f b) := by
  induction xs generalizing b with
  | nil => exact readKeeps_pure _
  | cons x xs ih =>
    rw [List.foldlM_cons]
    exact readKeeps_bind (hf _ _) (fun _ => ih _)

theorem sceneKeeps_foldlM {α β : Type} {f : β → α → SceneM β} (hf : ∀ b x, SceneKeeps (f b x)) (b : β) (xs : List α) :
    SceneKeeps (xs.foldlM f b) := by
  induction xs generalizing b with
  | nil => exact sceneKeeps_pure _
  | cons x xs ih =>
    rw [List.foldlM_cons]
    exact sceneKeeps_bind (hf _ _) (fun _ => ih _)

theorem hawkBytes_keeps (space va n : Nat) : ReadKeeps (hawkBytes space va n) :=
  readKeeps_foldlM (fun _ _ => readKeeps_bind (hawkRead_keeps _ _ _) (fun _ => readKeeps_pure _)) _ _

theorem hawkTable_keeps (space va n : Nat) {c : Prop} [Decidable c] :
    SceneKeeps (ExceptT.lift (if c then pure [] else hawkBytes space va n)) :=
  sceneKeeps_lift (readKeeps_ite (readKeeps_pure _) (hawkBytes_keeps _ _ _))

theorem readNode_keeps (space va self : Nat) : SceneKeeps (readNode space va self) := by
  refine sceneKeeps_bind (sceneKeeps_lift (hawkBytes_keeps _ _ _)) (fun bs => ?_)
  split
  · exact sceneKeeps_throw _
  · refine sceneKeeps_bind (sceneKeeps_lift (hawkBytes_keeps _ _ _)) (fun succ => ?_)
    refine sceneKeeps_bind (hawkTable_keeps _ _ _) (fun tab => sceneKeeps_bind (hawkTable_keeps _ _ _) (fun _ => ?_))
    refine sceneKeeps_bind (sceneKeeps_lift (hawkBytes_keeps _ _ _)) (fun _ => ?_)
    exact sceneKeeps_ite (sceneKeeps_throw _) (sceneKeeps_pure _)

theorem readRecord_keeps (space slot : Nat) : SceneKeeps (readRecord space slot) := by
  refine sceneKeeps_bind (sceneKeeps_lift (hawkBytes_keeps _ _ _)) (fun bs => ?_)
  split
  · exact sceneKeeps_throw _
  · refine sceneKeeps_bind (sceneKeeps_foldlM (fun _ _ => ?_) _ _) (fun ns => ?_)
    · exact sceneKeeps_bind (readNode_keeps _ _ _) (fun _ => sceneKeeps_pure _)
    · exact sceneKeeps_ite (sceneKeeps_throw _) (sceneKeeps_pure _)

@[simp] theorem hawkAsk_mem (s : State) (space : Nat) (x : Stall) : (hawkAsk s space x).mem = s.mem := by
  unfold hawkAsk askPage
  repeat' split
  all_goals rfl

@[simp] theorem hawkTaken_mem (s : State) (space : Nat) (x : Stall) : (hawkTaken s space x).mem = s.mem := by
  unfold hawkTaken
  split <;> rfl

/-! ### Admission -/

@[simp] theorem settleNodes_mem (s : State) (id f : Nat) : (settleNodes s id f).mem = s.mem := by
  induction f generalizing s with
  | zero => rfl
  | succ f ih =>
    unfold settleNodes
    split
    · rfl
    · split
      · rw [ih, State.modRec_mem]
      · rfl

@[simp] theorem turn_mem (s : State) (n prio : Nat) (again : Bool) : (turn s n prio again).mem = s.mem := rfl

theorem queueDone_wf {s : State} {n idx code : Nat} (h : Memory.wf s.mem = true) : Memory.wf (queueDone s n idx code).mem = true :=
  writePa_wf _ _ _ _ (iteState_wf h (writePa_wf _ _ _ _ h))

theorem openLog_wf {s : State} {c : Context} {n idx : Nat} (h : Memory.wf s.mem = true) : Memory.wf (openLog s c n idx).mem = true := by
  unfold openLog
  split
  · exact h
  · extract_lets rec_ f s1 s2
    have h1 : Memory.wf s1.mem = true := saveWrite_wf _ _ _ _ (saveNat_wf h)
    have h2 : Memory.wf s2.mem = true := saveWrite_wf _ _ _ _ h1
    clear_value s1 s2
    refine iteState_wf h (iteState_wf (fold_wf h2 (fun s k hs => ?_)) h1)
    have ht := streamAt_wf (space := c.space) (stream := k) hs
    split <;> rename_i e <;> rw [e] at ht
    · exact saveWrite_wf _ _ _ _ ht
    · exact ht

theorem openContext_wf {s s' : State} {space : Nat} (e : openContext s space = some s') (h : Memory.wf s.mem = true) :
    Memory.wf s'.mem = true := by
  have hf : ∀ x, (contextOf s space).map
      (fun c => { s with ctxs := s.ctxs.filter (fun x : Context => x.space != space) ++ [c] }) = some x → Memory.wf x.mem = true := by
    intro x hx
    obtain ⟨c, -, rfl⟩ := Option.map_eq_some_iff.mp hx
    exact h
  unfold openContext at e
  dsimp only at e
  split at e
  · split at e
    · cases e
      simpa using h
    · exact hf _ e
  · exact hf _ e

theorem admitRec_wf {s : State} {n : Nat} {q : Queue} {r : Rec} (h : Memory.wf s.mem = true) : Memory.wf (admitRec s n q r).mem = true := by
  unfold admitRec
  extract_lets s1 log s2 s3
  have h1 : Memory.wf s1.mem = true := writePa_wf _ _ _ _ h
  have h3 : Memory.wf s3.mem = true := wf_of_mem (settleNodes_mem s2 _ _) h1
  exact wf_of_mem (turn_mem _ _ _ _) h3

theorem admitQueue_wf {s : State} {n : Nat} {q : Queue} (h : Memory.wf s.mem = true) : Memory.wf (admitQueue s n q).mem = true := by
  unfold admitQueue
  extract_lets space s1
  have h1 : Memory.wf s1.mem = true := queueDone_wf (writePa_wf _ _ _ _ h)
  clear_value s1
  split
  · simpa using h1
  · rename_i s2 e
    have h2 := openContext_wf e h
    have hr : EndsWell (((readRecord space (q.ring + 64 * (q.head % 2 ^ q.lsz))).run).run s2) := (readRecord_keeps _ _).ends s2 h2
    split <;> rename_i e <;> rw [e] at hr
    · exact iteState_wf (wf_of_mem (hawkAsk_mem _ _ _) hr) (admitRec_wf (wf_of_mem (hawkTaken_mem _ _ _) hr))
    · exact admitRec_wf hr
    · extract_lets r
      split
      · exact hr
      · exact iteState_wf (admitRec_wf hr) (admitRec_wf (openLog_wf hr))

theorem overrunQueue_wf {s : State} {n : Nat} (h : Memory.wf s.mem = true) : Memory.wf (overrunQueue s n).mem = true :=
  writePa_wf _ _ _ _ (writePa_wf _ _ _ _ h)

theorem execRecordAdmission_form {queue : Nat} {s : State} (h : Memory.wf s.mem = true) : KeepsForm (execRecordAdmission queue s) := by
  refine event_form ?_
  split
  · exact h
  · exact iteState_wf (overrunQueue_wf h) (iteState_wf (admitQueue_wf h) h)

/-! ### Instances -/

@[simp] theorem addInst_mem (s : State) (r : Rec) (node depth inoff : Nat) (input : List (List Byte)) :
    (addInst s r node depth inoff input).mem = s.mem := rfl

theorem releaseAppends_wf {s : State} {space : Nat} {es : List Emitted} (h : Memory.wf s.mem = true) :
    Memory.wf (releaseAppends s space es).1.mem = true := foldFst_wf h (fun _ _ hr => flushCores_wf hr)

theorem formFrom_wf {s : State} {r : Rec} {node : Nat} {e : Edge} (h : Memory.wf s.mem = true) :
    Memory.wf (formFrom s r node e).mem = true := by
  unfold formFrom
  extract_lets es d x
  clear_value es x
  have hr := releaseAppends_wf (space := r.space) (es := x.1) h
  refine iteState_wf h ?_
  split <;> rename_i e <;> rw [e] at hr
  · exact hr
  · exact hr

theorem execInstanceFormation_form {record node edge : Nat} {s : State} (h : Memory.wf s.mem = true) :
    KeepsForm (execInstanceFormation record node edge s) := by
  refine event_form ?_
  split
  · exact h
  split
  · exact h
  · refine iteState_wf h (iteState_wf (iteState_wf ?_ h) ?_)
    · simpa using h
    · split
      · exact formFrom_wf h
      · exact h

/-! ### Completion -/

theorem hawkWrite_wf {s : State} {space va : Nat} {bs : List Byte} (h : Memory.wf s.mem = true) :
    Memory.wf (hawkWrite s space va bs).1.mem = true := by
  unfold hawkWrite
  split
  · exact h
  split
  · exact h
  · rename_i ia _
    have ht := translateFor_wf s space ia bs.length .store false h
    split <;> rename_i e <;> rw [e] at ht
    · exact memStore_wf _ _ _ _ _ _ _ _ ht
    · exact ht
    · exact ht

theorem writeStatus_wf {s : State} {r : Rec} {code : Nat} (h : Memory.wf s.mem = true) : Memory.wf (writeStatus s r code).1.mem = true := by
  unfold writeStatus
  extract_lets x y
  have hx : Memory.wf x.1.mem = true := ite_wf h (foldFst_wf h (fun _ _ hr => hawkWrite_wf hr))
  exact ite_wf hx (hawkWrite_wf hx)

theorem closeLog_wf {s : State} {r : Rec} (h : Memory.wf s.mem = true) : Memory.wf (closeLog s r).mem = true := by
  unfold closeLog
  split
  · exact h
  · refine iteState_wf h ?_
    rw [State.modCtx_mem]
    split
    · exact saveWrite_wf _ _ _ _ (saveNat_wf h)
    · exact h

@[simp] theorem dropRecs_mem (s : State) : (dropRecs s).mem = s.mem := rfl
@[simp] theorem endRec_mem (s : State) (r : Rec) : (endRec s r).mem = s.mem := by simp [endRec]

theorem completeRecord_wf {s : State} {r : Rec} {code : Nat} (h : Memory.wf s.mem = true) :
    Memory.wf (completeRecord s r code).mem = true := by
  have hf := flushCores_wf (cores := List.range Config.cores) (space := r.space) h
  unfold completeRecord
  split <;> rename_i e <;> rw [e] at hf
  · exact hf
  · have hw := writeStatus_wf (r := r) (code := code) hf
    split <;> rename_i e <;> rw [e] at hw
    · exact hf
    · refine writeStop_wf ?_
      rw [endRec_mem]
      exact closeLog_wf (queueDone_wf hw)

theorem execRecordCompletion_form {record : Nat} {s : State} (h : Memory.wf s.mem = true) : KeepsForm (execRecordCompletion record s) := by
  refine event_form ?_
  split
  · exact h
  split
  · exact completeRecord_wf h
  · exact h

/-! ### Placement -/

theorem execCoreReservation_form {s : State} (h : Memory.wf s.mem = true) : KeepsForm (execCoreReservation s) := by
  refine event_form ?_
  split
  · exact h
  split
  · refine iteState_wf h (iteState_wf h ?_)
    split <;> exact h
  · exact h

theorem fuse_wf {s : State} {core : Nat} {own : Bool} (h : Memory.wf s.mem = true) : Memory.wf (fuse s core own).1.mem = true := by
  unfold fuse
  extract_lets cl here cores spaces r set
  have hr : Memory.wf r.1.mem = true := ite_wf h (foldFst_wf h (fun _ _ hr => flushCores_wf hr))
  exact ite_wf h (ite_wf hr hr)

theorem fuseAll_wf {s : State} {own : Bool} {cores : List Nat} (h : Memory.wf s.mem = true) :
    Memory.wf (fuseAll s own cores).1.mem = true :=
  foldFst_wf h (fun _ _ hr => ite_wf (fuse_wf hr) hr)

@[simp] theorem attach_mem (s : State) (inst core : Nat) : (attach s inst core).mem = s.mem := by
  unfold attach
  split
  · rfl
  · simp

@[simp] theorem addTeam_mem (r : Rec) (i : Inst) (d : Desc) (args : List Word) (tsh : Cells 64) (s : State) (x : (Nat × Nat) × Nat) :
    (addTeam r i d args tsh s x).mem = s.mem := by
  unfold addTeam
  rw [State.modInst_mem, attach_mem]

@[simp] theorem endReservation_mem (s : State) (id : Nat) : (endReservation s id).mem = s.mem := rfl

theorem readLaunch_keeps (space : Nat) (d : Desc) : ReadKeeps (readLaunch space d) := by
  refine readKeeps_bind (hawkBytes_keeps _ _ _) (fun a => readKeeps_ite ?_ ?_)
  · exact readKeeps_bind (readKeeps_pure _) (fun _ => readKeeps_pure _)
  · exact readKeeps_bind (hawkBytes_keeps _ _ _) (fun _ => readKeeps_pure _)

theorem attempted_wf {s s' : State} {x : State × Bool} (e : attempted s x = some s') (h : Memory.wf x.1.mem = true) :
    Memory.wf s'.mem = true := by
  unfold attempted at e
  split at e
  · cases e
    exact h
  · cases e

theorem placeInst_wf {s s' : State} {i : Inst} (e : placeInst s i = some s') (h : Memory.wf s.mem = true) : Memory.wf s'.mem = true := by
  unfold placeInst at e
  split at e
  · rename_i r d site _ _
    have hf := fuseAll_wf (own := d.fusedOwn) (cores := site.map (fun x => x.1.2)) h
    split at e <;> rename_i e1 <;> rw [e1] at hf
    · exact attempted_wf e hf
    · have hr := (readLaunch_keeps r.space d).ends _ hf
      split at e <;> rename_i e2 <;> rw [e2] at hr
      · cases e
        exact stopContext_wf hr
      · exact attempted_wf e hr
      · cases e
        rename_i args tsh s2
        have h3 : Memory.wf (site.foldl (addTeam r i d args tsh) s2).mem = true := wf_of_mem (fold_mem (addTeam_mem r i d args tsh)) hr
        exact iteState_wf h3 h3
  · cases e

theorem switchInst_wf {s : State} {r : Rec} {i : Inst} {d : Desc} {cl : Nat} (h : Memory.wf s.mem = true) :
    Memory.wf (switchInst s r i d cl).mem = true := by
  unfold switchInst
  split
  · exact h
  · dsimp only
    split
    · exact h
    · exact iteState_wf (fold_wf (f := fun s (t : Team) => saveTeam s t.uid .preempt true) h (fun _ _ hs => saveTeam_wf hs)) h

theorem execLogicalClusterSwitch_form {cluster : Nat} {s : State} (h : Memory.wf s.mem = true) :
    KeepsForm (execLogicalClusterSwitch cluster s) := by
  refine event_form (fold_wf h (fun s i hs => ?_))
  split
  · exact switchInst_wf hs
  · exact hs

/-! ### The end of teams and instances -/

theorem endStamps_wf {s : State} {t : Team} (h : Memory.wf s.mem = true) : Memory.wf (endStamps s t).mem = true :=
  stamp_wf (fold_wf h (fun _ _ hs => iteState_wf hs (stamp_wf hs)))

@[simp] theorem settleParts_mem (s : State) : (settleParts s).mem = s.mem := rfl

theorem appendHeld_wf {s : State} {t : Team} (h : Memory.wf s.mem = true) : Memory.wf (appendHeld s t).mem = true := by
  refine fold_wf h (fun s x hs => ?_)
  split
  · exact appendRecord_wf hs
  · exact hs

theorem execTeamGone_form {team : Nat} {s : State} (h : Memory.wf s.mem = true) : KeepsForm (execTeamGone team s) := by
  refine event_form ?_
  split
  · exact h
  · refine iteState_wf h ?_
    rw [settleParts_mem, dropRecs_mem, State.modInst_mem]
    exact appendHeld_wf (endStamps_wf h)

theorem execNodeInstanceEnd_form {inst : Nat} {s : State} (h : Memory.wf s.mem = true) : KeepsForm (execNodeInstanceEnd inst s) := by
  refine event_form ?_
  split
  · exact h
  · extract_lets r s1 whole s2
    have hr : Memory.wf r.1.mem = true := by
      unfold r
      split
      · exact flushCores_wf h
      · exact h
    clear_value r
    refine iteState_wf h (iteState_wf hr ?_)
    rw [settleNodes_mem]
    exact iteState_wf hr hr

end Sys2Proof.Machine
end

section
/-! SUPPORT. Memory's canonical form through restores, pre-emption and faults, Cecropia's migrations and the host link. -/

namespace Sys2Proof.Machine

/-! ### Restoring a team -/

theorem readRaster_wf {s : State} {t : Team} {m : Cells 8} (h : Memory.wf s.mem = true) : Memory.wf (readRaster s t m).1.mem = true := by
  unfold readRaster
  extract_lets word base spill
  split
  · exact h
  · exact saveReadLong_wf h

@[simp] theorem readOps_mem (s : State) (uid : Nat) (m : Cells 8) : (readOps s uid m).mem = s.mem := rfl

theorem refile_wf {s : State} {uid : Nat} (h : Memory.wf s.mem = true) : Memory.wf (refile s uid).mem = true := by
  unfold refile
  split
  · exact h
  · refine fold_wf h (fun s k hs => iteState_wf (by simpa using hs) ?_)
    split
    next e => rw [fileLane_mem e]; exact hs
    next e => rw [State.modLane_mem, fileLane_mem e]; exact hs
    · rw [State.modLane_mem]
      exact bumpCore_wf hs

theorem restoreFrom_wf {s : State} {t : Team} {core : Nat} {m : Cells 8} (h : Memory.wf s.mem = true) :
    Memory.wf (restoreFrom s t core m).mem = true := by
  unfold restoreFrom
  extract_lets rs ctxs r s1 area deferred s2 s3
  have h1 : Memory.wf s1.mem = true := readRaster_wf h
  have h3 : Memory.wf s3.mem = true := by
    unfold s3 s2
    rw [State.modTeam_mem, readOps_mem]
    exact h1
  clear_value s3
  refine retireWarps_wf (refile_wf ?_)
  rw [attach_mem]
  exact h3

theorem restoreOne_wf {s : State} {t : Team} {core : Nat} (h : Memory.wf s.mem = true) : Memory.wf (restoreOne s t core).mem = true := by
  unfold restoreOne
  extract_lets r s1
  have hr : Memory.wf r.1.mem = true := saveReadLong_wf h
  have h1 : Memory.wf s1.mem = true := wf_of_mem (State.modTeam_mem _ _ _) hr
  clear_value s1 r
  split
  · exact stopContext_wf h1
  · exact restoreFrom_wf hr

theorem flushLeft_wf {s : State} {us : List Team} (h : Memory.wf s.mem = true) : Memory.wf (flushLeft s us).1.mem = true :=
  foldFst_wf h (fun _ _ hr => flushCores_wf hr)

theorem restoreGroup_wf {s s' : State} {us : List Team} {site : List (Nat × Nat)} (e : restoreGroup s us site = some s')
    (h : Memory.wf s.mem = true) : Memory.wf s'.mem = true := by
  unfold restoreGroup at e
  have hl := flushLeft_wf (us := us) h
  split at e <;> rename_i e1 <;> rw [e1] at hl
  · exact attempted_wf e hl
  · have hf := fuseAll_wf (own := us.any (fun t => t.desc.fusedOwn)) (cores := site.map (·.2)) hl
    split at e <;> rename_i e2 <;> rw [e2] at hf
    · exact attempted_wf e hf
    · cases e
      refine fold_wf hf (fun s x hs => ?_)
      split
      · exact iteState_wf (restoreOne_wf hs) hs
      · exact hs

theorem restoreAt_wf {s s' : State} {team : Nat} {core : Option Nat} (e : restoreAt s team core = some s')
    (h : Memory.wf s.mem = true) : Memory.wf s'.mem = true := by
  unfold restoreAt at e
  split at e
  · cases e
  split at e
  · obtain ⟨s1, e1, rfl⟩ := Option.map_eq_some_iff.mp e
    exact wf_of_mem (endReservation_mem _ _) (restoreGroup_wf e1 h)
  · cases e

/-- An attempt is made, or the state stays. -/
theorem getD_wf {o : Option State} {s : State} (ho : ∀ s', o = some s' → Memory.wf s'.mem = true) (h : Memory.wf s.mem = true) :
    Memory.wf (o.getD s).mem = true := by
  cases o with
  | none => exact h
  | some s' => exact ho s' rfl

theorem execTeamPlacement_form {inst : Nat} {s : State} (h : Memory.wf s.mem = true) : KeepsForm (execTeamPlacement inst s) := by
  refine event_form ?_
  split
  · refine iteState_wf (getD_wf (fun s' e => ?_) h) h
    obtain ⟨i, -, e⟩ := Option.bind_eq_some_iff.mp e
    exact placeInst_wf e h
  · exact h

theorem execTeamRestore_form {team core : Nat} {s : State} (h : Memory.wf s.mem = true) : KeepsForm (execTeamRestore team core s) := by
  refine event_form ?_
  split
  · exact iteState_wf h (getD_wf (fun s' e => restoreAt_wf e h) h)
  · exact h

/-! ### Pre-emption -/

theorem answerAskers_wf {s : State} {x : Saving} (h : Memory.wf s.mem = true) : Memory.wf (answerAskers s x).mem = true := by
  unfold answerAskers
  split
  · exact commit_wf h
  · exact h

theorem saveGroup_wf {s : State} {us : List Nat} {x : Saving} (h : Memory.wf s.mem = true) : Memory.wf (saveGroup s us x).mem = true := by
  unfold saveGroup
  extract_lets save
  have hs : ∀ s us, Memory.wf s.mem = true → Memory.wf (save s us).mem = true := fun s us hs => saveTeams_wf hs
  clear_value save
  exact iteState_wf (hs _ _ h) (iteState_wf h (hs _ _ (answerAskers_wf (hs _ _ h))))

theorem completedHeader_wf {s : State} {t : Team} {reason : SaveReason} (h : Memory.wf s.mem = true) :
    Memory.wf (completedHeader s t reason).mem = true := saveWrite_wf _ _ _ _ h

theorem execPriorityPreemption_form {team : Nat} {s : State} (h : Memory.wf s.mem = true) : KeepsForm (execPriorityPreemption team s) := by
  refine event_form ?_
  split
  · exact h
  · extract_lets us own
    split
    · exact iteState_wf (stopStep_wf h) (iteState_wf h (iteState_wf (savePages_wf h) (saveGroup_wf h)))
    · rename_i t _ _ _ _ _ _
      have h1 : Memory.wf (markEnded s t own).mem = true := wf_of_mem (markEnded_mem _ _ _) h
      exact iteState_wf h (iteState_wf (fold_wf h1 (fun _ _ hs => by simpa using hs)) (saveTeams_wf h1))
    · exact wf_of_mem (State.modTeam_mem _ _ _) (completedHeader_wf h)
    · exact iteState_wf (completedHeader_wf h) h
    · exact h

/-! ### Faults -/

theorem keepRecord_wf {s : State} {o : EngOp} (h : Memory.wf s.mem = true) : Memory.wf (keepRecord s o).mem = true := by
  unfold keepRecord
  split
  · simpa using runBatch_wf h
  · exact h

theorem execEngineFault_form {op : Nat} {s : State} (h : Memory.wf s.mem = true) : KeepsForm (execEngineFault op s) := by
  refine event_form ?_
  split
  · split
    · exact engineFault_wf (keepRecord_wf h)
    · exact h
  · exact h

theorem execDeferredWriteFault_form {core : Nat} {s : State} (h : Memory.wf s.mem = true) : KeepsForm (execDeferredWriteFault core s) := by
  refine event_form ?_
  split
  · split
    · exact deferLine_wf h
    · exact h
  · exact h

theorem sliceCounter_wf {s : State} {n off : Nat} (h : Memory.wf s.mem = true) : Memory.wf (sliceCounter s n off).mem = true :=
  bumpPa_wf _ _ h

theorem execMcheck_form {space : Nat} {sub : Byte} {ad : DWord} {s : State} (h : Memory.wf s.mem = true) :
    KeepsForm (execMcheck space sub ad s) :=
  event_form (iteState_wf h (iteState_wf (sliceCounter_wf h) (stopContext_wf (iteState_wf h h))))

theorem execSoftErrorCorrection_form {slice : Bool} {n : Nat} {s : State} (h : Memory.wf s.mem = true) :
    KeepsForm (execSoftErrorCorrection slice n s) :=
  event_form (iteState_wf h (iteState_wf (sliceCounter_wf h) (bumpCore_wf h)))

theorem execWarpTimerFire_form {team warp : Nat} {s : State} (h : Memory.wf s.mem = true) : KeepsForm (execWarpTimerFire team warp s) := by
  refine event_form ?_
  split
  · exact iteState_wf h (raiseTrap_wf (by simpa using h))
  · exact h

/-! ### Migration -/

theorem takeFrame_wf {s s' : State} {p : Partition} {big : Bool} {f : Nat} (e : takeFrame s p big = some (s', f))
    (h : Memory.wf s.mem = true) : Memory.wf s'.mem = true := by
  unfold takeFrame at e
  dsimp only at e
  split at e
  · cases e
  split at e
  · cases e
  · cases e
    exact writePa_wf _ _ _ _ h

theorem returnFrame_wf {s : State} {p : Partition} {big : Bool} {frame : Nat} (h : Memory.wf s.mem = true) :
    Memory.wf (returnFrame s p big frame).mem = true := by
  unfold returnFrame
  extract_lets n u s1
  have h1 : Memory.wf s1.mem = true := fold_wf h (fun _ _ hs => writePa_wf _ _ _ _ hs)
  exact iteState_wf h (writePa_wf _ _ _ _ h1)

@[simp] theorem setStage_mem (s : State) (m : Migration) (stage : Nat) : (setStage s m stage).mem = s.mem := rfl
@[simp] theorem dropMig_mem (s : State) (m : Migration) : (dropMig s m).mem = s.mem := rfl
@[simp] theorem moveStored_mem (s : State) (m : Migration) (leafPa : Nat) : (moveStored s m leafPa).mem = s.mem := rfl
@[simp] theorem forgetLeaf_mem (s : State) (leafPa : Nat) : (forgetLeaf s leafPa).mem = s.mem := by simp [forgetLeaf]

theorem execMigrateFreeze_form {space ia : Nat} {s : State} (h : Memory.wf s.mem = true) : KeepsForm (execMigrateFreeze space ia s) := by
  refine event_form ?_
  split
  · exact h
  · refine iteState_wf h ?_
    split
    · exact h
    next e =>
      rw [forgetLeaf_mem]
      exact updateEntry_wf _ _ _ _ (takeFrame_wf e h)

theorem withMig_wf {space ia stage : Nat} {f : State → Migration → Nat × BitVec 128 × Bool → State} {s : State}
    (h : Memory.wf s.mem = true) (hf : ∀ s m x, Memory.wf s.mem = true → Memory.wf (f s m x).mem = true) :
    Memory.wf (withMig space ia stage f s).mem = true := by
  unfold withMig
  split
  · exact h
  · refine iteState_wf h ?_
    split
    · exact iteState_wf (hf _ _ _ h) (returnFrame_wf h)
    · exact returnFrame_wf h

theorem execMigrateCopy_form {space ia : Nat} {s : State} (h : Memory.wf s.mem = true) : KeepsForm (execMigrateCopy space ia s) :=
  event_form (withMig_wf h (fun _ _ _ hs => copyFrame_wf _ _ _ _ _ hs))

theorem execSwing_form {space ia : Nat} {s : State} (h : Memory.wf s.mem = true) : KeepsForm (execSwing space ia s) := by
  refine event_form (withMig_wf h (fun s m x hs => ?_))
  rw [forgetLeaf_mem, setStage_mem, moveStored_mem]
  exact updateEntry_wf _ _ _ _ hs

theorem execUnfreeze_form {space ia : Nat} {s : State} (h : Memory.wf s.mem = true) : KeepsForm (execUnfreeze space ia s) := by
  refine event_form (withMig_wf h (fun s m x hs => returnFrame_wf ?_))
  rw [dropMig_mem, forgetLeaf_mem]
  exact updateEntry_wf _ _ _ _ hs

theorem execHotUpdate_form {k : Nat} {s : State} (h : Memory.wf s.mem = true) : KeepsForm (execHotUpdate k s) := by
  refine event_form ?_
  split
  · exact h
  · rw [conflictFrame_mem]
    exact writePa_wf _ _ _ _ h

/-! ### Reset and bring-up -/

theorem execPkgrst_form {s : State} (h : Memory.wf s.mem = true) : KeepsForm (execPkgrst s) := event_form h

theorem execPowerOn_form {s : State} : KeepsForm (execPowerOn s) := event_form rfl

theorem execLinkTraining_form {s : State} (h : Memory.wf s.mem = true) : KeepsForm (execLinkTraining s) := event_form (iteState_wf h h)

@[simp] theorem failWith_mem (s : State) (code : Byte) : (failWith s code).mem = s.mem := rfl

theorem execMemoryTraining_form {failed : Option (Fin 8)} {s : State} (h : Memory.wf s.mem = true) :
    KeepsForm (execMemoryTraining failed s) := by
  refine event_form (iteState_wf ?_ h)
  split <;> exact h

@[simp] theorem loadImage_mem (s : State) : (loadImage s).mem = s.mem := by
  unfold loadImage
  extract_lets ty
  repeat' split
  all_goals rfl

/-- The command is taken, whatever came of it. -/
theorem takeCommand_mem (s : State) : ({ s with fwCmd := 0 } : State).mem = s.mem := rfl

theorem execLoad_form {s : State} (h : Memory.wf s.mem = true) : KeepsForm (execLoad s) := by
  refine event_form (iteState_wf h (iteState_wf ?_ h))
  rw [takeCommand_mem, loadImage_mem]
  exact h

theorem execAttest_form {s : State} (h : Memory.wf s.mem = true) : KeepsForm (execAttest s) := by
  refine event_form ?_
  split <;> exact h

/-! ### The host control block and partitions -/

@[simp] theorem modPart_mem (s : State) (p : Nat) (f : Partition → Partition) : (s.modPart p f).mem = s.mem := rfl

@[simp] theorem partWrite_mem (s : State) (p o : Nat) (x : Word) : (partWrite s p o x).mem = s.mem := by
  unfold partWrite
  extract_lets q off
  repeat' split
  all_goals rfl

@[simp] theorem hcbPut_mem (s : State) (off : Nat) (x : Word) : (hcbPut s off x).mem = s.mem := by
  unfold hcbPut
  repeat' split
  all_goals simp [pendLo]

theorem execHeavybWrite_form {x : Word} {s : State} (h : Memory.wf s.mem = true) : KeepsForm (execHeavybWrite x s) :=
  event_form (iteState_wf h h)

theorem execPartitionEnable_form {p : Fin 8} {s : State} (h : Memory.wf s.mem = true) : KeepsForm (execPartitionEnable p s) :=
  event_form (iteState_wf h (wf_of_mem (by simp) h))

theorem execPartitionDisable_form {p : Fin 8} {s : State} (h : Memory.wf s.mem = true) : KeepsForm (execPartitionDisable p s) := by
  refine event_form (iteState_wf ?_ (wf_of_mem (settleParts_mem _) h))
  rw [settleParts_mem]
  exact fold_wf h (fun _ _ hs => stopContext_wf hs)

/-! ### The Crazer Link -/

theorem hostAnswer_wf {s s' : State} {space ia : Nat} {write : Bool} (e : hostAnswer s space ia write = some s')
    (h : Memory.wf s.mem = true) : Memory.wf s'.mem = true := by
  unfold hostAnswer at e
  dsimp only at e
  have ht := translate_wf s space ia (if write then .store else .load) false h
  split at e
  · cases e
  · split at e <;> rename_i e1 <;> rw [e1] at ht <;> cases e <;> exact ht

theorem execXreq_form {space ia : Nat} {write : Bool} {s : State} (h : Memory.wf s.mem = true) : KeepsForm (execXreq space ia write s) :=
  event_form (iteState_wf (getD_wf (fun _ e => hostAnswer_wf e h) h) h)

theorem answerHeld_wf {s : State} (h : Memory.wf s.mem = true) : Memory.wf (answerHeld s).mem = true := by
  refine fold_wf h (fun s m hs => ?_)
  split
  · exact getD_wf (fun _ e => hostAnswer_wf e hs) hs
  · exact hs

theorem execXrsp_form {s : State} (h : Memory.wf s.mem = true) : KeepsForm (execXrsp s) := by
  refine event_form ?_
  split
  · split <;> exact h
  · exact h

@[simp] theorem askPage_mem (s : State) (space ia : Nat) : (askPage s space ia).mem = s.mem := by
  unfold askPage
  split <;> rfl

theorem execPreq_form {space ia : Nat} {s : State} (h : Memory.wf s.mem = true) : KeepsForm (execPreq space ia s) :=
  event_form (iteState_wf (wf_of_mem (askPage_mem _ _ _) h) h)

theorem execPrsp_form {accept : Bool} {s : State} (h : Memory.wf s.mem = true) : KeepsForm (execPrsp accept s) := by
  refine event_form ?_
  split
  · exact iteState_wf (wf_of_mem (dropTranslations_mem _) h) h
  · exact h

theorem execInv_form {s : State} (h : Memory.wf s.mem = true) : KeepsForm (execInv s) := by
  refine event_form ?_
  split <;> exact h

theorem execInvack_form {s : State} (h : Memory.wf s.mem = true) : KeepsForm (execInvack s) := event_form (iteState_wf h h)

theorem execHostAccess_form {space ia : Nat} {write : Option Word} {s : State} (h : Memory.wf s.mem = true) :
    KeepsForm (execHostAccess space ia write s) := by
  refine event_form ?_
  split
  · exact iteState_wf h (memStore_wf _ _ _ _ _ _ _ _ h)
  · exact h

theorem evictLine_wf {s : State} {holder space line : Nat} (h : Memory.wf s.mem = true) :
    Memory.wf (evictLine s holder space line).mem = true := by
  unfold evictLine
  extract_lets dirty r
  have hr : Memory.wf r.1.mem = true := ite_wf (writeBackLine_wf _ _ h) h
  clear_value r
  obtain ⟨s1, x⟩ := r
  cases x with
  | wait => exact h
  | fail sub => exact deferLine_wf h
  | ok => exact wf_of_mem (fold_mem (fun s v => abortTry_mem _ _ _ _ _ _)) hr

theorem powerCount_wf {s : State} {core evictions gated : Nat} (h : Memory.wf s.mem = true) :
    Memory.wf (powerCount s core evictions gated).mem = true := by
  unfold powerCount
  extract_lets add
  have ha : ∀ s off n, Memory.wf s.mem = true → Memory.wf (add s off n).mem = true :=
    fun s off n hs => iteState_wf hs (writePa_wf _ _ _ _ hs)
  exact iteState_wf h (ha _ _ _ (ha _ _ _ h))

theorem peerActs_wf {s : State} {p : Peer} (h : Memory.wf s.mem = true) : Memory.wf (peerActs s p).mem = true := by
  cases p with
  | key pkg space key => exact iteState_wf h h
  | invalidate pkg frame => exact iteState_wf h (wf_of_mem (by simp) h)
  | write pkg pa b =>
    refine iteState_wf h ?_
    rw [conflictFrame_mem]
    exact pwrite_wf _ _ _ _ h

theorem execFabricPortFailure_form {peer : Fin 8} {port : Fin 2} {s : State} (h : Memory.wf s.mem = true) :
    KeepsForm (execFabricPortFailure peer port s) := event_form (iteState_wf h h)

end Sys2Proof.Machine
end

section
/-! SUPPORT. Memory's canonical form through every instruction, the issue of a group, the waits and the step. -/

namespace Sys2Proof.Machine

/-! ### Every instruction -/

theorem execBinAgeExpiry_form {core bin : Nat} {s : State} (h : Memory.wf s.mem = true) :
    KeepsForm (execBinAgeExpiry core bin s) :=
  event_form h

theorem execBinFixedAgeExpiry_form {core bin : Nat} {s : State} (h : Memory.wf s.mem = true) :
    KeepsForm (execBinFixedAgeExpiry core bin s) :=
  event_form h

theorem execYieldSkipExpiry_form {team warp : Nat} {s : State} (h : Memory.wf s.mem = true) :
    KeepsForm (execYieldSkipExpiry team warp s) :=
  event_form (wf_of_mem (State.modWarp_mem _ _ _ _) h)

theorem execLoadDataArrival_form {s : State} (h : Memory.wf s.mem = true) : KeepsForm (execLoadDataArrival s) :=
  event_form (wf_of_mem (arrive_mem _ _) h)

theorem execResultWriteback_form {s : State} (h : Memory.wf s.mem = true) : KeepsForm (execResultWriteback s) :=
  event_form (wf_of_mem (arrive_mem _ _) h)

theorem execLateRegionFault_form {team warp : Nat} {s : State} (h : Memory.wf s.mem = true) :
    KeepsForm (execLateRegionFault team warp s) :=
  event_form (takeLate_wf h)

theorem execPageFaultSave_form {team : Nat} {s : State} (h : Memory.wf s.mem = true) : KeepsForm (execPageFaultSave team s) :=
  event_form (pageFaultSave_wf h)

theorem execHalt_form {space : Nat} {s : State} (h : Memory.wf s.mem = true) : KeepsForm (execHalt space s) :=
  event_form (runCommand_wf h (fun _ _ _ hs => commandHalt_wf hs))

theorem execResume_form {space : Nat} {s : State} (h : Memory.wf s.mem = true) : KeepsForm (execResume space s) :=
  event_form (runCommand_wf h (fun _ _ _ hs => commandResume_wf hs))

theorem execStepon_form {space : Nat} {s : State} (h : Memory.wf s.mem = true) : KeepsForm (execStepon space s) :=
  event_form (runCommand_wf h (fun _ _ _ hs => commandStep_wf hs))

theorem execStepoff_form {space : Nat} {s : State} (h : Memory.wf s.mem = true) : KeepsForm (execStepoff space s) :=
  event_form (runCommand_wf h (fun _ _ _ hs => commandStep_wf hs))

theorem execDebugRightRevoke_form {space : Nat} {s : State} (h : Memory.wf s.mem = true) :
    KeepsForm (execDebugRightRevoke space s) :=
  event_form (revokeRight_wf h)

theorem execTmrcmpWrite_form {team warp : Nat} {x : Word} {s : State} (h : Memory.wf s.mem = true) :
    KeepsForm (execTmrcmpWrite team warp x s) :=
  event_form (wf_of_mem (State.modWarp_mem _ _ _ _) h)

theorem execQdestWrite_form {team warp : Nat} {q : Fin 4} {x : Word} {s : State} (h : Memory.wf s.mem = true) :
    KeepsForm (execQdestWrite team warp q x s) :=
  event_form (wf_of_mem (State.modWarp_mem _ _ _ _) h)

theorem execHiWordWrite_form {space : Nat} {num x : Word} {s : State} (h : Memory.wf s.mem = true) :
    KeepsForm (execHiWordWrite space num x s) :=
  event_form (wf_of_mem (State.modCtx_mem _ _ _) h)

theorem execLoWordWrite_form {space : Nat} {num x : Word} {s : State} (h : Memory.wf s.mem = true) :
    KeepsForm (execLoWordWrite space num x s) :=
  event_form (wf_of_mem (State.modCtx_mem _ _ _) h)

theorem execRangeWord0Install_form {space : Nat} {i : Fin 8} {x : Word} {s : State} (h : Memory.wf s.mem = true) :
    KeepsForm (execRangeWord0Install space i x s) :=
  event_form (wf_of_mem (State.modCtx_mem _ _ _) h)

theorem execSysregWrite_form {space : Nat} {num x : Word} {s : State} (h : Memory.wf s.mem = true) :
    KeepsForm (execSysregWrite space num x s) :=
  event_form (iteState_wf (writeCtxReg_wf h) h)

theorem execHcbWrite_form {off : BitVec 16} {x : Word} {s : State} (h : Memory.wf s.mem = true) :
    KeepsForm (execHcbWrite off x s) :=
  event_form (wf_of_mem (hcbPut_mem _ _ _) h)

theorem exec_form {i : Instr} {s : State} (h : Memory.wf s.mem = true) : KeepsForm (exec i s) := by
  cases i
  case nop | bra | brc | jmpi | call | ret | yield | elect | vote | shfl | bar | region | tstat | getid | iadd | isub |
    imul | imulh | imad | iadd64 | imul64 | idiv | irem | imin | imax | iabs | and | or | xor | andn | shl | shr |
    sar | rotl | bfx | bfi | popc | clz | iset | sel | mov | movi | lea | fadd | fsub | fmul | ffma | fmin | fmax |
    fset | fcls | frnd | fscale | fcvt | icvt | hfma2 | hadd2 | hmul2 | bfma2 | cadd | csub | cmul | cfma | cmag2 |
    cscale | tstate | edge | rdclk | rdtmr | trap | mfs =>
    exact pureLanes_form h
  case reform => exact execReform_form h
  case exit => exact execExit_form h
  case spawn => exact execSpawn_form h
  case phase => exact execPhase_form h
  case emit => exact perLane_form h (fun _ _ hs => emitOne_wf hs)
  case tryOpen => exact execTryOpen_form h
  case tcommit | tcommitLane => exact perWarp_form h (fun _ _ hs => tcommitOne_wf hs)
  case tabort => exact execTabort_form h
  case tabortLane => exact execTabortLane_form h
  case brk => exact execBrk_form h
  case ld | lda => exact perLane_form h (fun _ _ hs => loadOne_wf hs)
  case st | stl => exact perLane_form h (fun _ _ hs => storeOne_wf hs)
  case lds => exact execLds_form h
  case sts => exact execSts_form h
  case ldw => exact execLdw_form h
  case stw => exact perLane_form h (fun _ _ hs => wf_of_mem (stwOne_mem _ _ _ _) hs)
  case atomAdd | atomMin | atomMax | atomAnd | atomOr | atomXor | atomXchg | atomFadd => exact atom_form h
  case acas => exact execAcas_form h
  case fence => exact execFence_form h
  case mcast => exact execMcast_form h
  case pref => exact perLane_form h (fun _ _ hs => prefOne_wf hs)
  case tdecl => exact execTdecl_form h
  case tarm => exact execTarm_form h
  case cpyin | cpyout => exact perWarp_form h (fun _ _ hs => copyOne_wf hs)
  case tfree => exact execTfree_form h
  case rrot => exact perWarp_form h (fun _ _ hs => rrotOne_wf hs)
  case rpush => exact execRpush_form h
  case rpop => exact execRpop_form h
  case movTshFromS => exact execMovTshFromS_form h
  case movSFromTsh => exact perWarp_form h (fun _ _ hs => hs)
  case movQFromV => exact execMovQFromV_form h
  case movVFromQ => exact execMovVFromQ_form h
  case mlw | mma | mq => exact perWarp_form h (fun _ _ hs => lunaOne_wf hs)
  case vadd | vsub | vmul | vfma | vmax | vmin => exact vsBin_form h
  case vred | vcvt | vqnt | vdeq | vcpy => exact vsRun_form h
  case voxin => exact perLane_form h (fun _ _ hs => voxinOne_wf hs)
  case bevpool => exact perWarp_form h (fun _ _ hs => bevpoolOne_wf hs)
  case traceNew | trace | tnext | thit => exact perLane_form h (fun _ _ hs => traceOne_wf hs)
  case spawnray =>
    exact perLaneRead_form h (fun _ _ hs => wf_of_mem (spawnrayRead_mem _ _ _ _ _) hs)
      (fun _ _ _ hs => wf_of_mem (spawnrayOne_mem _ _ _ _ _ _ _ _ _) hs)
  case boxin => exact perLane_form h (fun _ _ hs => boxinOne_wf hs)
  case snap => exact perLane_form h (fun _ _ hs => snapOne_wf hs)
  case bin => exact perLane_form h (fun _ _ hs => wf_of_mem (binOne_mem _ _ _ _ _ _) hs)
  case binClose => exact execBinClose_form h
  case binReset => exact execBinReset_form h
  case visres => exact execVisres_form h
  case pidld => exact execPidld_form h
  case anim => exact perLaneRead_form h (fun _ _ hs => animRead_wf hs) (fun _ _ _ hs => animAct_wf hs)
  case stamp => exact execStamp_form h
  case mts => exact execMts_form h
  case eret => exact perWarp_form h (fun _ _ hs => eretOne_wf hs)
  case fenceMap => exact perWarp_form h (fun _ _ hs => fenceMapOne_wf hs)
  case mapsync => exact perWarp_form h (fun _ _ hs => mapsyncOne_wf hs)
  case ctxsave | preempt => exact perWarp_form h (fun _ _ hs => preemptOne_wf hs)
  case ctxload => exact execCtxload_form h
  case leave => exact perWarp_form h (fun _ _ hs => leaveOne_wf hs)
  case setkey => exact perWarp_form h (fun _ _ hs => setkeyOne_wf hs)
  case binAgeExpiry => exact execBinAgeExpiry_form h
  case binFixedAgeExpiry => exact execBinFixedAgeExpiry_form h
  case binSlotFile => exact execBinSlotFile_form h
  case yieldSkipExpiry => exact execYieldSkipExpiry_form h
  case loadDataArrival => exact execLoadDataArrival_form h
  case resultWriteback => exact execResultWriteback_form h
  case barrierCompletion => exact execBarrierCompletion_form h
  case phaseNumberExchange => exact execPhaseNumberExchange_form h
  case cpyinCompletion => exact execCpyinCompletion_form h
  case cpyoutCompletion => exact execCpyoutCompletion_form h
  case mcastRequestArrival => exact execMcastRequestArrival_form h
  case mergeRequestArrival => exact execMergeRequestArrival_form h
  case mergeWindowClose => exact execMergeWindowClose_form h
  case mcastFirstBeatArrival => exact execMcastFirstBeatArrival_form h
  case mcastDeliveryComplete => exact execMcastDeliveryComplete_form h
  case rrotRotation => exact execRrotRotation_form h
  case rrotCompletion => exact execRrotCompletion_form h
  case mlwLatch => exact execMlwLatch_form h
  case mmaCompletion => exact execMmaCompletion_form h
  case mqCompletion => exact execMqCompletion_form h
  case streamVectorCompletion => exact execStreamVectorCompletion_form h
  case voxinInsertion => exact execVoxinInsertion_form h
  case bevpoolCompletion => exact execBevpoolCompletion_form h
  case traceBatchCompletion => exact execTraceBatchCompletion_form h
  case frameResolved => exact execFrameResolved_form h
  case flitArrival => exact execFlitArrival_form h
  case flitRetry => exact execFlitRetry_form h
  case ordAccessArrival => exact execOrdAccessArrival_form h
  case replayGateArrival => exact execReplayGateArrival_form h
  case leaveRequestArrival => exact execLeaveRequestArrival_form h
  case leaveGrant => exact execLeaveGrant_form h
  case grantLapse => exact execGrantLapse_form h
  case translationWalk => exact execTranslationWalk_form h
  case migrateFreeze => exact execMigrateFreeze_form h
  case migrateCopy => exact execMigrateCopy_form h
  case swing => exact execSwing_form h
  case unfreeze => exact execUnfreeze_form h
  case hotUpdate => exact execHotUpdate_form h
  case lateRegionFault => exact execLateRegionFault_form h
  case pageFaultSave => exact execPageFaultSave_form h
  case engineFault => exact execEngineFault_form h
  case deferredWriteFault => exact execDeferredWriteFault_form h
  case mcheck => exact execMcheck_form h
  case softErrorCorrection => exact execSoftErrorCorrection_form h
  case priorityPreemption => exact execPriorityPreemption_form h
  case teamRestore => exact execTeamRestore_form h
  case warpTimerFire => exact execWarpTimerFire_form h
  case recordAdmission =>
    rw [exec]
    exact execRecordAdmission_form h
  case instanceFormation => exact execInstanceFormation_form h
  case teamPlacement => exact execTeamPlacement_form h
  case coreReservation => exact execCoreReservation_form h
  case logicalClusterSwitch => exact execLogicalClusterSwitch_form h
  case teamGone => exact execTeamGone_form h
  case nodeInstanceEnd => exact execNodeInstanceEnd_form h
  case recordCompletion => exact execRecordCompletion_form h
  case breakpointStop => exact execBreakpointStop_form h
  case stepStop => exact execStepStop_form h
  case debugEventWrite => exact execDebugEventWrite_form h
  case halt => exact execHalt_form h
  case resume => exact execResume_form h
  case stepon => exact execStepon_form h
  case stepoff => exact execStepoff_form h
  case debugRightRevoke => exact execDebugRightRevoke_form h
  case tmrcmpWrite => exact execTmrcmpWrite_form h
  case qdestWrite => exact execQdestWrite_form h
  case hiWordWrite => exact execHiWordWrite_form h
  case loWordWrite => exact execLoWordWrite_form h
  case rangeWord0Install => exact execRangeWord0Install_form h
  case sysregWrite => exact execSysregWrite_form h
  case pkgrst => exact execPkgrst_form h
  case load => exact execLoad_form h
  case attest => exact execAttest_form h
  case partitionEnable => exact execPartitionEnable_form h
  case partitionDisable => exact execPartitionDisable_form h
  case heavybWrite => exact execHeavybWrite_form h
  case hcbWrite => exact execHcbWrite_form h
  case powerOn => exact execPowerOn_form
  case linkTraining => exact execLinkTraining_form h
  case memoryTraining => exact execMemoryTraining_form h
  case xreq => exact execXreq_form h
  case xrsp => exact execXrsp_form h
  case preq => exact execPreq_form h
  case prsp => exact execPrsp_form h
  case inv => exact execInv_form h
  case invack => exact execInvack_form h
  case fabricPortFailure => exact execFabricPortFailure_form h
  case hostAccess => exact execHostAccess_form h

/-! ### Time -/

@[simp] theorem passTime_mem (n : Nat) (s : State) : (passTime n s).mem = s.mem := rfl

@[simp] theorem fileAll_mem (s : State) : (fileAll s).mem = s.mem := by
  refine fold_mem (fun s b => ?_)
  split
  · rfl
  · simp

@[simp] theorem tick_mem (n : Nat) (s : State) : (tick n s).mem = s.mem := by
  cases n with
  | zero => rfl
  | succ k => simp [tick]

/-! ### The issue of a group -/

theorem fetch_wf {s : State} {t : Team} {pc : Pc} (h : Memory.wf s.mem = true) : Memory.wf (fetch s t pc).1.mem = true := by
  unfold fetch
  split
  · exact h
  split
  · exact h
  · rename_i ia _
    have ht := translateFor_wf s t.space ia (min 16 (32 - pc.toNat % 32)) .fetch false h
    split <;> rename_i e <;> rw [e] at ht
    · exact ht
    · exact ht
    · exact ite_wf ht (ite_wf ht ht)

@[simp] theorem drawBin_mem (s : State) (b : Bin) (lanes : List (Nat × Nat)) : (drawBin s b lanes).mem = s.mem := by
  unfold drawBin
  rw [fold_mem (fun s k => State.modLane_mem _ _ _ _ _)]
  rfl

@[simp] theorem usePort_mem (s : State) (core port : Nat) : (usePort s core port).mem = s.mem := by
  unfold usePort
  dsimp only
  split <;> rfl

@[simp] theorem skipLanes_mem (s : State) (t : Team) (lanes : List (Nat × Nat)) (pc : Pc) : (skipLanes s t lanes pc).mem = s.mem := by
  unfold skipLanes
  rw [fold_mem (fun s w => State.modWarp_mem _ _ _ _), fold_mem (fun s k => State.modLane_mem _ _ _ _ _)]

theorem runFetched_form {s : State} {t : Team} {lanes : List (Nat × Nat)} {pc : Pc} {f : Fetched} (h : Memory.wf s.mem = true) :
    KeepsForm (runFetched s t lanes pc f) := by
  unfold runFetched
  extract_lets w is s1
  have h1 : Memory.wf s1.mem = true := h
  clear_value s1 is
  cases f with
  | wait => exact finish_form (commit_wf h1)
  | fail cause sub ia => exact finish_form (commit_wf h1)
  | skip => exact finish_form (wf_of_mem (skipLanes_mem _ _ _ _) h1)
  | cross len bits => exact finish_form (commit_wf h1)
  | instr len bits =>
    dsimp only
    split
    · exact finish_form (commit_wf h1)
    · exact exec_form h1

theorem issueGroup_form {s : State} {t : Team} {lanes : List (Nat × Nat)} {pc : Pc} {core port : Nat} (h : Memory.wf s.mem = true) :
    KeepsForm (issueGroup s t lanes pc core port) := by
  have hf := fetch_wf (t := t) (pc := pc) h
  unfold issueGroup
  split <;> rename_i e <;> rw [e] at hf
  · exact runFetched_form hf
  · dsimp only
    split
    · exact runFetched_form hf
    · exact runFetched_form (wf_of_mem (usePort_mem _ _ _) hf)

theorem takeHeld_wf {s : State} {team warp : Nat} (h : Memory.wf s.mem = true) : Memory.wf (takeHeld s team warp).mem = true := by
  unfold takeHeld
  split
  · split
    · exact takeTrap_wf (wf_of_mem (State.modWarp_mem _ _ _ _) h)
    · exact takeTrap_wf (wf_of_mem (State.modWarp_mem _ _ _ _) h)
    · exact h
  · exact h

theorem issueCand_form {s : State} {t : Team} {c : Cand} (h : Memory.wf s.mem = true) : KeepsForm (issueCand s t c) := by
  unfold issueCand
  split
  · exact finish_form (takeHeld_wf h)
  split
  · rename_i b _
    have hd : Memory.wf (drawBin s b c.lanes).mem = true := wf_of_mem (drawBin_mem _ _ _) h
    dsimp only
    split
    · exact issueGroup_form hd
    · exact finish_form hd
  · exact issueGroup_form h

theorem issueFrom_form {s : State} {team warp slot : Nat} (h : Memory.wf s.mem = true) : KeepsForm (issueFrom s team warp slot) := by
  unfold issueFrom
  split
  · exact finish_form h
  split
  · split
    · exact issueCand_form h
    · exact finish_form h
  · exact finish_form h

/-! ### Waits -/

@[simp] theorem waited_mem (s : State) (t : Team) (ks : List (Nat × Nat)) : (waited s t ks).mem = s.mem := by
  unfold waited
  split
  · split <;> simp
  · rfl

@[simp] theorem unblock_mem (s : State) (t : Team) (ks : List (Nat × Nat)) : (unblock s t ks).mem = s.mem := by
  unfold unblock
  rw [fold_mem (fun s k => State.modLane_mem _ _ _ _ _), waited_mem]

theorem retryGroup_wf {s : State} {t : Team} {g : List (Nat × Nat)} (h : Memory.wf s.mem = true) :
    Memory.wf (retryGroup s t g).mem = true := by
  unfold retryGroup
  split
  · rename_i s' e
    have h1 : Memory.wf s'.mem = true := (issueGroup_form h).next s' e
    exact iteState_wf (wf_of_mem (waited_mem _ _ _) h1) (wf_of_mem (unblock_mem _ _ _) h)
  · exact wf_of_mem (unblock_mem _ _ _) h

@[simp] theorem blockGroup_mem (s : State) (t : Team) (g : List (Nat × Nat)) : (blockGroup s t g).mem = s.mem := by
  unfold blockGroup
  split
  · split
    · exact fold_mem (fun s k => State.modLane_mem _ _ _ _ _)
    · rfl
  · rfl

theorem eachGroup_wf {groups : State → Team → List (List (Nat × Nat))} {f : State → Team → List (Nat × Nat) → State} {s : State}
    (h : Memory.wf s.mem = true) (hf : ∀ s t g, Memory.wf s.mem = true → Memory.wf (f s t g).mem = true) :
    Memory.wf (eachGroup groups f s).mem = true := by
  refine fold_wf h (fun r t hr => ?_)
  split
  · refine iteState_wf hr (fold_wf hr (fun r g hr => ?_))
    split
    · exact hf _ _ _ hr
    · exact hr
  · exact hr

@[simp] theorem relockAll_mem (s : State) : (relockAll s).mem = s.mem := rfl

theorem settle_wf {s : State} (h : Memory.wf s.mem = true) : Memory.wf (settle s).mem = true := by
  refine eachGroup_wf (eachGroup_wf ?_ (fun _ _ _ hs => retryGroup_wf hs)) (fun _ _ _ hs => wf_of_mem (blockGroup_mem _ _ _) hs)
  rw [relockAll_mem]
  exact answerHeld_wf (skipGone_wf (payOwed_wf h))

/-! ### The step -/

@[simp] theorem planned_mem (s : State) : (planned s).2.mem = s.mem := by
  unfold planned
  split
  · rfl
  split
  · rfl
  · split <;> rfl

@[simp] theorem nextMove_mem (s : State) : (nextMove s).2.mem = s.mem := by
  have hp := planned_mem s
  unfold nextMove
  dsimp only
  split
  · exact hp
  split
  · rfl
  split
  · exact hp
  · split
    · exact hp
    · dsimp only
      split <;> rfl

theorem runAct_form {a : Act} {s : State} (h : Memory.wf s.mem = true) : KeepsForm (runAct a s) := by
  cases a with
  | event i =>
    rw [runAct]
    split
    · exact finish_form h
    · exact exec_form h
  | named i x =>
    rw [runAct]
    split
    · exact finish_form h
    · exact exec_form h
  | issue t w l => exact issueFrom_form h
  | idle => exact finish_form h
  | evict holder space line => exact finish_form (evictLine_wf h)
  | power core evictions gated => exact finish_form (powerCount_wf h)
  | peer p => exact finish_form (peerActs_wf h)

theorem step_form {s : State} (h : Memory.wf s.mem = true) : KeepsForm (step s) := by
  refine runAct_form ?_
  rw [tick_mem, nextMove_mem]
  exact settle_wf h

/-- Settles O54: every write of a step to memory goes through `pwrite`, `rekeyLine` or `copyFrame`, which keep the form, or
empties it. -/
theorem memoryFormKept : Obligations.MemoryFormKept := by
  unfold Obligations.MemoryFormKept
  intro s s' h hstep
  exact (step_form h).next s' hstep

end Sys2Proof.Machine
end

section
/-! SUPPORT. What a computation on registers writes: for every such instruction the effect of an active lane keeps to the
destination that the instruction names. -/

namespace Sys2Proof.Machine

/-! ### Effects that keep to the destination -/

/-- An effect writes registers and predicates that the instruction names, and only where W does not discard them (R46). -/
structure Fits (i : Instr) (h : Hdr) (e : Eff) : Prop where
  upd : e.upd = id
  regs : ∀ r ∈ e.regs, h.nw = false ∧ (info i).dst.holds r.1 = true
  preds : ∀ p ∈ e.preds, h.nw = false ∧ predDst i = some p.1

/-- A lane that only goes on, wherever it goes. -/
theorem fits_pc {i : Instr} {h : Hdr} {pc : Option Pc} {count : Bool} : Fits i h { pc := pc, count := count } :=
  ⟨rfl, by simp, by simp⟩

theorem Fits.to {i : Instr} {h : Hdr} {e : Eff} (F : Fits i h e) (pc : Option Pc) : Fits i h { e with pc := pc } :=
  ⟨F.upd, F.regs, F.preds⟩

theorem holds_one (d : Reg) : (Dst.one d).holds d = true := by cases d <;> simp [Dst.holds]

/-- Both registers of an even pair lie in the destination (R149). -/
theorem holds_pair {d : Reg} {k : Nat} (hd : regOdd d = false) (hk : k < 2) : (Dst.many d 2).holds (regAfter d k) = true := by
  cases d with
  | v n =>
    have hn : n.val % 2 = 0 := by simpa [regOdd] using hd
    have he : (n.val + k) % 192 = n.val + k := Nat.mod_eq_of_lt (by omega)
    simp only [Dst.holds, regAfter, Fin.ofNat, he, Bool.and_eq_true, decide_eq_true_eq]
    omega
  | s n =>
    have hn : n.val % 2 = 0 := by simpa [regOdd] using hd
    have he : (n.val + k) % 64 = n.val + k := Nat.mod_eq_of_lt (by omega)
    simp only [Dst.holds, regAfter, Fin.ofNat, he, Bool.and_eq_true, decide_eq_true_eq]
    omega

theorem fits_dst1 {i : Instr} {h : Hdr} {d : Reg} {x : Word} (hd : (info i).dst = .one d) : Fits i h (dst1 h d x) := by
  refine ⟨rfl, fun r hr => ?_, by simp [dst1]⟩
  rw [hd]
  cases hw : h.nw with
  | true => simp [dst1, hw] at hr
  | false =>
    obtain rfl : r = (d, x) := by simpa [dst1, hw] using hr
    exact ⟨rfl, holds_one d⟩

theorem fits_dst2 {i : Instr} {h : Hdr} {d : Reg} {x : DWord} (hd : (info i).dst = .many d 2) (ho : regOdd d = false) :
    Fits i h (dst2 h d x) := by
  refine ⟨rfl, fun r hr => ?_, by simp [dst2, dstN]⟩
  rw [hd]
  cases hw : h.nw with
  | true => simp [dst2, dstN, hw] at hr
  | false =>
    simp only [dst2, dstN, hw, Bool.false_eq_true, if_false, List.mem_map, List.mem_range] at hr
    obtain ⟨k, hk, rfl⟩ := hr
    exact ⟨rfl, holds_pair ho hk⟩

theorem fits_dstP {i : Instr} {h : Hdr} {p : Fin 8} {b : Bool} (hp : predDst i = some p) : Fits i h (dstP h p b) := by
  refine ⟨rfl, by simp [dstP], fun q hq => ?_⟩
  cases hw : h.nw with
  | true => simp [dstP, hw] at hq
  | false =>
    obtain rfl : q = (p, b) := by simpa [dstP, hw] using hq
    exact ⟨rfl, hp⟩

/-- An active lane of a group that passes the checks writes an even pair (R161). -/
theorem Ctx.even {s : State} {i : Instr} {h : Hdr} {is : Issue} {t : Team} (G : Issuing s i h is t) {c : Lc} {w : Warp} {l : Lane}
    (C : Ctx s i h is t c w l) {d : Reg} {n : Nat} (hd : (info i).dst = .many d n) : regOdd d = false := by
  obtain ⟨⟨hk, hw, hl⟩, hg⟩ := C.active
  exact (pair_checks (G.checks _ hk w l hw hl hg) hd).2

/-! ### Where a jump goes -/

theorem jumpTo_done {x : DWord} (h4 : x.toNat % 4 = 0) (h56 : x.toNat < 2 ^ 56) : jumpTo x = .done { pc := some (x.setWidth 56) } := by
  have hlow : x.extractLsb' 0 2 = 0 := by
    apply BitVec.eq_of_toNat_eq
    simpa [BitVec.extractLsb'_toNat] using h4
  have hhigh : x.extractLsb' 56 8 = 0 := by
    apply BitVec.eq_of_toNat_eq
    simp [BitVec.extractLsb'_toNat, Nat.shiftRight_eq_div_pow]
    omega
  simp [jumpTo, hlow, hhigh]

/-- The course of an instruction on registers: one function from the lane to its effect, which keeps to the destination. -/
def Computes (s : State) (i : Instr) (h : Hdr) (is : Issue) (t : Team) (f : Lc → LaneRes) : Prop :=
  ∀ c w l, Ctx s i h is t c w l → ∃ e, f c = .done e ∧ Fits i h e

section
variable {s : State} {h : Hdr} {is : Issue} {t : Team}

/-- A division completes unless it is one by 0 under TZ (R202). -/
theorem computes_div {i : Instr} {tz : Bool} {d : Reg} {b : SrcI} {q : Lc → Word} (G : Issuing s i h is t)
    (hd : (info i).dst = .one d) (hb : ∀ a, b = .reg a → ∃ n, (a, n) ∈ (info i).srcs)
    (hq : ∀ k w l, Active t is h k w l → (tz && readSrcI w l b == 0) = false) :
    Computes s i h is t (fun c => if tz && c.srcI b == 0 then trapped cARITH 0 else .done (dst1 h d (q c))) := by
  intro c w l C
  have hz : (tz && c.srcI b == 0) = false := by rw [C.srcI G b hb]; exact hq _ w l C.active
  exact ⟨_, if_neg (by rw [hz]; exact Bool.false_ne_true), fits_dst1 hd⟩

/-- A jump completes where its register holds an instruction address (R146). -/
theorem computes_jump {i : Instr} {a : Src} (G : Issuing s i h is t) (ha : (a, 2) ∈ (info i).srcs)
    (hj : ∀ k w l, Active t is h k w l → (readPair w l a).toNat % 4 = 0 ∧ (readPair w l a).toNat < 2 ^ 56) :
    Computes s i h is t (fun c => jumpTo (c.pair a)) := by
  intro c w l C
  obtain ⟨h4, h56⟩ := hj _ w l C.active
  rw [← C.pair G a 2 ha] at h4 h56
  exact ⟨_, jumpTo_done h4 h56, fits_pc⟩

theorem jumps_of_some {w : Warp} {l : Lane} {a : Src}
    (hj : ((if (readPair w l a).toNat % 4 = 0 ∧ (readPair w l a).toNat < 2 ^ 56
      then some (BitVec.ofNat 56 (readPair w l a).toNat) else none : Option Pc)).isNone = false) :
    (readPair w l a).toNat % 4 = 0 ∧ (readPair w l a).toNat < 2 ^ 56 := by
  by_contra hn
  rw [if_neg hn] at hj
  cases hj

/-- A conversion writes a pair when it gives a 64-bit integer, else one register (R217). -/
theorem computes_icvt {dir : Bool} {ft : FTy} {it : ITy} {rm : Rm} {d : Reg} {a : Src} (G : Issuing s (.icvt h dir ft it rm d a) h is t) :
    Computes s (.icvt h dir ft it rm d a) h is t (fun c =>
      if dir then
        let n := toInteger ft it rm (c.src a)
        if it == .s64 then .done (dst2 h d (BitVec.ofInt 64 n)) else .done (dst1 h d (BitVec.ofInt 32 n))
      else
        let x := if it == .s64 then (c.pair a).toNat else (c.src a).toNat
        .done (dst1 h d (toFloat ft rm (itRead it x)))) := by
  intro c w l C
  have hdst : (info (.icvt h dir ft it rm d a)).dst = dstOf d (if it == .s64 && dir then 2 else 1) := rfl
  cases dir with
  | false => exact ⟨_, rfl, fits_dst1 (by rw [hdst, Bool.and_false]; rfl)⟩
  | true =>
    cases h64 : it == .s64 with
    | true =>
      have hd : (info (.icvt h true ft it rm d a)).dst = .many d 2 := by rw [hdst, h64]; rfl
      exact ⟨_, rfl, fits_dst2 hd (C.even G hd)⟩
    | false => exact ⟨_, rfl, fits_dst1 (by rw [hdst, h64]; rfl)⟩

/-- Every instruction on registers is such a computation. -/
theorem exec_onRegisters {i : Instr} (hr : onRegisters i = true) (G : Issuing s i h is t)
    (htrap : ∀ k w l, Active t is h k w l → trapsOn is w l i = false) :
    ∃ f, exec i s = pureLanes i h s f ∧ Computes s i h is t f := by
  cases i
  case nop | bra | brc =>
    cases G.hdr
    exact ⟨_, rfl, fun _ _ _ _ => ⟨_, rfl, fits_pc⟩⟩
  case jmpi | ret =>
    cases G.hdr
    exact ⟨_, rfl, computes_jump G (List.mem_singleton.mpr rfl) (fun k w l A => jumps_of_some (htrap k w l A))⟩
  case call =>
    cases G.hdr
    exact ⟨_, rfl, fun _ _ _ C => ⟨_, rfl, (fits_dst2 rfl (C.even G rfl)).to _⟩⟩
  case elect | iset | fset =>
    cases G.hdr
    exact ⟨_, rfl, fun _ _ _ _ => ⟨_, rfl, fits_dstP rfl⟩⟩
  case vote _ op _ =>
    cases G.hdr
    refine ⟨_, rfl, fun _ _ _ _ => ?_⟩
    cases op with
    | all p => exact ⟨_, rfl, fits_dstP rfl⟩
    | any p => exact ⟨_, rfl, fits_dstP rfl⟩
    | eq p => exact ⟨_, rfl, fits_dstP rfl⟩
    | ballot d => exact ⟨_, rfl, fits_dst1 rfl⟩
  case movi _ _ x =>
    cases G.hdr
    refine ⟨_, rfl, fun _ _ _ C => ?_⟩
    cases x with
    | i32 x => exact ⟨_, rfl, fits_dst1 rfl⟩
    | i64 x => exact ⟨_, rfl, fits_dst2 rfl (C.even G rfl)⟩
  case icvt =>
    cases G.hdr
    exact ⟨_, rfl, computes_icvt G⟩
  case idiv | irem =>
    cases G.hdr
    refine ⟨_, rfl, computes_div G rfl (fun a e => ?_) htrap⟩
    subst e
    exact ⟨1, by simp [info, alu2, alu, usesI]⟩
  case iadd64 | imul64 | lea | cadd | csub | cmul | cfma | cscale =>
    cases G.hdr
    exact ⟨_, rfl, fun _ _ _ C => ⟨_, rfl, fits_dst2 rfl (C.even G rfl)⟩⟩
  case shfl | tstat | getid | iadd | isub | imul | imulh | imad | imin | imax | iabs | and | or | xor | andn | shl | shr | sar |
      rotl | bfx | bfi | popc | clz | sel | mov | fadd | fsub | fmul | ffma | fmin | fmax | fcls | frnd | fscale | fcvt | hfma2 |
      hadd2 | hmul2 | bfma2 | cmag2 =>
    cases G.hdr
    exact ⟨_, rfl, fun _ _ _ _ => ⟨_, rfl, fits_dst1 rfl⟩⟩
  all_goals cases hr

end

end Sys2Proof.Machine
end

section
/-! SUPPORT. What the commit of a group that computes on registers leaves alone: of the accesses, results and operations on
their way, of a warp and of a lane. -/

namespace Sys2Proof.Machine

/-! ### Accesses, results and operations on their way -/

/-- The two states have the same accesses, results and operations on their way, but for what of them is overtaken. -/
structure SameInFlight (s s' : State) : Prop where
  accs : s'.accs.map Access.plain = s.accs.map Access.plain
  results : s'.results.map Result.plain = s.results.map Result.plain
  ops : s'.ops.map EngOp.plain = s.ops.map EngOp.plain

theorem SameInFlight.refl (s : State) : SameInFlight s s := ⟨rfl, rfl, rfl⟩

theorem SameInFlight.trans {a b c : State} (h : SameInFlight a b) (k : SameInFlight b c) : SameInFlight a c :=
  ⟨k.accs.trans h.accs, k.results.trans h.results, k.ops.trans h.ops⟩

theorem overtake_inFlight (s : State) (u w k : Nat) (rs : List Reg) (b : Option (Fin 4)) : SameInFlight s (overtake s u w k rs b) := by
  unfold overtake
  split
  · exact .refl s
  · refine ⟨?_, ?_, ?_⟩
    all_goals
      dsimp only
      rw [List.map_map]
      rfl

theorem overtakes_inFlight (u : Nat) (rs : List ((Nat × Nat) × LaneRes)) (s : State) : SameInFlight s (rs.foldl (overtakes u) s) := by
  induction rs generalizing s with
  | nil => exact .refl s
  | cons r rs ih =>
    refine SameInFlight.trans ?_ (ih _)
    unfold overtakes
    split
    · exact overtake_inFlight _ _ _ _ _ _
    · exact .refl s

theorem commit_inFlight (s : State) (is : Issue) (rs : List ((Nat × Nat) × LaneRes)) (h : Untrapped rs) :
    SameInFlight s (commit s is rs) := by
  have hf := overtakes_inFlight is.team rs s
  unfold commit
  rw [trapWarps_untrapped _ _ _ h]
  exact ⟨hf.accs, hf.results, hf.ops⟩

/-! ### The results of a group -/

theorem resOf_mem {rs : List ((Nat × Nat) × LaneRes)} {i j : Nat} {r : LaneRes} (hn : (rs.map (·.1)).Nodup) (hr : ((i, j), r) ∈ rs) :
    resOf rs i j = r := by
  unfold resOf
  split
  next x e =>
    have hx : x.1 = (i, j) := by simpa using List.find?_some e
    rw [List.inj_on_of_nodup_map hn (List.mem_of_find?_eq_some e) hr hx]
  next e => exact absurd (List.find?_eq_none.mp e _ hr) (by simp)

theorem resOf_none {rs : List ((Nat × Nat) × LaneRes)} {i j : Nat} (h : ∀ r, ((i, j), r) ∉ rs) : resOf rs i j = .stay := by
  unfold resOf
  split
  next x e =>
    have hx : x.1 = (i, j) := by simpa using List.find?_some e
    exact absurd (List.mem_of_find?_eq_some e) (by rw [← Prod.mk.eta (p := x), hx]; exact h _)
  next => rfl

section
variable {t : Team} {is : Issue} {h : Hdr} {e : Nat × Nat → Eff} {i j : Nat}

theorem resOf_active (hn : is.lanes.Nodup) (ha : (i, j) ∈ activeLanes t is h) : resOf (groupResults t is h e) i j = .done (e (i, j)) :=
  resOf_mem (groupResults_keys t is h e hn) (List.mem_append_left _ (List.mem_map.mpr ⟨_, ha, rfl⟩))

theorem resOf_idle (hn : is.lanes.Nodup) (hm : (i, j) ∈ is.lanes) (ha : (i, j) ∉ activeLanes t is h) :
    resOf (groupResults t is h e) i j = .done { count := false } := by
  refine resOf_mem (groupResults_keys t is h e hn) (List.mem_append_right _ (List.mem_map.mpr ⟨_, ?_, rfl⟩))
  exact List.mem_filter.mpr ⟨hm, by simpa using ha⟩

theorem resOf_other (hm : (i, j) ∉ is.lanes) : resOf (groupResults t is h e) i j = .stay := by
  refine resOf_none (fun r hr => hm ?_)
  simp only [groupResults, idleLanes, List.mem_append, List.mem_map, Prod.mk.injEq] at hr
  obtain ⟨k, hk, rfl, -⟩ | ⟨k, hk, rfl, -⟩ := hr
  · exact List.mem_of_mem_filter hk
  · exact List.mem_of_mem_filter hk
end

/-! ### Registers and predicates that are not written -/

theorem rdV_puts {rs : List (Reg × Word)} {n : Fin 192} {l : Lane} (h : ∀ r ∈ rs, r.1 ≠ .v n) :
    (rs.foldl Lane.put l).rdV n.val = l.rdV n.val := by
  induction rs generalizing l with
  | nil => rfl
  | cons r rs ih =>
    rw [List.foldl_cons, ih (fun x hx => h x (List.mem_cons_of_mem _ hx))]
    have hr := h r List.mem_cons_self
    obtain ⟨r, x⟩ := r
    cases r with
    | s m => rfl
    | v m =>
      have hm : n.val ≠ m.val := fun e => hr (by rw [Fin.ext e])
      exact cget_cset_ne _ _ hm

theorem rdS_puts {rs : List (Reg × Word)} {n : Fin 64} {w : Warp} (h : ∀ r ∈ rs, r.1 ≠ .s n) :
    (rs.foldl Warp.put w).rdS n.val = w.rdS n.val := by
  induction rs generalizing w with
  | nil => rfl
  | cons r rs ih =>
    rw [List.foldl_cons, ih (fun x hx => h x (List.mem_cons_of_mem _ hx))]
    have hr := h r List.mem_cons_self
    obtain ⟨r, x⟩ := r
    cases r with
    | v m => rfl
    | s m =>
      have hm : n.val ≠ m.val := fun e => hr (by rw [Fin.ext e])
      unfold Warp.put Warp.wrS Warp.rdS
      split
      · rfl
      · dsimp only
        split
        · rfl
        · exact cget_cset_ne _ _ hm

theorem rdP_wrP {l : Lane} {p q : Fin 8} {b : Bool} (h : q ≠ p) : (l.wrP q b).rdP p = l.rdP p := by
  have hbit : (BitVec.ofNat 7 (2 ^ q.val)).getLsbD p.val = false := by
    have hne : q.val ≠ p.val := fun e => h (Fin.ext e)
    rw [BitVec.getLsbD_ofNat, Nat.testBit_two_pow]
    simp [hne]
  unfold Lane.wrP
  split
  · rfl
  · by_cases hp : p = 7
    · simp [Lane.rdP, hp]
    · have hlt : p.val < 7 := by omega
      cases b
      · simp only [Lane.rdP, Bool.false_eq_true, if_false, BitVec.getLsbD_and, BitVec.getLsbD_not, hbit, hlt, decide_true,
          Bool.not_false, Bool.and_true]
      · simp only [Lane.rdP, if_true, BitVec.getLsbD_or, hbit, Bool.or_false]

theorem rdP_putPs {ps : List (Fin 8 × Bool)} {p : Fin 8} {l : Lane} (h : ∀ q ∈ ps, q.1 ≠ p) :
    (ps.foldl Lane.putP l).rdP p = l.rdP p := by
  induction ps generalizing l with
  | nil => rfl
  | cons q ps ih =>
    rw [List.foldl_cons, ih (fun x hx => h x (List.mem_cons_of_mem _ hx))]
    exact rdP_wrP (h q List.mem_cons_self)

/-! ### A lane after its result -/

/-- A lane as its result leaves it (R17, R48, R186, R386). -/
def laneWith (is : Issue) (now : Nat) (sup : Bool) (r : LaneRes) (l : Lane) : Lane := passLane sup r (commitLane is now r l)

@[simp] theorem laneWith_stay (is : Issue) (now : Nat) (sup : Bool) (l : Lane) : laneWith is now sup .stay l = l := by
  cases sup <;> rfl

theorem laneWith_done {e : Eff} (hu : e.upd = id) (is : Issue) (now : Nat) (sup : Bool) (l : Lane) :
    laneWith is now sup (.done e) l = { l with
      v := (e.regs.foldl Lane.put l).v, p := (e.preds.foldl Lane.putP l).p, bp := (l.putBp e.latch).bp
      pc := e.pc.getD is.after, regionCnt := if e.count then l.regionCnt + 1 else l.regionCnt
      group := is.id, groupN := is.lanes.length, st := .ready, wait := .retry, since := now
      stepped := l.stepped || !sup, bpPass := if sup then l.bpPass else none } := by
  unfold laneWith
  simp only [commitLane, effLane_eq, hu, id]
  cases sup <;> simp [passLane, LaneRes.passed, LaneRes.trap?, Issue.after]

/-- A lane that completes with an effect that keeps to the destination. -/
theorem laneKeeps_done {i : Instr} {h : Hdr} {writes sup : Bool} {e : Eff} {is : Issue} {now : Nat} {l : Lane} (F : Fits i h e)
    (hw : h.nw = false → writes = true) : LaneKeeps i writes l (laneWith is now sup (.done e) l) := by
  have hv : ∀ n : Fin 192, (writes && (info i).dst.holds (.v n)) = false → (e.regs.foldl Lane.put l).rdV n.val = l.rdV n.val := by
    refine fun n hn => rdV_puts (fun r hr hrn => ?_)
    obtain ⟨hnw, hd⟩ := F.regs r hr
    rw [hw hnw, ← hrn, hd] at hn
    cases hn
  have hp : ∀ p : Fin 8, (writes && predDst i == some p) = false → (e.preds.foldl Lane.putP l).rdP p = l.rdP p := by
    refine fun p hn => rdP_putPs (fun q hq hqp => ?_)
    obtain ⟨hnw, hd⟩ := F.preds q hq
    rw [hw hnw, hd, hqp] at hn
    simp at hn
  rw [laneWith_done F.upd]
  exact ⟨hv, hp, rfl, rfl, rfl, rfl, rfl, rfl, rfl, rfl⟩

theorem laneKeeps_refl (i : Instr) (writes : Bool) (l : Lane) : LaneKeeps i writes l l :=
  ⟨fun _ _ => rfl, fun _ _ => rfl, rfl, rfl, rfl, rfl, rfl, rfl, rfl, rfl⟩

/-- Latches are no part of what a lane keeps here. -/
theorem LaneKeeps.ofNoBp {i : Instr} {writes : Bool} {l l' : Lane} (K : LaneKeeps i writes l.noBp l') : LaneKeeps i writes l l' := K

/-! ### A warp after the results of its lanes -/

theorem commitWarp_get (is : Issue) (now : Nat) (rs : List ((Nat × Nat) × LaneRes)) (i j : Nat) (w : Warp) :
    (commitWarp is now rs i w).lanes[j]? = (w.lanes[j]?).map (laneWith is now w.sup (resOf rs i j)) := by
  unfold commitWarp
  dsimp only
  split
  next he =>
    have hnone : resOf rs i j = .stay := by
      refine resOf_none (fun r hr => ?_)
      have hm : ((i, j), r) ∈ rs.filter (fun r => r.1.1 == i) := List.mem_filter.mpr ⟨hr, beq_self_eq_true i⟩
      rw [List.isEmpty_iff.mp he] at hm
      cases hm
    rw [hnone]
    cases w.lanes[j]? <;> simp
  next =>
    rw [relock_lanes]
    simp only [List.getElem?_map, List.getElem?_zipIdx, Option.map_map]
    cases w.lanes[j]? <;> simp [laneWith]

theorem commitS_frame (is : Issue) (e : Option Eff) (i : Nat) (w : Warp) :
    commitS is e i w = { w with s := (commitS is e i w).s, uconflict := (commitS is e i w).uconflict } := by
  unfold commitS
  split
  · dsimp only
    rw [effWarp_frame]
  · rfl

theorem commitWarp_frame (is : Issue) (now : Nat) (rs : List ((Nat × Nat) × LaneRes)) (i : Nat) (w : Warp) :
    commitWarp is now rs i w = { w with
      lanes := (commitWarp is now rs i w).lanes, s := (commitWarp is now rs i w).s
      stack := (commitWarp is now rs i w).stack, uconflict := (commitWarp is now rs i w).uconflict } := by
  unfold commitWarp
  dsimp only
  split
  · rfl
  · rw [relock_frame, commitS_frame]

end Sys2Proof.Machine
end

section
/-! SUPPORT. The frame of the instructions that compute on registers. -/

namespace Sys2Proof.Machine

/-! ### A warp of the group's team -/

theorem commitWarp_uconflict (is : Issue) (now : Nat) (rs : List ((Nat × Nat) × LaneRes)) (i : Nat) (w : Warp) :
    (commitWarp is now rs i w).uconflict =
      (commitS is (((rs.filter (fun r => r.1.1 == i)).filterMap (fun r => r.2.eff?)).find? Eff.writesS) i w).uconflict := by
  unfold commitWarp
  dsimp only
  split
  next he => simp [List.isEmpty_iff.mp he, commitS]
  next => rw [relock_frame]

theorem commitS_rdS {is : Issue} {x : Option Eff} {i : Nat} {w : Warp} {n : Fin 64}
    (h : ∀ e, x = some e → ∀ r ∈ e.regs, r.1 ≠ .s n) : (commitS is x i w).rdS n.val = w.rdS n.val := by
  cases x with
  | none => rfl
  | some e => exact rdS_puts (h e rfl)

/-- The s-registers of a warp are written by one of its active lanes. -/
theorem writer_active {t : Team} {is : Issue} {h : Hdr} {e : Nat × Nat → Eff} {i : Nat} {x : Eff}
    (hx : (((groupResults t is h e).filter (fun r => r.1.1 == i)).filterMap (fun r => r.2.eff?)).find? Eff.writesS = some x) :
    x.writesS = true ∧ ∃ k ∈ activeLanes t is h, k.1 = i ∧ x = e k := by
  have hs := List.find?_some hx
  refine ⟨hs, ?_⟩
  obtain ⟨r, hr, he⟩ := List.mem_filterMap.mp (List.mem_of_find?_eq_some hx)
  obtain ⟨hr, hi⟩ := List.mem_filter.mp hr
  simp only [groupResults, idleLanes, List.mem_append, List.mem_map] at hr
  obtain ⟨k, hk, rfl⟩ | ⟨k, -, rfl⟩ := hr
  · exact ⟨k, hk, by simpa using hi, (Option.some.inj he).symm⟩
  · cases he
    cases hs

theorem length_eq_of_get {α β : Type} {a : List α} {b : List β} {f : Nat → β → α} (h : ∀ j, a[j]? = (b[j]?).map (f j)) :
    a.length = b.length := by
  refine Nat.le_antisymm ?_ ?_
  · simpa [h] using (List.getElem?_eq_none_iff (l := a) (i := b.length)).mp (by rw [h]; simp)
  · have := h a.length
    rw [List.getElem?_eq_none (Nat.le_refl _)] at this
    simpa using this.symm

section
variable {i : Instr} {t : Team} {is : Issue} {h : Hdr} {e : Nat × Nat → Eff} {wi : Nat} {w : Warp} {ls : List Lane}

/-- What a register write of the group asks of the warp: W keeps it, an active lane is there, and the instruction names it. -/
theorem writer_holds (F : ∀ k ∈ activeLanes t is h, Fits i h (e k)) {x : Eff}
    (hx : (((groupResults t is h e).filter (fun r => r.1.1 == wi)).filterMap (fun r => r.2.eff?)).find? Eff.writesS = some x)
    {r : Reg × Word} (hr : r ∈ x.regs) :
    ((!h.nw && (activeLanes t is h).any (fun k => k.1 == wi)) && (info i).dst.holds r.1) = true := by
  obtain ⟨-, k, hk, rfl, rfl⟩ := writer_active hx
  obtain ⟨hnw, hd⟩ := (F k hk).regs r hr
  have hany : (activeLanes t is h).any (fun j => j.1 == k.1) = true := List.any_eq_true.mpr ⟨k, hk, by simp⟩
  simp [hnw, hd, hany]

theorem warpKeeps_commit (now : Nat) (F : ∀ k ∈ activeLanes t is h, Fits i h (e k)) (hl : ls.length = w.lanes.length) :
    WarpKeeps i (!h.nw && (activeLanes t is h).any (fun k => k.1 == wi)) w
      (commitWarp is now (groupResults t is h e) wi { w with lanes := ls }) := by
  refine ⟨fun n hn => ?_, commitWarp_frame _ _ _ _ _, fun hn => ?_, ?_⟩
  · have hs : ∀ x, (((groupResults t is h e).filter (fun r => r.1.1 == wi)).filterMap (fun r => r.2.eff?)).find? Eff.writesS = some x →
        ∀ r ∈ x.regs, r.1 ≠ .s n := by
      intro x hx r hr hrn
      have := writer_holds F hx hr
      rw [hrn, hn] at this
      cases this
    unfold Warp.rdS
    rw [commitWarp_s]
    exact commitS_rdS (w := { w with lanes := ls }) hs
  · rw [commitWarp_uconflict]
    cases hx : (((groupResults t is h e).filter (fun r => r.1.1 == wi)).filterMap (fun r => r.2.eff?)).find? Eff.writesS with
    | none => rfl
    | some x =>
      obtain ⟨r, hr, hs⟩ := List.any_eq_true.mp (writer_active hx).1
      have hh := writer_holds F hx hr
      obtain ⟨r, y⟩ := r
      cases r with
      | v n => cases hs
      | s n => simp [hn] at hh
  · exact (length_eq_of_get (commitWarp_get _ _ _ _ · _)).trans hl

end

/-! ### A lane of the group's team -/

/-- A lane as a group that does not stand whole finds it: without its latches (R48). -/
def seenLane (t : Team) (is : Issue) (k : Nat × Nat) (l : Lane) : Lane :=
  if sameGroup t is.lanes = false ∧ k ∈ is.lanes then l.noBp else l

theorem seenLane_keeps {i : Instr} {writes : Bool} {t : Team} {is : Issue} {k : Nat × Nat} {l l' : Lane}
    (K : LaneKeeps i writes (seenLane t is k l) l') : LaneKeeps i writes l l' := by
  unfold seenLane at K
  split at K
  · exact K.ofNoBp
  · exact K

section
variable {i : Instr} {t : Team} {is : Issue} {h : Hdr} {e : Nat × Nat → Eff} {now : Nat} {sup : Bool} {k : Nat × Nat} {l : Lane}

theorem lane_active (F : ∀ k ∈ activeLanes t is h, Fits i h (e k)) (ha : k ∈ activeLanes t is h) :
    LaneKeeps i (!h.nw && (activeLanes t is h).contains k) l (laneWith is now sup (.done (e k)) (seenLane t is k l)) := by
  refine seenLane_keeps (laneKeeps_done (F k ha) (fun hnw => ?_))
  simp [hnw, ha]

/-- A lane of the group whose guard fails goes on, uncounted. -/
theorem lane_idle (hm : k ∈ is.lanes) : ∃ l', laneWith is now sup (.done { count := false }) (seenLane t is k l) = l' ∧
    l'.pc = is.after ∧ l'.st = .ready ∧ l'.regionCnt = l.regionCnt ∧ l'.bp = if sameGroup t is.lanes then l.bp else noLatches := by
  refine ⟨_, rfl, ?_⟩
  rw [laneWith_done rfl]
  unfold seenLane
  cases hs : sameGroup t is.lanes <;> simp [hm, Lane.noBp, Lane.putBp]

/-- What becomes of any lane of the group's team. -/
theorem lane_frame (hn : is.lanes.Nodup) (F : ∀ k ∈ activeLanes t is h, Fits i h (e k)) {wi j : Nat} {l' : Lane}
    (hl : l' = laneWith is now sup (resOf (groupResults t is h e) wi j) (seenLane t is (wi, j) l)) :
    LaneKeeps i (!h.nw && (activeLanes t is h).contains (wi, j)) l l' ∧ ((wi, j) ∉ is.lanes → l' = l) ∧
    ((wi, j) ∈ is.lanes → (wi, j) ∉ activeLanes t is h →
      l'.pc = is.after ∧ l'.st = .ready ∧ l'.regionCnt = l.regionCnt ∧ l'.bp = if sameGroup t is.lanes then l.bp else noLatches) := by
  by_cases hm : (wi, j) ∈ is.lanes
  · by_cases ha : (wi, j) ∈ activeLanes t is h
    · rw [resOf_active hn ha] at hl
      rw [hl]
      exact ⟨lane_active F ha, fun h => absurd hm h, fun _ h => absurd ha h⟩
    · rw [resOf_idle hn hm ha] at hl
      refine ⟨?_, fun h => absurd hm h, fun _ _ => ?_⟩
      · rw [hl]
        exact seenLane_keeps (laneKeeps_done (h := { h with nw := true }) fits_pc (fun h => by cases h))
      · obtain ⟨x, hx, hall⟩ := lane_idle (t := t) (now := now) (sup := sup) (l := l) hm
        rw [hl, hx]
        exact hall
  · rw [resOf_other hm, laneWith_stay] at hl
    have he : l' = l := by rw [hl, seenLane, if_neg (fun h => hm h.2)]
    rw [he]
    exact ⟨laneKeeps_refl _ _ _, fun _ => rfl, fun h => absurd h hm⟩

end

/-! ### The group completes -/

/-- The effect that a function has on a lane of the group. -/
def effectAt (t : Team) (is : Issue) (h : Hdr) (f : Lc → LaneRes) (k : Nat × Nat) : Eff :=
  ((laneCtx (t.seen is) is (activeLanes t is h) k).bind (fun c => (f c).eff?)).getD {}

section
variable {s : State} {i : Instr} {h : Hdr} {is : Issue} {t : Team} {f : Lc → LaneRes}

theorem laneCtx_ctx {c : Lc} {w : Warp} {l : Lane} (C : Ctx s i h is t c w l) :
    laneCtx (t.seen is) is (activeLanes t is h) (c.wi, c.slot) = some c := by
  obtain ⟨ls, hw, hl, -⟩ := C.warpEq
  have hlane : c.w.lanes[c.slot]? = some c.l := by rw [hw]; exact hl
  simp only [laneCtx, C.warp, hlane]
  rw [← C.act, ← C.team, ← C.issue]

theorem effectAt_ctx (K : Computes s i h is t f) {c : Lc} {w : Warp} {l : Lane} (C : Ctx s i h is t c w l) :
    f c = .done (effectAt t is h f (c.wi, c.slot)) := by
  obtain ⟨e, he, -⟩ := K c w l C
  rw [effectAt, laneCtx_ctx C, Option.bind_some, he]
  rfl

theorem effectAt_fits (G : Issuing s i h is t) (K : Computes s i h is t f) {k : Nat × Nat} (hk : k ∈ activeLanes t is h) :
    Fits i h (effectAt t is h f k) := by
  obtain ⟨w, l, A⟩ := (mem_active G).mp hk
  obtain ⟨c, hc, -, C⟩ := laneCtx_active (s := s) (i := i) A
  obtain ⟨e, he, F⟩ := K c w l C
  rw [effectAt, hc, Option.bind_some, he]
  exact F

/-- The state after the group's instruction. -/
theorem pureLanes_commit (G : Issuing s i h is t) (K : Computes s i h is t f) :
    pureLanes i h s f = .next (commit (s.seen t is) is (groupResults t is h (effectAt t is h f))) := by
  obtain ⟨accs, results, ops, hc⟩ := commit_untrapped (s.seen t is) is _ (groupResults_untrapped t is h (effectAt t is h f))
  have hu : ∀ r : (Nat × Nat) × LaneRes, untouched (t.seen is) (s.seen t is) r.1.1 = true := fun r => untouched_seen G r.1.1
  unfold pureLanes
  rw [issueWith_quiet G _ _ (fun _ _ => rfl), foldLanes_pure G f _ (fun c w l C => effectAt_ctx K C)]
  simp only [stepMoved_untouched _ _ _ (untouched_seen G), hu, List.filter_true]
  change finish (commit (s.seen t is) is (groupResults t is h (effectAt t is h f))) = _
  refine finish_next _ ?_ ?_ ?_
  · rw [hc, seen_state]; exact G.halt
  · rw [hc, seen_state]; exact G.lost
  · rw [hc, seen_state]; exact G.saved

theorem seen_length (t : Team) (is : Issue) : (t.seen is).warps.length = t.warps.length := by
  have hno : ∀ (ks : List (Nat × Nat)) (t : Team), (t.noBp ks).warps.length = t.warps.length := by
    intro ks
    induction ks with
    | nil => exact fun _ => rfl
    | cons k ks ih => exact fun t => (ih _).trans (by simp [Team.modWarp])
  unfold Team.seen
  split
  · rfl
  · exact hno _ _

theorem seen_other {u : Nat} (hu : u ≠ is.team) : (s.seen t is).team? u = s.team? u := by
  unfold State.seen
  split
  · rfl
  · rw [team?_modTeam _ _ _ _ (fun t => noBp_uid t _)]
    simp [hu]

/-- The teams after a commit without a trap. -/
theorem commit_team? (s : State) (is : Issue) {rs : List ((Nat × Nat) × LaneRes)} (hu : Untrapped rs) (u : Nat) :
    (commit s is rs).team? u = (s.team? u).map (fun t => if u = is.team then t.commit is s.cycle rs else t) := by
  obtain ⟨accs, results, ops, hc⟩ := commit_untrapped s is rs hu
  rw [hc]
  exact find?_change s.teams is.team u (fun t => t.commit is s.cycle rs) (fun _ => rfl)

theorem commit_frame (s : State) (is : Issue) {rs : List ((Nat × Nat) × LaneRes)} (hu : Untrapped rs) :
    commit s is rs = { s with
      teams := (commit s is rs).teams, accs := (commit s is rs).accs, results := (commit s is rs).results
      ops := (commit s is rs).ops, cur := none } := by
  obtain ⟨accs, results, ops, hc⟩ := commit_untrapped s is rs hu
  rw [hc]

end

/-- Settles O6: the lanes' effects keep to the destination that the instruction names, and the commit writes nothing else. -/
theorem registerFrame : Obligations.RegisterFrame := by
  unfold Obligations.RegisterFrame
  intro i s h is t hr G htrap
  obtain ⟨f, hx, K⟩ := exec_onRegisters hr G htrap
  have F : ∀ k ∈ activeLanes t is h, Fits i h (effectAt t is h f k) := fun k hk => effectAt_fits G K hk
  have hu := groupResults_untrapped t is h (effectAt t is h f)
  have hteam : (commit (s.seen t is) is (groupResults t is h (effectAt t is h f))).team? is.team =
      some ((t.seen is).commit is s.cycle (groupResults t is h (effectAt t is h f))) := by
    rw [commit_team? _ _ hu, seen_team s t is G.team, seen_state]
    simp
  have hin := commit_inFlight (s.seen t is) is _ hu
  refine ⟨_, hx.trans (pureLanes_commit G K), ?_, ?_, ?_, ?_, fun u hne => ?_, ⟨_, hteam, ?_, ?_⟩, fun wi w hw => ?_⟩
  · rw [commit_frame _ _ hu, seen_state]
  · rw [hin.accs, seen_state]
  · rw [hin.results, seen_state]
  · rw [hin.ops, seen_state]
  · rw [commit_team? _ _ hu, seen_other hne]
    simp [hne]
  · rw [Team.commit, seen_frame]
  · simp [Team.commit, seen_length]
  · obtain ⟨ls, hls, hget⟩ := seen_warp t is wi w hw
    have hlen : ls.length = w.lanes.length := length_eq_of_get hget
    refine ⟨commitWarp is s.cycle (groupResults t is h (effectAt t is h f)) wi { w with lanes := ls }, ?_,
      warpKeeps_commit _ F hlen, fun j l hl => ?_⟩
    · rw [State.warp?, hteam]
      simp [Team.commit, hls]
    · have hj : (commitWarp is s.cycle (groupResults t is h (effectAt t is h f)) wi { w with lanes := ls }).lanes[j]? =
          some (laneWith is s.cycle w.sup (resOf (groupResults t is h (effectAt t is h f)) wi j) (seenLane t is (wi, j) l)) := by
        rw [commitWarp_get, hget, hl]
        rfl
      exact ⟨_, hj, lane_frame G.nodup F rfl⟩

end Sys2Proof.Machine
end

section
/-! SUPPORT. A translation that stands changes only its count, bytes under their own key read as memory holds them, and a fetch
gives the instruction that stands at the PC. -/

namespace Sys2Proof.Machine

/-! ### A translation that stands -/

theorem countTranslation_frame (s : State) (space ia : Nat) (t : Trans) (leaf : BitVec 128) :
    countTranslation s space ia t leaf = { s with tcache := (countTranslation s space ia t leaf).tcache } := by
  unfold countTranslation
  split <;> rfl

theorem touchLeaf_set {s : State} {space ia : Nat} {need : Need} {tr : Trans} (hb : leafA tr.leaf = true ∧ leafD tr.leaf = true) :
    touchLeaf s space ia need tr = countTranslation s space ia tr tr.leaf := by
  obtain ⟨ha, hd⟩ := hb
  simp [touchLeaf, ha, hd]

/-- Where a translation stands with its bits set, translating only counts it (R352, R353). -/
theorem translate_warm {s : State} {space ia : Nat} {need : Need} {lane : Bool} {tr : Trans} (W : Warm s space ia need lane tr) :
    translate s space ia need lane = (countTranslation s space ia tr tr.leaf, .ok tr) := by
  have hnear : unreachable (countTranslation s space ia tr tr.leaf) tr.leaf = false := by
    rw [countTranslation_frame]
    exact W.near
  obtain ⟨ha, hd⟩ := W.bits
  simp [translate, W.look, ha, hd, touchLeaf_set W.bits, reach, hnear]

theorem translateFor_warm {s : State} {space ia n : Nat} {need : Need} {lane : Bool} {tr : Trans} (W : Warm s space ia need lane tr)
    (hc : need = .store ∨ corrupt s tr.pa n = false) :
    translateFor s space ia n need lane = (countTranslation s space ia tr tr.leaf, .ok tr) := by
  have hread : (need != .store && corrupt (countTranslation s space ia tr tr.leaf) tr.pa n) = false := by
    rw [countTranslation_frame]
    rcases hc with rfl | hc
    · rfl
    · simpa [corrupt] using fun _ => hc
  simp [translateFor, translate_warm W, hread]

/-! ### Bytes under their own key -/

theorem mem_linesOf {pa n j : Nat} (h : j < n) : (pa + j) / 128 ∈ linesOf pa n := by
  unfold linesOf
  rw [if_neg (by omega)]
  exact List.mem_map.mpr ⟨(pa + j) / 128 - pa / 128, List.mem_range.mpr (by omega), by omega⟩

theorem deciphered_keyed {s : State} {key : Option (BitVec 512)} {pa n j : Nat} (K : KeyedAs s key pa n) (h : j < n) :
    deciphered s key (pa + j) = cget s.mem (pa + j) := by
  unfold deciphered
  split
  next k k0 hk =>
    have he := K _ (mem_linesOf h) k0 hk
    rw [if_pos (Option.some.inj he)]
  next => rfl

theorem pread_keyed {s : State} {key : Option (BitVec 512)} {pa n : Nat} (K : KeyedAs s key pa n) :
    pread s key pa n = cread s.mem pa n :=
  List.map_congr_left fun _ hj => deciphered_keyed K (List.mem_range.mp hj)

/-! ### Numbers in memory -/

theorem cread_append {w : Nat} (m : Cells w) (pa a b : Nat) : cread m pa (a + b) = cread m pa a ++ cread m (pa + a) b := by
  simp [cread, List.range_add, Nat.add_assoc, Function.comp_def]

@[simp] theorem cread_length {w : Nat} (m : Cells w) (pa n : Nat) : (cread m pa n).length = n := by simp [cread]

theorem leNat_append (xs ys : List Byte) : leNat (xs ++ ys) = leNat xs + 256 ^ xs.length * leNat ys := by
  induction xs with
  | nil => simp [leNat]
  | cons x xs ih =>
    simp only [List.cons_append, leNat, ih, List.length_cons, pow_succ]
    ring

theorem leNat_lt (xs : List Byte) : leNat xs < 256 ^ xs.length := by
  induction xs with
  | nil => simp [leNat]
  | cons x xs ih =>
    have hx := x.isLt
    simp only [leNat, List.length_cons, pow_succ]
    omega

theorem numAt_lt (s : State) (pa n : Nat) : numAt s pa n < 256 ^ n := by
  have h := leNat_lt (cread s.mem pa n)
  rwa [cread_length] at h

/-- The number in the first bytes of a run. -/
theorem numAt_prefix (s : State) (pa : Nat) {m n : Nat} (h : m ≤ n) : numAt s pa m = numAt s pa n % 256 ^ m := by
  obtain ⟨d, rfl⟩ := Nat.exists_eq_add_of_le h
  have happ : numAt s pa (m + d) = numAt s pa m + 256 ^ m * numAt s (pa + m) d := by
    simp only [numAt, cread_append, leNat_append, cread_length]
  rw [happ, Nat.add_mul_mod_self_left, Nat.mod_eq_of_lt (numAt_lt s pa m)]

/-! ### The instruction at a PC -/

theorem lowBits (x k : Nat) (h : k ≤ 128) : ((BitVec.ofNat 128 x).extractLsb' 0 k).setWidth 128 = BitVec.ofNat 128 (x % 2 ^ k) := by
  apply BitVec.eq_of_toNat_eq
  have hk : 2 ^ k ∣ 2 ^ 128 := Nat.pow_dvd_pow 2 h
  simp only [BitVec.toNat_setWidth, BitVec.extractLsb'_toNat, BitVec.toNat_ofNat, Nat.shiftRight_zero, Nat.mod_mod_of_dvd _ hk]

theorem lenField (x : Nat) : (BitVec.ofNat 128 x).extractLsb' 0 2 = BitVec.ofNat 2 x := by
  apply BitVec.eq_of_toNat_eq
  simp only [BitVec.extractLsb'_toNat, BitVec.toNat_ofNat, Nat.shiftRight_zero]
  omega

/-- Of the bytes that were read, an instruction keeps those of its length (R142 to R144). -/
theorem trimBits_ofNat {x n : Nat} (hx : x < 256 ^ n) (hn : n ≤ 16) (hlen : lenBytes (BitVec.ofNat 2 x) ≠ 4) :
    trimBits (BitVec.ofNat 128 x) = BitVec.ofNat 128 (x % 256 ^ lenBytes (BitVec.ofNat 2 x)) := by
  have hbits : x < 2 ^ 128 := lt_of_lt_of_le hx (by
    calc 256 ^ n ≤ 256 ^ 16 := Nat.pow_le_pow_right (by norm_num) hn
      _ = 2 ^ 128 := by norm_num)
  unfold trimBits lenBytes at *
  rw [lenField]
  split at hlen
  next => exact lowBits x 64 (by norm_num)
  next => exact lowBits x 96 (by norm_num)
  next => rw [Nat.mod_eq_of_lt (lt_of_lt_of_le hbits (by norm_num))]
  next => exact absurd rfl hlen

/-- What a fetch through a translation that stands finds (R142 to R147, R350). -/
theorem fetch_instr {s : State} {t : Team} {pc : Pc} {c : Context} {ia len : Nat} {tr : Trans} (hctx : s.ctx? t.space = some c)
    (hr : rangeCheck c (BitVec.setWidth 64 pc) .fetch = .ok ia) (W : Warm s t.space ia .fetch false tr)
    (K : KeyedAs s (ownerKey s t.space tr.leaf) tr.pa (min 16 (32 - pc.toNat % 32)))
    (hc : corrupt s tr.pa (min 16 (32 - pc.toNat % 32)) = false) (hlen : len = lenBytes (BitVec.ofNat 2 (numAt s tr.pa 1)))
    (h4 : len ≠ 4) (hfit : pc.toNat % 32 + len ≤ 32) :
    (fetch s t pc).2 = .instr len (BitVec.ofNat 128 (numAt s tr.pa len)) := by
  have hlow : BitVec.ofNat 2 (numAt s tr.pa 1) = BitVec.ofNat 2 (numAt s tr.pa (min 16 (32 - pc.toNat % 32))) := by
    apply BitVec.eq_of_toNat_eq
    rw [numAt_prefix s tr.pa (n := min 16 (32 - pc.toNat % 32)) (by omega), BitVec.toNat_ofNat, BitVec.toNat_ofNat]
    omega
  have hle : len ≤ min 16 (32 - pc.toNat % 32) := by
    have h16 : len ≤ 16 := by rw [hlen]; unfold lenBytes; split <;> omega
    omega
  have hbytes : pread (countTranslation s t.space ia tr tr.leaf) (ownerKey (countTranslation s t.space ia tr tr.leaf) t.space tr.leaf)
      tr.pa (min 16 (32 - pc.toNat % 32)) = cread s.mem tr.pa (min 16 (32 - pc.toNat % 32)) := by
    rw [countTranslation_frame]
    exact pread_keyed K
  rw [hlow] at hlen
  have htrim := trimBits_ofNat (numAt_lt s tr.pa _) (Nat.min_le_left _ _) (hlen ▸ h4)
  rw [← hlen, ← numAt_prefix s tr.pa hle] at htrim
  simp only [fetch, hctx, hr, translateFor_warm W (.inr hc), hbytes]
  rw [show leNat (cread s.mem tr.pa (min 16 (32 - pc.toNat % 32))) = numAt s tr.pa (min 16 (32 - pc.toNat % 32)) from rfl, lenField,
    ← hlen, htrim, if_neg h4, if_neg (by omega)]

/-! ### The issue of a group -/

theorem usePort_serial (s : State) (core port : Nat) : (usePort s core port).serial = s.serial := by
  unfold usePort
  dsimp only
  split <;> rfl

/-- What was fetched and decodes runs for the group (R161). -/
theorem runFetched_instr {s : State} {t : Team} {lanes : List (Nat × Nat)} {pc : Pc} {len : Nat} {bits : BitVec 128} {w : Warp} {i : Instr}
    (hw : t.warps[(lanes.headD (0, 0)).1]? = some w) (hi : decodeRaw false (!w.sup) w.ubusy (rawOf bits) = .ok i) :
    runFetched s t lanes pc (.instr len bits) = exec i { s with
      serial := s.serial + 1
      cur := some { team := t.uid, pc := pc, len := len, bits := bits, lanes := likeFirst t lanes bits, id := s.serial } } := by
  simp only [runFetched, hw, Option.map_some, Option.getD_some, hi]

/-- A candidate that its port serves and that no trap interrupts issues its own lanes (R26). -/
theorem issueFrom_group {s : State} {u wi slot : Nat} {t : Team} {c : Cand} (ht : s.team? u = some t)
    (hc : candidateOf s t wi slot = some c) (hm : mayIssue s t.core c = true) (htrap : c.trap = false) (hbin : c.bin = none) :
    issueFrom s u wi slot = issueGroup s t c.lanes c.pc t.core c.port := by
  simp [issueFrom, ht, hc, hm, issueCand, htrap, hbin]

/-- Settles O59: the step is the issue of the candidate; what is fetched for it decodes, and the port counts it unless every lane
waits. A fetch through a translation that stands gives the bytes at the PC. -/
theorem stepRunsDecoded : Obligations.StepRunsDecoded := by
  unfold Obligations.StepRunsDecoded
  refine ⟨?_, ?_⟩
  · intro s m u wi slot s0 s1 s2 t c w len bits i is s3 hm hs1 ht hc hmay htrap hbin hw hf hi his hs3
    have hstep : step s = issueGroup s1 t c.lanes c.pc t.core c.port := by
      rw [← issueFrom_group ht hc hmay htrap hbin, hs1]
      simp only [step, advance, hm, runAct]
    have hport : runFetched (usePort s2 t.core c.port) t c.lanes c.pc (.instr len bits) = exec i s3 := by
      rw [runFetched_instr hw hi, hs3, his, usePort_serial]
    have hplain : runFetched s2 t c.lanes c.pc (.instr len bits) = exec i { s2 with serial := s2.serial + 1, cur := some is } := by
      rw [runFetched_instr hw hi, his]
    have hgroup : step s = if allWait (exec i s3) t.uid c.lanes then exec i { s2 with serial := s2.serial + 1, cur := some is }
        else exec i s3 := by
      rw [hstep, issueGroup, hf]
      simp only [hport, hplain]
    exact ⟨fun h => by simp [hgroup, h], fun h => by simp [hgroup, h]⟩
  · intro s t pc c ia tr len hctx hr W K hcor _ hlen h4 hfit
    exact fetch_instr hctx hr W K hcor hlen h4 hfit

end Sys2Proof.Machine
end

section
/-! SUPPORT. One result for every active lane of a group: what the commit comes to, and how the lanes and warps of the team stand
after it. -/

namespace Sys2Proof.Machine

/-! ### The end of a step -/

theorem finish_awake {s : State} (h : Awake s) : finish s = .next s := finish_next s h.1 h.2.1 h.2.2

theorem Issuing.awake {s : State} {i : Instr} {h : Hdr} {is : Issue} {t : Team} (G : Issuing s i h is t) : Awake s :=
  ⟨G.halt, G.lost, G.saved⟩

theorem seen_awake {s : State} (h : Awake s) (t : Team) (is : Issue) : Awake (s.seen t is) := by
  rw [seen_state]
  exact h

theorem commit_awake {s : State} (h : Awake s) (is : Issue) {rs : List ((Nat × Nat) × LaneRes)} (hu : Untrapped rs) :
    Awake (commit s is rs) := by
  rw [commit_frame s is hu]
  exact h

/-! ### One result for the active lanes -/

/-- Every active lane of the group has the result, and the others go on. -/
def allDo (t : Team) (is : Issue) (h : Hdr) (r : LaneRes) : List ((Nat × Nat) × LaneRes) :=
  (activeLanes t is h).map (fun k => (k, r)) ++ idleLanes t is h

section
variable {t : Team} {is : Issue} {h : Hdr} {r : LaneRes} {k : Nat × Nat}

theorem allDo_untrapped (hr : r.trap? = none) : Untrapped (allDo t is h r) := by
  intro x hx
  simp only [allDo, idleLanes, List.mem_append, List.mem_map] at hx
  obtain ⟨k, -, rfl⟩ | ⟨k, -, rfl⟩ := hx
  · exact hr
  · rfl

theorem allDo_keys (hn : is.lanes.Nodup) : ((allDo t is h r).map (·.1)).Nodup := by
  have hkeys : (allDo t is h r).map (·.1) = (groupResults t is h (fun _ => {})).map (·.1) := by
    simp [allDo, groupResults, List.map_map, Function.comp_def]
  rw [hkeys]
  exact groupResults_keys t is h _ hn

theorem mem_allDo (hk : k ∈ activeLanes t is h) : (k, r) ∈ allDo t is h r :=
  List.mem_append_left _ (List.mem_map.mpr ⟨k, hk, rfl⟩)

/-- Only lanes of the group have a result. -/
theorem allDo_lanes {x : (Nat × Nat) × LaneRes} (hx : x ∈ allDo t is h r) : x.1 ∈ is.lanes := by
  simp only [allDo, idleLanes, List.mem_append, List.mem_map] at hx
  obtain ⟨k, hk, rfl⟩ | ⟨k, hk, rfl⟩ := hx
  · exact List.mem_of_mem_filter hk
  · exact List.mem_of_mem_filter hk

theorem resOf_allDo_active (hn : is.lanes.Nodup) (hk : k ∈ activeLanes t is h) : resOf (allDo t is h r) k.1 k.2 = r :=
  resOf_mem (allDo_keys hn) (mem_allDo hk)

theorem resOf_allDo_idle (hn : is.lanes.Nodup) (hm : k ∈ is.lanes) (hk : k ∉ activeLanes t is h) :
    resOf (allDo t is h r) k.1 k.2 = .done { count := false } :=
  resOf_mem (allDo_keys hn) (List.mem_append_right _ (List.mem_map.mpr ⟨k, List.mem_filter.mpr ⟨hm, by simpa using hk⟩, rfl⟩))

theorem resOf_allDo_other (hm : k ∉ is.lanes) : resOf (allDo t is h r) k.1 k.2 = .stay :=
  resOf_none fun _ hx => hm (allDo_lanes hx)

/-! ### A lane after the result -/

theorem passLane_frame (sup : Bool) (r : LaneRes) (l : Lane) :
    passLane sup r l = { l with
      stepped := (passLane sup r l).stepped, stepWait := (passLane sup r l).stepWait, bpPass := (passLane sup r l).bpPass } := by
  unfold passLane
  split
  · rfl
  · split
    · rfl
    · split
      · split <;> rfl
      · rfl

/-- A lane that completes and writes no register: what the instruction does to it, once it has gone on. -/
theorem laneWith_upd (is : Issue) (now : Nat) (sup : Bool) (u : Lane → Lane) (l : Lane) :
    laneWith is now sup (.done { upd := u }) l = passLane sup (.done { upd := u }) (u { l with
      pc := is.after, regionCnt := l.regionCnt + 1, group := is.id, groupN := is.lanes.length
      st := .ready, wait := .retry, since := now }) := rfl

theorem laneWith_wait (is : Issue) (now : Nat) (sup : Bool) (x : Wait) (l : Lane) :
    (laneWith is now sup (.wait x) l).st = .blocked ∧ (laneWith is now sup (.wait x) l).wait = x ∧
      (laneWith is now sup (.wait x) l).pc = l.pc := by
  unfold laneWith
  rw [passLane_frame]
  refine ⟨rfl, rfl, ?_⟩
  simp only [commitLane]
  split <;> rfl

/-- What a lane of a group that loses its latches keeps. -/
theorem seenLane_frame (t : Team) (is : Issue) (k : Nat × Nat) (l : Lane) :
    seenLane t is k l = { l with bp := (seenLane t is k l).bp } := by
  unfold seenLane
  split <;> rfl

/-! ### The team after the results -/

/-- The warps of the team after a commit without a trap. -/
theorem commit_warp? {s : State} {is : Issue} {rs : List ((Nat × Nat) × LaneRes)} (hu : Untrapped rs) {i : Nat} {w : Warp}
    (hw : s.warp? is.team i = some w) : (commit s is rs).warp? is.team i = some (commitWarp is s.cycle rs i w) := by
  unfold State.warp? at hw ⊢
  rw [commit_team? s is hu]
  cases ht : s.team? is.team with
  | none => rw [ht] at hw; cases hw
  | some x =>
    rw [ht] at hw
    dsimp only at hw
    simp [Team.commit, hw]

/-- A warp of which no lane is in the group stands as it was. -/
theorem commitWarp_other {is : Issue} {now : Nat} {rs : List ((Nat × Nat) × LaneRes)} {i : Nat} (hi : ∀ x ∈ rs, x.1.1 ≠ i) (w : Warp) :
    commitWarp is now rs i w = w := by
  have hmine : rs.filter (fun r => r.1.1 == i) = [] := List.filter_eq_nil_iff.mpr fun x hx => by simpa using hi x hx
  simp [commitWarp, hmine]

/-- An active lane after its result. -/
theorem commit_active {s : State} (hn : is.lanes.Nodup) (hr : r.trap? = none) (hk : k ∈ activeLanes t is h) {w : Warp} {l : Lane}
    (hw : s.warp? is.team k.1 = some w) (hl : w.lanes[k.2]? = some l) :
    ∃ w', (commit s is (allDo t is h r)).warp? is.team k.1 = some w' ∧ w'.lanes[k.2]? = some (laneWith is s.cycle w.sup r l) := by
  refine ⟨_, commit_warp? (allDo_untrapped hr) hw, ?_⟩
  rw [commitWarp_get, hl, resOf_allDo_active hn hk]
  rfl

/-! ### The group completes -/

variable {s : State} {i : Instr}

theorem seen_warp? (G : Issuing s i h is t) {j : Nat} {w : Warp} (hw : t.warps[j]? = some w) :
    ∃ ls, (s.seen t is).warp? is.team j = some { w with lanes := ls } ∧
      ∀ n, ls[n]? = (w.lanes[n]?).map (seenLane t is (j, n)) := by
  obtain ⟨ls, h1, h2⟩ := seen_warp t is j w hw
  exact ⟨ls, by rw [State.warp?, seen_team s t is G.team]; exact h1, h2⟩

/-- An active lane that the group's instruction finds as the team held it. -/
theorem seen_active (G : Issuing s i h is t) (hr : r.trap? = none) {w : Warp} {l : Lane} (a : Active t is h k w l) :
    ∃ w', (commit (s.seen t is) is (allDo t is h r)).warp? is.team k.1 = some w' ∧
      w'.lanes[k.2]? = some (laneWith is s.cycle w.sup r (seenLane t is k l)) := by
  obtain ⟨ls, hw, hls⟩ := seen_warp? G a.1.2.1
  have hl : ls[k.2]? = some (seenLane t is k l) := by rw [hls, a.1.2.2]; rfl
  have hcyc : (s.seen t is).cycle = s.cycle := by rw [seen_state]
  have := commit_active (s := s.seen t is) G.nodup hr ((mem_active G).mpr ⟨w, l, a⟩) hw hl
  rwa [hcyc] at this

/-- Each lane gives its result and nothing else changes. -/
theorem foldLanes_all (G : Issuing s i h is t) (f : Lc → LaneRes) (hf : ∀ c w l, Ctx s i h is t c w l → f c = r) :
    foldLanes (fun s c => (s, f c)) (s.seen t is) (contexts h is t) = (s.seen t is, (activeLanes t is h).map (fun k => (k, r))) := by
  have key : ∀ (cs : List Lc) (acc : List ((Nat × Nat) × LaneRes)), (∀ c ∈ cs, c ∈ contexts h is t) →
      cs.foldl (fun acc c => if untouched c.tm acc.1 c.wi then
          let r := (acc.1, f c)
          (r.1, acc.2 ++ [((c.wi, c.slot), r.2)])
        else acc) (s.seen t is, acc) = (s.seen t is, acc ++ cs.map (fun c => ((c.wi, c.slot), r))) := by
    intro cs
    induction cs with
    | nil => intro acc _; simp
    | cons c cs ih =>
      intro acc hc
      obtain ⟨w, l, C⟩ := contexts_ctx G (hc c List.mem_cons_self)
      rw [List.foldl_cons, C.team]
      simp only [untouched_seen G, if_true]
      rw [ih _ (fun d hd => hc d (List.mem_cons_of_mem _ hd)), hf c w l C]
      simp
  unfold foldLanes
  rw [key _ _ (fun _ hc => hc), ← contexts_keys G]
  simp [List.map_map, Function.comp_def]

/-- The common course where every active lane has one result. -/
theorem issueWith_all (G : Issuing s i h is t) (f : Lc → LaneRes) (hf : ∀ c w l, Ctx s i h is t c w l → f c = r) :
    issueWith i h s (fun _ _ => none) (foldLanes (fun s c => (s, f c))) = commit (s.seen t is) is (allDo t is h r) := by
  rw [issueWith_quiet G _ _ (fun _ _ => rfl), foldLanes_all G f hf]
  simp only [stepMoved_untouched _ _ _ (untouched_seen G), untouched_seen G, List.filter_true]
  rfl

theorem pureLanes_all (G : Issuing s i h is t) (f : Lc → LaneRes) (hr : r.trap? = none)
    (hf : ∀ c w l, Ctx s i h is t c w l → f c = r) :
    pureLanes i h s f = .next (commit (s.seen t is) is (allDo t is h r)) := by
  unfold pureLanes
  rw [issueWith_all G f hf, finish_awake (commit_awake (seen_awake G.awake t is) is (allDo_untrapped hr))]

/-- An instruction that does one thing to every active lane and writes no register completes. -/
theorem completes_upd (G : Issuing s i h is t) (u : Lane → Lane)
    (hx : exec i s = pureLanes i h s (fun _ => .done { upd := u })) (P : Nat × Nat → Warp → Lane → Warp → Lane → Prop)
    (hP : ∀ k w l w', Active t is h k w l → P k w l w' (laneWith is s.cycle w.sup (.done { upd := u }) (seenLane t is k l))) :
    Completes i s h is t P := by
  refine ⟨_, hx.trans (pureLanes_all G _ rfl (fun _ _ _ _ => rfl)), fun k w l a => ?_⟩
  obtain ⟨w', hw, hl⟩ := seen_active G (r := .done { upd := u }) rfl a
  exact ⟨w', _, hw, hl, hP k w l w' a⟩

/-! ### Results on a state that the instruction has changed -/

/-- Where the warps of the group stand as their results found them, nothing was moved. -/
theorem stepMoved_still {rs : List ((Nat × Nat) × LaneRes)} (hu : ∀ x ∈ rs, untouched t s x.1.1 = true) : stepMoved t rs s = s := by
  unfold stepMoved
  induction rs with
  | nil => rfl
  | cons x rs ih =>
    rw [List.foldl_cons, hu x List.mem_cons_self, Bool.true_or, if_pos rfl]
    exact ih fun y hy => hu y (List.mem_cons_of_mem _ hy)

/-- The end of a group's instruction that has changed the state but moved no warp of the group. -/
theorem finish_all {s' : State} (hs : Awake s') (hr : r.trap? = none) (hu : ∀ k ∈ is.lanes, untouched (t.seen is) s' k.1 = true) :
    finish (commit (stepMoved (t.seen is) ((activeLanes t is h).map (fun k => (k, r))) s') is
        ((allDo t is h r).filter (fun x => untouched (t.seen is) s' x.1.1))) = .next (commit s' is (allDo t is h r)) := by
  rw [stepMoved_still (fun x hx => hu _ (allDo_lanes (List.mem_append_left _ hx))),
    List.filter_eq_self.mpr (fun x hx => hu _ (allDo_lanes hx)), finish_awake (commit_awake hs is (allDo_untrapped hr))]

/-- A change that leaves the warps of the team alone moves none of them. -/
theorem untouched_teams {s' : State} (G : Issuing s i h is t) (hs : s'.teams = (s.seen t is).teams) (j : Nat) :
    untouched (t.seen is) s' j = true := by
  have hteam : s'.warp? = (s.seen t is).warp? := by
    funext u j
    simp only [State.warp?, State.team?, hs]
  have := untouched_seen G j
  rwa [untouched, ← hteam] at this

end

end Sys2Proof.Machine
end

section
/-! SUPPORT. Barriers: a lane that issues BAR waits there, and the barrier completes when every live lane has come (R17, R183). -/

namespace Sys2Proof.Machine

theorem warp?_modTeam {s : State} {u : Nat} {t : Team} (ht : s.team? u = some t) (f : Team → Team) (hf : ∀ t, (f t).uid = t.uid) (j : Nat) :
    (s.modTeam u f).warp? u j = (f t).warps[j]? := by
  simp [State.warp?, team?_modTeam s u u f hf, ht]

/-- Every lane of a group that waits stands BLOCKED at the instruction. -/
theorem waitsIn_commit {s : State} {i : Instr} {h : Hdr} {is : Issue} {t : Team} (G : Issuing s i h is t) (x : Wait) :
    WaitsIn (commit (s.seen t is) is (allDo t is h (.wait x))) t is h x := by
  intro k w l a
  obtain ⟨w', hw, hl⟩ := seen_active G (r := .wait x) rfl a
  obtain ⟨hst, hwait, hpc⟩ := laneWith_wait is s.cycle w.sup x (seenLane t is k l)
  exact ⟨w', _, hw, hl, hst, hwait, hpc.trans (by rw [seenLane_frame])⟩

theorem execBar_waits {s : State} {h : Hdr} {is : Issue} {t : Team} {n : Fin 8} (G : Issuing s (.bar h n) h is t) :
    ∃ s', exec (.bar h n) s = .next s' ∧ WaitsIn s' t is h (.bar n) :=
  ⟨_, pureLanes_all G (fun _ => .wait (.bar n)) rfl (fun _ _ _ _ => rfl), waitsIn_commit G (.bar n)⟩

/-- A barrier is complete when a warp is there and every live lane of the LIVE and STOPPED ones has arrived. -/
theorem barComplete_iff (t : Team) (n : Fin 8) : barComplete t n = true ↔ (∃ w ∈ t.warps, w.st ≠ .free) ∧
    ∀ w ∈ t.warps, w.st ≠ .free → ∀ l ∈ w.lanes, l.st ≠ .exited → l.st = .blocked ∧ l.wait = .bar n := by
  simp only [barComplete, Bool.and_eq_true, List.any_eq_true, List.all_eq_true, bne_iff_ne, Bool.or_eq_true, beq_iff_eq, Lane.live,
    Lane.arrived, Bool.not_eq_true', bne_eq_false_iff_eq]
  refine and_congr_right fun _ => forall_congr' fun w => forall_congr' fun _ => ?_
  rw [or_iff_not_imp_left]
  refine forall_congr' fun _ => forall_congr' fun l => forall_congr' fun _ => ?_
  rw [or_iff_not_imp_left]

/-- A lane whose barrier completes is READY after it (R183, R186). -/
theorem completeLane_blocked {l : Lane} (hl : l.st = .blocked) (len now : Nat) :
    StandsAt (l.pc + BitVec.ofNat 56 len) l (completeLane len now l) := by
  simp [StandsAt, completeLane, Lane.release, Lane.enter, hl]

/-- Lanes, warps and the team after the barrier: every live lane has completed it. -/
def passLaneBar (now : Nat) (l : Lane) : Lane := if l.live then completeLane 8 now l else l
def passWarpBar (now : Nat) (w : Warp) : Warp := { w with lanes := w.lanes.map (passLaneBar now) }
def passBar (now : Nat) (t : Team) : Team := { t with warps := t.warps.map (passWarpBar now) }

theorem passLaneBar_exited {l : Lane} (hl : l.st = .exited) (now : Nat) : passLaneBar now l = l := by
  simp [passLaneBar, Lane.live, hl]

theorem passLaneBar_arrived {l : Lane} (hl : l.st = .blocked) (now : Nat) : StandsAt (l.pc + 8) l (passLaneBar now l) := by
  rw [passLaneBar, if_pos (by simp [Lane.live, hl])]
  exact completeLane_blocked hl 8 now

theorem execBarrierCompletion_eq {s : State} {u : Nat} {t : Team} {n : Fin 8} (hs : Awake s) (ht : s.team? u = some t) :
    exec (.barrierCompletion u n) s = .next (if barComplete t n then s.modTeam u (passBar s.cycle) else s) := by
  change finish _ = _
  simp only [ht]
  split
  · exact finish_awake hs
  · exact finish_awake hs

theorem passBar_warp? {s : State} {u : Nat} {t : Team} {i : Nat} {w : Warp} (ht : s.team? u = some t) (hw : t.warps[i]? = some w) :
    (s.modTeam u (passBar s.cycle)).warp? u i = some (passWarpBar s.cycle w) := by
  rw [warp?_modTeam ht (passBar s.cycle) (fun _ => rfl)]
  simp [passBar, hw]

/-- Settles O9: BAR gives every active lane one result, the wait; the completion moves all live lanes or, while one is missing,
nothing. -/
theorem barrierWaitsAndCompletes : Obligations.BarrierWaitsAndCompletes := by
  unfold Obligations.BarrierWaitsAndCompletes
  refine ⟨fun s h is t n G => execBar_waits G, ?_, ?_⟩
  · intro s u t n hs ht hwarp hall
    have hbar : barComplete t n = true := (barComplete_iff t n).mpr ⟨hwarp, hall⟩
    refine ⟨_, by rw [execBarrierCompletion_eq hs ht, if_pos hbar], fun i w hw hfree => ?_⟩
    refine ⟨_, passBar_warp? ht hw, fun j l hl => ⟨passLaneBar s.cycle l, by simp [passWarpBar, hl], fun hlive => ?_, fun hexit => ?_⟩⟩
    · exact passLaneBar_arrived (hall w (List.mem_of_getElem? hw) hfree l (List.mem_of_getElem? hl) hlive).1 _
    · exact passLaneBar_exited hexit _
  · intro s u t n hs ht hmiss
    obtain ⟨w, hw, hfree, l, hl, hlive, hnot⟩ := hmiss
    have hbar : barComplete t n ≠ true := fun hb => hnot (((barComplete_iff t n).mp hb).2 w hw hfree l hl hlive)
    rw [execBarrierCompletion_eq hs ht, if_neg hbar]

end Sys2Proof.Machine
end

section
/-! SUPPORT. Bins: when one is drawable, the lane that waited for its slot, and the end of a YIELD skip (R22, R23, R28). -/

namespace Sys2Proof.Machine

/-! ### A warp and a lane after a change -/

theorem warp?_modWarp (s : State) (u i j : Nat) (f : Warp → Warp) :
    (s.modWarp u i f).warp? u j = (s.warp? u j).map (fun w => if i = j then f w else w) := by
  unfold State.modWarp State.warp?
  rw [team?_modTeam s u u (fun t => t.modWarp i f) (fun _ => rfl)]
  cases s.team? u with
  | none => rfl
  | some t =>
    simp only [Option.map_some, if_true, Team.modWarp, List.getElem?_modify]
    cases t.warps[j]? <;> simp

theorem warp?_modLane {s : State} {u i : Nat} {w : Warp} (hw : s.warp? u i = some w) (k : Nat) (f : Lane → Lane) :
    (s.modLane u i k f).warp? u i = some (w.modLane k f) := by
  rw [State.modLane, warp?_modWarp, hw]
  simp

theorem modLane_get {w : Warp} {k : Nat} {l : Lane} (hl : w.lanes[k]? = some l) (f : Lane → Lane) :
    (w.modLane k f).lanes[k]? = some (f l) := by
  simp [Warp.modLane, hl]

/-! ### Age, R23 -/

/-- The bin is found drawable in a case. -/
def drawWhen (p : Bin → Bool) (b : Bin) : Bin := if p b then { b with drawable := true } else b

theorem drawWhen_eq (p : Bin → Bool) (b : Bin) : drawWhen p b = { b with drawable := b.drawable || p b } := by
  unfold drawWhen
  cases p b <;> simp

/-- The named bin holds a lane, and its oldest entry has waited more than so many cycles. -/
def waitedOver (s : State) (core n : Nat) (age : Bin → Nat) (b : Bin) : Bool :=
  b.core == core && b.num == n && !b.slots.isEmpty && age b < s.cycle - b.oldest

theorem waitedOver_eq (s : State) (core n : Nat) (age : Bin → Nat) (b : Bin) :
    waitedOver s core n age b = decide (b.core = core ∧ b.num = n ∧ b.slots ≠ [] ∧ b.oldest + age b < s.cycle) := by
  rw [Bool.eq_iff_iff]
  simp only [waitedOver, Bool.and_eq_true, beq_iff_eq, Bool.not_eq_true', List.isEmpty_eq_false_iff, decide_eq_true_eq, and_assoc]
  refine and_congr_right fun _ => and_congr_right fun _ => and_congr_right fun _ => ?_
  omega

theorem execBinAgeExpiry_eq {s : State} (hs : Awake s) (core n : Nat) : exec (.binAgeExpiry core n) s =
    .next { s with bins := s.bins.map (drawWhen (waitedOver s core n (fun b => ((s.team? b.team).map (fun t => t.desc.age)).getD 256))) } :=
  finish_awake (s := { s with bins := _ }) hs

theorem execBinFixedAgeExpiry_eq {s : State} (hs : Awake s) (core n : Nat) :
    exec (.binFixedAgeExpiry core n) s = .next { s with bins := s.bins.map (drawWhen (waitedOver s core n (fun _ => 512))) } :=
  finish_awake (s := { s with bins := _ }) hs

/-! ### A lane that waited for its slot, R22 -/

/-- The first that `p` finds, where the others are only changed so that `p` and the filter still tell it. -/
theorem find?_filter_map {α : Type} {p q : α → Bool} {f : α → α} (hp : ∀ x, p (f x) = p x) {xs : List α} {y : α}
    (hy : xs.find? p = some y) (hq : q (f y) = true) : ((xs.map f).filter q).find? p = some (f y) := by
  induction xs with
  | nil => cases hy
  | cons x xs ih =>
    rw [List.map_cons]
    by_cases hx : p x = true
    · rw [List.find?_cons_of_pos hx] at hy
      obtain rfl := Option.some.inj hy
      rw [List.filter_cons_of_pos hq, List.find?_cons_of_pos (by rw [hp, hx])]
    · rw [List.find?_cons_of_neg hx] at hy
      by_cases hqx : q (f x) = true
      · rw [List.filter_cons_of_pos hqx, List.find?_cons_of_neg (by rwa [hp])]
        exact ih hy
      · rw [List.filter_cons_of_neg hqx]
        exact ih hy

/-- The lane that waited, once it is filed: the REFORM is complete (R186). -/
def filedLane (now : Nat) (l : Lane) : Lane := ((completeLane 8 now l).dropLatches).enter .filed now

theorem filedLane_blocked {l : Lane} (h : l.st = .blocked) (now : Nat) : (filedLane now l).st = .filed := by
  simp [filedLane, completeLane, Lane.dropLatches, Lane.release, Lane.enter, h]

theorem filedLane_halted {l : Lane} (h : l.st = .halted) (now : Nat) :
    (filedLane now l).st = .halted ∧ (filedLane now l).held = .filed := by
  simp [filedLane, completeLane, Lane.dropLatches, Lane.release, Lane.enter, h]

theorem enter_pc (l : Lane) (st : LaneSt) (now : Nat) : (l.enter st now).pc = l.pc := by
  unfold Lane.enter
  split <;> rfl

theorem filedLane_pc (now : Nat) (l : Lane) : (filedLane now l).pc = l.pc + 8 := by
  rw [filedLane, enter_pc]
  rfl

/-- A bin after its slot is taken by one of the lanes that waited for it. -/
structure TookSlot (b : Bin) (x : Nat × Nat) (c c' : Bin) : Prop where
  core : c'.core = c.core
  num : c'.num = c.num
  pc : c'.pc = c.pc
  slots : c'.slots = b.slots ++ [x]
  waiting : c'.waiting = b.waiting.filter (· != x)

/-- The bins with those of a bin's core and number changed, and without those that hold no lane and are waited for by none. -/
def rebinned (b : Bin) (f : Bin → Bin) (bins : List Bin) : List Bin :=
  (bins.map (fun c => if c.core == b.core && c.num == b.num then f c else c)).filter (fun c => !(c.slots.isEmpty && c.waiting.isEmpty))

/-- The state with these bins in which a lane of the bin's team is filed. -/
def withFiled (s : State) (b : Bin) (x : Nat × Nat) (f : Bin → Bin) : State :=
  ({ s with bins := rebinned b f s.bins } : State).modLane b.team x.2 x.1 (filedLane s.cycle)

/-- The filing of the first lane whose slot is free, where REFORM is no NOP. -/
theorem fileWaiting_files {s : State} {b : Bin} {x : Nat × Nat} {w : Warp}
    (hx : b.waiting.find? (fun x => !b.slots.any (fun y => y.1 == x.1)) = some x) (hw : s.warp? b.team x.2 = some w)
    (hsup : w.sup = false) (hlock : w.lockstep = false) :
    ∃ f : Bin → Bin, (∀ c, TookSlot b x c (f c)) ∧ fileWaiting s b = withFiled s b x f := by
  unfold fileWaiting
  simp only [hx, hw, Option.map_some, Option.getD_some, hsup, hlock, Bool.or_false, Bool.false_eq_true, if_false]
  refine ⟨_, ?took, rfl⟩
  exact fun c => ⟨rfl, rfl, rfl, rfl, rfl⟩

theorem withFiled_find? {s : State} {b : Bin} {x : Nat × Nat} {f : Bin → Bin}
    (hb : s.bins.find? (fun c => c.core == b.core && c.num == b.num) = some b) (hf : ∀ c, TookSlot b x c (f c)) :
    (withFiled s b x f).bins.find? (fun c => c.core == b.core && c.num == b.num) = some (f b) := by
  have hself : (if b.core == b.core && b.num == b.num then f b else b) = f b := by simp
  have hkey : ∀ c : Bin, ((if c.core == b.core && c.num == b.num then f c else c).core == b.core &&
      (if c.core == b.core && c.num == b.num then f c else c).num == b.num) = (c.core == b.core && c.num == b.num) := by
    intro c
    split
    · rw [(hf c).core, (hf c).num]
    · rfl
  rw [withFiled, State.modLane_bins, rebinned, find?_filter_map hkey hb (by rw [hself]; simp [(hf b).slots]), hself]

theorem execBinSlotFile_eq {s : State} {core n : Nat} {b : Bin}
    (hb : s.bins.find? (fun b => b.core == core && b.num == n) = some b) : exec (.binSlotFile core n) s = finish (fileWaiting s b) := by
  change finish _ = _
  simp only [hb]

/-! ### The end of a skip, R28 -/

/-- A lane after a skip of which no decision is left ends. -/
def unskip (l : Lane) : Lane := if l.skip = 1 then { l with skip := 0 } else l

theorem unskip_eq (l : Lane) : unskip l = { l with skip := if l.skip = 1 then 0 else l.skip } := by
  unfold unskip
  split <;> rfl

/-- A warp after it. -/
def unskipWarp (w : Warp) : Warp := { w with lanes := w.lanes.map unskip }

theorem execYieldSkipExpiry_eq {s : State} (hs : Awake s) (u k : Nat) : exec (.yieldSkipExpiry u k) s =
    .next (s.modWarp u k unskipWarp) :=
  finish_awake (s := s.modWarp u k _) hs

/-- Settles O41: a bin that is named and old enough is drawable; the bin that is found takes the first lane whose slot is free; and
a last skip ends. -/
theorem binsAge : Obligations.BinsAge := by
  unfold Obligations.BinsAge
  refine ⟨?_, ?_, ?_⟩
  · intro s core n fixed hs
    cases fixed with
    | false =>
      refine ⟨_, execBinAgeExpiry_eq hs core n, fun j b t hb ht => ?_⟩
      simp [hb, drawWhen_eq, waitedOver_eq, ht]
    | true =>
      refine ⟨_, execBinFixedAgeExpiry_eq hs core n, fun j b t hb _ => ?_⟩
      simp [hb, drawWhen_eq, waitedOver_eq]
  · intro s core n b x w l hs hb hx hw hsup hlock hl
    obtain ⟨f, hf, hfile⟩ := fileWaiting_files hx hw hsup hlock
    have hnamed : b.core = core ∧ b.num = n := by simpa using List.find?_some hb
    obtain ⟨rfl, rfl⟩ := hnamed
    refine ⟨withFiled s b x f, f b, w.modLane x.1 (filedLane s.cycle), filedLane s.cycle l, ?_, withFiled_find? hb hf, (hf b).slots,
      (hf b).waiting, (hf b).pc, warp?_modLane (s := { s with bins := _ }) hw _ _, modLane_get hl _, fun h => filedLane_blocked h _,
      fun h => filedLane_halted h _, filedLane_pc _ _⟩
    rw [execBinSlotFile_eq hb, hfile]
    exact finish_awake hs
  · intro s u k w hs hw
    refine ⟨_, unskipWarp w, execYieldSkipExpiry_eq hs u k, by rw [warp?_modWarp, hw]; simp, fun j => ?_⟩
    rw [unskipWarp, List.getElem?_map, funext unskip_eq]

end Sys2Proof.Machine
end

section
/-! SUPPORT. YIELD, REGION, REFORM and EXIT, and the warps that an EXIT frees (R28, R36, R37, R179, R186). -/

namespace Sys2Proof.Machine

/-! ### YIELD and REGION -/

/-- YIELD in every active lane: 64 issue decisions are skipped from here (R28). -/
theorem execYield_completes {s : State} {h : Hdr} {is : Issue} {t : Team} (G : Issuing s (.yield h) h is t) :
    Completes (.yield h) s h is t (fun _ _ l _ l' => StandsAt is.after l l' ∧ 1 < l'.skip ∧ l'.bp = noLatches) := by
  refine completes_upd G (fun l => { l.dropLatches with skip := 65 }) rfl _ (fun k w l w' _ => ?_)
  rw [laneWith_upd, passLane_frame, seenLane_frame]
  exact ⟨⟨rfl, rfl, rfl⟩, (by decide : 1 < 65), rfl⟩

/-- A lane after REGION (R186). -/
def regionLane (is : Issue) (l : Lane) : Lane := { l with regionPc := is.after, regionCnt := 1 }

theorem execRegion_completes {s : State} {h : Hdr} {is : Issue} {t : Team} (G : Issuing s (.region h) h is t) :
    Completes (.region h) s h is t (fun _ _ _ _ l' =>
      l'.pc = is.after ∧ l'.st = .ready ∧ l'.regionPc = is.after ∧ l'.regionCnt = 1) := by
  refine ⟨_, pureLanes_all G _ (r := .done { upd := regionLane is }) rfl (fun c w l C => ?_), fun k w l a => ?_⟩
  · rw [← C.issue]
    rfl
  · obtain ⟨w', hw, hl⟩ := seen_active G (r := .done { upd := regionLane is }) rfl a
    refine ⟨w', _, hw, hl, ?_⟩
    rw [laneWith_upd, passLane_frame]
    exact ⟨rfl, rfl, rfl, rfl⟩

/-! ### REFORM -/

/-- An instruction with one active lane that does not move its warp: the lane stands as its result has it. -/
theorem perLane_alone {s : State} {i : Instr} {h : Hdr} {is : Issue} {t : Team} (G : Issuing s i h is t) {k : Nat × Nat} {w : Warp}
    {l : Lane} (one : OneLane t is h k) (a : Active t is h k w l) {f : State → Lc → State × LaneRes} {s' : State} {r : LaneRes}
    (hf : ∀ c, Ctx s i h is t c w l → (c.wi, c.slot) = k → f (s.seen t is) c = (s', r)) (hs : Awake s')
    (hteams : s'.teams = (s.seen t is).teams) (hr : r.trap? = none) :
    perLane i h s f = .next (commit s' is (allDo t is h r)) := by
  obtain ⟨c, C, hk, -, hx⟩ := perLane_one G one a f
  have hmap : [(k, r)] = (activeLanes t is h).map (fun k => (k, r)) := by rw [show activeLanes t is h = [k] from one]; rfl
  rw [hx, hf c C hk, hmap]
  exact finish_all hs hr (fun j _ => untouched_teams G hteams j.1)

/-- The same of the lane. -/
theorem alone_lane {s s' : State} {i : Instr} {h : Hdr} {is : Issue} {t : Team} (G : Issuing s i h is t) {k : Nat × Nat} {w : Warp}
    {l : Lane} (a : Active t is h k w l) (hteams : s'.teams = (s.seen t is).teams) {r : LaneRes} (hr : r.trap? = none) :
    ∃ w', (commit s' is (allDo t is h r)).warp? is.team k.1 = some w' ∧
      w'.lanes[k.2]? = some (laneWith is s'.cycle w.sup r (seenLane t is k l)) := by
  obtain ⟨ls, hw, hls⟩ := seen_warp? G a.1.2.1
  have hw' : s'.warp? is.team k.1 = some { w with lanes := ls } := by
    rw [← hw]
    simp only [State.warp?, State.team?, hteams]
  have hl : ({ w with lanes := ls } : Warp).lanes[k.2]? = some (seenLane t is k l) := by
    change ls[k.2]? = _
    rw [hls, a.1.2.2]
    rfl
  exact commit_active (w := { w with lanes := ls }) G.nodup hr ((mem_active G).mpr ⟨w, l, a⟩) hw' hl

@[simp] theorem seen_core (t : Team) (is : Issue) : (t.seen is).core = t.core := by rw [seen_frame]
@[simp] theorem seen_uid (t : Team) (is : Issue) : (t.seen is).uid = t.uid := by rw [seen_frame]
@[simp] theorem seen_desc (t : Team) (is : Issue) : (t.seen is).desc = t.desc := by rw [seen_frame]
@[simp] theorem seen_bins (s : State) (t : Team) (is : Issue) : (s.seen t is).bins = s.bins := by rw [seen_state]
@[simp] theorem seen_cycle (s : State) (t : Team) (is : Issue) : (s.seen t is).cycle = s.cycle := by rw [seen_state]

theorem commit_bins {s : State} {is : Issue} {rs : List ((Nat × Nat) × LaneRes)} (hu : Untrapped rs) : (commit s is rs).bins = s.bins := by
  rw [commit_frame s is hu]

/-- A bin that a lane of the team has just been filed into (R22, R23). -/
def newBin (s : State) (t : Team) (n : Nat) (pc : Pc) (k : Nat × Nat) : Bin :=
  ⟨t.core, n, t.uid, pc, [(k.2, k.1)], [], s.cycle, decide (t.desc.fill ≤ 1)⟩

/-- The lane that REFORM files. -/
def reformed (l : Lane) : Lane := { l.dropLatches with st := .filed }

/-- What REFORM does for one lane. -/
def reformOne (s : State) (c : Lc) : State × LaneRes :=
  if c.w.lockstep || c.w.sup then (s, .done { upd := Lane.dropLatches })
  else match fileLane s c.tm c.wi c.slot c.next with
  | some (s, true) => (s, .done { upd := reformed })
  | some (s, false) => (s, .wait .binSlot)
  | none => (bumpCore s c.tm.core 0, .done { upd := Lane.dropLatches })

theorem exec_reform (h : Hdr) (s : State) : exec (.reform h) s = perLane (.reform h) h s reformOne := rfl

/-- Where no bin holds the lane's PC, the free bin of the lowest number takes the lane (R21). -/
theorem fileLane_new {s : State} {t : Team} {wi slot n : Nat} {pc : Pc}
    (hno : ∀ b ∈ s.bins, ¬(b.core = t.core ∧ b.team = t.uid ∧ b.pc = pc))
    (hn : (List.range 32).find? (fun n => !s.bins.any (fun b => b.core == t.core && b.num == n)) = some n) :
    fileLane s t wi slot pc = some ({ s with bins := s.bins ++ [newBin s t n pc (wi, slot)] }, true) := by
  have hnone : s.bins.find? (fun b => b.core == t.core && b.team == t.uid && b.pc == pc) = none := by
    rw [List.find?_eq_none]
    intro b hb
    simpa [and_assoc] using hno b hb
  unfold fileLane
  simp only [hnone, hn]
  rfl

section
variable {s : State} {h : Hdr} {is : Issue} {t : Team} {k : Nat × Nat} {w : Warp} {l : Lane}

/-- In lockstep and in supervisor mode REFORM acts as NOP, and the latches go (R29, R290). -/
theorem execReform_nop (G : Issuing s (.reform h) h is t) (one : OneLane t is h k) (a : Active t is h k w l)
    (hnop : w.lockstep = true ∨ w.sup = true) :
    ∃ s' w' l', exec (.reform h) s = .next s' ∧ s'.warp? is.team k.1 = some w' ∧ w'.lanes[k.2]? = some l' ∧
      StandsAt is.after l l' ∧ l'.bp = noLatches ∧ s'.bins = s.bins := by
  have hone : ∀ c, Ctx s (.reform h) h is t c w l → (c.wi, c.slot) = k →
      reformOne (s.seen t is) c = (s.seen t is, .done { upd := Lane.dropLatches }) := by
    intro c C _
    obtain ⟨ls, hcw, -, -⟩ := C.warpEq
    refine if_pos ?_
    rcases hnop with e | e <;> simp [hcw, e]
  obtain ⟨w', hw, hl⟩ := alone_lane G a (s' := s.seen t is) rfl (r := .done { upd := Lane.dropLatches }) rfl
  refine ⟨_, w', _, (exec_reform h s).trans (perLane_alone G one a hone (seen_awake G.awake t is) rfl rfl), hw, hl, ?_⟩
  rw [commit_bins (allDo_untrapped rfl), seen_bins, laneWith_upd, passLane_frame, seenLane_frame]
  exact ⟨⟨rfl, rfl, rfl⟩, rfl, rfl⟩

/-- Elsewhere REFORM files the lane (R21, R179). -/
theorem execReform_files (G : Issuing s (.reform h) h is t) (one : OneLane t is h k) (a : Active t is h k w l) {n : Nat}
    (hlock : w.lockstep = false) (hsup : w.sup = false)
    (hno : ∀ b ∈ s.bins, ¬(b.core = t.core ∧ b.team = t.uid ∧ b.pc = is.after))
    (hn : (List.range 32).find? (fun n => !s.bins.any (fun b => b.core == t.core && b.num == n)) = some n) :
    ∃ s' w' l', exec (.reform h) s = .next s' ∧ s'.warp? is.team k.1 = some w' ∧ w'.lanes[k.2]? = some l' ∧
      l'.pc = is.after ∧ l'.st = .filed ∧ l'.bp = noLatches ∧
      s'.bins = s.bins ++ [newBin s t n is.after k] := by
  have hone : ∀ c, Ctx s (.reform h) h is t c w l → (c.wi, c.slot) = k → reformOne (s.seen t is) c =
      ({ s.seen t is with bins := s.bins ++ [newBin s t n is.after k] }, .done { upd := reformed }) := by
    intro c C hk
    obtain ⟨ls, hcw, -, -⟩ := C.warpEq
    have hnext : c.next = is.after := by rw [Lc.next, C.issue, Issue.after]
    have hfile := fileLane_new (s := s.seen t is) (t := t.seen is) (wi := c.wi) (slot := c.slot) (pc := c.next) (n := n)
      (by simpa [hnext] using hno) (by simpa using hn)
    rw [reformOne, if_neg (by simp [hcw, hlock, hsup]), C.team, hfile]
    simp [hnext, newBin, ← hk]
  obtain ⟨w', hw, hl⟩ := alone_lane G a (s' := { s.seen t is with bins := s.bins ++ [newBin s t n is.after k] }) rfl
    (r := .done { upd := reformed }) rfl
  refine ⟨_, w', _, (exec_reform h s).trans (perLane_alone G one a hone (seen_awake G.awake t is) rfl rfl), hw, hl, ?_⟩
  rw [commit_bins (allDo_untrapped rfl), laneWith_upd, passLane_frame]
  exact ⟨rfl, rfl, rfl, rfl⟩

end

/-! ### Warps that retire, R36 and R37 -/

theorem stamp_noBlock {s : State} {t : Team} (hd : NoDebugBlock s t.space) (kind warp tile : Nat) (fs : List Nat) :
    stamp s t kind warp tile fs = s := by
  have hnone : (s.ctx? t.space).bind Context.dblk = none := by
    cases hc : s.ctx? t.space with
    | none => rfl
    | some c => exact hd c hc
  simp [stamp, stampRecord, hnone]

/-- The warp is in use and its last lane has exited. -/
def spent (w : Warp) : Bool := w.st != .free && !w.lanes.any (fun l => l.live)

/-- A warp context that is free again. -/
def freeWarp (w : Warp) : Warp :=
  { w with st := .free, trap := none, pend := [], tx := TryState.none, stack := [], armed := false, fired := false }

/-- Warps and the team with the spent warps free. -/
def freed (s : State) (u : Nat) (done : List (Warp × Nat)) : State := done.foldl (fun s x => s.modWarp u x.2 freeWarp) s

theorem freed_awake {s : State} (h : Awake s) (u : Nat) (done : List (Warp × Nat)) : Awake (freed s u done) := by
  induction done generalizing s with
  | nil => exact h
  | cons x xs ih => exact ih (s := s.modWarp u x.2 freeWarp) h

theorem freed_warp? {s : State} {u j : Nat} {w : Warp} (hw : s.warp? u j = some w) (done : List (Warp × Nat)) :
    (freed s u done).warp? u j = some (if done.any (fun x => x.2 == j) then freeWarp w else w) := by
  induction done generalizing s w with
  | nil => exact hw
  | cons x xs ih =>
    have hx : (s.modWarp u x.2 freeWarp).warp? u j = some (if x.2 = j then freeWarp w else w) := by rw [warp?_modWarp, hw]; rfl
    change (freed (s.modWarp u x.2 freeWarp) u xs).warp? u j = _
    rw [ih hx, List.any_cons]
    by_cases hj : x.2 = j
    · simp [hj, freeWarp]
    · rw [if_neg hj, beq_eq_false_iff_ne.mpr hj, Bool.false_or]

/-- Of the warps with their indices those that are spent. -/
theorem spent_any {ws : List Warp} {j : Nat} {w : Warp} (hw : ws[j]? = some w) :
    ((ws.zipIdx.filter (fun x => spent x.1)).any (fun x => x.2 == j)) = spent w := by
  rw [Bool.eq_iff_iff, List.any_eq_true]
  constructor
  · rintro ⟨x, hx, hj⟩
    obtain ⟨hx, hs⟩ := List.mem_filter.mp hx
    have hget := (List.mem_zipIdx_iff_getElem?.mp hx)
    rw [beq_iff_eq.mp hj, hw] at hget
    rwa [Option.some.inj hget]
  · intro hs
    exact ⟨(w, j), List.mem_filter.mpr ⟨List.mem_zipIdx_iff_getElem?.mpr hw, hs⟩, beq_self_eq_true j⟩

/-- A warp of a team after its spent warps have retired: free, if it was one of them. -/
structure RetiredAs (w w' : Warp) : Prop where
  lanes : w'.lanes = w.lanes
  st : w'.st = if spent w then .free else w.st

/-- The team of which no warp is in use any more ends (R38). -/
def endTeam (t : Team) : Team := if t.st == .running && !t.warps.any (fun w => w.st != .free) then { t with st := .ending } else t

theorem endTeam_uid (t : Team) : (endTeam t).uid = t.uid := by unfold endTeam; split <;> rfl
theorem endTeam_warps (t : Team) : (endTeam t).warps = t.warps := by unfold endTeam; split <;> rfl

theorem endTeam_warp? (s : State) (u j : Nat) : (s.modTeam u endTeam).warp? u j = s.warp? u j := by
  unfold State.warp?
  rw [team?_modTeam s u u endTeam endTeam_uid]
  cases s.team? u <;> simp [endTeam_warps]

/-- The state with the spent warps of a team free, their results dropped, and the team ended if none is left. -/
def retiredState (s : State) (u : Nat) (done : List (Warp × Nat)) (results : List Result) (ops : List EngOp) : State :=
  ({ freed s u done with results := results, ops := ops } : State).modTeam u endTeam

section
variable {s : State} {u : Nat} {t : Team} {results : List Result} {ops : List EngOp}

theorem retiredState_awake (hs : Awake s) (done : List (Warp × Nat)) : Awake (retiredState s u done results ops) :=
  freed_awake hs u done

theorem retiredState_warp? {j : Nat} {w : Warp} (ht : s.team? u = some t) (hw : t.warps[j]? = some w) :
    (retiredState s u (t.warps.zipIdx.filter (fun x => spent x.1)) results ops).warp? u j = some (if spent w then freeWarp w else w) := by
  have hs : s.warp? u j = some w := by rw [State.warp?, ht]; exact hw
  have hf := freed_warp? hs (t.warps.zipIdx.filter (fun x => spent x.1))
  rw [spent_any hw] at hf
  exact (endTeam_warp? _ u j).trans hf

theorem retiredAs_free (w : Warp) : RetiredAs w (if spent w then freeWarp w else w) := by
  cases h : spent w
  · exact ⟨rfl, by simp [h]⟩
  · exact ⟨rfl, by simp [h, freeWarp]⟩

/-- No fault of an engine is held by the spent warps. -/
theorem held_none (hp : ∀ w ∈ t.warps, ∀ ti ∈ w.pend, ti.kind ≠ 3) :
    ((t.warps.zipIdx.filter (fun x => spent x.1)).flatMap (fun x => x.1.pend)).find? (fun ti => ti.kind == 3) = none := by
  rw [List.find?_eq_none]
  intro ti hti
  obtain ⟨x, hx, hti⟩ := List.mem_flatMap.mp hti
  have hw : x.1 ∈ t.warps := List.mem_of_getElem? (List.mem_zipIdx_iff_getElem?.mp (List.mem_of_mem_filter hx))
  simpa using hp x.1 hw ti hti

/-- Where no debug block takes a record and no engine's fault is held, retiring frees the spent warps; faults that they hold go to
an heir (R36, R370). -/
theorem retireWarps_eq (ht : s.team? u = some t) (hd : NoDebugBlock s t.space) (hp : ∀ w ∈ t.warps, ∀ ti ∈ w.pend, ti.kind ≠ 3)
    (hne : (t.warps.zipIdx.filter (fun x => spent x.1)).isEmpty = false) :
    ∃ results ops held, ∃ heir : Option (Warp × Nat), retireWarps s u =
      match heir with
      | some x => (retiredState s u (t.warps.zipIdx.filter (fun x => spent x.1)) results ops).modWarp u x.2
          (fun w => { w with pend := w.pend ++ held })
      | none => retiredState s u (t.warps.zipIdx.filter (fun x => spent x.1)) results ops := by
  have hstamps : ∀ xs : List (Warp × Nat),
      xs.foldl (fun s x => stamp s t 4 x.2 0 [(warpHash x.1).toNat, warpStores x.1]) s = s :=
    fun xs => List.foldl_fixed' (fun x => stamp_noBlock hd _ _ _ _) xs
  have hheld := held_none hp
  unfold spent at hne hheld
  unfold retireWarps
  simp only [ht, hstamps, hne, hheld, Bool.false_eq_true, if_false]
  exact ⟨_, _, _, _, rfl⟩

theorem retireWarps_warp? (hs : Awake s) (ht : s.team? u = some t) (hd : NoDebugBlock s t.space)
    (hp : ∀ w ∈ t.warps, ∀ ti ∈ w.pend, ti.kind ≠ 3) :
    Awake (retireWarps s u) ∧ ∀ (j : Nat) (w : Warp), t.warps[j]? = some w →
      ∃ w', (retireWarps s u).warp? u j = some w' ∧ RetiredAs w w' := by
  cases hne : (t.warps.zipIdx.filter (fun x => spent x.1)).isEmpty with
  | true =>
    have hsame : retireWarps s u = s := by
      unfold spent at hne
      simp only [retireWarps, ht, hne, if_true]
    have hlive : ∀ (j : Nat) (w : Warp), t.warps[j]? = some w → spent w = false := by
      intro j w hw
      have hany := spent_any hw
      rw [List.isEmpty_iff.mp hne] at hany
      exact hany.symm
    rw [hsame]
    exact ⟨hs, fun j w hw => ⟨w, by rw [State.warp?, ht]; exact hw, rfl, by simp [hlive j w hw]⟩⟩
  | false =>
    obtain ⟨results, ops, held, heir, hx⟩ := retireWarps_eq ht hd hp hne
    rw [hx]
    cases heir with
    | none => exact ⟨retiredState_awake hs _, fun j w hw => ⟨_, retiredState_warp? ht hw, retiredAs_free w⟩⟩
    | some x =>
      refine ⟨retiredState_awake (results := results) (ops := ops) hs _, fun j w hw =>
        ⟨_, by rw [warp?_modWarp, retiredState_warp? ht hw]; rfl, ?_⟩⟩
      obtain ⟨hl, hst⟩ := retiredAs_free w
      by_cases hj : x.2 = j
      · simp only [if_pos hj]
        exact ⟨hl, hst⟩
      · simp only [if_neg hj]
        exact ⟨hl, hst⟩

end

/-! ### EXIT -/

/-- The lane of an EXIT. -/
def exitLane (l : Lane) : Lane := { l with st := .exited }
def exitRes : LaneRes := .done { upd := exitLane }

section
variable {s : State} {i : Instr} {h : Hdr} {is : Issue} {t : Team}

/-- A warp of a group's team after the group's results: what changes of its lanes, and what stands. -/
structure CommittedAs (t : Team) (is : Issue) (now : Nat) (rs : List ((Nat × Nat) × LaneRes)) (j : Nat) (w w' : Warp) : Prop where
  lanes : ∀ n, w'.lanes[n]? = (w.lanes[n]?).map (fun l => laneWith is now w.sup (resOf rs j n) (seenLane t is (j, n) l))
  st : w'.st = w.st
  pend : w'.pend = w.pend

theorem committed_warp (t : Team) (is : Issue) (now : Nat) (rs : List ((Nat × Nat) × LaneRes)) {j : Nat} {w : Warp}
    (hw : t.warps[j]? = some w) : ∃ w', ((t.seen is).commit is now rs).warps[j]? = some w' ∧ CommittedAs t is now rs j w w' := by
  obtain ⟨ls, h1, h2⟩ := seen_warp t is j w hw
  refine ⟨commitWarp is now rs j { w with lanes := ls }, by simp [Team.commit, h1], fun n => ?_, ?_, ?_⟩
  · rw [commitWarp_get]
    change Option.map _ ls[n]? = _
    rw [h2 n, Option.map_map]
    rfl
  · rw [commitWarp_frame]
  · rw [commitWarp_frame]

/-- Each warp of the team after the results was one before. -/
theorem committed_of {t : Team} {is : Issue} {now : Nat} {rs : List ((Nat × Nat) × LaneRes)} {w' : Warp}
    (hw' : w' ∈ ((t.seen is).commit is now rs).warps) : ∃ j, ∃ w ∈ t.warps, CommittedAs t is now rs j w w' := by
  obtain ⟨j, hj⟩ := List.mem_iff_getElem?.mp hw'
  have hlt : j < t.warps.length := by
    have := (List.getElem?_eq_some_iff.mp hj).1
    simpa [Team.commit, seen_length] using this
  obtain ⟨w, hw, C⟩ := committed_warp t is now rs (List.getElem?_eq_getElem hlt)
  rw [hw] at hj
  obtain rfl := Option.some.inj hj
  exact ⟨j, _, List.getElem_mem hlt, C⟩

/-- After an EXIT those lanes live that did before and are not active in the group. -/
theorem exit_live (G : Issuing s i h is t) {j n : Nat} {w : Warp} {l : Lane} (hw : t.warps[j]? = some w) (hl : w.lanes[n]? = some l) :
    (laneWith is s.cycle w.sup (resOf (allDo t is h exitRes) j n) (seenLane t is (j, n) l)).live =
      (l.live && !(activeLanes t is h).contains (j, n)) := by
  by_cases ha : (j, n) ∈ activeLanes t is h
  · rw [resOf_allDo_active (k := (j, n)) G.nodup ha, exitRes, laneWith_upd, passLane_frame]
    simp [Lane.live, exitLane, ha]
  · by_cases hm : (j, n) ∈ is.lanes
    · have hlive := (G.live _ hm w l hw hl).2
      rw [resOf_allDo_idle (k := (j, n)) G.nodup hm ha, laneWith_done rfl]
      rw [show l.live = true from bne_iff_ne.mpr hlive]
      simp [Lane.live, ha]
    · rw [resOf_allDo_other (k := (j, n)) hm, laneWith_stay, seenLane_frame]
      simp [Lane.live, ha]

/-- A warp after an EXIT is spent when its live lanes were all active. -/
theorem exit_spent (G : Issuing s i h is t) {j : Nat} {w w' : Warp} (hw : t.warps[j]? = some w) (hst : w.st = .live)
    (C : CommittedAs t is s.cycle (allDo t is h exitRes) j w w') :
    spent w' = w.lanes.zipIdx.all (fun x => !x.1.live || (activeLanes t is h).contains (j, x.2)) := by
  have hmem : ∀ m, m ∈ w'.lanes ↔ ∃ n l, w.lanes[n]? = some l ∧
      laneWith is s.cycle w.sup (resOf (allDo t is h exitRes) j n) (seenLane t is (j, n) l) = m := by
    intro m
    rw [List.mem_iff_getElem?]
    refine exists_congr fun n => ?_
    rw [C.lanes, Option.map_eq_some_iff]
  rw [Bool.eq_iff_iff]
  simp only [spent, C.st, hst, Bool.and_eq_true, Bool.not_eq_true', List.any_eq_false, List.all_eq_true, hmem]
  constructor
  · rintro ⟨-, hall⟩ x hx
    have hl := List.mem_zipIdx_iff_getElem?.mp hx
    have := hall _ ⟨x.2, x.1, hl, rfl⟩
    rw [exit_live G hw hl] at this
    cases hlive : x.1.live <;> simp_all
  · intro hall
    refine ⟨by decide, fun m hm => ?_⟩
    obtain ⟨n, l, hl, rfl⟩ := hm
    have := hall (l, n) (List.mem_zipIdx_iff_getElem?.mpr hl)
    rw [exit_live G hw hl]
    cases hlive : l.live <;> simp_all

theorem exec_exit (G : Issuing s (.exit h) h is t) :
    exec (.exit h) s = finish (retireWarps (commit (s.seen t is) is (allDo t is h exitRes)) is.team) := by
  change finish (retireAfter s (issueWith (.exit h) h s (fun _ _ => none) (foldLanes fun s _ => (s, exitRes)))) = _
  rw [issueWith_all G (r := exitRes) (fun _ => exitRes) (fun _ _ _ _ => rfl), retireAfter, G.cur]

/-- EXIT ends the active lanes and frees the warps of which none is left (R36, R37). -/
theorem execExit_completes (G : Issuing s (.exit h) h is t) (hd : NoDebugBlock s t.space)
    (hp : ∀ w ∈ t.warps, ∀ ti ∈ w.pend, ti.kind ≠ 3) :
    Completes (.exit h) s h is t (fun k w _ w' l' => l'.st = .exited ∧
      (if w.lanes.zipIdx.all (fun x => !x.1.live || (activeLanes t is h).contains (k.1, x.2)) then w'.st = .free
       else w'.st = w.st)) := by
  have hu : Untrapped (allDo t is h exitRes) := allDo_untrapped rfl
  have hteam : (commit (s.seen t is) is (allDo t is h exitRes)).team? is.team =
      some ((t.seen is).commit is s.cycle (allDo t is h exitRes)) := by
    rw [commit_team? _ is hu, seen_team s t is G.team, seen_cycle]
    simp
  have hspace : ((t.seen is).commit is s.cycle (allDo t is h exitRes)).space = t.space := by rw [Team.commit, seen_frame]
  have hblock : NoDebugBlock (commit (s.seen t is) is (allDo t is h exitRes)) ((t.seen is).commit is s.cycle (allDo t is h exitRes)).space := by
    rw [hspace, commit_frame _ is hu, seen_state]
    exact hd
  obtain ⟨hawake, hret⟩ := retireWarps_warp? (commit_awake (seen_awake G.awake t is) is hu) hteam hblock (fun w' hw' => by
    obtain ⟨j, w, hw, C⟩ := committed_of hw'
    rw [C.pend]
    exact hp w hw)
  refine ⟨_, (exec_exit G).trans (finish_awake hawake), fun k w l a => ?_⟩
  obtain ⟨w1, hw1, C⟩ := committed_warp t is s.cycle (allDo t is h exitRes) a.1.2.1
  obtain ⟨w', hw', R⟩ := hret k.1 w1 hw1
  have hk := (mem_active G).mpr ⟨w, l, a⟩
  have hst := (G.live k a.1.1 w l a.1.2.1 a.1.2.2).1
  refine ⟨w', laneWith is s.cycle w.sup exitRes (seenLane t is k l), hw', ?_, ?_, ?_⟩
  · rw [R.lanes, C.lanes, a.1.2.2, resOf_allDo_active G.nodup hk]
    rfl
  · rw [exitRes, laneWith_upd, passLane_frame]
    rfl
  · rw [R.st, exit_spent G a.1.2.1 hst C, C.st]
    split <;> rfl

end

/-- Settles O7: each instruction gives its active lanes one result; EXIT's warps retire when none of their lanes lives. -/
theorem lanesYieldFileAndExit : Obligations.LanesYieldFileAndExit := by
  unfold Obligations.LanesYieldFileAndExit
  refine ⟨⟨fun s h is t G => execYield_completes G, fun s h is t G => execRegion_completes G⟩, ?_, ?_⟩
  · intro s h is t k w l G one a
    exact ⟨execReform_nop G one a, fun n hlock hsup hno hn => execReform_files G one a hlock hsup hno hn⟩
  · intro s h is t G hd hp
    exact execExit_completes G hd hp

end Sys2Proof.Machine
end

section
/-! SUPPORT. SPAWN: the free context that it takes, the warp that it starts there, and what the active lanes see of it
(R33, R35, R180). -/

namespace Sys2Proof.Machine

/-! ### The free context of lowest number -/

/-- A warp as its context's number and state go, whatever its lanes hold. -/
def SameContext (x y : Nat × Warp) : Prop := x.1 = y.1 ∧ x.2.st = y.2.st ∧ x.2.ctx = y.2.ctx

/-- One warp of the search for a free context. -/
def freer (acc : Option (Nat × Warp)) (x : Nat × Warp) : Option (Nat × Warp) :=
  if x.2.st == .free then
    match acc with
    | some b => if x.2.ctx < b.2.ctx then some x else acc
    | none => some x
  else acc

/-- The warps of a team with their indices, as the search goes through them. -/
def indexed (t : Team) : List (Nat × Warp) := t.warps.zipIdx.map (fun x => (x.2, x.1))

theorem freeContext_eq (t : Team) : freeContext t = (indexed t).foldl freer none := rfl

theorem mem_indexed {t : Team} {x : Nat × Warp} : x ∈ indexed t ↔ t.warps[x.1]? = some x.2 := by
  simp [indexed, List.mem_zipIdx_iff_getElem?, Prod.ext_iff]

theorem indexed_get (t : Team) (i : Nat) : (indexed t)[i]? = (t.warps[i]?).map (fun w => (i, w)) := by
  simp [indexed, Function.comp_def]

/-- The search finds a free warp of the team. -/
theorem freeContext_mem {t : Team} {c : Nat} {n : Warp} (h : freeContext t = some (c, n)) : t.warps[c]? = some n ∧ n.st = .free := by
  have key : ∀ x, (indexed t).foldl freer none = some x → x ∈ indexed t ∧ x.2.st = .free := by
    refine List.foldlRecOn (motive := fun acc => ∀ x, acc = some x → x ∈ indexed t ∧ x.2.st = .free) _ freer (fun x hx => by cases hx) ?_
    intro acc ih y hy x hx
    unfold freer at hx
    by_cases hf : y.2.st = .free
    · rw [if_pos (beq_iff_eq.mpr hf)] at hx
      split at hx
      · split at hx
        · exact Option.some.inj hx ▸ ⟨hy, hf⟩
        · exact ih x hx
      · exact Option.some.inj hx ▸ ⟨hy, hf⟩
    · rw [if_neg (by simpa using hf)] at hx
      exact ih x hx
  obtain ⟨hm, hf⟩ := key (c, n) h
  exact ⟨mem_indexed.mp hm, hf⟩

theorem freer_rel {a b : Option (Nat × Warp)} {x y : Nat × Warp} (hab : Option.Rel SameContext a b) (hxy : SameContext x y) :
    Option.Rel SameContext (freer a x) (freer b y) := by
  unfold freer
  rw [hxy.2.1]
  split
  · cases hab with
    | none => exact .some hxy
    | some hb =>
      simp only [hxy.2.2, hb.2.2]
      split
      · exact .some hxy
      · exact .some hb
  · exact hab

/-- The search goes by the contexts alone. -/
theorem freeContext_rel {t u : Team} (h : List.Forall₂ SameContext (indexed t) (indexed u)) :
    Option.Rel SameContext (freeContext t) (freeContext u) := by
  rw [freeContext_eq, freeContext_eq]
  exact List.rel_foldl (R := SameContext) (fun _ _ ha _ _ hx => freer_rel ha hx) .none h

theorem indexed_seen (t : Team) (is : Issue) : List.Forall₂ SameContext (indexed t) (indexed (t.seen is)) := by
  refine List.forall₂_iff_get.mpr ⟨by simp [indexed, seen_length], fun i h1 h2 => ?_⟩
  obtain ⟨w, hw⟩ : ∃ w, t.warps[i]? = some w := ⟨_, List.getElem?_eq_getElem (by simpa [indexed] using h1)⟩
  obtain ⟨ls, hs, -⟩ := seen_warp t is i w hw
  have e1 : (indexed t).get ⟨i, h1⟩ = (i, w) :=
    Option.some.inj (by rw [List.get_eq_getElem, ← List.getElem?_eq_getElem, indexed_get, hw]; rfl)
  have e2 : (indexed (t.seen is)).get ⟨i, h2⟩ = (i, { w with lanes := ls }) :=
    Option.some.inj (by rw [List.get_eq_getElem, ← List.getElem?_eq_getElem, indexed_get, hs]; rfl)
  rw [e1, e2]
  exact ⟨rfl, rfl, rfl⟩

/-- The latches that a group loses do not change which context is free. -/
theorem freeContext_seen {t : Team} {c : Nat} {n : Warp} (is : Issue) (h : freeContext t = some (c, n)) :
    ∃ n', freeContext (t.seen is) = some (c, n') ∧ n'.ctx = n.ctx := by
  have hrel := freeContext_rel (indexed_seen t is)
  rw [h] at hrel
  cases hs : freeContext (t.seen is) with
  | none => rw [hs] at hrel; cases hrel
  | some x =>
    rw [hs] at hrel
    cases hrel with
    | some hx =>
      obtain ⟨hc, -, hctx⟩ := hx
      exact ⟨x.2, congrArg (fun i => some (i, x.2)) hc.symm, hctx.symm⟩

theorem freeContext_seen_none {t : Team} (is : Issue) (h : freeContext t = none) : freeContext (t.seen is) = none := by
  have hrel := freeContext_rel (indexed_seen t is)
  rw [h] at hrel
  cases hs : freeContext (t.seen is) with
  | none => rfl
  | some x => rw [hs] at hrel; cases hrel

/-! ### The warp that starts -/

/-- Registers 0 to n - 1 of a new lane are those from `first` on of the lane that spawns it. -/
theorem rdV_passed (f : Nat → Word) (l : Lane) (n r : Nat) :
    ((List.range n).foldl (fun l j => l.wrV j (f j)) l).rdV r = if r < n then f r else l.rdV r := by
  induction n with
  | zero => rfl
  | succ n ih =>
    rw [List.range_succ, List.foldl_append, List.foldl_cons, List.foldl_nil]
    by_cases hr : r = n
    · rw [hr, if_pos (Nat.lt_succ_self n)]
      exact cget_cset_self _ _ _
    · refine (cget_cset_ne _ _ hr).trans (ih.trans ?_)
      simp only [show r < n + 1 ↔ r < n from by omega]

/-- Registers alone change while a new lane takes its values. -/
theorem passed_frame (f : Nat → Word) (l : Lane) (js : List Nat) :
    js.foldl (fun l j => l.wrV j (f j)) l = { l with v := (js.foldl (fun l j => l.wrV j (f j)) l).v } := by
  induction js generalizing l with
  | nil => rfl
  | cons j js ih => exact ih _

/-- The lane in a slot of the new warp (R35). -/
def spawnedLane (act : List Nat) (first : Nat) (pc : Pc) (now j : Nat) (m : Lane) : Lane :=
  if act.contains j then (List.range 8).foldl (fun l i => l.wrV i (m.rdV (first + i))) (newLane true pc now) else newLane false pc now

theorem spawned_lanes (c : Lc) (n : Warp) (first : Nat) (pc : Pc) (now j : Nat) :
    (spawned c n first pc now).lanes[j]? = (c.w.lanes[j]?).map (spawnedLane c.act first pc now j) := by
  simp only [spawned, newWarp, List.getElem?_map, List.getElem?_zipIdx, Option.map_map]
  refine congrArg (fun f => Option.map f c.w.lanes[j]?) (funext fun m => ?_)
  simp only [spawnedLane, Function.comp_apply, Nat.zero_add]
  split
  next ha => rw [ha]
  next ha => rw [Bool.eq_false_iff.mpr ha]

theorem spawnedLane_p (act : List Nat) (first : Nat) (pc : Pc) (now j : Nat) (m : Lane) : (spawnedLane act first pc now j m).p = 0 := by
  unfold spawnedLane
  split
  · rw [passed_frame]
    rfl
  · rfl

theorem spawnedLane_active {act : List Nat} {j : Nat} (hj : j ∈ act) (first : Nat) (pc : Pc) (now : Nat) (m : Lane) :
    (spawnedLane act first pc now j m).st = .ready ∧ (spawnedLane act first pc now j m).pc = pc ∧
      ∀ r, (spawnedLane act first pc now j m).rdV r = if r < 8 then m.rdV (first + r) else 0 := by
  unfold spawnedLane
  rw [if_pos (List.contains_iff_mem.mpr hj)]
  refine ⟨by rw [passed_frame]; rfl, by rw [passed_frame]; rfl, fun r => ?_⟩
  rw [rdV_passed]
  rfl

theorem spawnedLane_other {act : List Nat} {j : Nat} (hj : j ∉ act) (first : Nat) (pc : Pc) (now : Nat) (m : Lane) :
    (spawnedLane act first pc now j m).st = .exited := by
  unfold spawnedLane
  rw [if_neg (by simpa using hj)]
  rfl

/-- Displacements count instruction words (R178). -/
theorem target_eq (c : Lc) (disp : Word) : c.target disp = c.is.pc + BitVec.ofInt 56 (4 * disp.toInt) := by
  rw [Lc.target, BitVec.ofInt_mul]
  rfl

/-! ### The lanes that spawn -/

/-- What the active lanes of a SPAWN see of it: SPAWN.TRY's predicate; and the latches go. -/
def spawnEff (h : Hdr) (form : SpawnForm) (b : Bool) : Eff :=
  { (match form with | .try_ p => dstP h p b | _ => ({} : Eff)) with upd := Lane.dropLatches }

/-- What SPAWN does for a warp. -/
def spawnOne (h : Hdr) (form : SpawnForm) (a : Fin 192) (disp : Word) (s : State) (c : Lc) : State × LaneRes :=
  match (s.team? c.is.team).bind freeContext with
  | some (k, n) => (s.modWarp c.is.team k (fun _ => spawned c n a.val (c.target disp) s.cycle), .done (spawnEff h form true))
  | none =>
    match form with
    | .try_ _ => (s, .done (spawnEff h form false))
    | _ => (s, .wait .spawn)

theorem exec_spawn (h : Hdr) (form : SpawnForm) (a : Fin 192) (disp : Word) (s : State) :
    exec (.spawn h form a disp) s = perWarp (.spawn h form a disp) h s (fun _ _ => none) (spawnOne h form a disp) := by
  cases form <;> rfl

theorem rdP_wrP_self (l : Lane) (p : Fin 8) (b : Bool) : (l.wrP p b).rdP p = (b || p == 7) := by
  by_cases hp : p = 7
  · simp [Lane.rdP, hp]
  · have hlt : p.val < 7 := by omega
    have hbit : (BitVec.ofNat 7 (2 ^ p.val)).getLsbD p.val = true := by
      rw [BitVec.getLsbD_ofNat, Nat.testBit_two_pow]
      simp [hlt]
    unfold Lane.wrP
    rw [if_neg (by simpa using hp)]
    cases b
    · simp only [Lane.rdP, Bool.false_eq_true, if_false, BitVec.getLsbD_and, BitVec.getLsbD_not, hbit, Bool.not_true, Bool.and_false,
        Bool.or_false, Bool.false_or]
    · simp only [Lane.rdP, if_true, BitVec.getLsbD_or, hbit, Bool.or_true, Bool.true_or]

/-- An active lane of a SPAWN that completes goes on without its latches; it writes predicates alone. -/
theorem laneWith_spawn (is : Issue) (now : Nat) (sup : Bool) (h : Hdr) (form : SpawnForm) (b : Bool) (l : Lane) :
    StandsAt is.after l (laneWith is now sup (.done (spawnEff h form b)) l) ∧
      (laneWith is now sup (.done (spawnEff h form b)) l).p = ((spawnEff h form b).preds.foldl Lane.putP l).p := by
  unfold laneWith
  rw [passLane_frame]
  cases form <;> simp [commitLane, spawnEff, effLane_eq, StandsAt, Issue.after, Lane.dropLatches, dstP]

/-- SPAWN.TRY writes whether there was a context (R180). -/
theorem laneWith_spawn_rdP (is : Issue) (now : Nat) (sup : Bool) {h : Hdr} (hw : h.nw = false) (p : Fin 8) (b : Bool) (l : Lane) :
    (laneWith is now sup (.done (spawnEff h (.try_ p) b)) l).rdP p = (b || p == 7) := by
  rw [← rdP_wrP_self l p b, Lane.rdP, (laneWith_spawn is now sup h (.try_ p) b l).2, Lane.rdP]
  simp [spawnEff, dstP, hw, Lane.putP]

/-- A change of one warp leaves the others of the team alone. -/
theorem warp?_modWarp_ne {i j : Nat} (h : j ≠ i) (s : State) (u : Nat) (f : Warp → Warp) :
    (s.modWarp u i f).warp? u j = s.warp? u j := by
  rw [warp?_modWarp]
  simp [h.symm]

section
variable {s : State} {h : Hdr} {is : Issue} {t : Team} {k : Nat × Nat} {w : Warp} {l : Lane} {form : SpawnForm} {a : Fin 192}
  {disp : Word}

/-- The group goes on where its lanes have SPAWN's result, in any state that has its warps. -/
theorem spawn_goesOn {i : Instr} {s' : State} (G : Issuing s i h is t)
    (hw : ∀ j ∈ is.lanes, s'.warp? is.team j.1 = (s.seen t is).warp? is.team j.1)
    (b : Bool) {k : Nat × Nat} {w : Warp} {l : Lane} (x : Active t is h k w l) :
    ∃ w' l', (commit s' is (allDo t is h (.done (spawnEff h form b)))).warp? is.team k.1 = some w' ∧ w'.lanes[k.2]? = some l' ∧
      StandsAt is.after l l' ∧ ∀ p, form = .try_ p → h.nw = false → l'.rdP p = (b || p == 7) := by
  obtain ⟨ls, hseen, hls⟩ := seen_warp? G x.1.2.1
  have hl : ({ w with lanes := ls } : Warp).lanes[k.2]? = some (seenLane t is k l) := by
    change ls[k.2]? = _
    rw [hls, x.1.2.2]
    rfl
  obtain ⟨w', hw', hl'⟩ := commit_active (r := .done (spawnEff h form b)) G.nodup rfl ((mem_active G).mpr ⟨w, l, x⟩)
    ((hw k x.1.1).trans hseen) hl
  refine ⟨w', _, hw', hl', ?_, fun p hp hnw => ?_⟩
  · have hstand := (laneWith_spawn is s'.cycle w.sup h form b (seenLane t is k l)).1
    rw [seenLane_frame] at hstand ⊢
    exact hstand
  · rw [hp]
    exact laneWith_spawn_rdP is s'.cycle w.sup hnw p b _

/-- With no free context nothing changes but the lanes that issue (R180). -/
theorem execSpawn_full (G : Issuing s (.spawn h form a disp) h is t) (one : OneWarp t is h k) (x : Active t is h k w l)
    (hfree : freeContext t = none) {r : LaneRes} (hr : r.trap? = none)
    (hone : ∀ s c, (s.team? c.is.team).bind freeContext = none → spawnOne h form a disp s c = (s, r)) :
    exec (.spawn h form a disp) s = .next (commit (s.seen t is) is (allDo t is h r)) := by
  obtain ⟨c, C, -, hx⟩ := perWarp_one G one x (spawnOne h form a disp)
  rw [exec_spawn, hx, hone _ _ (by rw [C.issue, seen_team s t is G.team]; exact freeContext_seen_none is hfree)]
  exact finish_all (seen_awake G.awake t is) hr (fun j _ => untouched_seen G j.1)

/-- With a free context the new warp starts there, and the warps of the group stand. -/
theorem execSpawn_starts (G : Issuing s (.spawn h form a disp) h is t) (one : OneWarp t is h k) (x : Active t is h k w l)
    {c : Nat} {n : Warp} (hfree : freeContext t = some (c, n)) :
    ∃ d n', Ctx s (.spawn h form a disp) h is t d w l ∧ (d.wi, d.slot) = k ∧ n'.ctx = n.ctx ∧ (∀ j ∈ is.lanes, j.1 ≠ c) ∧
      exec (.spawn h form a disp) s = .next (commit
        ((s.seen t is).modWarp is.team c (fun _ => spawned d n' a.val (d.target disp) s.cycle)) is
        (allDo t is h (.done (spawnEff h form true)))) := by
  obtain ⟨d, C, hd, hx⟩ := perWarp_one G one x (spawnOne h form a disp)
  obtain ⟨n', hseen, hctx⟩ := freeContext_seen is hfree
  obtain ⟨hwarp, hst⟩ := freeContext_mem hfree
  have hne : ∀ j ∈ is.lanes, j.1 ≠ c := by
    rintro j hj rfl
    obtain ⟨u, m, hu, hm⟩ := G.lanes j hj
    have hlive := (G.live j hj u m hu hm).1
    rw [hwarp] at hu
    rw [← Option.some.inj hu, hst] at hlive
    cases hlive
  have hone : spawnOne h form a disp (s.seen t is) d =
      ((s.seen t is).modWarp is.team c (fun _ => spawned d n' a.val (d.target disp) s.cycle), .done (spawnEff h form true)) := by
    have hfound : ((s.seen t is).team? d.is.team).bind freeContext = some (c, n') := by
      rw [C.issue, seen_team s t is G.team]
      exact hseen
    unfold spawnOne
    rw [hfound]
    simp only [C.issue, seen_cycle]
  refine ⟨d, n', C, hd, hctx, hne, ?_⟩
  rw [exec_spawn, hx, hone]
  refine finish_all (seen_awake (t := t) (is := is) G.awake) rfl (fun j hj => ?_)
  have hu : is.team = (t.seen is).uid := ((seen_uid t is).trans (uid_of_team? G.team)).symm
  rw [untouched, hu, warp?_modWarp_ne (hne j hj)]
  exact untouched_seen G j.1

/-- The new warp after the step: it is of no lane of the group. -/
theorem spawned_warp? (G : Issuing s (.spawn h form a disp) h is t) {c : Nat} {n y : Warp} (hc : t.warps[c]? = some n)
    (hne : ∀ j ∈ is.lanes, j.1 ≠ c) {r : LaneRes} (hr : r.trap? = none) :
    (commit ((s.seen t is).modWarp is.team c (fun _ => y)) is (allDo t is h r)).warp? is.team c = some y := by
  obtain ⟨ls, hseen, -⟩ := seen_warp? G hc
  have hy : ((s.seen t is).modWarp is.team c (fun _ => y)).warp? is.team c = some y := by
    rw [warp?_modWarp, hseen]
    simp
  rw [commit_warp? (allDo_untrapped hr) hy, commitWarp_other (fun z hz => hne _ (allDo_lanes hz))]

/-- What a SPAWN with a free context leaves (R33, R35, R180). -/
theorem execSpawn_creates (G : Issuing s (.spawn h form a disp) h is t) (one : OneWarp t is h k) (x : Active t is h k w l)
    {c : Nat} {n : Warp} (hfree : freeContext t = some (c, n)) :
    ∃ s' y, exec (.spawn h form a disp) s = .next s' ∧ GoesOn s' t is h ∧ s'.warp? is.team c = some y ∧
      y.st = .live ∧ y.ctx = n.ctx ∧ y.role = w.role ∧ y.s = [] ∧ y.sup = false ∧ y.tx.depth = 0 ∧
      (∀ (j : Nat) (m : Lane), w.lanes[j]? = some m → ∃ m', y.lanes[j]? = some m' ∧ m'.p = 0 ∧
        (j ∈ peers t is h k → m'.st = .ready ∧ m'.pc = is.pc + BitVec.ofInt 56 (4 * disp.toInt) ∧
          ∀ r, m'.rdV r = if r < 8 then m.rdV (a.val + r) else 0) ∧
        (j ∉ peers t is h k → m'.st = .exited)) ∧
      (∀ p, form = .try_ p → h.nw = false → ∃ w' l', s'.warp? is.team k.1 = some w' ∧ w'.lanes[k.2]? = some l' ∧
        l'.rdP p = true) := by
  obtain ⟨d, n', C, hd, hctx, hne, hx⟩ := execSpawn_starts G one x hfree
  obtain ⟨ls, hdw, -, hls⟩ := C.warpEq
  have hwi : d.wi = k.1 := congrArg Prod.fst hd
  have hact : d.act = peers t is h k := by rw [C.act, hwi, peers]
  have hpc : d.target disp = is.pc + BitVec.ofInt 56 (4 * disp.toInt) := by rw [target_eq, C.issue]
  have hstand := fun j (hj : j ∈ is.lanes) => warp?_modWarp_ne (hne j hj) (s.seen t is) is.team
    (fun _ => spawned d n' a.val (d.target disp) s.cycle)
  refine ⟨_, spawned d n' a.val (d.target disp) s.cycle, hx, ?goes, spawned_warp? G (freeContext_mem hfree).1 hne rfl, rfl, hctx,
    by rw [spawned, newWarp, hdw], rfl, rfl, rfl, ?lanes, ?tried⟩
  case goes =>
    intro k w l x
    obtain ⟨w', l', hw', hl', hs, -⟩ := spawn_goesOn (form := form) G hstand true x
    exact ⟨w', l', hw', hl', hs⟩
  case lanes =>
    intro j m hm
    have hj : d.w.lanes[j]? = some (seenLane t is (d.wi, j) m) := by
      rw [hdw]
      change ls[j]? = _
      rw [hls, hm]
      rfl
    refine ⟨_, by rw [spawned_lanes, hj]; rfl, spawnedLane_p _ _ _ _ _ _, fun hp => ?_, fun hp => ?_⟩
    · obtain ⟨h1, h2, h3⟩ := spawnedLane_active (hact ▸ hp) a.val (d.target disp) s.cycle (seenLane t is (d.wi, j) m)
      refine ⟨h1, h2.trans hpc, fun r => ?_⟩
      rw [h3, seenLane_frame]
      rfl
    · exact spawnedLane_other (hact ▸ hp) _ _ _ _
  case tried =>
    intro p hp hnw
    obtain ⟨w', l', hw', hl', -, hr⟩ := spawn_goesOn (form := form) G hstand true x
    exact ⟨w', l', hw', hl', by simp [hr p hp hnw]⟩

end

/-- Settles O8: the group's warps are live, so the free context that SPAWN fills is none of theirs. -/
theorem spawnCreates : Obligations.SpawnCreates := by
  unfold Obligations.SpawnCreates
  intro s h is t k w l form a disp G one x
  refine ⟨fun c n hfree => execSpawn_creates G one x hfree, fun hfree => ?_⟩
  cases form with
  | plain => exact ⟨_, execSpawn_full G one x hfree rfl (fun s c hn => by unfold spawnOne; rw [hn]), waitsIn_commit G .spawn⟩
  | wait => exact ⟨_, execSpawn_full G one x hfree rfl (fun s c hn => by unfold spawnOne; rw [hn]), waitsIn_commit G .spawn⟩
  | try_ p =>
    refine ⟨_, execSpawn_full G one x hfree rfl (fun s c hn => by rw [spawnOne, hn]), fun k w l y => ?_, fun hnw => ?_⟩
    · obtain ⟨w', l', hw', hl', hs, -⟩ := spawn_goesOn (form := .try_ p) G (fun _ _ => rfl) false y
      exact ⟨w', l', hw', hl', hs⟩
    · obtain ⟨w', l', hw', hl', -, hr⟩ := spawn_goesOn (form := .try_ p) G (fun _ _ => rfl) false x
      exact ⟨w', l', hw', hl', by simp [hr p rfl hnw]⟩

end Sys2Proof.Machine
end

section
/-! SUPPORT. Node instances: how a node and an edge form one, what counts when a team is GONE, and how one ends (R39, R330 to
R333). -/

namespace Sys2Proof.Machine

/-! ### Lookups -/

/-- Without the entries of one key the others are found as before. -/
theorem find?_without {α : Type} (key : α → Nat) (xs : List α) (u v : Nat) :
    (xs.filter (fun x => key x != u)).find? (fun x => key x == v) = if v = u then none else xs.find? (fun x => key x == v) := by
  rw [List.find?_filter]
  split
  next h => exact List.find?_eq_none.mpr fun x _ => by simp [h]
  next h =>
    refine congrArg (fun p => xs.find? p) (funext fun x => ?_)
    by_cases hx : key x = v
    · simp [hx, h]
    · simp [hx]

theorem rec?_modRec_self {s : State} {id : Nat} {r : Rec} (h : s.rec? id = some r) (f : Rec → Rec) (hf : ∀ r, (f r).id = r.id) :
    (s.modRec id f).rec? id = some (f r) := by
  rw [State.rec?_modRec s id id f hf, if_pos rfl, h]
  rfl

theorem rec?_modNode {s : State} {id k : Nat} {f : Node → Node} {r : Rec} (h : s.rec? id = some r) :
    (s.modNode id k f).rec? id = some { r with nodes := r.nodes.modify k f } :=
  rec?_modRec_self h _ (fun _ => rfl)

/-! ### What forms at a root node -/

/-- What forms at a root node (R330). -/
def rootFormed (s : State) (id k : Nat) (r : Rec) : State :=
  addInst (s.modNode id k (fun n => { n with rootDone := true })) r k 0 0 []

theorem execInstanceFormation_root {s : State} {id k : Nat} {r : Rec} {n : Node} (hs : Awake s) (hr : s.rec? id = some r)
    (hn : r.nodes[k]? = some n) (hrun : r.stopped = false) (hpool : poolCount s < 4096) (hroot : rootReady n = true) :
    exec (.instanceFormation id k 8) s = .next (rootFormed s id k r) := by
  change finish _ = _
  simp only [hr, hn, hrun, Bool.false_or, decide_eq_true_eq, not_le.mpr hpool, if_false, if_true, hroot]
  exact finish_awake (s := rootFormed s id k r) hs

/-! ### What forms on an edge -/

theorem dirtyLines_clean {s : State} {space : Nat} (h : NoDirty s space) (cores : List Nat) :
    (dirtyLines s cores).filter (fun x => x.2.1 == space) = [] := by
  have key : ∀ x ∈ dirtyLines s cores, x.2.1 ≠ space := by
    unfold dirtyLines
    have hfold : ∀ x : Nat × Nat × Nat, x ∈ s.l1.foldl (fun acc d =>
        if cores.contains d.core && !acc.contains (d.core, d.space, d.ia / 128)
        then (d.core, d.space, d.ia / 128) :: acc else acc) [] → x.2.1 ≠ space := by
      refine List.foldlRecOn (motive := fun acc => ∀ x : Nat × Nat × Nat, x ∈ acc → x.2.1 ≠ space) _ _ (fun x hx => by cases hx) ?_
      intro acc ih d hd x hx
      split at hx
      · rcases List.mem_cons.mp hx with rfl | hx
        · exact h d hd
        · exact ih x hx
      · exact ih x hx
    exact fun x hx => hfold x (List.mem_reverse.mp hx)
  exact List.filter_eq_nil_iff.mpr fun x hx => by simpa using key x hx

/-- Where no dirty byte of the space is held, a release of it has nothing to write back. -/
theorem flushCores_clean {s : State} {space : Nat} (h : NoDirty s space) (cores : List Nat) : flushCores s cores space = (s, true) := by
  simp [flushCores, dirtyLines_clean h]

theorem releaseAppends_clean {s : State} {space : Nat} (h : NoDirty s space) (es : List Emitted) :
    releaseAppends s space es = (s, true) := by
  unfold releaseAppends
  refine List.foldlRecOn (motive := fun r => r = (s, true)) _ _ rfl ?_
  rintro r rfl x -
  simp [flushCores_clean h]

/-- Where every record may be taken, a batch is the first ones. -/
theorem takeBatch_all {p : Emitted → Bool} {es : List Emitted} (h : ∀ y ∈ es, p y = true) (n : Nat) :
    takeBatch n p es = (es.take n, es.drop n) := by
  induction es generalizing n with
  | nil => simp [takeBatch]
  | cons e es ih =>
    cases n with
    | zero => simp [takeBatch]
    | succ n =>
      rw [takeBatch, if_pos (h e List.mem_cons_self), ih (fun y hy => h y (List.mem_cons_of_mem _ hy))]
      simp

theorem minNat_zeros {xs : List Nat} (h : ∀ x ∈ xs, x = 0) : (minNat xs).getD 0 = 0 := by
  cases xs with
  | nil => rfl
  | cons x xs =>
    obtain rfl := h x List.mem_cons_self
    rw [minNat]
    cases minNat xs with
    | none => rfl
    | some y => simp

/-- A record of depth 0 on an edge, which no team holds back. -/
def OnEdge (r : Rec) (k edge : Nat) (y : Emitted) : Prop :=
  y.job = r.id ∧ y.node = k ∧ y.edge = edge ∧ y.team = none ∧ y.depth = 0

section
variable {s : State} {r : Rec} {k : Nat} {e : Edge}

theorem pendingOn_all (h : ∀ y ∈ s.emitted, OnEdge r k e.num y) : pendingOn s r k e.num = s.emitted := by
  refine List.filter_eq_self.mpr fun y hy => ?_
  obtain ⟨hjob, hnode, hedge, hteam, -⟩ := h y hy
  simp [hjob, hnode, hedge, hteam]

/-- A full batch of one depth is ready where the target's predecessors are done (R331). -/
theorem batchReady_full {tgt : Node} (h : ∀ y ∈ s.emitted, OnEdge r k e.num y) (hpos : 0 < e.batch) (hfull : e.batch ≤ s.emitted.length)
    (htgt : r.nodes[e.target]? = some tgt) (hleft : tgt.predsLeft = 0) : batchReady s r e s.emitted = true := by
  obtain ⟨x, hx⟩ : ∃ x, x ∈ s.emitted := List.exists_mem_of_length_pos (by omega)
  have hcount : s.emitted.countP (fun y => y.depth == x.depth) = s.emitted.length := by
    refine List.countP_eq_length.mpr fun y hy => ?_
    rw [(h y hy).2.2.2.2, (h x hx).2.2.2.2]
    rfl
  have hbatch : s.emitted.any (fun x => e.batch ≤ s.emitted.countP (fun y => y.depth == x.depth)) = true :=
    List.any_eq_true.mpr ⟨x, hx, by rw [hcount]; exact decide_eq_true hfull⟩
  unfold batchReady
  rw [hbatch, htgt]
  simp [hleft, List.ne_nil_of_mem hx]

/-- What forms of a full batch (R331). -/
def batchFormed (s : State) (r : Rec) (e : Edge) : State :=
  addInst { s with emitted := s.emitted.drop e.batch } r e.target 0 e.inoff ((s.emitted.take e.batch).map (·.bytes))

theorem formFrom_full {tgt : Node} (h : ∀ y ∈ s.emitted, OnEdge r k e.num y) (hpos : 0 < e.batch) (hfull : e.batch ≤ s.emitted.length)
    (htgt : r.nodes[e.target]? = some tgt) (hleft : tgt.predsLeft = 0) (hclean : NoDirty s r.space) :
    formFrom s r k e = batchFormed s r e := by
  have hdepth : (minNat (s.emitted.map (·.depth))).getD 0 = 0 := by
    refine minNat_zeros fun d hd => ?_
    obtain ⟨y, hy, rfl⟩ := List.mem_map.mp hd
    exact (h y hy).2.2.2.2
  have htake : takeBatch e.batch (fun y => y.job == r.id && y.node == k && y.edge == e.num && y.team.isNone && y.depth == 0) s.emitted =
      (s.emitted.take e.batch, s.emitted.drop e.batch) := by
    refine takeBatch_all (fun y hy => ?_) _
    obtain ⟨hjob, hnode, hedge, hteam, hdep⟩ := h y hy
    simp [hjob, hnode, hedge, hteam, hdep]
  unfold formFrom
  simp only [pendingOn_all h, batchReady_full h hpos hfull htgt hleft, Bool.not_true, Bool.false_eq_true, if_false, hdepth, htake,
    releaseAppends_clean hclean]
  rfl

theorem execInstanceFormation_edge {id : Nat} {n : Node} (hs : Awake s) (hr : s.rec? id = some r)
    (hn : r.nodes[k]? = some n) (hrun : r.stopped = false) (hpool : poolCount s < 4096) (hlt : e.num < 8)
    (he : n.edges.find? (fun x => x.num == e.num) = some e) (hform : formFrom s r k e = batchFormed s r e) :
    exec (.instanceFormation id k e.num) s = .next (batchFormed s r e) := by
  change finish _ = _
  simp only [hr, hn, hrun, Bool.false_or, decide_eq_true_eq, not_le.mpr hpool, if_false, Nat.ne_of_lt hlt, he, hform]
  exact finish_awake (s := batchFormed s r e) hs

end

/-! ### A team that is GONE -/

theorem endStamps_noBlock {s : State} {t : Team} (hd : NoDebugBlock s t.space) : endStamps s t = s := by
  have htiles : (List.range 32).foldl (fun s n =>
      if (t.tile n).st == .empty then s
      else
        let l := (t.lives[n]?).getD noLife
        stamp s t 1 0 n [l.inStart, l.inEnd, l.wait, l.cStart, l.cEnd, l.outEnd]) s = s := by
    refine List.foldlRecOn (motive := fun s' => s' = s) _ _ rfl ?_
    rintro s' rfl n -
    rw [stamp_noBlock hd, ite_self]
  unfold endStamps
  rw [htiles]
  exact stamp_noBlock hd _ _ _ _

theorem appendHeld_none {s : State} {t : Team} (h : ∀ e ∈ s.emitted, e.team ≠ some t.uid) : appendHeld s t = s := by
  have hmine : s.emitted.filter (fun e => e.team == some t.uid) = [] := List.filter_eq_nil_iff.mpr fun e he => by simpa using h e he
  have hrest : s.emitted.filter (fun e => !(e.team == some t.uid)) = s.emitted := List.filter_eq_self.mpr fun e he => by simpa using h e he
  simp only [appendHeld, hmine, hrest, List.foldl_nil]

theorem dropRecs_running {s : State} (h : ∀ r ∈ s.recs, r.ended = false) : dropRecs s = forgetContexts s := by
  have hspent : ∀ r ∈ s.recs, (r.ended && (recTeams s r.id).all (fun t => t.st == .gone)) = false := fun r hr => by rw [h r hr]; rfl
  have hgone : s.recs.filter (fun r => r.ended && (recTeams s r.id).all (fun t => t.st == .gone)) = [] :=
    List.filter_eq_nil_iff.mpr fun r hr => by rw [hspent r hr]; exact Bool.false_ne_true
  have hkept : s.recs.filter (fun r => !(r.ended && (recTeams s r.id).all (fun t => t.st == .gone))) = s.recs :=
    List.filter_eq_self.mpr fun r hr => by rw [hspent r hr]; rfl
  have hinsts : s.insts.filter (fun i => !([] : List Nat).contains i.job) = s.insts := List.filter_eq_self.mpr fun _ _ => rfl
  unfold dropRecs
  simp only [hgone, hkept, List.map_nil, hinsts]

/-- The machine without a team that has reached GONE. -/
def without (s : State) (u : Nat) : State :=
  { s with
    leaves := s.leaves.filter (fun r => r.team != u)
    bins := s.bins.filter (fun b => b.team != u)
    events := s.events.filter (fun e => e.team != u)
    teams := s.teams.filter (fun t => t.uid != u) }

/-- An `Inst` that counts a team that is GONE. -/
def countGone (i : Inst) : Inst := { i with gone := i.gone + 1 }

/-- The state after a team has gone. -/
def wentGone (s : State) (u inst : Nat) : State := settleParts (forgetContexts ((without s u).modInst inst countGone))

section
variable {s : State} {u : Nat} {t : Team}

theorem canGo_of (hend : t.st = .ending) (hops : ∀ o ∈ s.ops, o.team ≠ t.uid)
    (htiles : ∀ e ∈ t.ttab, e.st ≠ .filling ∧ e.st ≠ .draining) (hturn : goneTurn s t = true) : canGo s t = true := by
  have h1 : s.ops.any (fun o => o.team == t.uid) = false := List.any_eq_false.mpr fun o ho => by simpa using hops o ho
  have h2 : t.ttab.all (fun e => e.st != .filling && e.st != .draining) = true :=
    List.all_eq_true.mpr fun e he => by simpa using htiles e he
  simp [canGo, hend, h1, h2, hturn]

theorem execTeamGone_eq (hs : Awake s) (ht : s.team? u = some t) (hgo : canGo s t = true) (hd : NoDebugBlock s t.space)
    (hrecs : ∀ r ∈ s.recs, r.ended = false) (hheld : ∀ e ∈ s.emitted, e.team ≠ some u) :
    exec (.teamGone u) s = .next (wentGone s u t.inst) := by
  have happ : appendHeld s t = s := appendHeld_none fun e he => by rw [uid_of_team? ht]; exact hheld e he
  have hrun : ∀ r ∈ ((without s u).modInst t.inst countGone).recs, r.ended = false := hrecs
  have hdrop := dropRecs_running hrun
  change finish _ = _
  simp only [ht, hgo, Bool.not_true, Bool.false_eq_true, if_false, endStamps_noBlock hd, happ]
  refine Eq.trans (congrArg (fun x => finish (settleParts x)) hdrop) ?_
  exact finish_awake (s := wentGone s u t.inst) hs

theorem wentGone_team? (inst v : Nat) : (wentGone s u inst).team? v = if v = u then none else s.team? v :=
  find?_without Team.uid s.teams u v

theorem wentGone_inst? {inst : Nat} {i : Inst} (hi : s.inst? inst = some i) : (wentGone s u inst).inst? inst = some (countGone i) := by
  have h := State.inst?_modInst (without s u) inst inst countGone (fun _ => rfl)
  rw [if_pos rfl] at h
  exact h.trans (congrArg (Option.map countGone) hi)

end

/-! ### Node instances that end -/

/-- Completing a node changes no node's count of its instances. -/
theorem completeNode_inst (r : Rec) (k : Nat) : (completeNode r k).nodes.map (·.inst) = r.nodes.map (·.inst) := by
  have h : ∀ (ns : List Node) (m : Nat) (f : Node × Nat → Node), (∀ x, (f x).inst = x.1.inst) →
      ((ns.zipIdx m).map f).map (·.inst) = ns.map (·.inst) := by
    intro ns m f hf
    rw [List.map_map, show (fun n : Node => n.inst) ∘ f = (fun n : Node => n.inst) ∘ Prod.fst from funext hf, ← List.map_map,
      List.zipIdx_map_fst]
  exact h r.nodes 0 _ fun _ => rfl

/-- Records alone change while the nodes of one are settled. -/
theorem settleNodes_frame (s : State) (id f : Nat) : settleNodes s id f = { s with recs := (settleNodes s id f).recs } := by
  induction f generalizing s with
  | zero => rfl
  | succ f ih =>
    unfold settleNodes
    split
    · rfl
    · split
      · exact ih _
      · rfl

/-- While its nodes are settled a record stays, with its nodes' counts of their instances. -/
theorem settleNodes_counts {s : State} {id : Nat} {r : Rec} (h : s.rec? id = some r) (f : Nat) :
    ∃ r', (settleNodes s id f).rec? id = some r' ∧ r'.nodes.map (·.inst) = r.nodes.map (·.inst) := by
  induction f generalizing s r with
  | zero => exact ⟨r, h, rfl⟩
  | succ f ih =>
    rw [settleNodes]
    simp only [h]
    split
    next x _ =>
      obtain ⟨r', hr', hcounts⟩ := ih (rec?_modRec_self h (fun r => completeNode r x.2) (fun _ => rfl))
      exact ⟨r', hr', hcounts.trans (completeNode_inst r x.2)⟩
    next => exact ⟨r, h, rfl⟩

/-- The machine without one `Inst`. -/
def withoutInst (s : State) (u : Nat) : State :=
  { s with
    insts := s.insts.filter (fun x => x.uid != u)
    coreDels := s.coreDels.filter (fun x => x.inst != u)
    clusters := s.clusters.filter (fun c => c.1 != u)
    reserved := s.reserved.filter (fun x => x.2 != u) }

def countInst (n : Node) : Node := { n with inst := n.inst + 1 }

/-- An `Inst` of which every team has gone is counted by its node, unless the record has ended. -/
def counted (s : State) (whole : Bool) (i : Inst) : State := if whole then s.modNode i.job i.node countInst else s

theorem counted_frame (s : State) (whole : Bool) (i : Inst) : counted s whole i = { s with recs := (counted s whole i).recs } := by
  unfold counted
  split <;> rfl

/-- The state after the end of an `Inst`. -/
def endedInst (s : State) (u : Nat) (i : Inst) (whole : Bool) : State :=
  let s := counted (withoutInst s u) whole i
  settleNodes s i.job (((s.rec? i.job).map (fun r => r.nodes.length)).getD 0)

theorem endedInst_frame (s : State) (u : Nat) (i : Inst) (whole : Bool) :
    endedInst s u i whole = { withoutInst s u with recs := (endedInst s u i whole).recs } :=
  (settleNodes_frame _ _ _).trans
    (congrArg (fun x : State => { x with recs := (endedInst s u i whole).recs }) (counted_frame (withoutInst s u) whole i))

section
variable {s : State} {u : Nat} {i : Inst} {r : Rec} {n : Node}

theorem instDesc_eq (hr : s.rec? i.job = some r) (hn : r.nodes[i.node]? = some n) : instDesc s i = some (r, n.desc) := by
  simp [instDesc, hr, hn]

/-- Every team has gone, and none is there (R39). -/
theorem instOver_of (hr : s.rec? i.job = some r) (hn : r.nodes[i.node]? = some n)
    (hgone : i.gone = n.desc.nt ∨ (r.stopped = true ∧ i.gone = i.nextT)) (hteams : ∀ t ∈ s.teams, t.inst ≠ i.uid) :
    instOver s i = true := by
  have hnone : s.teams.any (fun t => t.inst == i.uid) = false := List.any_eq_false.mpr fun t ht => by simpa using hteams t ht
  rw [instOver, instDesc_eq hr hn]
  simpa [hnone] using hgone

theorem execNodeInstanceEnd_eq (hs : Awake s) (hi : s.inst? u = some i) (hr : s.rec? i.job = some r) (hn : r.nodes[i.node]? = some n)
    (hclean : NoDirty s r.space) (hover : instOver s i = true) :
    exec (.nodeInstanceEnd u) s = .next (endedInst s u i (!r.ended && i.gone = n.desc.nt)) := by
  change finish _ = _
  simp only [hi, hover, Bool.not_true, Bool.false_eq_true, if_false, instDesc_eq hr hn, flushCores_clean hclean]
  have hawake : Awake (endedInst s u i (!r.ended && i.gone = n.desc.nt)) := by
    rw [endedInst_frame]
    exact hs
  exact finish_awake hawake

/-- The record and the counts of its nodes after the end of an `Inst`. -/
theorem endedInst_rec? (hr : s.rec? i.job = some r) (hn : r.nodes[i.node]? = some n) (whole : Bool) :
    ∃ r', (endedInst s u i whole).rec? i.job = some r' ∧
      (r'.nodes[i.node]?).map (·.inst) = some (if whole then n.inst + 1 else n.inst) := by
  have hcount : ∃ r1, (counted (withoutInst s u) whole i).rec? i.job = some r1 ∧
      (r1.nodes[i.node]?).map (·.inst) = some (if whole then n.inst + 1 else n.inst) := by
    cases whole with
    | false => exact ⟨r, hr, by rw [hn]; rfl⟩
    | true => exact ⟨_, rec?_modNode (s := withoutInst s u) hr, by simp [hn, countInst]⟩
  obtain ⟨r1, hr1, h1⟩ := hcount
  obtain ⟨r', hr', h2⟩ := settleNodes_counts hr1 (((counted (withoutInst s u) whole i).rec? i.job).map (fun r => r.nodes.length) |>.getD 0)
  exact ⟨r', hr', by rw [← List.getElem?_map, h2, List.getElem?_map, h1]⟩

end

/-- Settles O47: a root node and a full batch each add one `Inst`; the rest of a team's end leaves what is asked alone; and
settling the nodes keeps their counts. -/
theorem instancesFormAndEnd : Obligations.InstancesFormAndEnd := by
  unfold Obligations.InstancesFormAndEnd
  refine ⟨?_, ?_, ?_, ?_⟩
  · intro s id r k n hs hr hn hrun hpool hroot hdone hleft
    have hready : rootReady n = true := by simp [rootReady, hroot, hdone, hleft]
    exact ⟨_, _, _, execInstanceFormation_root hs hr hn hrun hpool hready, rfl, rfl, rfl, rfl, rfl, rfl, rfl, rfl,
      rec?_modNode hr, by simp [hn]⟩
  · intro s id r k n e es tgt hs hr hn hrun hpool hlt he hes hall hpos hfull htgt hleft hclean
    subst hes
    exact ⟨_, _, execInstanceFormation_edge hs hr hn hrun hpool hlt he (formFrom_full hall hpos hfull htgt hleft hclean.1),
      rfl, rfl, rfl, rfl, rfl, rfl, rfl, rfl⟩
  · intro s u t i hs ht hend hops htiles hturn hd hi hrecs hheld
    refine ⟨_, execTeamGone_eq hs ht (canGo_of hend hops htiles hturn) hd hrecs hheld, ?_, fun v hv => ?_, wentGone_inst? hi, rfl, rfl⟩
    · rw [wentGone_team?, if_pos rfl]
    · rw [wentGone_team?, if_neg hv]
  · intro s u i r n hs hi hr hn hl1 hgone hteams
    obtain ⟨r', hr', hcount⟩ := endedInst_rec? (u := u) hr hn (!r.ended && i.gone = n.desc.nt)
    refine ⟨_, r', execNodeInstanceEnd_eq hs hi hr hn (fun d hd => by rw [hl1] at hd; cases hd) (instOver_of hr hn hgone hteams), ?_, hr', ?_, ?_⟩
    · rw [endedInst_frame]
      exact (find?_without Inst.uid s.insts u u).trans (if_pos rfl)
    · rw [hcount]
      simp
    · rw [endedInst_frame]
      rfl

end Sys2Proof.Machine
end

section
/-! SUPPORT. Placement: the team of one site, the reservations of the pool's head, and the turns of a physical cluster
(R38, R332 to R336, R340). -/

namespace Sys2Proof.Machine

/-! ### The warps of a new team -/

/-- The argument words of a start warp, from `s1` on. -/
def withArgs (x : Warp) (args : List (Word × Nat)) : Warp := args.foldl (fun x a => x.wrS (a.2 + 1) a.1) x

theorem withArgs_frame (x : Warp) (args : List (Word × Nat)) : withArgs x args = { x with s := (withArgs x args).s } := by
  induction args generalizing x with
  | nil => rfl
  | cons a args ih =>
    have hcons : withArgs x (a :: args) = withArgs { x with s := cset x.s (a.2 + 1) a.1 } args :=
      congrArg (fun y => withArgs y args) (if_neg (Nat.succ_ne_zero a.2))
    rw [hcons]
    exact ih _

theorem rdS_wrS (x : Warp) (n m : Nat) (y : Word) : (x.wrS (n + 1) y).rdS (m + 1) = if m = n then y else x.rdS (m + 1) := by
  simp only [Warp.wrS, Warp.rdS, Nat.succ_ne_zero, if_false]
  by_cases h : m = n
  · rw [if_pos h, h, cget_cset_self]
  · rw [if_neg h, cget_cset_ne _ _ (by omega)]

/-- The registers hold the arguments in order. -/
theorem withArgs_rdS (x : Warp) (args : List Word) (k n : Nat) :
    (withArgs x (args.zipIdx k)).rdS (n + 1) = if k ≤ n ∧ n < k + args.length then (args[n - k]?).getD 0 else x.rdS (n + 1) := by
  induction args generalizing x k with
  | nil => simp [withArgs]
  | cons a args ih =>
    rw [List.zipIdx_cons]
    refine (ih (x.wrS (k + 1) a) (k + 1)).trans ?_
    rw [rdS_wrS]
    rcases Nat.lt_trichotomy n k with h | h | h
    · rw [if_neg (by omega), if_neg (by omega), if_neg (by omega)]
    · subst h
      rw [if_neg (by omega), if_pos rfl, if_pos (by simp)]
      simp
    · obtain ⟨j, rfl⟩ := Nat.exists_eq_add_of_lt h
      have hj : k + j + 1 - k = j + 1 := by omega
      have hj' : k + j + 1 - (k + 1) = j := by omega
      rw [hj, hj', List.getElem?_cons_succ, List.length_cons, if_neg (by omega : ¬ k + j + 1 = k)]
      simp only [show (k + 1 ≤ k + j + 1 ∧ k + j + 1 < k + 1 + args.length) ↔
        (k ≤ k + j + 1 ∧ k + j + 1 < k + (args.length + 1)) by omega]

/-- A warp of a new team: a start warp stands at CODE with its arguments, the other contexts are free (R332). -/
structure StartsAs (d : Desc) (args : List Word) (wi : Nat) (w : Warp) : Prop where
  idx : w.idx = wi
  sup : w.sup = false
  live : wi < d.start → w.st = .live
  args : wi < d.start → ∀ n, n < args.length → w.rdS (n + 1) = (args[n]?).getD 0
  lanes : wi < d.start → ∀ (j : Nat) (l : Lane), w.lanes[j]? = some l →
    (j < d.lanes → l.st = .ready ∧ l.pc = d.code.setWidth 56) ∧ (d.lanes ≤ j → l.st = .exited)
  free : d.start ≤ wi → w.st = .free

/-- The lanes of a start warp (R332). -/
def startLanes (d : Desc) (now : Nat) : List Lane := (List.range 32).map (fun k => newLane (k < d.lanes) (d.code.setWidth 56) now)

theorem startLanes_get {d : Desc} {now j : Nat} {l : Lane} (h : (startLanes d now)[j]? = some l) :
    l = newLane (j < d.lanes) (d.code.setWidth 56) now := by
  obtain ⟨k, hk, rfl⟩ := List.getElem?_map .. ▸ h |> Option.map_eq_some_iff.mp
  obtain ⟨-, rfl⟩ := List.getElem?_eq_some_iff.mp hk
  rw [List.getElem_range]

theorem startWarp_start {d : Desc} {w : Nat} (hw : w < d.start) (det : Bool) (args : List Word) (now ctx : Nat) :
    startWarp d det args now ctx w = withArgs (newWarp ctx w (roleOf d w) det (startLanes d now)) args.zipIdx := if_pos hw

theorem startWarp_startsAs (d : Desc) (det : Bool) (args : List Word) (now ctx w : Nat) :
    StartsAs d args w (startWarp d det args now ctx w) := by
  by_cases hw : w < d.start
  · rw [startWarp_start hw]
    refine ⟨by rw [withArgs_frame]; rfl, by rw [withArgs_frame]; rfl, fun _ => by rw [withArgs_frame]; rfl, fun _ n hn => ?_,
      fun _ j l hl => ?_, fun h => absurd hw (by omega)⟩
    · rw [withArgs_rdS, if_pos (by omega)]
      rfl
    · rw [withArgs_frame] at hl
      rw [startLanes_get hl]
      refine ⟨fun h => ?_, fun h => ?_⟩
      · simp [newLane, h]
      · simp [newLane, Nat.not_lt.mpr h]
  · have hfree : startWarp d det args now ctx w =
        { newWarp ctx w .general det (List.replicate 32 (newLane false (d.code.setWidth 56) now)) with st := .free, ran := false } :=
      if_neg hw
    rw [hfree]
    exact ⟨rfl, rfl, fun h => absurd h hw, fun h => absurd h hw, fun h => absurd h hw, fun _ => rfl⟩

theorem newTeam_warp {s : State} {r : Rec} {i : Inst} {d : Desc} {t core f : Nat} {args : List Word} {tsh : Cells 64} {wi : Nat} {w : Warp}
    (h : (newTeam s r i d t core f args tsh).warps[wi]? = some w) : StartsAs d args wi w := by
  simp only [newTeam, List.getElem?_map, List.getElem?_zipIdx, Option.map_map] at h
  obtain ⟨c, -, rfl⟩ := Option.map_eq_some_iff.mp h
  simpa using startWarp_startsAs d r.det args s.cycle c wi

/-! ### The team of a site -/

/-- No team shares its cluster's L1, and neither does the new one: nothing is written back before the placement (R66). -/
theorem fuse_unfused {s : State} (h : ∀ x ∈ s.teams, x.desc.fused = false) (core : Nat) : fuse s core false = (s, true) := by
  have hnone : (s.teams.filter (fun t => t.core / 4 == core / 4 && resident t)).any (fun t => t.desc.fused) = false :=
    List.any_eq_false.mpr fun x hx => by rw [h x (List.mem_of_mem_filter hx)]; exact Bool.false_ne_true
  unfold fuse
  simp only [hnone, Bool.not_false, Bool.and_self, if_true]

theorem fuseAll_unfused {s : State} (h : ∀ x ∈ s.teams, x.desc.fused = false) (cores : List Nat) : fuseAll s false cores = (s, true) := by
  unfold fuseAll
  refine List.foldlRecOn (motive := fun r => r = (s, true)) _ _ rfl ?_
  rintro r rfl c -
  simp [fuse_unfused h]

/-- A team with deliveries that the core has kept in its tile table (R71, R73). -/
def received (dels : List CoreDelivery) (t : Team) : Team :=
  { t with ttab := dels.foldl (fun tt x => tt.modify x.tile (fun e => { e with pend := some x.del })) t.ttab }

/-- Kept deliveries change nothing of a team but its tile table. -/
theorem attach_team? {s : State} {u : Nat} {t : Team} (h : s.team? u = some t) (inst core : Nat) :
    ∃ tt, (attach s inst core).team? u = some { t with ttab := tt } := by
  unfold attach
  split
  · exact ⟨t.ttab, h⟩
  next x _ =>
    have hmod := team?_modTeam s x.uid u (received (s.coreDels.filter (fun x => x.core == core && x.inst == inst))) (fun _ => rfl)
    rw [h, Option.map_some] at hmod
    by_cases hu : u = x.uid
    · exact ⟨_, hmod.trans (congrArg some (if_pos hu))⟩
    · exact ⟨t.ttab, hmod.trans (congrArg some (if_neg hu))⟩

theorem attach_frame (s : State) (inst core : Nat) :
    attach s inst core = { s with teams := (attach s inst core).teams, coreDels := (attach s inst core).coreDels } := by
  unfold attach
  split <;> rfl

/-- The `Inst` after one of its teams is placed. -/
def placedOne (d : Desc) (k : Nat) (i : Inst) : Inst :=
  { i with nextT := i.nextT + 1, placed := if i.det then i.placed ++ [k] else [], inPool := i.nextT + 1 < d.nt }

section
variable {s : State} {r : Rec} {i : Inst} {d : Desc} {args : List Word} {tsh : Cells 64} {k core f : Nat}

theorem addTeam_eq : addTeam r i d args tsh s ((k, core), f) =
    (attach { s with teams := s.teams ++ [newTeam s r i d k core f args tsh], serial := s.serial + 1 } i.uid core).modInst i.uid
      (placedOne d k) := rfl

theorem addTeam_awake (h : Awake s) : Awake (addTeam r i d args tsh s ((k, core), f)) := by
  rw [addTeam_eq, attach_frame]
  exact h

theorem addTeam_team? (hfresh : ∀ x ∈ s.teams, x.uid ≠ s.serial) : ∃ tt, (addTeam r i d args tsh s ((k, core), f)).team? s.serial =
    some { newTeam s r i d k core f args tsh with ttab := tt } := by
  refine attach_team? (s := { s with teams := s.teams ++ [newTeam s r i d k core f args tsh], serial := s.serial + 1 }) ?_ i.uid core
  have hnone : s.teams.find? (fun t => t.uid == s.serial) = none := List.find?_eq_none.mpr fun x hx => by simpa using hfresh x hx
  change (s.teams ++ [newTeam s r i d k core f args tsh]).find? _ = _
  rw [List.find?_append, hnone]
  simp [newTeam]

theorem addTeam_inst? (hi : s.inst? i.uid = some i) : (addTeam r i d args tsh s ((k, core), f)).inst? i.uid = some (placedOne d k i) := by
  rw [addTeam_eq, State.inst?_modInst _ _ _ (placedOne d k) (fun _ => rfl), if_pos rfl, attach_frame]
  exact congrArg (Option.map (placedOne d k)) hi

/-- The state with the team of a site, and without the reservation once it was the last one (R336). -/
def placedAt (s : State) (r : Rec) (i : Inst) (d : Desc) (args : List Word) (tsh : Cells 64) (x : (Nat × Nat) × Nat) : State :=
  let s := addTeam r i d args tsh s x
  if ((s.inst? i.uid).map (·.inPool)).getD false then s else endReservation s i.uid

theorem placedAt_frame (x : (Nat × Nat) × Nat) : placedAt s r i d args tsh x =
    { addTeam r i d args tsh s x with reserved := (placedAt s r i d args tsh x).reserved, poolHead := (placedAt s r i d args tsh x).poolHead } := by
  unfold placedAt
  dsimp only
  split <;> rfl

theorem placedAt_awake (h : Awake s) : Awake (placedAt s r i d args tsh ((k, core), f)) := by
  rw [placedAt_frame]
  exact addTeam_awake h

theorem placedAt_team? (hfresh : ∀ x ∈ s.teams, x.uid ≠ s.serial) : ∃ tt, (placedAt s r i d args tsh ((k, core), f)).team? s.serial =
    some { newTeam s r i d k core f args tsh with ttab := tt } := by
  rw [placedAt_frame]
  exact addTeam_team? hfresh

theorem placedAt_inst? (hi : s.inst? i.uid = some i) : (placedAt s r i d args tsh ((k, core), f)).inst? i.uid = some (placedOne d k i) := by
  rw [placedAt_frame]
  exact addTeam_inst? hi

theorem placedAt_mem : (placedAt s r i d args tsh ((k, core), f)).mem = s.mem := by
  rw [placedAt_frame]
  exact addTeam_mem ..

end

section
variable {s s1 : State} {r : Rec} {i : Inst} {d : Desc} {args : List Word} {tsh : Cells 64} {x : (Nat × Nat) × Nat}

theorem placeInst_one (hd : instDesc s i = some (r, d)) (hsite : instSite s i = some [x]) (hown : d.fusedOwn = false)
    (hfused : ∀ y ∈ s.teams, y.desc.fused = false) (hread : (readLaunch r.space d).run s = .ok ((args, tsh), s1)) :
    placeInst s i = some (placedAt s1 r i d args tsh x) := by
  unfold placeInst
  simp only [hd, hsite, hown, fuseAll_unfused hfused, hread]
  rfl

theorem execTeamPlacement_eq {e : PoolEntry} (hserve : serves s = some e) (hinst : e.inst = true) (hid : e.id = i.uid)
    (hi : s.inst? i.uid = some i) (hplace : placeInst s i = some (placedAt s1 r i d args tsh x)) :
    exec (.teamPlacement i.uid) s = finish (placedAt s1 r i d args tsh x) := by
  change finish _ = _
  simp only [hserve, hinst, hid, decide_true, Bool.and_self, if_true, hi, Option.bind_some, hplace, Option.getD_some]

end

/-! ### Reservations -/

section
variable {s : State} {e : PoolEntry} {rest : List PoolEntry}

theorem execCoreReservation_empty (hs : Awake s) (hp : pool s = []) :
    exec .coreReservation s = .next { s with poolHead := none, reserved := [] } := by
  change finish _ = _
  simp only [hp]
  exact finish_awake (s := { s with poolHead := none, reserved := [] }) hs

/-- A head of the pool that is not the one noted is noted (R336). -/
theorem execCoreReservation_notes (hs : Awake s) (hp : pool s = e :: rest) (hnew : ∀ x, s.poolHead = some x → x.1 ≠ e.id) :
    exec .coreReservation s = .next { s with poolHead := some (e.id, s.mesh) } := by
  change finish _ = _
  simp only [hp]
  cases hh : s.poolHead with
  | none => exact finish_awake (s := { s with poolHead := some (e.id, s.mesh) }) hs
  | some x =>
    have hne : (x.1 != e.id) = true := by simpa using hnew x hh
    simp only [hne, if_true]
    exact finish_awake (s := { s with poolHead := some (e.id, s.mesh) }) hs

/-- The cores that an entry newly reserves. -/
def reserves (s : State) (e : PoolEntry) (d : Desc) (cores : List Nat) : List (Nat × Nat) :=
  (cores.filter (fun c => lacksBlock s e.id d c && !s.reserved.contains (c, e.id))).map (fun c => (c, e.id))

theorem execCoreReservation_reserves {d : Desc} {since : Nat} {cores : List Nat} (hs : Awake s) (hp : pool s = e :: rest)
    (hh : s.poolHead = some (e.id, since)) (hold : since + 4096 ≤ s.mesh) (hneeds : entryNeeds s e = some (d, cores)) :
    exec .coreReservation s = .next { s with reserved := s.reserved ++ reserves s e d cores } := by
  change finish _ = _
  simp only [hp, hh, bne_self_eq_false, Bool.false_eq_true, if_false, not_lt.mpr hold, hneeds]
  rw [← hh]
  exact finish_awake (s := { s with reserved := s.reserved ++ reserves s e d cores }) hs

theorem mem_reserves {d : Desc} {cores : List Nat} {x : Nat × Nat} : x ∈ reserves s e d cores ↔
    x.2 = e.id ∧ x.1 ∈ cores ∧ lacksBlock s e.id d x.1 = true ∧ x ∉ s.reserved := by
  simp only [reserves, List.mem_map, List.mem_filter, Bool.and_eq_true, Bool.not_eq_true', List.contains_eq_mem, decide_eq_false_iff_not]
  constructor
  · rintro ⟨c, ⟨hc, hlack, hnot⟩, rfl⟩
    exact ⟨rfl, hc, hlack, hnot⟩
  · rintro ⟨hid, hc, hlack, hnot⟩
    exact ⟨x.1, ⟨hc, hlack, by rwa [← hid]⟩, by rw [← hid]⟩

end

/-! ### Turns of a cluster -/

section
variable {s : State} {r : Rec} {i : Inst} {d : Desc} {cl pos p : Nat}

/-- An index without a team on the machine has gone if it has been placed. -/
theorem indexGone_placed (hdet : i.det = true) (hteams : ∀ t ∈ s.teams, t.inst ≠ i.uid) (k : Nat) :
    indexGone s i k = i.placed.contains k := by
  have hnone : s.teams.any (fun u => u.inst == i.uid && u.t == k && u.st != .gone) = false :=
    List.any_eq_false.mpr fun t ht => by simp [hteams t ht]
  simp [indexGone, Inst.hasPlaced, hdet, hnone]

/-- A logical cluster has work left while an index of it has not been placed. -/
theorem cluster_spent (hdet : i.det = true) (hteams : ∀ t ∈ s.teams, t.inst ≠ i.uid) (nt p : Nat) :
    (clusterTeams r.shape nt p).all (indexGone s i) =
      !(List.range nt).any (fun k => (teamCurve r.shape k).1 == p && !i.placed.contains k) := by
  rw [funext (indexGone_placed hdet hteams), clusterTeams, List.all_filter, List.not_any_eq_all_not]
  refine congrArg (fun f => (List.range nt).all f) (funext fun k => ?_)
  cases (teamCurve r.shape k).1 == p <;> simp

/-- The machine once a physical cluster has turned to a logical one. -/
def turned (s : State) (i : Inst) (cl p : Nat) : State :=
  { s with clusters := (i.uid, cl, p) :: s.clusters.filter (fun c => !(c.1 == i.uid && c.2.1 == cl)) }

theorem runsCluster_turned : runsCluster (turned s i cl p) r i cl = some p := by
  simp [runsCluster, turned]

/-- A cluster on which no team of the `Inst` stands turns to the next that has work left (R340). -/
theorem switchInst_turns (hdet : i.det = true) (hteams : ∀ t ∈ s.teams, t.inst ≠ i.uid) (hruns : runsCluster s r i cl = some pos)
    (hall : ∀ k, k < d.nt → (teamCurve r.shape k).1 = pos → k ∈ i.placed)
    (hnext : (((hosted s r cl).filter (fun p => pos < p)) ++ ((hosted s r cl).filter (fun p => p < pos))).find? (fun p =>
      (List.range d.nt).any (fun k => (teamCurve r.shape k).1 == p && !i.placed.contains k)) = some p) :
    switchInst s r i d cl = turned s i cl p := by
  have hspent : (clusterTeams r.shape d.nt pos).all (indexGone s i) = true := by
    rw [cluster_spent hdet hteams, Bool.not_eq_true', List.any_eq_false]
    intro k hk
    by_cases hc : (teamCurve r.shape k).1 = pos
    · simp [hall k (List.mem_range.mp hk) hc]
    · simp [hc]
  have hmine : s.teams.filter (fun t => t.inst == i.uid && t.st == .running && (teamCurve r.shape t.t).1 == pos) = [] :=
    List.filter_eq_nil_iff.mpr fun t ht => by simp [hteams t ht]
  have hleft : (((hosted s r cl).filter (fun p => pos < p)) ++ ((hosted s r cl).filter (fun p => p < pos))).find?
      (fun p => !(clusterTeams r.shape d.nt p).all (indexGone s i)) = some p := by
    rw [← hnext]
    refine congrArg (fun f => List.find? f _) (funext fun p => ?_)
    rw [cluster_spent hdet hteams, Bool.not_not]
  unfold switchInst
  simp only [hruns, hmine, hspent, hleft, Bool.true_or, if_true, List.foldl_nil]
  rfl

theorem execLogicalClusterSwitch_one (hs : Awake s) (hinsts : s.insts = [i]) (hdet : i.det = true) (hd : instDesc s i = some (r, d))
    (hswitch : switchInst s r i d cl = turned s i cl p) : exec (.logicalClusterSwitch cl) s = .next (turned s i cl p) := by
  change finish _ = _
  simp only [hinsts, List.foldl_cons, List.foldl_nil, hdet, hd, hswitch]
  exact finish_awake (s := turned s i cl p) hs

end

/-- Settles O48: the new team alone joins the machine; the head's reservations are a filter of its cores; and the spent logical
cluster leaves its place to the one that the search finds. -/
theorem teamsArePlaced : Obligations.TeamsArePlaced := by
  unfold Obligations.TeamsArePlaced
  refine ⟨?_, fun s hs => ⟨fun hp => ?_, fun e rest hp hnew => ?_, fun e rest since d cores hp hh hold hneeds => ?_⟩, ?_⟩
  · intro s e i r d core f k args tsh s1 hs hserve hinst hid hi hd hsite hown hteams hread hs1 ht1 hi1
    have hplace := placeInst_one hd hsite hown (fun x hx => (hteams x hx).1) hread
    have hfresh : ∀ x ∈ s1.teams, x.uid ≠ s1.serial := by
      rw [ht1]
      exact fun x hx => (hteams x hx).2
    have hinst1 : s1.inst? i.uid = some i := by rw [State.inst?, hi1]; exact hi
    obtain ⟨tt, hteam⟩ := placedAt_team? (r := r) (i := i) (d := d) (args := args) (tsh := tsh) (k := k) (core := core) (f := f) hfresh
    refine ⟨_, _, _, (execTeamPlacement_eq hserve hinst hid hi hplace).trans (finish_awake (placedAt_awake hs1)), hteam, rfl, rfl, rfl, rfl, rfl,
      rfl, rfl, placedAt_inst? hinst1, rfl, placedAt_mem, fun wi w hw => ?_⟩
    have hstart := newTeam_warp (s := s1) (r := r) (i := i) (t := k) (core := core) (f := f) (tsh := tsh) hw
    exact ⟨hstart.idx, hstart.sup,
      fun h => ⟨hstart.live h, fun n hn _ => hstart.args h n hn, hstart.lanes h⟩, hstart.free⟩
  · exact ⟨_, execCoreReservation_empty hs hp, rfl, rfl⟩
  · exact ⟨_, execCoreReservation_notes hs hp hnew, rfl, rfl⟩
  · refine ⟨_, execCoreReservation_reserves hs hp hh hold hneeds, fun x => ?_⟩
    rw [List.mem_append, mem_reserves]
  · intro s i r d cl pos p hs hinsts hdet hd hteams hruns hall hnext
    exact ⟨_, execLogicalClusterSwitch_one hs hinsts hdet hd (switchInst_turns hdet hteams hruns hall hnext), rfl, rfl, runsCluster_turned⟩

end Sys2Proof.Machine
end

section
/-! SUPPORT. Window space: what LDW reads of a warp's window and what STW leaves of the warp and of the group (R56, R57). -/

namespace Sys2Proof.Machine

/-! ### The warp that a window address names -/

/-- The warps keep their contexts when the group's latches go. -/
theorem seen_ctxs (t : Team) (is : Issue) : (t.seen is).warps.map (·.ctx) = t.warps.map (·.ctx) := by
  refine List.ext_getElem? fun i => ?_
  rw [List.getElem?_map, List.getElem?_map]
  cases hw : t.warps[i]? with
  | none =>
    have hlen := List.getElem?_eq_none_iff.mp hw
    rw [List.getElem?_eq_none (by rw [seen_length]; exact hlen)]
  | some w =>
    obtain ⟨ls, h1, -⟩ := seen_warp t is i w hw
    rw [h1]
    rfl

theorem seen_findCtx (t : Team) (is : Issue) (n : Nat) :
    (t.seen is).warps.findIdx? (fun w => w.ctx == n) = t.warps.findIdx? (fun w => w.ctx == n) := by
  have hfind : ∀ ws : List Warp, ws.findIdx? (fun w => w.ctx == n) = (ws.map (·.ctx)).findIdx? (· == n) := by
    intro ws
    rw [List.findIdx?_map]
    rfl
  rw [hfind, hfind, seen_ctxs]

section
variable {s : State} {i : Instr} {h : Hdr} {is : Issue} {t : Team} {k : Nat × Nat} {w : Warp} {l : Lane}

theorem Ctx.offset (G : Issuing s i h is t) {c : Lc} (C : Ctx s i h is t c w l) {ad : Addr} {n : Nat}
    (hr : (ad.base, n) ∈ (info i).srcs) : c.offset ad = offsetOf w l ad := by
  rw [Lc.offset, offsetOf, C.src G ad.base n hr]

/-- A window address that names a warp of the team passes the check. -/
theorem windowCheck_ok {c : Lc} (C : Ctx s i h is t c w l) {wa j : Nat} (h4 : wa % 4 = 0) (hmax : wa ≤ 0x1FFFFC)
    (hj : t.warps.findIdx? (fun w => w.ctx == wa / 2 ^ 15) = some j) : windowCheck c (wa : Int) = .ok (j, wa % 2 ^ 15) := by
  have halign : ((wa : Int) % 4 != 0) = false := by
    rw [bne_eq_false_iff_eq]
    omega
  have hin : (decide ((wa : Int) < 0) || decide ((0x1FFFFC : Int) < wa)) = false := by
    rw [Bool.or_eq_false_iff, decide_eq_false_iff_not, decide_eq_false_iff_not]
    omega
  unfold windowCheck
  rw [C.team, Int.toNat_natCast, seen_findCtx, hj]
  simp only [halign, hin, Bool.false_eq_true, if_false]

/-! ### LDW -/

/-- An instruction whose one active lane changes nothing but by its result is a computation on registers. -/
theorem perLane_pure (G : Issuing s i h is t) (one : OneLane t is h k) (a : Active t is h k w l)
    {f : State → Lc → State × LaneRes} {r : LaneRes}
    (hf : ∀ c, Ctx s i h is t c w l → f (s.seen t is) c = (s.seen t is, r)) :
    perLane i h s f = pureLanes i h s (fun _ => r) := by
  obtain ⟨c, h1, -, -, C⟩ := contexts_one (s := s) (i := i) one a
  have hbody : foldLanes f (s.seen t is) (contexts h is t) = foldLanes (fun s _ => (s, r)) (s.seen t is) (contexts h is t) := by
    simp only [h1, foldLanes, List.foldl_cons, List.foldl_nil, C.team, untouched_seen G, if_true, hf c C]
  unfold perLane pureLanes
  rw [issueWith_quiet G _ _ (fun _ _ => rfl), issueWith_quiet G _ _ (fun _ _ => rfl), hbody]

/-- Two lists of lanes with the same registers and predicates. -/
def SameRegs (ls ms : List Lane) : Prop :=
  ∀ n : Nat, (ls[n]?).map (fun l : Lane => (l.v, l.p)) = (ms[n]?).map (fun l : Lane => (l.v, l.p))

theorem predWord_same {w : Warp} {ls : List Lane} (hs : SameRegs ls w.lanes) (q : Fin 8) :
    predWord { w with lanes := ls } q = predWord w q := by
  have hbits : ∀ w : Warp, predWord w q =
      (w.lanes.zipIdx.map (fun x => (x.2, x.1.rdP q))).foldl (fun m x => if x.2 then m ||| BitVec.ofNat 32 (2 ^ x.1) else m) 0 := by
    intro w
    rw [predWord, Warp.slots, List.foldl_map, List.foldl_map]
  rw [hbits, hbits]
  refine congrArg (List.foldl _ _) (List.ext_getElem? fun n => ?_)
  have hn := hs n
  simp only [List.getElem?_map, List.getElem?_zipIdx, Option.map_map]
  cases hl : ls[n]? <;> cases hm : w.lanes[n]? <;> simp [hl, hm] at hn ⊢
  simp [Lane.rdP, hn.2]

/-- The window shows registers and predicates, and no latch. -/
theorem windowRead_same {w : Warp} {ls : List Lane} (hs : SameRegs ls w.lanes) (win off : Nat) :
    windowRead win { w with lanes := ls } off = windowRead win w off := by
  have hv : ∀ n r : Nat, ((ls[n]?).map (fun l : Lane => l.rdV r)).getD 0 = ((w.lanes[n]?).map (fun l : Lane => l.rdV r)).getD 0 := by
    intro n r
    have hn := hs n
    cases hl : ls[n]? <;> cases hm : w.lanes[n]? <;> simp [hl, hm] at hn ⊢
    simp [Lane.rdV, hn.1]
  unfold windowRead
  simp only [predWord_same hs, hv]
  rfl

theorem seenLane_regs (t : Team) (is : Issue) (k : Nat × Nat) (l : Lane) :
    (seenLane t is k l).v = l.v ∧ (seenLane t is k l).p = l.p := by
  rw [seenLane_frame]
  exact ⟨rfl, rfl⟩

theorem sameRegs_seen {j : Nat} {ls : List Lane} (hls : ∀ n, ls[n]? = (w.lanes[n]?).map (seenLane t is (j, n))) :
    SameRegs ls w.lanes := by
  intro n
  rw [hls n]
  cases w.lanes[n]? with
  | none => rfl
  | some l =>
    obtain ⟨hv, hp⟩ := seenLane_regs t is (j, n) l
    simp [hv, hp]

/-- LDW is the computation that gives its lane the word of the window. -/
theorem execLdw_eq {d : Reg} {ad : Addr} (G : Issuing s (.ldw h d ad) h is t) (one : OneLane t is h k) (a : Active t is h k w l)
    {wa j : Nat} {x : Warp} (hwa : offsetOf w l ad = (wa : Int)) (h4 : wa % 4 = 0) (hmax : wa ≤ 0x1FFFFC)
    (hj : t.warps.findIdx? (fun w => w.ctx == wa / 2 ^ 15) = some j) (hx : t.warps[j]? = some x) :
    exec (.ldw h d ad) s = pureLanes (.ldw h d ad) h s (fun _ => .done (dst1 h d (windowRead t.desc.win x (wa % 2 ^ 15)))) := by
  refine perLane_pure G one a fun c C => ?_
  obtain ⟨ls, hseen, hls⟩ := seen_warp? G hx
  rw [C.offset G (n := 1) (by simp [info]), hwa, windowCheck_ok C h4 hmax hj]
  simp only [C.issue, hseen, C.team, seen_desc, windowRead_same (sameRegs_seen hls)]

theorem execLdw_reads {d : Reg} {ad : Addr} (G : Issuing s (.ldw h d ad) h is t) (one : OneLane t is h k) (a : Active t is h k w l)
    {wa j : Nat} {x : Warp} (hwa : offsetOf w l ad = (wa : Int)) (h4 : wa % 4 = 0) (hmax : wa ≤ 0x1FFFFC)
    (hj : t.warps.findIdx? (fun w => w.ctx == wa / 2 ^ 15) = some j) (hx : t.warps[j]? = some x) :
    Completes (.ldw h d ad) s h is t (fun k _ l w' l' =>
      Wrote is h d [windowRead t.desc.win x (wa % 2 ^ 15)] (Leads t is h k) l w' l') :=
  completes_pure G _ (execLdw_eq G one a hwa h4 hmax hj hx) (fun _ _ => dst1 h d (windowRead t.desc.win x (wa % 2 ^ 15)))
    (fun _ _ _ _ => rfl) _ (fun _ _ _ a _ hs => wrote_dst1 a rfl hs)

theorem OneLane.leads (one : OneLane t is h k) : Leads t is h k := by
  rw [Leads, show activeLanes t is h = [k] from one]
  simp

theorem Wrote.alone {d : Reg} {xs : List Word} {p : Prop} {w' : Warp} {l' : Lane} (hw : Wrote is h d xs p l w' l') (hp : p) :
    Wrote is h d xs True l w' l' := by
  obtain ⟨hst, hregs, hlatch⟩ := hw
  refine ⟨hst, fun hn n x hx => ?_, hlatch⟩
  have := hregs hn n x hx
  cases d with
  | v m => exact this
  | s m => exact fun _ => this hp

end
end Sys2Proof.Machine
end

section
/-! SUPPORT. STW: the write to a warp's window, the state that it leaves, and the warps after the group has gone on. -/

namespace Sys2Proof.Machine

/-! ### A word of a window is written, R56 -/

section
variable {win now off : Nat} {w : Warp} {x : Word}

theorem windowWrite_v (h : off < 0x6000) (hin : off / 128 < 8 * win) :
    windowWrite win now w off x = w.modLane (off / 4 % 32) (fun l => l.wrV (off / 128) x) := by
  rw [windowWrite, if_pos h, if_pos hin]

theorem windowWrite_s (h : 0x6000 ≤ off) (hlt : off < 0x6100) : windowWrite win now w off x = w.wrS ((off - 0x6000) / 4) x := by
  rw [windowWrite, if_neg (by omega), if_pos hlt]

theorem windowWrite_pred (h : 0x6100 ≤ off) (hlt : off < 0x6120) :
    windowWrite win now w off x = writePredWord w (Fin.ofNat 8 ((off - 0x6100) / 4)) x := by
  rw [windowWrite, if_neg (by omega), if_neg (by omega), if_pos hlt]

theorem windowWrite_wstat (h : off = 0x6120) : windowWrite win now w off x = writeWstat now w x := by
  rw [windowWrite, if_neg (by omega), if_neg (by omega), if_neg (by omega), if_pos h]

/-- Beyond the window, at s0 and beyond WSTAT nothing is written. -/
theorem windowWrite_ignored (h : off < 0x6000 ∧ 8 * win ≤ off / 128 ∨ off = 0x6000 ∨ 0x6124 ≤ off) :
    windowWrite win now w off x = w := by
  rcases h with ⟨h, hout⟩ | h | h
  · rw [windowWrite, if_pos h, if_neg (by omega)]
  · rw [windowWrite_s (by omega) (by omega), h]
    rfl
  · rw [windowWrite, if_neg (by omega), if_neg (by omega), if_neg (by omega), if_neg (by omega)]

end

theorem writePredWord_get (w : Warp) (q : Fin 8) (x : Word) (n : Nat) : (writePredWord w q x).lanes[n]? =
    (w.lanes[n]?).map (fun l => if l.live then l.wrP q (x.getLsbD n) else l) := by
  simp only [writePredWord, List.getElem?_map, List.getElem?_zipIdx, Option.map_map]
  cases w.lanes[n]? <;> simp

/-- What a write to its window leaves of a warp: its mode and its epoch, and the lanes that it has, with their counters. -/
structure Windowed (w w' : Warp) : Prop where
  sup : w'.sup = w.sup
  epoch : w'.epoch = w.epoch
  lanes : ∀ (n : Nat) (l : Lane), w.lanes[n]? = some l → ∃ l', w'.lanes[n]? = some l' ∧ l'.regionCnt = l.regionCnt

theorem Windowed.refl (w : Warp) : Windowed w w := ⟨rfl, rfl, fun _ l hl => ⟨l, hl, rfl⟩⟩

/-- Lanes changed one by one, their counters kept. -/
theorem windowed_lanes {w w' : Warp} {f : Nat → Lane → Lane} (hs : w'.sup = w.sup) (he : w'.epoch = w.epoch)
    (hl : ∀ n, w'.lanes[n]? = (w.lanes[n]?).map (f n)) (hf : ∀ n l, (f n l).regionCnt = l.regionCnt) : Windowed w w' :=
  ⟨hs, he, fun n l h => ⟨f n l, by rw [hl, h]; rfl, hf n l⟩⟩

theorem release_regionCnt (l : Lane) (now : Nat) : (l.release now).regionCnt = l.regionCnt := by
  unfold Lane.release Lane.enter
  split <;> rfl

theorem wrP_regionCnt (l : Lane) (q : Fin 8) (b : Bool) : (l.wrP q b).regionCnt = l.regionCnt := by
  unfold Lane.wrP
  split <;> rfl

theorem windowed_wstat (now : Nat) (w : Warp) (x : Word) : Windowed w (writeWstat now w x) := by
  refine windowed_lanes (f := fun _ l => if x.getLsbD 0 && !w.lockstep then (if l.under == .filed then l.release now else l) else l)
    rfl rfl (fun n => ?_) (fun n l => ?_)
  · unfold writeWstat
    dsimp only
    split
    · rw [List.getElem?_map]
    · cases w.lanes[n]? <;> rfl
  · split
    · split
      · exact release_regionCnt l now
      · rfl
    · rfl

theorem windowed_windowWrite (win now : Nat) (w : Warp) (off : Nat) (x : Word) : Windowed w (windowWrite win now w off x) := by
  unfold windowWrite
  split
  · split
    · refine windowed_lanes (f := fun n l => if off / 4 % 32 = n then l.wrV (off / 128) x else l) rfl rfl (fun n => ?_) (fun n l => ?_)
      · rw [Warp.modLane, List.getElem?_modify]
        rfl
      · split <;> rfl
    · exact .refl w
  · split
    · rw [wrS_frame]
      exact ⟨rfl, rfl, fun _ l hl => ⟨l, hl, rfl⟩⟩
    · split
      · refine windowed_lanes rfl rfl (writePredWord_get w _ x) (fun n l => ?_)
        split
        · exact wrP_regionCnt _ _ _
        · rfl
      · split
        · exact windowed_wstat now w x
        · exact .refl w

/-! ### The state after STW's write -/

/-- The state that STW leaves before its group goes on: the word written, FILED lanes out of the bins when the write puts their
warp into lockstep (R29), and such a warp arranged unless its group is still to move on. -/
def windowStored (s : State) (is : Issue) (win j off : Nat) (x : Word) (locks : Bool) : State :=
  let s := if locks then unfileSlots s is.team j else s
  let s := s.modWarp is.team j (fun w => windowWrite win s.cycle w off x)
  if locks && !is.lanes.any (fun y => y.1 == j) then s.modWarp is.team j relock else s

section
variable {s : State} {is : Issue} {win j off : Nat} {x : Word} {locks : Bool}

theorem windowStored_frame : windowStored s is win j off x locks = { s with
    teams := (windowStored s is win j off x locks).teams, bins := (windowStored s is win j off x locks).bins } := by
  unfold windowStored
  cases locks with
  | false => rfl
  | true =>
    dsimp only
    split <;> rfl

theorem windowStored_ne {i : Nat} (h : i ≠ j) :
    (windowStored s is win j off x locks).warp? is.team i = s.warp? is.team i := by
  unfold windowStored
  cases locks with
  | false => exact warp?_modWarp_ne h _ _ _
  | true =>
    dsimp only
    split
    · rw [warp?_modWarp_ne h, warp?_modWarp_ne h]
      rfl
    · rw [warp?_modWarp_ne h]
      rfl

theorem windowStored_self {w : Warp} (hw : s.warp? is.team j = some w) :
    ∃ st, (windowStored s is win j off x locks).warp? is.team j = some { windowWrite win s.cycle w off x with stack := st } := by
  have hwrite : ∀ s' : State, s'.warp? = s.warp? →
      (s'.modWarp is.team j (fun w => windowWrite win s.cycle w off x)).warp? is.team j = some (windowWrite win s.cycle w off x) := by
    intro s' hs
    rw [warp?_modWarp, hs, hw]
    simp
  unfold windowStored
  cases locks with
  | false => exact ⟨_, hwrite s rfl⟩
  | true =>
    have hslots := hwrite (unfileSlots s is.team j) rfl
    simp only [if_true, Bool.true_and]
    split
    · rw [warp?_modWarp]
      refine ⟨(relock (windowWrite win s.cycle w off x)).stack, ?_⟩
      rw [← relock_frame]
      exact (congrArg (Option.map _) hslots).trans (by simp)
    · exact ⟨_, hslots⟩

end

section
variable {s : State} {i : Instr} {h : Hdr} {is : Issue} {t : Team} {k : Nat × Nat} {w : Warp} {l : Lane}

/-- An instruction with one active lane that moves no warp of its group. -/
theorem perLane_still (G : Issuing s i h is t) (one : OneLane t is h k) (a : Active t is h k w l)
    {f : State → Lc → State × LaneRes} {s' : State} {r : LaneRes}
    (hf : ∀ c, Ctx s i h is t c w l → f (s.seen t is) c = (s', r)) (hs : Awake s')
    (hu : ∀ j ∈ is.lanes, untouched (t.seen is) s' j.1 = true) (hr : r.trap? = none) :
    perLane i h s f = .next (commit s' is (allDo t is h r)) := by
  obtain ⟨c, C, -, -, hx⟩ := perLane_one G one a f
  have hmap : [(k, r)] = (activeLanes t is h).map (fun k => (k, r)) := by rw [show activeLanes t is h = [k] from one]; rfl
  rw [hx, hf c C, hmap]
  exact finish_all hs hr hu

/-! ### The warps after the group has gone on -/

/-- The warps of the two states have the same registers, predicates and modes of issue. -/
structure SameFile (w w' : Warp) : Prop where
  s : w'.s = w.s
  lockstep : w'.lockstep = w.lockstep
  uconflict : w'.uconflict = w.uconflict
  lanes : ∀ (n : Nat) (m : Lane), w.lanes[n]? = some m → ∃ m', w'.lanes[n]? = some m' ∧ m'.v = m.v ∧ m'.p = m.p

/-- And their lanes are in the same states. -/
structure SeenAs (w w' : Warp) : Prop extends SameFile w w' where
  states : ∀ n : Nat, (w'.lanes[n]?).map (·.st) = (w.lanes[n]?).map (·.st)

theorem SameFile.rdS {w w' : Warp} (S : SameFile w w') (n : Nat) : w'.rdS n = w.rdS n := by rw [Warp.rdS, Warp.rdS, S.s]

/-- A lane that completes without an effect keeps its registers. -/
theorem laneWith_plain {r : LaneRes} (hr : r = .stay ∨ ∃ c, r = .done { count := c }) (is : Issue) (now : Nat) (sup : Bool) (l : Lane) :
    (laneWith is now sup r l).v = l.v ∧ (laneWith is now sup r l).p = l.p := by
  rcases hr with rfl | ⟨c, rfl⟩
  · rw [laneWith_stay]
    exact ⟨rfl, rfl⟩
  · rw [laneWith_done rfl]
    exact ⟨rfl, rfl⟩

theorem allDo_plain {x : (Nat × Nat) × LaneRes} (hx : x ∈ allDo t is h (.done {})) : ∃ c, x.2 = .done { count := c } := by
  simp only [allDo, idleLanes, List.mem_append, List.mem_map] at hx
  obtain ⟨k, -, rfl⟩ | ⟨k, -, rfl⟩ := hx
  · exact ⟨true, rfl⟩
  · exact ⟨false, rfl⟩

theorem resOf_plain (is : Issue) (t : Team) (h : Hdr) (j n : Nat) :
    resOf (allDo t is h (.done {})) j n = .stay ∨ ∃ c, resOf (allDo t is h (.done {})) j n = .done { count := c } := by
  unfold resOf
  split
  next x hx => exact .inr (allDo_plain (List.mem_of_find?_eq_some hx))
  next => exact .inl rfl

/-- A group that only goes on writes no s-register. -/
theorem noWriter_plain (is : Issue) (t : Team) (h : Hdr) (j : Nat) :
    (((allDo t is h (.done {})).filter (fun r => r.1.1 == j)).filterMap (fun r => r.2.eff?)).find? Eff.writesS = none := by
  rw [List.find?_eq_none]
  intro e he
  obtain ⟨x, hx, hxe⟩ := List.mem_filterMap.mp he
  obtain ⟨c, hc⟩ := allDo_plain (List.mem_of_mem_filter hx)
  rw [hc] at hxe
  obtain rfl := Option.some.inj hxe
  simp [Eff.writesS]

theorem sameFile_commit (is : Issue) (t : Team) (h : Hdr) (now j : Nat) (w : Warp) :
    SameFile w (commitWarp is now (allDo t is h (.done {})) j w) := by
  refine ⟨?_, ?_, ?_, fun n m hm => ⟨_, by rw [commitWarp_get, hm]; rfl, laneWith_plain (resOf_plain is t h j n) is now w.sup m⟩⟩
  · rw [commitWarp_s, noWriter_plain]
    rfl
  · rw [commitWarp_frame]
  · rw [commitWarp_uconflict, noWriter_plain]
    rfl

end

/-! ### STW -/

section
variable {s : State} {h : Hdr} {is : Issue} {t : Team} {k : Nat × Nat} {w : Warp} {l : Lane} {ad : Addr} {b : Src}
  {wa j : Nat} {x : Warp}

/-- The write puts the named warp into lockstep. -/
def stwLocks (off : Nat) (y : Word) (x : Warp) : Bool := off = 0x6120 && y.getLsbD 0 && !x.lockstep

/-- The state that STW leaves before the group goes on. -/
def stwState (s : State) (t : Team) (is : Issue) (wa j : Nat) (y : Word) (x : Warp) : State :=
  windowStored (s.seen t is) is t.desc.win j (wa % 2 ^ 15) y (stwLocks (wa % 2 ^ 15) y x)

theorem stwOne_eq (G : Issuing s (.stw h ad b) h is t) (hwa : offsetOf w l ad = (wa : Int)) (h4 : wa % 4 = 0) (hmax : wa ≤ 0x1FFFFC)
    (hj : t.warps.findIdx? (fun w => w.ctx == wa / 2 ^ 15) = some j) (hx : t.warps[j]? = some x) {c : Lc}
    (C : Ctx s (.stw h ad b) h is t c w l) :
    stwOne ad b (s.seen t is) c = (stwState s t is wa j (readSrc w l b) x, .done {}) := by
  obtain ⟨ls, hseen, -⟩ := seen_warp? G hx
  have hoff : c.offset ad = (wa : Int) := (C.offset G (n := 1) (by simp [info])).trans hwa
  have hsrc : c.src b = readSrc w l b := C.src G b 1 (by simp [info])
  unfold stwOne
  rw [hoff, windowCheck_ok C h4 hmax hj]
  simp only [C.issue, hseen, C.team, seen_desc, hsrc]
  rfl

theorem stwState_awake (G : Issuing s (.stw h ad b) h is t) (y : Word) : Awake (stwState s t is wa j y x) := by
  rw [stwState, windowStored_frame]
  exact seen_awake G.awake t is

theorem stwState_untouched (G : Issuing s (.stw h ad b) h is t) (y : Word) (hx : t.warps[j]? = some x) (n : Nat) :
    untouched (t.seen is) (stwState s t is wa j y x) n = true := by
  have hseen := untouched_seen G n
  unfold untouched at hseen ⊢
  rw [seen_uid, uid_of_team? G.team] at hseen ⊢
  rw [stwState]
  by_cases hn : n = j
  · subst hn
    obtain ⟨ls, hw, -⟩ := seen_warp? G hx
    obtain ⟨st, hst⟩ := windowStored_self (win := t.desc.win) (off := wa % 2 ^ 15) (x := y)
      (locks := stwLocks (wa % 2 ^ 15) y x) hw
    rw [hst]
    rw [hw] at hseen
    rw [Option.map_some] at hseen ⊢
    rwa [show ({ windowWrite t.desc.win (s.seen t is).cycle { x with lanes := ls } (wa % 2 ^ 15) y with stack := st } : Warp).epoch = _ from
      (windowed_windowWrite _ _ _ _ _).epoch]
  · rwa [windowStored_ne hn]

theorem exec_stw (G : Issuing s (.stw h ad b) h is t) (one : OneLane t is h k) (a : Active t is h k w l)
    (hwa : offsetOf w l ad = (wa : Int)) (h4 : wa % 4 = 0) (hmax : wa ≤ 0x1FFFFC)
    (hj : t.warps.findIdx? (fun w => w.ctx == wa / 2 ^ 15) = some j) (hx : t.warps[j]? = some x) :
    exec (.stw h ad b) s = .next (commit (stwState s t is wa j (readSrc w l b) x) is (allDo t is h (.done {}))) :=
  perLane_still G one a (fun _ C => stwOne_eq G hwa h4 hmax hj hx C) (stwState_awake G _)
    (fun n _ => stwState_untouched G _ hx n.1) rfl

/-- The lane that issues STW, before it goes on. -/
theorem stwState_lane (G : Issuing s (.stw h ad b) h is t) (a : Active t is h k w l) (x : Warp) (y : Word) :
    ∃ w1 l1, (stwState s t is wa j y x).warp? is.team k.1 = some w1 ∧ w1.lanes[k.2]? = some l1 ∧ l1.regionCnt = l.regionCnt := by
  obtain ⟨ls, hw, hls⟩ := seen_warp? G a.1.2.1
  have hl : ls[k.2]? = some (seenLane t is k l) := by
    rw [hls, a.1.2.2]
    rfl
  have hcnt : (seenLane t is k l).regionCnt = l.regionCnt := by rw [seenLane_frame]
  rw [stwState]
  by_cases hk : k.1 = j
  · rw [hk] at hw ⊢
    obtain ⟨st, hst⟩ := windowStored_self (win := t.desc.win) (off := wa % 2 ^ 15) (x := y)
      (locks := stwLocks (wa % 2 ^ 15) y x) hw
    obtain ⟨l1, hl1, hc⟩ := (windowed_windowWrite t.desc.win (s.seen t is).cycle { w with lanes := ls } (wa % 2 ^ 15) y).lanes _ _ hl
    exact ⟨_, l1, hst, hl1, hc.trans hcnt⟩
  · rw [windowStored_ne hk]
    exact ⟨_, _, hw, hl, hcnt⟩

theorem stw_stands (G : Issuing s (.stw h ad b) h is t) (a : Active t is h k w l) (x : Warp) (y : Word) :
    ∃ w' l', (commit (stwState s t is wa j y x) is (allDo t is h (.done {}))).warp? is.team k.1 = some w' ∧
      w'.lanes[k.2]? = some l' ∧ StandsAt is.after l l' := by
  obtain ⟨w1, l1, hw, hl, hcnt⟩ := stwState_lane (wa := wa) (j := j) G a x y
  obtain ⟨w', hw', hl'⟩ := commit_active (r := .done {}) G.nodup rfl ((mem_active G).mpr ⟨w, l, a⟩) hw hl
  refine ⟨w', _, hw', hl', ?_⟩
  rw [laneWith_done rfl]
  exact ⟨rfl, rfl, congrArg (· + 1) hcnt⟩

/-- The named warp after STW: the word written to a warp with its registers, and nothing else. -/
theorem stw_warp (G : Issuing s (.stw h ad b) h is t) (hx : t.warps[j]? = some x) (y : Word) :
    ∃ x0 x' now, SeenAs x x0 ∧ (commit (stwState s t is wa j y x) is (allDo t is h (.done {}))).warp? is.team j = some x' ∧
      SameFile (windowWrite t.desc.win now x0 (wa % 2 ^ 15) y) x' := by
  obtain ⟨ls, hw, hls⟩ := seen_warp? G hx
  obtain ⟨st, hst⟩ := windowStored_self (win := t.desc.win) (off := wa % 2 ^ 15) (x := y)
    (locks := stwLocks (wa % 2 ^ 15) y x) hw
  refine ⟨{ x with lanes := ls }, _, (s.seen t is).cycle,
    ⟨⟨rfl, rfl, rfl, fun n m hm => ⟨_, by rw [hls, hm]; rfl, seenLane_regs t is (j, n) m⟩⟩, fun n => ?_⟩,
    commit_warp? (allDo_untrapped rfl) hst, ?_⟩
  · rw [hls, Option.map_map]
    refine congrArg (fun f => Option.map f _) (funext fun m => ?_)
    rw [Function.comp_apply, seenLane_frame]
  · obtain ⟨hs, hlock, huc, hlanes⟩ := sameFile_commit is t h (stwState s t is wa j y x).cycle j
      { windowWrite t.desc.win (s.seen t is).cycle { x with lanes := ls } (wa % 2 ^ 15) y with stack := st }
    exact ⟨hs, hlock, huc, hlanes⟩

theorem stw_mem (y : Word) :
    (commit (stwState s t is wa j y x) is (allDo t is h (.done {}))).mem = s.mem := by
  rw [commit_frame _ is (allDo_untrapped rfl), stwState, windowStored_frame, seen_state]

end

/-! ### What the named warp holds -/

section
variable {x x0 x' : Warp} {win now off : Nat} {y : Word}

theorem window_v (S0 : SameFile x x0) (S : SameFile (windowWrite win now x0 off y) x') (h : off < 0x6000) (hin : off / 128 < 8 * win)
    {m : Lane} (hm : x.lanes[off / 4 % 32]? = some m) :
    ∃ m', x'.lanes[off / 4 % 32]? = some m' ∧ m'.rdV (off / 128) = y ∧ ∀ n, n ≠ off / 128 → m'.rdV n = m.rdV n := by
  obtain ⟨m0, hm0, hv0, -⟩ := S0.lanes _ m hm
  rw [windowWrite_v h hin] at S
  obtain ⟨m', hm', hv, -⟩ := S.lanes _ _ (modLane_get hm0 _)
  refine ⟨m', hm', ?_, fun n hn => ?_⟩
  · rw [Lane.rdV, hv]
    exact cget_cset_self _ _ _
  · rw [Lane.rdV, hv, Lane.rdV, ← hv0]
    exact cget_cset_ne _ _ hn

theorem window_s (S : SameFile (windowWrite win now x0 off y) x') (h4 : off % 4 = 0) (h : 0x6000 < off) (hlt : off < 0x6100) :
    x'.rdS ((off - 0x6000) / 4) = y := by
  have hn : (off - 0x6000) / 4 ≠ 0 := by omega
  rw [S.rdS, windowWrite_s (by omega) hlt, Warp.wrS, if_neg hn, Warp.rdS, if_neg hn]
  exact cget_cset_self _ _ _

theorem window_wstat (S0 : SameFile x x0) (S : SameFile (windowWrite win now x0 off y) x') (h : off = 0x6120) :
    x'.lockstep = y.getLsbD 0 ∧ x'.uconflict = (x.uconflict && !y.getLsbD 1) := by
  rw [S.lockstep, S.uconflict, windowWrite_wstat h, ← S0.uconflict]
  exact ⟨rfl, rfl⟩

theorem rdP_wrP_eq (l : Lane) (q p : Fin 8) (b : Bool) : (l.wrP q b).rdP p = if p = q ∧ p ≠ 7 then b else l.rdP p := by
  by_cases hq : p = q
  · subst hq
    rw [rdP_wrP_self]
    by_cases h7 : p = 7
    · simp [h7, Lane.rdP]
    · simp [h7]
  · rw [rdP_wrP (Ne.symm hq), if_neg (fun e => hq e.1)]

theorem wrP_v (l : Lane) (q : Fin 8) (b : Bool) : (l.wrP q b).v = l.v := by
  unfold Lane.wrP
  split <;> rfl

/-- The bit of a predicate word that a lane's predicate has, unless the lane has exited or the predicate is p7 (R43, R56). -/
theorem window_pred (S0 : SeenAs x x0) (S : SameFile (windowWrite win now x0 off y) x') (h : 0x6100 ≤ off) (hlt : off < 0x6120)
    {q : Nat} {m : Lane} (hm : x.lanes[q]? = some m) :
    ∃ m', x'.lanes[q]? = some m' ∧ m'.v = m.v ∧ ∀ p : Fin 8, m'.rdP p =
      if p.val = (off - 0x6100) / 4 ∧ p.val ≠ 7 ∧ m.st ≠ .exited then y.getLsbD q else m.rdP p := by
  obtain ⟨m0, hm0, hv0, hp0⟩ := S0.lanes q m hm
  have hst : m0.st = m.st := by
    have := S0.states q
    rw [hm0, hm] at this
    exact Option.some.inj this
  rw [windowWrite_pred h hlt] at S
  obtain ⟨m', hm', hv, hp⟩ := S.lanes q _ (by rw [writePredWord_get, hm0]; rfl)
  have hrd : ∀ p, m0.rdP p = m.rdP p := fun p => by rw [Lane.rdP, Lane.rdP, hp0]
  have hq : ∀ p : Fin 8, p = Fin.ofNat 8 ((off - 0x6100) / 4) ↔ p.val = (off - 0x6100) / 4 := by
    intro p
    rw [Fin.ext_iff, Fin.val_ofNat, Nat.mod_eq_of_lt (by omega)]
  have h7 : ∀ p : Fin 8, p ≠ 7 ↔ p.val ≠ 7 := fun p => by rw [ne_eq, Fin.ext_iff]; rfl
  have hlive : m0.live = true ↔ m.st ≠ .exited := by simp [Lane.live, hst]
  dsimp only at hv hp
  by_cases hl : m0.live = true
  · rw [if_pos hl] at hv hp
    refine ⟨m', hm', by rw [hv, wrP_v, hv0], fun p => ?_⟩
    rw [Lane.rdP, hp, ← Lane.rdP, rdP_wrP_eq, hrd]
    simp only [hq, h7, hlive.mp hl, ne_eq, not_false_eq_true, and_true]
  · rw [if_neg hl] at hv hp
    refine ⟨m', hm', hv.trans hv0, fun p => ?_⟩
    rw [if_neg (fun e => hl (hlive.mpr e.2.2)), ← hrd, Lane.rdP, Lane.rdP, hp]

theorem window_ignored (S0 : SameFile x x0) (S : SameFile (windowWrite win now x0 off y) x')
    (h : off < 0x6000 ∧ 8 * win ≤ off / 128 ∨ off = 0x6000 ∨ 0x6124 ≤ off) : SameFile x x' := by
  rw [windowWrite_ignored h] at S
  refine ⟨S.s.trans S0.s, S.lockstep.trans S0.lockstep, S.uconflict.trans S0.uconflict, fun n m hm => ?_⟩
  obtain ⟨m0, hm0, hv0, hp0⟩ := S0.lanes n m hm
  obtain ⟨m', hm', hv, hp⟩ := S.lanes n m0 hm0
  exact ⟨m', hm', hv.trans hv0, hp.trans hp0⟩

end

/-- Settles O20: LDW is a computation on registers; STW writes one word to the warp as the group finds it, and the rest of its
course changes no register. -/
theorem windowAccesses : Obligations.WindowAccesses := by
  unfold Obligations.WindowAccesses
  refine ⟨?_, ?_⟩
  · intro s h is t k w l d ad wa j x G one a _ hwa h4 hmax hj hx
    obtain ⟨s', hexec, hall⟩ := execLdw_reads G one a hwa h4 hmax hj hx
    obtain ⟨w', l', hw', hl', hwrote⟩ := hall k w l a
    exact ⟨s', w', l', hexec, hw', hl', hwrote.alone one.leads⟩
  · intro s h is t k w l ad b wa j x G one a _ hwa h4 hmax hj hx
    obtain ⟨w', l', hw', hl', hstands⟩ := stw_stands (wa := wa) (j := j) G a x (readSrc w l b)
    obtain ⟨x0, x', now, S0, hx', S⟩ := stw_warp (wa := wa) G hx (readSrc w l b)
    have hslot : wa / 4 % 32 = wa % 2 ^ 15 / 4 % 32 := by omega
    refine ⟨_, w', l', x', exec_stw G one a hwa h4 hmax hj hx, hw', hl', hstands, hx', stw_mem _, ?_, ?_, ?_, ?_, ?_⟩
    · intro m hlt hin hm
      rw [hslot] at hm ⊢
      exact window_v S0.toSameFile S hlt hin hm
    · exact window_s S (by omega)
    · exact window_wstat S0.toSameFile S
    · exact fun hge hlt q m hm => window_pred S0 S hge hlt hm
    · intro hout
      have hsame := window_ignored S0.toSameFile S hout
      exact ⟨hsame.rdS, hsame.lockstep, hsame.uconflict, hsame.lanes⟩

end Sys2Proof.Machine
end

section
/-! SUPPORT. What a row of the opcode map reads, in the fields of its word: each sub-field's code gives the bits back that it was
read from (R9, R41, R148 to R157). -/

namespace Sys2Proof

/-! ### Operand fields -/

/-- The bits that the encoder gives to the field that was read from `x` as kind `k`. -/
def Kind.enc (k : Kind) (x : BitVec 9) : BitVec 9 :=
  match k with
  | .zero => 0
  | .reg | .spair | .vpair => srcBits (srcOf x)
  | .vblock => numBits 9 (Fin.ofNat 192 x.toNat).val
  | .psrc => psBits (psOf x)
  | .pred | .ring => numBits 9 (fNum 8 x).val
  | .tile => numBits 9 (fNum 32 x).val
  | .chan => numBits 9 (fNum 4 x).val

/-- The same for a D field, which no row reads as a predicate source or as the block of SPAWN. -/
def Kind.encD (k : Kind) (x : BitVec 8) : BitVec 8 :=
  match k with
  | .zero => 0
  | .reg | .spair | .vpair => regBits (regOf x)
  | .vblock | .psrc => x
  | .pred | .ring => numBits 8 (dNum 8 x).val
  | .tile => numBits 8 (dNum 32 x).val
  | .chan => numBits 8 (dNum 4 x).val

theorem Kind.enc_of_ok (k : Kind) : ∀ x : BitVec 9, kindOk k x = true → zeroOk k x = true → k.enc x = x := by
  cases k <;> decide +kernel

theorem Kind.encD_of_ok (k : Kind) : ∀ x : BitVec 8, kindOk k (x.setWidth 9) = true → zeroOk k (x.setWidth 9) = true →
    k.encD x = x := by
  cases k <;> decide +kernel

theorem sKind_of_spair : ∀ x : BitVec 9, kindOk .spair x = true → (srcOf x).sKind = true := by decide +kernel
theorem vKind_of_vpair : ∀ x : BitVec 9, kindOk .vpair x = true → (srcOf x).vKind = true := by decide +kernel
theorem isS_of_spair : ∀ x : BitVec 8, kindOk .spair (x.setWidth 9) = true → (regOf x).isS = true := by decide +kernel
theorem isV_of_vpair : ∀ x : BitVec 8, kindOk .vpair (x.setWidth 9) = true → (!(regOf x).isS) = true := by decide +kernel

/-! ### The header -/

theorem gBits_hdrOf (r : Raw) : gBits (hdrOf r) = r.g := by
  have all : ∀ g : BitVec 4, bit (g.getLsbD 3) ++ BitVec.ofNat 3 (Fin.ofNat 8 g.toNat).val = g := by decide
  exact all r.g

theorem hdrOf_wf {r : Raw} (h : r.g ≠ 15) : (hdrOf r).wf = true := by
  have all : ∀ g : BitVec 4, g ≠ 15 → (!(g.getLsbD 3 && Fin.ofNat 8 g.toNat == 7)) = true := by decide
  exact all r.g h

/-- The latch that W names (R46). -/
def latchOf (w : BitVec 4) : Option (Fin 4) :=
  match (w.extractLsb' 0 3).toNat with
  | 1 => some 0 | 2 => some 1 | 3 => some 2 | 4 => some 3 | _ => none

theorem hdrOf_latch (r : Raw) : (hdrOf r).latch = latchOf r.w := by
  unfold hdrOf latchOf
  rfl

theorem wBits_hdrOf {r : Raw} (h : ¬4 < r.w.extractLsb' 0 3) : wBits (hdrOf r) = r.w := by
  have all : ∀ w : BitVec 4, ¬4 < w.extractLsb' 0 3 → wBits ⟨⟨0, false⟩, w.getLsbD 3, latchOf w⟩ = w := by decide
  rw [← all r.w h]
  unfold wBits
  rw [hdrOf_latch]
  rfl

theorem dFree_hdrOf {r : Raw} (h : ¬4 < r.w.extractLsb' 0 3) : (hdrOf r).dFree = dIgnored r := by
  have all : ∀ w : BitVec 4, ¬4 < w.extractLsb' 0 3 →
      (w.getLsbD 3 && (latchOf w).isSome) = (w.getLsbD 3 && w.extractLsb' 0 3 != 0) := by decide
  rw [dIgnored, ← all r.w h, Hdr.dFree, hdrOf_latch]
  rfl

/-! ### Bits outside a mask -/

/-- A bit outside the mask is 0. -/
theorem getLsbD_of_masked {w : Nat} {x mask : BitVec w} (h : x &&& ~~~mask = 0) (i : Nat) :
    (mask.getLsbD i || !x.getLsbD i) = true := by
  have hb : (x &&& ~~~mask).getLsbD i = false := by rw [h]; exact BitVec.getLsbD_zero
  by_cases hi : i < w
  · rw [BitVec.getLsbD_and, BitVec.getLsbD_not, decide_eq_true hi, Bool.true_and] at hb
    cases hx : x.getLsbD i with
    | false => simp
    | true => simpa [hx] using hb
  · rw [BitVec.getLsbD_of_ge x i (by omega)]
    simp

/-- A part of a word that lies outside the word's mask is 0. -/
theorem part_of_masked {w : Nat} {x mask : BitVec w} (h : x &&& ~~~mask = 0) (lo n : Nat)
    (hm : ∀ i, i < n → mask.getLsbD (lo + i) = false) : x.extractLsb' lo n = 0 := by
  ext i hi
  have hb := getLsbD_of_masked h (lo + i)
  rw [hm i hi, Bool.false_or] at hb
  simpa using hb

/-- The same of a field of the word. -/
theorem part_of_maskedField {v s w : Nat} {x : BitVec v} {mask : BitVec w} (h : x.extractLsb' s w &&& ~~~mask = 0) (lo n : Nat)
    (hn : lo + n ≤ w) (hm : ∀ i, i < n → mask.getLsbD (lo + i) = false) : x.extractLsb' (s + lo) n = 0 := by
  ext i hi
  have hb := getLsbD_of_masked h (lo + i)
  have hi' : lo + i < w := by omega
  rw [hm i hi, Bool.false_or, BitVec.getLsbD_extractLsb', decide_eq_true hi', Bool.true_and] at hb
  simpa [Nat.add_assoc] using hb

/-! ### A word and its parts -/

theorem bit_getLsbD {w : Nat} (x : BitVec w) (i : Nat) : bit (x.getLsbD i) = x.extractLsb' i 1 := by
  ext j hj
  obtain rfl : j = 0 := by omega
  simp [bit]

section
variable (a b c d e f g : Nat)

theorem join2 (x : BitVec (a + b)) : x.extractLsb' b a ++ x.extractLsb' 0 b = x := by
  rw [BitVec.extractLsb'_append_extractLsb'_eq_extractLsb' (by omega)]
  exact BitVec.extractLsb'_eq_self

theorem join3 (x : BitVec (a + b + c)) : x.extractLsb' (b + c) a ++ x.extractLsb' c b ++ x.extractLsb' 0 c = x := by
  rw [BitVec.extractLsb'_append_extractLsb'_eq_extractLsb' (by omega)]
  exact join2 (a + b) c x

theorem join4 (x : BitVec (a + b + c + d)) :
    x.extractLsb' (b + c + d) a ++ x.extractLsb' (c + d) b ++ x.extractLsb' d c ++ x.extractLsb' 0 d = x := by
  rw [BitVec.extractLsb'_append_extractLsb'_eq_extractLsb' (by omega)]
  exact join3 (a + b) c d x

theorem join5 (x : BitVec (a + b + c + d + e)) : x.extractLsb' (b + c + d + e) a ++ x.extractLsb' (c + d + e) b ++
    x.extractLsb' (d + e) c ++ x.extractLsb' e d ++ x.extractLsb' 0 e = x := by
  rw [BitVec.extractLsb'_append_extractLsb'_eq_extractLsb' (by omega)]
  exact join4 (a + b) c d e x

theorem join6 (x : BitVec (a + b + c + d + e + f)) : x.extractLsb' (b + c + d + e + f) a ++ x.extractLsb' (c + d + e + f) b ++
    x.extractLsb' (d + e + f) c ++ x.extractLsb' (e + f) d ++ x.extractLsb' f e ++ x.extractLsb' 0 f = x := by
  rw [BitVec.extractLsb'_append_extractLsb'_eq_extractLsb' (by omega)]
  exact join5 (a + b) c d e f x

theorem join7 (x : BitVec (a + b + c + d + e + f + g)) : x.extractLsb' (b + c + d + e + f + g) a ++
    x.extractLsb' (c + d + e + f + g) b ++ x.extractLsb' (d + e + f + g) c ++ x.extractLsb' (e + f + g) d ++
    x.extractLsb' (f + g) e ++ x.extractLsb' g f ++ x.extractLsb' 0 g = x := by
  rw [BitVec.extractLsb'_append_extractLsb'_eq_extractLsb' (by omega)]
  exact join6 (a + b) c d e f g x

end

/-! ### Codes -/

theorem scopeBits_scopeOf : ∀ x : BitVec 3, (x != 7) = true → scopeBits (scopeOf x) = x := by decide
theorem hintBits_hintOf : ∀ x : BitVec 2, (x != 3) = true → hintBits (hintOf x) = x := by decide
theorem widthBits_widthOf : ∀ x : BitVec 3, (x != 7) = true → widthBits (widthOf x) = x := by decide
theorem condBits_condOf : ∀ x : BitVec 3, (x != 7) = true → condBits (condOf x) = x := by decide
theorem condOf_ordered : ∀ x : BitVec 3, decide (x < 6) = true → (x != 7) = true ∧ (condOf x != .un) = true := by decide
theorem rmBits_rmOf : ∀ x : BitVec 3, decide (x ≤ 4) = true → rmBits (rmOf x) = x := by decide
theorem rmOf_zero : ∀ x : BitVec 3, (x == 0) = true → (rmOf x == .rn) = true := by decide
theorem idBits_idOf : ∀ x : BitVec 4, decide (x < 10) = true → idBits (idOf x) = x := by decide
theorem elemBits_elemOf : ∀ x : BitVec 4, decide (1 ≤ x) = true → decide (x ≤ 8) = true → elemBits (elemOf x) = x := by decide
theorem elemOf_e5m2 : ∀ x : BitVec 4, (x == 4) = true → (elemOf x == .e5m2) = true := by decide
theorem ftBits_ftOf : ∀ x : BitVec 2, (x != 3) = true → ftBits (ftOf x) = x := by decide
theorem itBits_itOf : ∀ x : BitVec 3, (x != 3) = true → (x != 7) = true → itBits (itOf x) = x := by decide
theorem shflBits_shflOf : ∀ x : BitVec 2, shflBits (shflOf x) = x := by decide
theorem ropBits_ropOf : ∀ x : BitVec 2, (x != 3) = true → ropBits (ropOf x) = x := by decide
theorem numBits_ofNat8 : ∀ x : BitVec 3, numBits 3 (Fin.ofNat 8 x.toNat).val = x := by decide
theorem numBits_ofNat64 : ∀ x : BitVec 6, BitVec.ofNat 6 (Fin.ofNat 64 x.toNat).val = x := by decide

/-! ### M layouts -/

section
variable {m : BitVec 9}

theorem zero_of_masked0 (h : m &&& ~~~0 = 0) : 0 = m :=
  (part_of_masked h 0 9 (by decide)).symm.trans BitVec.extractLsb'_eq_self

theorem m1u_of_masked3 (h : m &&& ~~~3 = 0) : m1u (m.getLsbD 1) (m.getLsbD 0) = m := by
  rw [m1u, bit_getLsbD, bit_getLsbD, ← part_of_masked h 2 7 (by decide)]
  exact join3 7 1 1 m

theorem m1u_of_masked2 (h : m &&& ~~~2 = 0) : m1u (m.getLsbD 1) false = m := by
  have h0 : bit false = m.extractLsb' 0 1 := (part_of_masked h 0 1 (by decide)).symm
  rw [m1u, bit_getLsbD, h0, ← part_of_masked h 2 7 (by decide)]
  exact join3 7 1 1 m

theorem m1u_of_masked1 (h : m &&& ~~~1 = 0) : m1u false (m.getLsbD 0) = m := by
  have h1 : bit false = m.extractLsb' 1 1 := (part_of_masked h 1 1 (by decide)).symm
  rw [m1u, bit_getLsbD, h1, ← part_of_masked h 2 7 (by decide)]
  exact join3 7 1 1 m

/-- M holds one 3-bit number. -/
theorem num_of_masked7 (h : m &&& ~~~7 = 0) : numBits 9 (Fin.ofNat 8 (m.extractLsb' 0 3).toNat).val = m := by
  have hm : (0 : BitVec 6) ++ m.extractLsb' 0 3 = m := by
    rw [← part_of_masked h 3 6 (by decide)]
    exact join2 6 3 m
  have hnum : ∀ x : BitVec 3, numBits 9 (Fin.ofNat 8 x.toNat).val = (0 : BitVec 6) ++ x := by decide
  rw [hnum, hm]

theorem scopeM_of_ok (h : m &&& ~~~0x1C0 = 0) (hok : (m.extractLsb' 6 3 != 7) = true) : scopeM (scopeOf (m.extractLsb' 6 3)) = m := by
  rw [scopeM, scopeBits_scopeOf _ hok, ← part_of_masked h 0 6 (by decide)]
  exact join2 3 6 m

theorem brcM_of_ok (h : m &&& ~~~0x00F = 0) (hok : decide (m.extractLsb' 0 3 < 6) = true) :
    (0 : BitVec 5) ++ bit (m.getLsbD 3) ++ condBits (condOf (m.extractLsb' 0 3)) = m := by
  rw [condBits_condOf _ (condOf_ordered _ hok).1, bit_getLsbD, ← part_of_masked h 4 5 (by decide)]
  exact join3 5 1 3 m

theorem shflM_of_masked (h : m &&& ~~~3 = 0) : (0 : BitVec 7) ++ shflBits (shflOf (m.extractLsb' 0 2)) = m := by
  rw [shflBits_shflOf, ← part_of_masked h 2 7 (by decide)]
  exact join2 7 2 m

theorem getidM_of_ok (h : m &&& ~~~0xF = 0) (hok : decide (m.extractLsb' 0 4 < 10) = true) :
    (0 : BitVec 5) ++ idBits (idOf (m.extractLsb' 0 4)) = m := by
  rw [idBits_idOf _ hok, ← part_of_masked h 4 5 (by decide)]
  exact join2 5 4 m

theorem byteM_of_masked (h : m &&& ~~~0xFF = 0) : (0 : BitVec 1) ++ m.extractLsb' 0 8 = m := by
  rw [← part_of_masked h 8 1 (by decide)]
  exact join2 1 8 m

theorem tabortM (m : BitVec 9) : BitVec.ofBool (m.getLsbD 8) ++ m.extractLsb' 0 8 = m := by
  have hb := bit_getLsbD m 8
  rw [bit] at hb
  rw [hb]
  exact join2 1 8 m

theorem isetM_of_ok (h : m &&& ~~~0xF = 0) (hok : decide (m.extractLsb' 1 3 < 6) = true) :
    (0 : BitVec 5) ++ condBits (condOf (m.extractLsb' 1 3)) ++ bit (m.getLsbD 0) = m := by
  rw [condBits_condOf _ (condOf_ordered _ hok).1, bit_getLsbD, ← part_of_masked h 4 5 (by decide)]
  exact join3 5 3 1 m

theorem leaM_of_masked (h : m &&& ~~~0xF = 0) :
    (0 : BitVec 5) ++ bit (m.getLsbD 3) ++ numBits 3 (Fin.ofNat 8 (m.extractLsb' 0 3).toNat).val = m := by
  rw [numBits_ofNat8, bit_getLsbD, ← part_of_masked h 4 5 (by decide)]
  exact join3 5 1 3 m

/-! ### M layouts of page 2 -/

theorem fmBits_fmOf (h : rmOk m = true) : fmBits (fmOf m) = m := by
  simp only [fmBits, fmOf, bit_getLsbD, rmBits_rmOf _ h]
  exact join7 1 1 1 1 1 1 3 m

/-- The M bits of the operand modifiers that a row of page 2 has, with A's sign and the rounding mode (R209). -/
def fmMask (nb nc aa ab sat : Bool) : BitVec 9 := bit true ++ bit nb ++ bit nc ++ bit aa ++ bit ab ++ bit sat ++ (7 : BitVec 3)

theorem fmMask_bits : ∀ nb nc aa ab sat : Bool, (fmMask nb nc aa ab sat).getLsbD 7 = nb ∧ (fmMask nb nc aa ab sat).getLsbD 6 = nc ∧
    (fmMask nb nc aa ab sat).getLsbD 5 = aa ∧ (fmMask nb nc aa ab sat).getLsbD 4 = ab ∧
    (fmMask nb nc aa ab sat).getLsbD 3 = sat := by decide

theorem fmOf_wf {nb nc aa ab sat : Bool} (h : m &&& ~~~fmMask nb nc aa ab sat = 0) : (fmOf m).wf nb nc aa ab sat = true := by
  obtain ⟨h7, h6, h5, h4, h3⟩ := fmMask_bits nb nc aa ab sat
  have b7 := getLsbD_of_masked h 7
  have b6 := getLsbD_of_masked h 6
  have b5 := getLsbD_of_masked h 5
  have b4 := getLsbD_of_masked h 4
  have b3 := getLsbD_of_masked h 3
  rw [h7] at b7
  rw [h6] at b6
  rw [h5] at b5
  rw [h4] at b4
  rw [h3] at b3
  simp only [FMod.wf, fmOf, b7, b6, b5, b4, b3, Bool.and_self]

/-- CMAG2 has A's conjugate alone (R209). -/
theorem cmag2_wf (h : m &&& ~~~0x027 = 0) : (!(fmOf m).na && (fmOf m).wf false false true false false) = true := by
  have b8 : (!m.getLsbD 8) = true := getLsbD_of_masked h 8
  have b7 : (!m.getLsbD 7) = true := getLsbD_of_masked h 7
  have b6 : (!m.getLsbD 6) = true := getLsbD_of_masked h 6
  have b4 : (!m.getLsbD 4) = true := getLsbD_of_masked h 4
  have b3 : (!m.getLsbD 3) = true := getLsbD_of_masked h 3
  simp only [FMod.wf, fmOf, b8, b7, b6, b4, b3, Bool.or_true, Bool.true_or, Bool.and_self]

theorem fsetM_of_ok (h : m &&& ~~~0x3F = 0) (hok : (rmOk m && m.extractLsb' 3 3 != 7) = true) :
    (0 : BitVec 3) ++ condBits (condOf (m.extractLsb' 3 3)) ++ rmBits (rmOf (m.extractLsb' 0 3)) = m := by
  obtain ⟨hrm, hcond⟩ := Bool.and_eq_true_iff.mp hok
  rw [condBits_condOf _ hcond, rmBits_rmOf _ hrm, ← part_of_masked h 6 3 (by decide)]
  exact join3 3 3 3 m

theorem fcvtM_of_ok (hok : (rmOk m && decide (1 ≤ m.extractLsb' 4 4) && decide (m.extractLsb' 4 4 ≤ 8) &&
      (!m.getLsbD 3 || m.extractLsb' 4 4 == 4) && (!m.getLsbD 8 || m.extractLsb' 0 3 == 0)) = true) :
    bit (m.getLsbD 8) ++ elemBits (elemOf (m.extractLsb' 4 4)) ++ bit (m.getLsbD 3) ++ rmBits (rmOf (m.extractLsb' 0 3)) = m ∧
      ((!m.getLsbD 3 || elemOf (m.extractLsb' 4 4) == .e5m2) && (!m.getLsbD 8 || rmOf (m.extractLsb' 0 3) == .rn)) = true := by
  simp only [Bool.and_eq_true, Bool.or_eq_true] at hok ⊢
  obtain ⟨⟨⟨⟨hrm, hlow⟩, hhigh⟩, hsat⟩, hdir⟩ := hok
  refine ⟨?_, hsat.imp_right (elemOf_e5m2 _), hdir.imp_right (rmOf_zero _)⟩
  rw [elemBits_elemOf _ hlow hhigh, rmBits_rmOf _ hrm, bit_getLsbD, bit_getLsbD]
  exact join4 1 4 1 3 m

theorem icvtM_of_ok (hok : (rmOk m && m.extractLsb' 6 2 != 3 && m.extractLsb' 3 3 != 3 && m.extractLsb' 3 3 != 7) = true) :
    bit (m.getLsbD 8) ++ ftBits (ftOf (m.extractLsb' 6 2)) ++ itBits (itOf (m.extractLsb' 3 3)) ++
      rmBits (rmOf (m.extractLsb' 0 3)) = m := by
  simp only [Bool.and_eq_true] at hok
  obtain ⟨⟨⟨hrm, hft⟩, hit3⟩, hit7⟩ := hok
  rw [ftBits_ftOf _ hft, itBits_itOf _ hit3 hit7, rmBits_rmOf _ hrm, bit_getLsbD]
  exact join4 1 2 3 3 m

/-! ### M layouts of accesses -/

/-- What the check of an access's M says: no reserved code, a store's width, and STRONG where a scope is given (R152). -/
theorem accOk_iff {st always : Bool} : accOk st always m = true ↔ (m.extractLsb' 6 3 != 7) = true ∧ (m.extractLsb' 4 2 != 3) = true ∧
    (m.extractLsb' 0 3 != 7) = true ∧ (!st || (m.extractLsb' 0 3 != 1 && m.extractLsb' 0 3 != 3)) = true ∧
    (always || m.getLsbD 3 || m.extractLsb' 6 3 == 0) = true := by
  simp only [accOk, Bool.and_eq_true]
  tauto

theorem accBits_accOf {st always : Bool} (h : accOk st always m = true) : accBits (accOf m) = m := by
  obtain ⟨hscope, hhint, hwidth, -, -⟩ := accOk_iff.mp h
  simp only [accBits, accOf, scopeBits_scopeOf _ hscope, hintBits_hintOf _ hhint, widthBits_widthOf _ hwidth, bit_getLsbD]
  exact join4 3 2 1 3 m

theorem widthOf_store : ∀ (st : Bool) (x : BitVec 3), (x != 7) = true → (!st || (x != 1 && x != 3)) = true →
    (!st || (widthOf x != .s8 && widthOf x != .s16)) = true := by decide

theorem scopeOf_zero : ∀ x : BitVec 3, (x == 0) = true → (scopeOf x == .w) = true := by decide

theorem accOf_wf_of_hint {lds st : Bool} (h : accOk st false m = true) (hh : (!lds || hintOf (m.extractLsb' 4 2) == .alloc) = true) :
    (accOf m).wf lds st = true := by
  obtain ⟨-, -, hwidth, hst, hstrong⟩ := accOk_iff.mp h
  have hscope : (m.getLsbD 3 || scopeOf (m.extractLsb' 6 3) == .w) = true := by
    rw [Bool.false_or, Bool.or_eq_true] at hstrong
    exact Bool.or_eq_true_iff.mpr (hstrong.imp_right (scopeOf_zero _))
  simp only [AccM.wf, accOf, hscope, hh, widthOf_store st _ hwidth hst, Bool.and_self]

theorem accOf_wf {st : Bool} (h : accOk st false m = true) : (accOf m).wf false st = true := accOf_wf_of_hint h rfl

/-- LDS and STS carry no hint (R152). -/
theorem accOf_wf_local {st : Bool} (hm : m &&& ~~~0x1CF = 0) (h : accOk st false m = true) : (accOf m).wf true st = true :=
  accOf_wf_of_hint h (by rw [part_of_masked hm 4 2 (by decide)]; rfl)

/-- LDA and STL have no STRONG bit (R220). -/
theorem accOf_wfAcq {st : Bool} (hm : m &&& ~~~0x1F7 = 0) (h : accOk st true m = true) : (accOf m).wfAcq st = true := by
  obtain ⟨-, -, hwidth, hst, -⟩ := accOk_iff.mp h
  have hstrong : (!m.getLsbD 3) = true := getLsbD_of_masked hm 3
  simp only [AccM.wfAcq, accOf, hstrong, widthOf_store st _ hwidth hst, Bool.and_self]

theorem windowM_of_ok (h : m &&& ~~~7 = 0) (hok : (m.extractLsb' 0 3 == 4) = true) : 4 = m := by
  have hm : (0 : BitVec 6) ++ m.extractLsb' 0 3 = m := by
    rw [← part_of_masked h 3 6 (by decide)]
    exact join2 6 3 m
  rw [beq_iff_eq.mp hok] at hm
  exact hm

/-- The M bits that an atomic has (R220). -/
def atomMask (u w64 : Bool) : BitVec 9 := (0x1F8 : BitVec 9) ||| (if u then 2 else 0) ||| (if w64 then 4 else 0)

theorem atomMask_bits : ∀ u w64 : Bool, (atomMask u w64).getLsbD 1 = u ∧ (atomMask u w64).getLsbD 2 = w64 ∧
    (atomMask u w64).getLsbD 0 = false := by decide

theorem atomM_of_ok (u w64 : Bool) (h : m &&& ~~~atomMask u w64 = 0) (hok : atomOk m = true) :
    atomBits (atomOf m) = m ∧ (atomOf m).wf u w64 = true := by
  obtain ⟨hscope, hhint⟩ := Bool.and_eq_true_iff.mp hok
  obtain ⟨h1, h2, h0⟩ := atomMask_bits u w64
  have b1 := getLsbD_of_masked h 1
  have b2 := getLsbD_of_masked h 2
  rw [h1] at b1
  rw [h2] at b2
  have hlow : m.extractLsb' 0 1 = 0 := part_of_masked h 0 1 (fun i hi => by
    obtain rfl : i = 0 := by omega
    exact h0)
  refine ⟨?_, by simp only [AtomM.wf, atomOf, b1, b2, Bool.and_self]⟩
  simp only [atomBits, atomOf, scopeBits_scopeOf _ hscope, hintBits_hintOf _ hhint, bit_getLsbD, ← hlow]
  exact join6 3 2 1 1 1 1 m

theorem prefM_of_ok (h : m &&& ~~~0x030 = 0) (hok : (m.extractLsb' 4 2 != 3) = true) :
    (0 : BitVec 3) ++ hintBits (hintOf (m.extractLsb' 4 2)) ++ (0 : BitVec 4) = m := by
  rw [hintBits_hintOf _ hok, ← part_of_masked h 6 3 (by decide), ← part_of_masked h 0 4 (by decide)]
  exact join3 3 2 4 m

/-- A copy with SCV gives its scope (R234). -/
theorem cpyBits_scoped (scope : Scope) (hint : Hint) (free : Bool) :
    cpyBits ⟨some scope, hint⟩ free = bit true ++ scopeBits scope ++ hintBits hint ++ (0 : BitVec 2) ++ bit free := rfl

theorem cpyBits_unscoped (hint : Hint) (free : Bool) :
    cpyBits ⟨none, hint⟩ free = (0 : BitVec 4) ++ hintBits hint ++ (0 : BitVec 2) ++ bit free := rfl

theorem cpyBits_cpyOf_free (h : m &&& ~~~0x1F9 = 0) (hok : cpyOk m = true) : cpyBits (cpyOf m) (m.getLsbD 0) = m := by
  simp only [cpyOk, Bool.and_eq_true] at hok
  obtain ⟨⟨hscope, hhint⟩, hscv⟩ := hok
  have hmid : m.extractLsb' 1 2 = 0 := part_of_masked h 1 2 (by decide)
  cases hb : m.getLsbD 8 with
  | true =>
    have hcpy : cpyOf m = ⟨some (scopeOf (m.extractLsb' 5 3)), hintOf (m.extractLsb' 3 2)⟩ := by simp only [cpyOf, hb, if_true]
    rw [hcpy, cpyBits_scoped, scopeBits_scopeOf _ hscope, hintBits_hintOf _ hhint, ← hb, bit_getLsbD, bit_getLsbD, ← hmid]
    exact join5 1 3 2 2 1 m
  | false =>
    have hcpy : cpyOf m = ⟨none, hintOf (m.extractLsb' 3 2)⟩ := by simp only [cpyOf, hb, Bool.false_eq_true, if_false]
    have hzero : m.extractLsb' 5 4 = 0 := by
      have hparts : m.extractLsb' 8 1 ++ m.extractLsb' 5 3 = m.extractLsb' 5 4 :=
        BitVec.extractLsb'_append_extractLsb'_eq_extractLsb' rfl
      rw [hb, Bool.false_or, beq_iff_eq] at hscv
      rw [← hparts, ← bit_getLsbD, hb, hscv]
      rfl
    rw [hcpy, cpyBits_unscoped, hintBits_hintOf _ hhint, bit_getLsbD, ← hmid, ← hzero]
    exact join4 4 2 2 1 m

theorem cpyBits_cpyOf (h : m &&& ~~~0x1F8 = 0) (hok : cpyOk m = true) : cpyBits (cpyOf m) false = m := by
  have h0 : m.getLsbD 0 = false := by simpa using getLsbD_of_masked h 0
  have hfree : m &&& ~~~0x1F9 = 0 := by
    have hsub : (~~~0x1F9 : BitVec 9) = ~~~0x1F8 &&& ~~~0x1F9 := by decide
    rw [hsub, ← BitVec.and_assoc, h]
    exact BitVec.zero_and
  rw [← h0]
  exact cpyBits_cpyOf_free hfree hok

/-! ### M layouts that choose the instruction -/

theorem bevpoolM_tile (h : m &&& ~~~7 = 0) (ht : m.getLsbD 2 = true) :
    (0 : BitVec 6) ++ bit true ++ bit (m.getLsbD 1) ++ bit (m.getLsbD 0) = m := by
  rw [← ht, bit_getLsbD, bit_getLsbD, bit_getLsbD, ← part_of_masked h 3 6 (by decide)]
  exact join4 6 1 1 1 m

theorem bevpoolM_mem (h : m &&& ~~~7 = 0) (ht : m.getLsbD 2 = false) : m1u (m.getLsbD 1) (m.getLsbD 0) = m := by
  have h2 : m.extractLsb' 2 7 = 0 := by
    have hparts : m.extractLsb' 3 6 ++ m.extractLsb' 2 1 = m.extractLsb' 2 7 :=
      BitVec.extractLsb'_append_extractLsb'_eq_extractLsb' rfl
    rw [← hparts, part_of_masked h 3 6 (by decide), ← bit_getLsbD, ht]
    rfl
  rw [m1u, bit_getLsbD, bit_getLsbD, ← h2]
  exact join3 7 1 1 m

theorem traceM_of_masked (h : m &&& ~~~9 = 0) :
    (0 : BitVec 5) ++ bit (m.getLsbD 3) ++ (if m.getLsbD 0 then (1 : BitVec 3) else 0) = m := by
  have hlow : (if m.getLsbD 0 then (1 : BitVec 3) else 0) = m.extractLsb' 0 3 := by
    have hparts : m.extractLsb' 1 2 ++ m.extractLsb' 0 1 = m.extractLsb' 0 3 :=
      BitVec.extractLsb'_append_extractLsb'_eq_extractLsb' rfl
    rw [← hparts, part_of_masked h 1 2 (by decide), ← bit_getLsbD]
    cases m.getLsbD 0 <;> rfl
  rw [hlow, bit_getLsbD, ← part_of_masked h 4 5 (by decide)]
  exact join3 5 1 3 m

/-- M holds one 2-bit number. -/
theorem low2_of_masked3 (h : m &&& ~~~3 = 0) : (0 : BitVec 7) ++ m.extractLsb' 0 2 = m := by
  rw [← part_of_masked h 2 7 (by decide)]
  exact join2 7 2 m

end

/-! ### Extensions -/

theorem trapCode_of_ok (x : Word) (h : (x.extractLsb' 8 24 == 0) = true) : (x.extractLsb' 0 8).setWidth 32 = x := by
  have hx : (0 : BitVec 24) ++ x.extractLsb' 0 8 = x := by
    rw [← beq_iff_eq.mp h]
    exact join2 24 8 x
  have hw : ∀ y : BitVec 8, y.setWidth 32 = (0 : BitVec 24) ++ y := by
    intro y
    apply BitVec.eq_of_toNat_eq
    rw [BitVec.toNat_append]
    simp
    omega
  rw [hw, hx]

section
variable {m : BitVec 9} {x : BitVec 64}

theorem vsMBits_vsM (h : rmOk m = true) : vsMBits (vsM m x) = m := by
  simp only [vsMBits, vsM, numBits_ofNat64, rmBits_rmOf _ h]
  exact join2 6 3 m

theorem vsBits_vsM (m : BitVec 9) (x : BitVec 64) : vsBits (vsM m x) (x.extractLsb' 48 16) = x := join5 16 12 12 12 12 x

/-- What the check of a stream-vector word's M and extension says (R156, R252). -/
theorem vsOk_iff {mask : BitVec 16} {tileB : Bool} : vsOk m x mask tileB = true ↔
    rmOk m = true ∧ x.extractLsb' 48 16 &&& ~~~mask = 0 ∧ (vsM m x).wf tileB = true := by
  have hs : ∀ y : BitVec 6, (y == 0) = (Fin.ofNat 64 y.toNat == 0) := by decide
  simp only [vsOk, VsM.wf, vsM, hs, Bool.and_eq_true, beq_iff_eq]
  tauto

theorem vsSeg_of_masked (h : x.extractLsb' 48 16 &&& ~~~3 = 0) : vsSeg (x.getLsbD 49) (x.getLsbD 48) = x.extractLsb' 48 16 := by
  rw [vsSeg, bit_getLsbD, bit_getLsbD, ← part_of_maskedField h 2 14 (by decide) (by decide)]
  repeat rw [BitVec.extractLsb'_append_extractLsb'_eq_extractLsb' (by rfl)]

theorem vredSeg_of_ok (h : x.extractLsb' 48 16 &&& ~~~0xC = 0) (h3 : (x.extractLsb' 50 2 != 3) = true) :
    (0 : BitVec 12) ++ ropBits (ropOf (x.extractLsb' 50 2)) ++ (0 : BitVec 2) = x.extractLsb' 48 16 := by
  rw [ropBits_ropOf _ h3, ← part_of_maskedField h 4 12 (by decide) (by decide), ← part_of_maskedField h 0 2 (by decide) (by decide)]
  repeat rw [BitVec.extractLsb'_append_extractLsb'_eq_extractLsb' (by rfl)]

theorem satSeg_of_masked (h : x.extractLsb' 48 16 &&& ~~~0x10 = 0) :
    (0 : BitVec 11) ++ bit (x.getLsbD 52) ++ (0 : BitVec 4) = x.extractLsb' 48 16 := by
  rw [bit_getLsbD, ← part_of_maskedField h 5 11 (by decide) (by decide), ← part_of_maskedField h 0 4 (by decide) (by decide)]
  repeat rw [BitVec.extractLsb'_append_extractLsb'_eq_extractLsb' (by rfl)]

theorem zeroSeg_of_masked (h : x.extractLsb' 48 16 &&& ~~~0 = 0) : 0 = x.extractLsb' 48 16 :=
  (part_of_maskedField h 0 16 (by decide) (by decide)).symm

theorem mpOk_iff {mo ko : Bool} : mpOk mo ko x = true ↔ x.extractLsb' 58 6 = 0 ∧ (mpOf x).wf mo ko = true := by
  have hpbo : (x.extractLsb' 0 32).extractLsb' 0 6 = x.extractLsb' 0 6 := by
    ext i hi
    simp
  simp only [mpOk, MpExt.wf, mpOf, hpbo, Bool.and_eq_true, beq_iff_eq]
  tauto

theorem mpBits_mpOf (h : x.extractLsb' 58 6 = 0) : mpBits (mpOf x) = x := by
  simp only [mpBits, mpOf, ← h, bit_getLsbD]
  exact join6 6 1 1 12 12 32 x

end

end Sys2Proof
end

section
/-! SUPPORT. The decoder's checks, field by field, and what the row that they pass encodes to (R161). -/

namespace Sys2Proof

/-! ### The bits above an instruction's length -/

theorem bitsOf_rawOf (x : BitVec 128) : bitsOf (rawOf x) = x := by
  simp only [bitsOf, rawOf]
  repeat rw [BitVec.extractLsb'_append_extractLsb'_eq_extractLsb' (by rfl)]
  simp

theorem immExt_eq (x : Word) : immExt x = x.setWidth 64 := by
  apply BitVec.eq_of_toNat_eq
  rw [immExt, BitVec.toNat_append]
  simp
  omega

/-- The extension of a word that holds nothing above its length (R142). -/
structure Trimmed (r : Raw) : Prop where
  b64 : r.len = 0 → r.ext = 0
  i96 : r.len = 1 → r.ext = immExt (r.ext.extractLsb' 0 32)

theorem lenBits_setWidth (x : BitVec 128) {k : Nat} (hk : 2 ≤ k) :
    ((x.extractLsb' 0 k).setWidth 128).extractLsb' 0 2 = x.extractLsb' 0 2 := by
  ext i hi
  simp [show i < 128 by omega, show i < k by omega]

theorem trimBits_len (x : BitVec 128) : (trimBits x).extractLsb' 0 2 = x.extractLsb' 0 2 := by
  unfold trimBits
  split
  · exact lenBits_setWidth x (by decide)
  · exact lenBits_setWidth x (by decide)
  · rfl
  · exact lenBits_setWidth x (by decide)

theorem trimmed_rawOf (x : BitVec 128) : Trimmed (rawOf (trimBits x)) := by
  refine ⟨fun h => ?_, fun h => ?_⟩
  · have ht : trimBits x = (x.extractLsb' 0 64).setWidth 128 := by
      rw [trimBits, ← trimBits_len, show (trimBits x).extractLsb' 0 2 = 0 from h]
      rfl
    rw [rawOf, ht]
    ext i hi
    simp
  · have ht : trimBits x = (x.extractLsb' 0 96).setWidth 128 := by
      rw [trimBits, ← trimBits_len, show (trimBits x).extractLsb' 0 2 = 1 from h]
      rfl
    rw [rawOf, ht]
    ext i hi
    simp only [immExt_eq, BitVec.getElem_setWidth, BitVec.getElem_extractLsb', BitVec.getLsbD_extractLsb', BitVec.getLsbD_setWidth]
    by_cases h32 : i < 32
    · simp [h32, hi]
    · simp [h32, show ¬64 + i < 96 by omega]

/-! ### The checks -/

/-- The word has passed steps 4 to 8 of R161 against the row, and holds nothing above its length. -/
structure Passed (r : Raw) (e : Entry) : Prop where
  trimmed : Trimmed r
  form : e.forms.contains r.len.toNat = true
  guard : r.g ≠ 15
  latch : ¬4 < r.w.extractLsb' 0 3
  a : kindOk e.a r.a = true ∧ zeroOk e.a r.a = true
  b : kindOk e.b r.b = true ∧ zeroOk e.b r.b = true
  c : kindOk e.c r.c = true ∧ zeroOk e.c r.c = true
  d : dIgnored r = false → kindOk e.d (r.d.setWidth 9) = true ∧ zeroOk e.d (r.d.setWidth 9) = true
  m : r.m &&& ~~~e.mask = 0
  ok : e.ok = true

theorem checkEntry_ok {r : Raw} {e : Entry} {i : Instr} (T : Trimmed r) (h : checkEntry r e = .ok i) : Passed r e ∧ e.instr = i := by
  unfold checkEntry at h
  dsimp only at h
  split at h
  · cases h
  next hform =>
  split at h
  · cases h
  next hguard =>
  split at h
  · cases h
  next hlatch =>
  split at h
  · cases h
  next hkinds =>
  split at h
  · cases h
  next hzeros =>
  simp only [Bool.not_eq_true, Bool.not_eq_false', Bool.and_eq_true, Bool.or_eq_true, beq_iff_eq] at hform hguard hkinds hzeros
  obtain ⟨⟨⟨ka, kb⟩, kc⟩, kd⟩ := hkinds
  obtain ⟨⟨⟨⟨⟨za, zb⟩, zc⟩, zd⟩, hm⟩, hok⟩ := hzeros
  refine ⟨⟨T, hform, hguard, hlatch, ⟨ka, za⟩, ⟨kb, zb⟩, ⟨kc, zc⟩, fun hd => ?_, hm, hok⟩, Except.ok.inj h⟩
  rw [hd] at kd zd
  exact ⟨kd.resolve_left Bool.false_ne_true, zd.resolve_left Bool.false_ne_true⟩

/-- The instruction is well formed, and its fields are the word's, but for a D field that is ignored. -/
def Faithful (r : Raw) (i : Instr) : Prop := i.wf = true ∧ (dIgnored r = false → encodeRaw i = r)

section
variable {r : Raw} {e : Entry} {op : BitVec 10} {m : BitVec 9} {f : List Nat}

theorem Passed.wf (P : Passed r e) (hh : e.instr.hdr? = some (hdrOf r)) (hf : e.instr.fieldsWf = true) : e.instr.wf = true := by
  unfold Instr.wf
  rw [hh]
  simp only [hf, Bool.and_true]
  exact hdrOf_wf P.guard

/-- A row's word is read back when its encoding puts each field where its kind says. -/
theorem Passed.faithful (P : Passed r e) {len : BitVec 2} {ext : BitVec 64}
    (henc : encodeRaw e.instr = word (hdrOf r) op len m (e.a.enc r.a) (e.b.enc r.b) (e.c.enc r.c) (e.d.encD r.d) ext)
    (hop : r.op.toNat = op.toNat) (hlen : r.len = len) (hm : m = r.m) (hext : r.ext = ext)
    (hh : e.instr.hdr? = some (hdrOf r)) (hf : e.instr.fieldsWf = true) : Faithful r e.instr := by
  refine ⟨P.wf hh hf, fun hd => ?_⟩
  rw [henc, word, Kind.enc_of_ok _ _ P.a.1 P.a.2, Kind.enc_of_ok _ _ P.b.1 P.b.2, Kind.enc_of_ok _ _ P.c.1 P.c.2,
    Kind.encD_of_ok _ _ (P.d hd).1 (P.d hd).2, wBits_hdrOf P.latch, gBits_hdrOf, ← BitVec.eq_of_toNat_eq hop, ← hlen, hm, ← hext]

theorem Passed.len_b64 (P : Passed r e) (hf : e.forms = [0]) : r.len = 0 := by
  have h := P.form
  rw [hf] at h
  exact BitVec.eq_of_toNat_eq (by simpa using h)

theorem Passed.len_i96 (P : Passed r e) (hf : e.forms = [1]) : r.len = 1 := by
  have h := P.form
  rw [hf] at h
  exact BitVec.eq_of_toNat_eq (by simpa using h)

theorem Passed.len_x64 (P : Passed r e) (hf : e.forms = [2]) : r.len = 2 := by
  have h := P.form
  rw [hf] at h
  exact BitVec.eq_of_toNat_eq (by simpa using h)

theorem Passed.len_b64_i96 (P : Passed r e) (hf : e.forms = [0, 1]) : r.len = 0 ∨ r.len = 1 := by
  have h := P.form
  rw [hf] at h
  simp only [List.contains_cons, List.contains_nil, Bool.or_false, Bool.or_eq_true, beq_iff_eq] at h
  exact h.imp BitVec.eq_of_toNat_eq BitVec.eq_of_toNat_eq

/-- A form of one word (R148). -/
theorem Passed.b64 (P : Passed r e)
    (henc : encodeRaw e.instr = word (hdrOf r) op 0 m (e.a.enc r.a) (e.b.enc r.b) (e.c.enc r.c) (e.d.encD r.d))
    (hop : r.op.toNat = op.toNat) (hm : m = r.m) (hf : e.instr.fieldsWf = true := by rfl)
    (hforms : e.forms = [0] := by rfl) (hh : e.instr.hdr? = some (hdrOf r) := by rfl) : Faithful r e.instr :=
  P.faithful henc hop (P.len_b64 hforms) hm (P.trimmed.b64 (P.len_b64 hforms)) hh hf

/-- A form with IMM32 (R154). -/
theorem Passed.i96 (P : Passed r e)
    (henc : encodeRaw e.instr = word (hdrOf r) op 1 m (e.a.enc r.a) (e.b.enc r.b) (e.c.enc r.c) (e.d.encD r.d)
      (immExt (r.ext.extractLsb' 0 32)))
    (hop : r.op.toNat = op.toNat) (hm : m = r.m) (hf : e.instr.fieldsWf = true := by rfl)
    (hforms : e.forms = [1] := by rfl) (hh : e.instr.hdr? = some (hdrOf r) := by rfl) : Faithful r e.instr :=
  P.faithful henc hop (P.len_i96 hforms) hm (P.trimmed.i96 (P.len_i96 hforms)) hh hf

/-- The last source of a form with an I96 variant, as the decoder reads it (R154). -/
def lastSrc (r : Raw) (x : BitVec 9) : SrcI := if r.len == 1 then .imm (r.ext.extractLsb' 0 32) else .reg (srcOf x)

/-- The kind of the field that this source leaves to the immediate. -/
def lastKind (r : Raw) : Kind := if r.len == 1 then .zero else .reg

/-- A form whose last source is B or IMM32. -/
theorem Passed.lastB (P : Passed r e)
    (henc : encodeRaw e.instr = wordI (hdrOf r) op m (e.a.enc r.a) (e.c.enc r.c) (e.d.encD r.d) (lastSrc r r.b))
    (hop : r.op.toNat = op.toNat) (hm : m = r.m) (hf : e.instr.fieldsWf = true := by rfl) (hb : e.b = lastKind r := by rfl)
    (hforms : e.forms = [0, 1] := by rfl) (hh : e.instr.hdr? = some (hdrOf r) := by rfl) : Faithful r e.instr := by
  rcases P.len_b64_i96 hforms with hl | hl
  all_goals rw [lastSrc, hl] at henc; rw [lastKind, hl] at hb
  · exact P.faithful (by rw [henc, hb]; rfl) hop hl hm (P.trimmed.b64 hl) hh hf
  · exact P.faithful (by rw [henc, hb]; rfl) hop hl hm (P.trimmed.i96 hl) hh hf

/-- A form whose last source is C or IMM32. -/
theorem Passed.lastC (P : Passed r e)
    (henc : encodeRaw e.instr = wordC (hdrOf r) op m (e.a.enc r.a) (e.b.enc r.b) (e.d.encD r.d) (lastSrc r r.c))
    (hop : r.op.toNat = op.toNat) (hm : m = r.m) (hf : e.instr.fieldsWf = true := by rfl) (hc : e.c = lastKind r := by rfl)
    (hforms : e.forms = [0, 1] := by rfl) (hh : e.instr.hdr? = some (hdrOf r) := by rfl) : Faithful r e.instr := by
  rcases P.len_b64_i96 hforms with hl | hl
  all_goals rw [lastSrc, hl] at henc; rw [lastKind, hl] at hc
  · exact P.faithful (by rw [henc, hc]; rfl) hop hl hm (P.trimmed.b64 hl) hh hf
  · exact P.faithful (by rw [henc, hc]; rfl) hop hl hm (P.trimmed.i96 hl) hh hf

/-- The address operand of a form with an I96 variant, as the decoder reads it (R154). -/
def addrOf (r : Raw) : Addr := ⟨srcOf r.a, if r.len == 1 then some (r.ext.extractLsb' 0 32) else none⟩

/-- A form with an address operand. -/
theorem Passed.addr (P : Passed r e)
    (henc : encodeRaw e.instr = wordA (hdrOf r) op m (addrOf r) (e.b.enc r.b) (e.c.enc r.c) (e.d.encD r.d))
    (hop : r.op.toNat = op.toNat) (hm : m = r.m) (hf : e.instr.fieldsWf = true := by rfl) (ha : e.a = .reg := by rfl)
    (hforms : e.forms = [0, 1] := by rfl) (hh : e.instr.hdr? = some (hdrOf r) := by rfl) : Faithful r e.instr := by
  rcases P.len_b64_i96 hforms with hl | hl
  all_goals rw [addrOf, hl] at henc
  · exact P.faithful (by rw [henc, ha]; rfl) hop hl hm (P.trimmed.b64 hl) hh hf
  · exact P.faithful (by rw [henc, ha]; rfl) hop hl hm (P.trimmed.i96 hl) hh hf

theorem Passed.len_b64_x64 (P : Passed r e) (hf : e.forms = [0, 2] := by rfl) : r.len = 0 ∨ r.len = 2 := by
  have h := P.form
  rw [hf] at h
  simp only [List.contains_cons, List.contains_nil, Bool.or_false, Bool.or_eq_true, beq_iff_eq] at h
  exact h.imp BitVec.eq_of_toNat_eq BitVec.eq_of_toNat_eq

theorem Passed.len_i96_x64 (P : Passed r e) (hf : e.forms = [1, 2] := by rfl) : r.len = 1 ∨ r.len = 2 := by
  have h := P.form
  rw [hf] at h
  simp only [List.contains_cons, List.contains_nil, Bool.or_false, Bool.or_eq_true, beq_iff_eq] at h
  exact h.imp BitVec.eq_of_toNat_eq BitVec.eq_of_toNat_eq

theorem Passed.len_any (P : Passed r e) (hf : e.forms = [0, 1, 2] := by rfl) : r.len = 0 ∨ r.len = 1 ∨ r.len = 2 := by
  have h := P.form
  rw [hf] at h
  simp only [List.contains_cons, List.contains_nil, Bool.or_false, Bool.or_eq_true, beq_iff_eq] at h
  exact h.imp BitVec.eq_of_toNat_eq (Or.imp BitVec.eq_of_toNat_eq BitVec.eq_of_toNat_eq)

/-- A D field that only some registers may stand in, where it is not ignored (R46). -/
theorem Passed.dFree_or (P : Passed r e) {b : Bool} (h : dIgnored r = false → b = true) : ((hdrOf r).dFree || b) = true := by
  rw [dFree_hdrOf P.latch]
  cases hd : dIgnored r with
  | true => rfl
  | false => exact h hd

/-- A stream-vector form with the bits of its SEG field (R156). -/
theorem Passed.vector (P : Passed r e) {seg : BitVec 16} {mask : BitVec 16} {tileB : Bool}
    (henc : encodeRaw e.instr = word (hdrOf r) op 2 (vsMBits (vsM r.m r.ext)) (e.a.enc r.a) (e.b.enc r.b) (e.c.enc r.c)
      (e.d.encD r.d) (vsBits (vsM r.m r.ext) seg))
    (hop : r.op.toNat = op.toNat) (hok : vsOk r.m r.ext mask tileB = true)
    (hseg : r.ext.extractLsb' 48 16 &&& ~~~mask = 0 → seg = r.ext.extractLsb' 48 16) (hf : e.instr.fieldsWf = true)
    (hforms : e.forms = [2] := by rfl) (hh : e.instr.hdr? = some (hdrOf r) := by rfl) : Faithful r e.instr := by
  obtain ⟨hrm, hmask, -⟩ := vsOk_iff.mp hok
  have hext : r.ext = vsBits (vsM r.m r.ext) seg := by rw [hseg hmask, vsBits_vsM]
  exact P.faithful henc hop (P.len_x64 hforms) (vsMBits_vsM hrm) hext hh hf

/-- The B operand of VADD to VMIN, as the decoder reads it (R252). -/
def vecB (r : Raw) : VsB := if r.ext.getLsbD 48 then .scalar (srcOf r.b) else .tile (fNum 32 r.b)

/-- VADD to VMIN: B is a tile or, with SEG.BS, a scalar. -/
theorem Passed.vectorB (P : Passed r e)
    (henc : encodeRaw e.instr = wordV (hdrOf r) op (vsM r.m r.ext) (r.ext.getLsbD 49) (dNum 32 r.d) (fNum 32 r.a) (vecB r))
    (hop : r.op.toNat = op.toNat) (hf : e.instr.fieldsWf = (vsM r.m r.ext).wf (vecB r).isTile := by rfl)
    (hok : e.ok = vsOk r.m r.ext 3 (!r.ext.getLsbD 48) := by rfl) (ha : e.a = .tile := by rfl)
    (hb : e.b = if r.ext.getLsbD 48 then .reg else .tile := by rfl) (hc : e.c = .zero := by rfl) (hd : e.d = .tile := by rfl)
    (hforms : e.forms = [2] := by rfl) (hh : e.instr.hdr? = some (hdrOf r) := by rfl) : Faithful r e.instr := by
  have ok : vsOk r.m r.ext 3 (!r.ext.getLsbD 48) = true := hok.symm.trans P.ok
  have wf := (vsOk_iff.mp ok).2.2
  have seg := vsSeg_of_masked (x := r.ext)
  cases hs : r.ext.getLsbD 48
  all_goals
    rw [vecB, hs] at henc hf
    rw [hs] at hb wf seg
    exact P.vector (by rw [henc, ha, hb, hc, hd]; rfl) hop ok seg (hf.trans wf) hforms hh

end

end Sys2Proof
end

section
/-! SUPPORT. Every row of the opcode map, and with it O57: the rows are taken in the order of R158's map, grouped by what they
hold beside their operands. -/

namespace Sys2Proof

theorem code2_cases : ∀ x : BitVec 2, x = 0 ∨ x = 1 ∨ x = 2 ∨ x = 3 := by decide

/-- A word that passes a row's checks is read back from the row's instruction. -/
theorem entry_faithful {r : Raw} {e : Entry} (he : entry r = some e) (P : Passed r e) : Faithful r e.instr := by
  unfold entry at he
  generalize hn : r.op.toNat = n at he
  dsimp only at he
  split at he
  all_goals cases he
  -- one word or one with IMM32, and nothing in M
  case h_1 | h_4 | h_6 | h_7 | h_8 | h_9 | h_11 | h_17 | h_21 | h_46 | h_47 | h_50 | h_60 | h_93 | h_96 | h_99 | h_100 | h_103 | h_125 |
      h_127 | h_128 | h_130 | h_132 | h_133 | h_134 | h_135 | h_136 | h_141 | h_143 | h_144 | h_145 | h_146 | h_148 =>
    exact P.b64 rfl hn (zero_of_masked0 P.m)
  case h_2 | h_5 | h_18 | h_139 | h_140 => exact P.i96 rfl hn (zero_of_masked0 P.m)
  -- MOV of tile shapes and channels: an operand of one kind of register
  case h_104 => exact P.b64 rfl hn (zero_of_masked0 P.m) (sKind_of_spair _ P.a.1)
  case h_105 => exact P.b64 rfl hn (zero_of_masked0 P.m) (P.dFree_or fun hd => isS_of_spair _ (P.d hd).1)
  case h_106 => exact P.b64 rfl hn (zero_of_masked0 P.m) (vKind_of_vpair _ P.a.1)
  case h_107 => exact P.b64 rfl hn (zero_of_masked0 P.m) (P.dFree_or fun hd => isV_of_vpair _ (P.d hd).1)
  -- flags, a number, a scope or a code in M
  case h_30 | h_101 => exact P.b64 rfl hn (m1u_of_masked3 P.m)
  case h_35 => exact P.b64 rfl hn (m1u_of_masked2 P.m)
  case h_122 | h_126 | h_129 => exact P.b64 rfl hn (m1u_of_masked1 P.m)
  case h_14 | h_16 => exact P.b64 rfl hn (num_of_masked7 P.m)
  case h_15 | h_92 | h_142 => exact P.b64 rfl hn (scopeM_of_ok P.m P.ok)
  case h_22 => exact P.b64 rfl hn (getidM_of_ok P.m P.ok)
  case h_23 => exact P.b64 rfl hn (byteM_of_masked P.m)
  case h_3 => exact P.i96 rfl hn (brcM_of_ok P.m P.ok) (condOf_ordered _ P.ok).2
  -- M says which instruction it is: TCOMMIT, RPUSH, TABORT and TRACE by one bit, BEVPOOL by TOT
  case h_19 | h_102 =>
    have hm := m1u_of_masked1 P.m
    generalize r.m.getLsbD 0 = u at P hm
    cases u with
    | false => exact P.b64 rfl hn hm
    | true => exact P.b64 rfl hn hm
  case h_20 =>
    have hm := tabortM r.m
    generalize r.m.getLsbD 8 = lane at P hm
    cases lane with
    | false => exact P.b64 rfl hn hm
    | true => exact P.b64 rfl hn hm
  case h_124 =>
    have hm := traceM_of_masked P.m
    generalize r.m.getLsbD 0 = new at P hm
    cases new with
    | false => exact P.b64 rfl hn hm
    | true => exact P.b64 rfl hn hm
  case h_123 =>
    have hm := P.m
    cases ht : r.m.getLsbD 2 with
    | false => rw [ht] at P; exact P.b64 rfl hn (bevpoolM_mem hm ht)
    | true => rw [ht] at P; exact P.b64 rfl hn (bevpoolM_tile hm ht)
  -- and SPAWN, VOTE and BIN by two
  case h_10 =>
    have hm := low2_of_masked3 P.m
    generalize r.m.extractLsb' 0 2 = x at P hm
    rcases code2_cases x with rfl | rfl | rfl | rfl
    · exact P.i96 rfl hn hm
    · exact P.i96 rfl hn hm
    · exact P.i96 rfl hn hm
    · cases P.ok
  case h_12 =>
    have hm := low2_of_masked3 P.m
    generalize r.m.extractLsb' 0 2 = x at P hm
    rcases code2_cases x with rfl | rfl | rfl | rfl
    all_goals exact P.b64 rfl hn hm
  case h_131 =>
    have hm := low2_of_masked3 P.m
    generalize r.m.extractLsb' 0 2 = x at P hm
    rcases code2_cases x with rfl | rfl | rfl | rfl
    · exact P.b64 rfl hn hm
    · exact P.b64 rfl hn hm
    · exact P.b64 rfl hn hm
    · cases P.ok
  -- pages 0 and 1: the last source is a register or IMM32
  case h_26 | h_36 | h_37 | h_38 | h_39 | h_40 | h_41 | h_42 | h_43 | h_49 => exact P.lastB rfl hn (zero_of_masked0 P.m)
  case h_27 | h_33 | h_34 | h_44 => exact P.lastB rfl hn (m1u_of_masked1 P.m)
  case h_31 | h_32 => exact P.lastB rfl hn (m1u_of_masked3 P.m)
  case h_24 | h_25 => exact P.lastB rfl hn (m1u_of_masked3 P.m) P.ok
  case h_13 => exact P.lastB rfl hn (shflM_of_masked P.m)
  case h_48 => exact P.lastB rfl hn (isetM_of_ok P.m P.ok) (condOf_ordered _ P.ok).2
  case h_28 | h_45 => exact P.lastC rfl hn (zero_of_masked0 P.m)
  -- IADD64, MOVI, LEA, TDECL: the immediate's length is the form's
  case h_29 =>
    have hm := m1u_of_masked2 P.m
    rcases P.len_b64_x64 with hl | hl
    all_goals rw [hl] at P ⊢
    · exact P.faithful rfl hn hl hm (P.trimmed.b64 hl) rfl rfl
    · exact P.faithful rfl hn hl hm rfl rfl rfl
  case h_51 =>
    have hm := zero_of_masked0 P.m
    rcases P.len_i96_x64 with hl | hl
    all_goals rw [hl] at P ⊢
    · exact P.faithful rfl hn hl hm (P.trimmed.i96 hl) rfl rfl
    · exact P.faithful rfl hn hl hm rfl rfl rfl
  case h_52 =>
    have hm := leaM_of_masked P.m
    rcases P.len_any with hl | hl | hl
    all_goals rw [hl] at P ⊢
    · exact P.faithful rfl hn hl hm (P.trimmed.b64 hl) rfl rfl
    · exact P.faithful rfl hn hl hm (P.trimmed.i96 hl) rfl rfl
    · exact P.faithful rfl hn hl hm rfl rfl rfl
  case h_95 =>
    have hm := zero_of_masked0 P.m
    rcases P.len_b64_x64 with hl | hl
    all_goals rw [hl] at P ⊢
    · exact P.faithful rfl hn hl hm (P.trimmed.b64 hl) rfl (sKind_of_spair _ P.a.1)
    · exact P.faithful rfl hn hl hm rfl rfl rfl
  -- STAMP and LEAVE, TRAP: a register or nothing, or IMM32
  case h_137 | h_147 =>
    have hm := zero_of_masked0 P.m
    rcases P.len_b64_i96 rfl with hl | hl
    all_goals rw [hl] at P ⊢
    · exact P.faithful rfl hn hl hm (P.trimmed.b64 hl) rfl rfl
    · exact P.faithful rfl hn hl hm (P.trimmed.i96 hl) rfl P.ok
  case h_138 =>
    have hm := zero_of_masked0 P.m
    rcases P.len_b64_i96 rfl with hl | hl
    all_goals rw [hl] at P ⊢
    · exact P.faithful rfl hn hl hm (P.trimmed.b64 hl) rfl rfl
    · exact P.faithful rfl hn hl hm ((P.trimmed.i96 hl).trans (congrArg immExt (trapCode_of_ok _ P.ok).symm)) rfl rfl
  -- page 2: operand modifiers, types and rounding
  case h_53 | h_54 | h_55 | h_57 | h_58 | h_62 | h_74 => exact P.lastB rfl hn (fmBits_fmOf P.ok) (fmOf_wf P.m)
  case h_56 => exact P.lastC rfl hn (fmBits_fmOf P.ok) (fmOf_wf P.m)
  case h_61 | h_65 | h_66 | h_67 | h_68 | h_69 | h_70 | h_71 | h_72 => exact P.b64 rfl hn (fmBits_fmOf P.ok) (fmOf_wf P.m)
  case h_73 => exact P.b64 rfl hn (fmBits_fmOf P.ok) (cmag2_wf P.m)
  case h_59 => exact P.lastB rfl hn (fsetM_of_ok P.m P.ok)
  case h_63 => exact P.b64 rfl hn (fcvtM_of_ok P.ok).1 (fcvtM_of_ok P.ok).2
  case h_64 => exact P.b64 rfl hn (icvtM_of_ok P.ok)
  -- pages 3 and 4: an address operand
  case h_75 | h_76 => exact P.addr rfl hn (accBits_accOf P.ok) (accOf_wf P.ok)
  case h_77 | h_78 => exact P.addr rfl hn (accBits_accOf P.ok) (accOf_wf_local P.m P.ok)
  case h_79 | h_80 => exact P.addr rfl hn (windowM_of_ok P.m P.ok)
  case h_81 | h_82 => exact P.addr rfl hn (accBits_accOf P.ok) (accOf_wfAcq P.m P.ok)
  case h_83 | h_86 | h_87 | h_88 | h_89 | h_91 =>
    obtain ⟨hm, hf⟩ := atomM_of_ok false true P.m P.ok
    exact P.addr rfl hn hm hf
  case h_84 | h_85 =>
    obtain ⟨hm, hf⟩ := atomM_of_ok true true P.m P.ok
    exact P.addr rfl hn hm hf
  case h_90 =>
    obtain ⟨hm, hf⟩ := atomM_of_ok false false P.m P.ok
    exact P.addr rfl hn hm hf
  case h_94 => exact P.addr rfl hn (prefM_of_ok P.m P.ok)
  case h_97 => exact P.addr rfl hn (cpyBits_cpyOf P.m P.ok)
  case h_98 => exact P.addr rfl hn (cpyBits_cpyOf_free P.m P.ok)
  -- page 5: the MP and the stream-vector extensions
  case h_108 | h_109 | h_110 =>
    obtain ⟨hhigh, hf⟩ := mpOk_iff.mp P.ok
    exact P.faithful rfl hn (P.len_x64 rfl) (zero_of_masked0 P.m) (mpBits_mpOf hhigh).symm rfl hf
  case h_111 | h_112 | h_113 | h_114 | h_115 | h_116 => exact P.vectorB rfl hn
  case h_117 =>
    obtain ⟨hok, hrop⟩ := Bool.and_eq_true_iff.mp P.ok
    exact P.vector rfl hn hok (vredSeg_of_ok · hrop) (vsOk_iff.mp hok).2.2
  case h_118 | h_119 => exact P.vector rfl hn P.ok satSeg_of_masked (vsOk_iff.mp P.ok).2.2
  case h_120 => exact P.vector rfl hn P.ok zeroSeg_of_masked (vsOk_iff.mp P.ok).2.2
  case h_121 =>
    obtain ⟨hok, hrm⟩ := Bool.and_eq_true_iff.mp P.ok
    exact P.vector rfl hn hok zeroSeg_of_masked (Bool.and_eq_true_iff.mpr ⟨(vsOk_iff.mp hok).2.2, rmOf_zero _ hrm⟩)

theorem decodeBits_ok {x : BitVec 128} {i : Instr} (h : decodeBits x = .ok i) :
    ∃ e, entry (rawOf (trimBits x)) = some e ∧ checkEntry (rawOf (trimBits x)) e = .ok i := by
  unfold decodeBits decodeRaw at h
  simp only [Bool.false_eq_true, if_false, Bool.false_and] at h
  split at h
  · cases h
  next e he => exact ⟨e, he, h⟩

/-- Settles O57: no row that the checks pass has a field, D apart, that does not come back from the instruction read. -/
theorem decodedIsWellFormed : Obligations.DecodedIsWellFormed := by
  unfold Obligations.DecodedIsWellFormed
  intro x i h
  obtain ⟨e, he, hc⟩ := decodeBits_ok h
  obtain ⟨P, rfl⟩ := checkEntry_ok (trimmed_rawOf x) hc
  obtain ⟨hwf, henc⟩ := entry_faithful he P
  exact ⟨hwf, fun hd => by rw [encode, henc hd, bitsOf_rawOf]⟩

end Sys2Proof
end

section
/-! SUPPORT. Elements of a tile row, bit by bit: what a row holds after one of its elements is written (R54). -/

namespace Sys2Proof.Machine

/-- Bit k of the row that starts at byte a. -/
def rowBit (m : Cells 8) (a k : Nat) : Bool := (cget m (a + k / 8)).getLsbD (k % 8)

/-- The byte at which a row starts. -/
def Shape.rowAt (h : Shape) (r : Nat) : Nat := h.base + r * h.pitch

/-! ### Numbers of bytes -/

theorem leNat_testBit (bs : List Byte) (k : Nat) : (leNat bs).testBit k = (bs.getD (k / 8) 0).getLsbD (k % 8) := by
  induction bs generalizing k with
  | nil => simp [leNat]
  | cons b bs ih =>
    have hsplit : leNat (b :: bs) = 2 ^ 8 * leNat bs + b.toNat := by
      rw [leNat]
      omega
    rw [hsplit, Nat.testBit_two_pow_mul_add _ b.isLt]
    by_cases hk : k < 8
    · rw [if_pos hk, Nat.div_eq_of_lt hk, Nat.mod_eq_of_lt hk]
      rfl
    · rw [if_neg hk, ih, show k / 8 = (k - 8) / 8 + 1 by omega, show k % 8 = (k - 8) % 8 by omega]
      rfl

theorem leBytes_length (n x : Nat) : (leBytes n x).length = n := by
  induction n generalizing x with
  | zero => rfl
  | succ n ih => rw [leBytes, List.length_cons, ih]

theorem leBytes_getD (n x k : Nat) (hk : k < n) : (leBytes n x).getD k 0 = BitVec.ofNat 8 (x / 2 ^ (8 * k)) := by
  induction n generalizing x k with
  | zero => omega
  | succ n ih =>
    cases k with
    | zero => simp [leBytes]
    | succ k =>
      rw [leBytes, List.getD_cons_succ, ih _ _ (by omega), Nat.div_div_eq_div_mul, show (256 : Nat) = 2 ^ 8 from rfl, ← Nat.pow_add,
        show 8 + 8 * k = 8 * (k + 1) by omega]

theorem readLE_testBit (m : Cells 8) (a n k : Nat) (hk : k < 8 * n) : (readLE m a n).testBit k = rowBit m a k := by
  have hlt : k / 8 < n := by omega
  rw [readLE, leNat_testBit, rowBit, cread, List.getD_eq_getElem?_getD, List.getElem?_map, List.getElem?_range hlt]
  rfl

/-- The bits of a row after a number is written into it. -/
theorem rowBit_writeLE (m : Cells 8) (a n x k : Nat) (hk : k < 8 * n) : rowBit (writeLE m a n x) a k = x.testBit k := by
  have hlt : k / 8 < n := by omega
  have hmod : k % 8 < 8 := by omega
  rw [rowBit, writeLE, cget_cwrite, leBytes_length, if_pos ⟨by omega, by omega⟩, Nat.add_sub_cancel_left, leBytes_getD _ _ _ hlt,
    BitVec.getLsbD_ofNat, Nat.testBit_div_two_pow]
  simp [hmod, show k % 8 + 8 * (k / 8) = k by omega]

theorem cget_writeLE_ne (m : Cells 8) (a n x b : Nat) (hb : b < a ∨ a + n ≤ b) : cget (writeLE m a n x) b = cget m b := by
  rw [writeLE, cget_cwrite, leBytes_length, if_neg (by omega)]

/-! ### A field of a number -/

/-- The number with w of its bits from p upward replaced. -/
theorem testBit_replace (old x p w k : Nat) : (old - old / 2 ^ p % 2 ^ w * 2 ^ p + x % 2 ^ w * 2 ^ p).testBit k =
    if p ≤ k ∧ k < p + w then x.testBit (k - p) else old.testBit k := by
  have hold : old = 2 ^ p * (2 ^ w * (old / 2 ^ p / 2 ^ w) + old / 2 ^ p % 2 ^ w) + old % 2 ^ p := by
    rw [Nat.div_add_mod, Nat.div_add_mod]
  have hlow : old % 2 ^ p < 2 ^ p := Nat.mod_lt _ (Nat.two_pow_pos p)
  have hmid : old / 2 ^ p % 2 ^ w < 2 ^ w := Nat.mod_lt _ (Nat.two_pow_pos w)
  have hnew : x % 2 ^ w < 2 ^ w := Nat.mod_lt _ (Nat.two_pow_pos w)
  generalize old / 2 ^ p / 2 ^ w = hi at hold
  generalize old / 2 ^ p % 2 ^ w = mid at hold hmid ⊢
  generalize old % 2 ^ p = low at hold hlow
  have hput : old - mid * 2 ^ p + x % 2 ^ w * 2 ^ p = 2 ^ p * (2 ^ w * hi + x % 2 ^ w) + low := by
    rw [hold, Nat.mul_add, Nat.mul_add, Nat.mul_comm mid, Nat.mul_comm (x % 2 ^ w)]
    omega
  rw [hput, hold, Nat.testBit_two_pow_mul_add _ hlow, Nat.testBit_two_pow_mul_add _ hlow]
  by_cases hk : k < p
  · rw [if_pos hk, if_pos hk, if_neg (by omega)]
  · rw [if_neg hk, if_neg hk, Nat.testBit_two_pow_mul_add _ hnew, Nat.testBit_two_pow_mul_add _ hmid, Nat.testBit_mod_two_pow]
    by_cases hw : k - p < w
    · rw [if_pos hw, if_pos (by omega)]
      simp [hw]
    · rw [if_neg hw, if_neg hw, if_neg (by omega)]

/-! ### Elements -/

/-- A bit of a row counted from the byte in which the element starts. -/
theorem rowBit_shift (m : Cells 8) (a b k : Nat) : rowBit m (a + b / 8) (b % 8 + k) = rowBit m a (b + k) := by
  rw [rowBit, rowBit, show (b % 8 + k) % 8 = (b + k) % 8 by omega, Nat.add_assoc, show b / 8 + (b % 8 + k) / 8 = (b + k) / 8 by omega]

/-- An element is the bits of its row that its column names (R54). -/
theorem elemAt_testBit (m : Cells 8) (h : Shape) (r c k : Nat) :
    (elemAt m h r c).testBit k = (decide (k < typeBits h.ty) && rowBit m (h.rowAt r) (c * typeBits h.ty + k)) := by
  rw [elemAt, Nat.testBit_mod_two_pow]
  by_cases hk : k < typeBits h.ty
  · rw [Nat.testBit_div_two_pow, Nat.add_comm k, readLE_testBit _ _ _ _ (by omega), Shape.rowAt, rowBit_shift]
  · simp [hk]

/-- Elements agree whose bits agree. -/
theorem elemAt_congr {m m' : Cells 8} {h : Shape} {r c : Nat}
    (hb : ∀ k, k < typeBits h.ty → rowBit m' (h.rowAt r) (c * typeBits h.ty + k) = rowBit m (h.rowAt r) (c * typeBits h.ty + k)) :
    elemAt m' h r c = elemAt m h r c := by
  refine Nat.eq_of_testBit_eq fun k => ?_
  rw [elemAt_testBit, elemAt_testBit]
  by_cases hk : k < typeBits h.ty
  · rw [hb k hk]
  · simp [hk]

/-- Bytes outside an element stand when it is written. -/
theorem setElem_other (m : Cells 8) (h : Shape) (r c x a : Nat) (ha : a < h.rowAt r + c * typeBits h.ty / 8 ∨
    h.rowAt r + ((c + 1) * typeBits h.ty + 7) / 8 ≤ a) : cget (setElem m h r c x) a = cget m a := by
  refine cget_writeLE_ne _ _ _ _ _ ?_
  rw [Nat.succ_mul] at ha
  rw [Shape.rowAt] at ha
  omega

/-- The bits of a row after one of its elements is written. -/
theorem rowBit_setElem (m : Cells 8) (h : Shape) (r c x k : Nat) : rowBit (setElem m h r c x) (h.rowAt r) k =
    if c * typeBits h.ty ≤ k ∧ k < c * typeBits h.ty + typeBits h.ty then x.testBit (k - c * typeBits h.ty)
    else rowBit m (h.rowAt r) k := by
  by_cases hin : c * typeBits h.ty / 8 ≤ k / 8 ∧ k / 8 < ((c + 1) * typeBits h.ty + 7) / 8
  · rw [Nat.succ_mul] at hin
    obtain ⟨j, hj⟩ : ∃ j, k = 8 * (c * typeBits h.ty / 8) + j := ⟨k - 8 * (c * typeBits h.ty / 8), by omega⟩
    have hrow : ∀ m : Cells 8, rowBit m (h.rowAt r) k = rowBit m (h.base + r * h.pitch + c * typeBits h.ty / 8) j := by
      intro m
      rw [rowBit, rowBit, hj, Shape.rowAt, show (8 * (c * typeBits h.ty / 8) + j) / 8 = c * typeBits h.ty / 8 + j / 8 by omega,
        show (8 * (c * typeBits h.ty / 8) + j) % 8 = j % 8 by omega, Nat.add_assoc _ _ (j / 8)]
    rw [hrow, hrow, setElem]
    rw [rowBit_writeLE _ _ _ _ _ (by omega), testBit_replace, readLE_testBit _ _ _ _ (by omega)]
    refine if_congr (by omega) ?_ rfl
    congr 1
    omega
  · rw [rowBit, rowBit, setElem_other _ _ _ _ _ _ (by omega)]
    rw [Nat.succ_mul] at hin
    rw [if_neg (by omega)]

theorem elemAt_setElem_self (m : Cells 8) (h : Shape) (r c x : Nat) : elemAt (setElem m h r c x) h r c = x % 2 ^ typeBits h.ty := by
  refine Nat.eq_of_testBit_eq fun k => ?_
  rw [elemAt_testBit, rowBit_setElem, Nat.testBit_mod_two_pow]
  by_cases hk : k < typeBits h.ty
  · rw [if_pos (by omega), Nat.add_sub_cancel_left]
  · simp [hk]

/-- Columns of a row lie apart. -/
theorem columns_apart {w c e : Nat} (hne : e ≠ c) : c * w + w ≤ e * w ∨ e * w + w ≤ c * w := by
  rcases Nat.lt_or_gt_of_ne hne with h | h
  · right
    calc e * w + w = (e + 1) * w := (Nat.succ_mul e w).symm
      _ ≤ c * w := Nat.mul_le_mul_right w h
  · left
    calc c * w + w = (c + 1) * w := (Nat.succ_mul c w).symm
      _ ≤ e * w := Nat.mul_le_mul_right w h

theorem elemAt_setElem_column (m : Cells 8) (h : Shape) (r x : Nat) {c e : Nat} (hne : e ≠ c) :
    elemAt (setElem m h r c x) h r e = elemAt m h r e := by
  refine elemAt_congr fun k hk => ?_
  rw [rowBit_setElem, if_neg]
  have := columns_apart (w := typeBits h.ty) hne
  omega

end Sys2Proof.Machine
end

section
/-! SUPPORT. What tiles and grants a team is left with when an operation begins or ends: nothing else of the team or of the state
changes (R62, R318, R389). -/

namespace Sys2Proof.Machine

/-- Of the state only the team `u` has changed, and of it only the tile table, the tiles' times and the grants. -/
structure Booked (u : Nat) (s s' : State) (t t' : Team) : Prop where
  frame : s' = { s with teams := s'.teams }
  found : s'.team? u = some t'
  same : t' = { t with ttab := t'.ttab, lives := t'.lives, grants := t'.grants }

section
variable {u : Nat} {s s' s'' : State} {t t' t'' : Team}

theorem Booked.refl (ht : s.team? u = some t) : Booked u s s t t := ⟨rfl, ht, rfl⟩

theorem Booked.trans (h : Booked u s s' t t') (h' : Booked u s' s'' t' t'') : Booked u s s'' t t'' where
  frame := by rw [h'.frame, h.frame]
  found := h'.found
  same := by rw [h'.same, h.same]

theorem Booked.warps (h : Booked u s s' t t') : t'.warps = t.warps := by rw [h.same]

/-- A change of the team that keeps to these fields. -/
theorem booked_modTeam (ht : s.team? u = some t) {f : Team → Team} (huid : ∀ t, (f t).uid = t.uid)
    (hf : f t = { t with ttab := (f t).ttab, lives := (f t).lives, grants := (f t).grants }) : Booked u s (s.modTeam u f) t (f t) where
  frame := rfl
  found := by rw [team?_modTeam s u u f huid, ht]; simp
  same := hf

/-! ### Tiles -/

theorem setTile_booked (ht : s.team? u = some t) {st : TileSt} (hst : (st == .empty) = false) (n : Nat) (copyIn : Bool) :
    ∃ t', Booked u s (setTile s u n st copyIn) t t' ∧ t'.ttab = t.ttab.modify n (fun e => { e with st := st }) := by
  unfold setTile
  simp only [ht, hst, Bool.false_and, Bool.false_eq_true, if_false]
  exact ⟨_, booked_modTeam ht (fun _ => rfl) rfl, rfl⟩

theorem modLife_booked (ht : s.team? u = some t) (n : Nat) (f : TileLife → TileLife) :
    ∃ t', Booked u s (modLife s u n f) t t' ∧ t'.ttab = t.ttab :=
  ⟨_, booked_modTeam ht (fun _ => rfl) rfl, rfl⟩

/-- The state of a tile after the entry of a tile is changed. -/
theorem tile_modify (n k : Nat) (st : TileSt) (htab : t'.ttab = t.ttab.modify n (fun e => { e with st := st }))
    (hk : k < t.ttab.length) : (t'.tile k).st = if k = n then st else (t.tile k).st := by
  unfold Team.tile
  rw [htab, List.getElem?_modify]
  by_cases hkn : n = k
  · subst hkn
    simp [List.getElem?_eq_getElem hk]
  · simp [hkn, Ne.symm hkn]

/-- Tiles that all go to one state. -/
theorem setTiles_booked (ht : s.team? u = some t) {st : TileSt} (hst : (st == .empty) = false) (ns : List Nat) :
    ∃ t', Booked u s (ns.foldl (fun s n => setTile s u n st false) s) t t' ∧ t'.ttab.length = t.ttab.length ∧
      ∀ k, k < t.ttab.length → (t'.tile k).st = if k ∈ ns then st else (t.tile k).st := by
  induction ns generalizing s t with
  | nil => exact ⟨t, .refl ht, rfl, fun k _ => by simp⟩
  | cons n ns ih =>
    obtain ⟨t1, hb1, htab⟩ := setTile_booked ht hst n false
    have hlen : t1.ttab.length = t.ttab.length := by rw [htab, List.length_modify]
    obtain ⟨t2, hb2, hlen2, hst2⟩ := ih hb1.found
    refine ⟨t2, hb1.trans hb2, hlen2.trans hlen, fun k hk => ?_⟩
    rw [hst2 k (hlen ▸ hk), tile_modify n k st htab hk]
    by_cases hkn : k = n <;> by_cases hks : k ∈ ns <;> simp [hkn, hks]

/-- The times of tiles that are noted leave the tile table. -/
theorem lives_booked {step : State → Nat → State} (ns : List Nat) (ht : s.team? u = some t)
    (hstep : ∀ s t n, s.team? u = some t → ∃ t', Booked u s (step s n) t t' ∧ t'.ttab = t.ttab) :
    ∃ t', Booked u s (ns.foldl step s) t t' ∧ t'.ttab = t.ttab := by
  induction ns generalizing s t with
  | nil => exact ⟨t, .refl ht, rfl⟩
  | cons n ns ih =>
    obtain ⟨t1, hb1, htab1⟩ := hstep s t n ht
    obtain ⟨t2, hb2, htab2⟩ := ih hb1.found
    exact ⟨t2, hb1.trans hb2, htab2.trans htab1⟩

theorem startAll_booked (ht : s.team? u = some t) (ns : List Nat) : ∃ t', Booked u s (startAll s u ns) t t' ∧ t'.ttab = t.ttab := by
  refine lives_booked ns ht fun s t n ht => ?_
  unfold computeStart
  split
  · exact ⟨t, .refl ht, rfl⟩
  · exact modLife_booked ht _ _

theorem endAll_booked (ht : s.team? u = some t) (ns : List Nat) : ∃ t', Booked u s (endAll s u ns) t t' ∧ t'.ttab = t.ttab := by
  refine lives_booked ns ht fun s t n ht => ?_
  unfold computeEnd
  split
  · exact ⟨t, .refl ht, rfl⟩
  · exact modLife_booked ht _ _

theorem tile_congr (htab : t'.ttab = t.ttab) (k : Nat) : t'.tile k = t.tile k := by
  unfold Team.tile
  rw [htab]

/-- What a new operation does to its tiles: its destinations fill, and the times of all are noted (R92, R389). -/
theorem begun_booked (ht : s.team? u = some t) (dsts ns : List Nat) :
    ∃ t', Booked u s (startAll (fillTiles s u dsts) u ns) t t' ∧
      ∀ k, k < t.ttab.length → (t'.tile k).st = if k ∈ dsts then .filling else (t.tile k).st := by
  obtain ⟨t1, hb1, -, hst⟩ := setTiles_booked ht (st := .filling) rfl dsts
  obtain ⟨t2, hb2, htab⟩ := startAll_booked hb1.found ns
  exact ⟨t2, hb1.trans hb2, fun k hk => by rw [tile_congr htab, hst k hk]⟩

/-- What an operation that ends does to its tiles: the times of all are noted, and its destinations are READY. -/
theorem ended_booked (ht : s.team? u = some t) (ns dsts : List Nat) :
    ∃ t', Booked u s (readyTiles (endAll s u ns) u dsts) t t' ∧
      ∀ k, k < t.ttab.length → (t'.tile k).st = if k ∈ dsts then .ready else (t.tile k).st := by
  obtain ⟨t1, hb1, htab⟩ := endAll_booked ht ns
  obtain ⟨t2, hb2, -, hst⟩ := setTiles_booked hb1.found (st := .ready) rfl dsts
  exact ⟨t2, hb1.trans hb2, fun k hk => by rw [← tile_congr htab, hst k (by rw [htab]; exact hk)]⟩

/-! ### Grants, R318 -/

/-- A team that holds a grant of the kind gives it up at once. -/
theorem takeLeave_grant (ht : s.team? u = some t) {c : Lc} (hc : c.is.team = u) (hreq : leaveFor s c = none) {kind : Nat}
    (hg : HoldsGrant s t kind) : ∃ s' t', takeLeave s c kind = (s', none) ∧ Booked u s s' t t' ∧ t'.ttab = t.ttab := by
  obtain ⟨g, hmem, hkind, hcyc⟩ := hg
  have huse : t.grants.any (usable s kind) = true := List.any_eq_true.mpr ⟨g, hmem, by simp [usable, hkind, hcyc]⟩
  subst hc
  unfold takeLeave
  simp only [hreq, ht, huse, if_true]
  exact ⟨_, _, rfl, booked_modTeam ht (fun _ => rfl) rfl, rfl⟩

end

/-- An active lane that waits for no request leaves its warp without one (R318). -/
theorem leaveFor_none {s : State} {i : Instr} {h : Hdr} {is : Issue} {t : Team} (G : Issuing s i h is t) {c : Lc} {w : Warp} {l : Lane}
    (C : Ctx s i h is t c w l) (hreq : NoRequest t is h) (s' : State) : leaveFor s' c = none := by
  obtain ⟨ls, hw, -, hls⟩ := C.warpEq
  unfold leaveFor
  rw [List.findSome?_eq_none_iff]
  intro j hj
  rw [C.act] at hj
  obtain ⟨⟨wi, j⟩, hk, rfl⟩ := List.mem_map.mp hj
  obtain ⟨hk, hwi⟩ := List.mem_filter.mp hk
  obtain rfl : wi = c.wi := by simpa using hwi
  obtain ⟨w', m, a⟩ := (mem_active G).mp hk
  obtain rfl : w' = w := Option.some.inj (a.1.2.1.symm.trans C.active.1.2.1)
  obtain ⟨x, hx, hwait⟩ : ∃ x, ls[j]? = some x ∧ x.wait = m.wait := by
    refine ⟨_, by rw [hls, a.1.2.2]; rfl, ?_⟩
    split <;> rfl
  rw [hw]
  dsimp only
  rw [hx]
  dsimp only
  split
  next n hn => exact absurd (hwait.symm.trans hn) (hreq _ _ _ a n)
  next => rfl

/-! ### Operations -/

theorem op?_dropOp (s : State) (id : Nat) : (s.dropOp id).op? id = none := by
  rw [State.op?, State.dropOp, List.find?_eq_none]
  intro o ho
  simpa using (List.mem_filter.mp ho).2

/-- An operation that names no register and no latch begins: it joins the others (R92). -/
theorem addOp_eq (s : State) {o : EngOp} (hd : o.dst = none) (hl : o.latch = none) :
    addOp s o = { s with ops := s.ops ++ [{ o with id := s.serial }], serial := s.serial + 1 } := by
  have hover : overtake s o.team o.warp o.lane (dstRegs o.dst) o.latch = s := by
    rw [hd, hl]
    rfl
  unfold addOp
  rw [hover]

/-- An operation that leaves the state as the completion of its engine has it. -/
theorem completed_booked {s : State} {u : Nat} {t : Team} (hs : Awake s) (ht : s.team? u = some t) {f : Team → Team}
    (huid : ∀ t, (f t).uid = t.uid) (id : Nat) (ns dsts : List Nat) :
    ∃ s' t', finish (readyTiles (endAll ((s.modTeam u f).dropOp id) u ns) u dsts) = .next s' ∧ s'.team? u = some t' ∧
      s'.op? id = none ∧ t' = { f t with ttab := t'.ttab, lives := t'.lives, grants := t'.grants } ∧
      ∀ k, k < (f t).ttab.length → (t'.tile k).st = if k ∈ dsts then .ready else ((f t).tile k).st := by
  have hf : ((s.modTeam u f).dropOp id).team? u = some (f t) := by
    rw [State.team?, State.dropOp_teams]
    exact (team?_modTeam s u u f huid).trans (by simp [ht])
  obtain ⟨t', hb, hst⟩ := ended_booked hf ns dsts
  refine ⟨_, t', finish_awake ?_, hb.found, ?_, hb.same, hst⟩
  · rw [hb.frame]
    exact hs
  · rw [hb.frame]
    exact op?_dropOp (s.modTeam u f) id

end Sys2Proof.Machine
end

section
/-! SUPPORT. The end of a Luna command: what the tile area and the weight set hold after it (R109 to R111, R247 to R249). -/

namespace Sys2Proof.Machine

/-! ### Folds of writes -/

/-- What is observed of a value after a fold of writes, some of which settle it and the others of which leave it. -/
theorem foldl_settles {α β γ : Type} {W : α → β → α} {see : α → γ} {hits : β → Prop} {v : γ} {xs : List β}
    (hhit : ∀ x ∈ xs, hits x → ∀ m, see (W m x) = v) (hmiss : ∀ x ∈ xs, ¬hits x → ∀ m, see (W m x) = see m) (m : α)
    (h : see m = v ∨ ∃ x ∈ xs, hits x) : see (xs.foldl W m) = v := by
  induction xs generalizing m with
  | nil => simpa using h
  | cons x xs ih =>
    refine ih (fun y hy => hhit y (List.mem_cons_of_mem _ hy)) (fun y hy => hmiss y (List.mem_cons_of_mem _ hy)) _ ?_
    by_cases hx : hits x
    · exact Or.inl (hhit x List.mem_cons_self hx m)
    · rw [hmiss x List.mem_cons_self hx]
      refine h.imp_right fun ⟨y, hy, hit⟩ => ?_
      rcases List.mem_cons.mp hy with rfl | hy
      · exact absurd hit hx
      · exact ⟨y, hy, hit⟩

/-- What no write of a fold changes. -/
theorem foldl_keeps {α β γ : Type} {W : α → β → α} {see : α → γ} {xs : List β} (hmiss : ∀ x ∈ xs, ∀ m, see (W m x) = see m) (m : α) :
    see (xs.foldl W m) = see m :=
  foldl_settles (hits := fun _ => False) (fun _ _ h => h.elim) (fun x hx _ => hmiss x hx) m (Or.inl rfl)

/-! ### Rows of a tile -/

/-- The element lies within its tile. -/
def Shape.within (h : Shape) (r c : Nat) : Prop := r < h.rows ∧ c < h.cols

/-- A row of a tile that passes its check ends before the next begins (R55). -/
theorem rb_le_pitch {h : Shape} {areaK : Nat} (hok : h.ok areaK = true) (hrows : 1 < h.rows) : h.rb ≤ h.pitch := by
  simp only [Shape.ok, Bool.and_eq_true, Bool.not_eq_true', Bool.and_eq_false_iff, decide_eq_false_iff_not] at hok
  obtain ⟨⟨⟨⟨-, hpitch⟩, -⟩, -⟩, -⟩ := hok
  omega

/-- The byte after the last bit of an element within its tile. -/
theorem elem_end_le {h : Shape} {r c : Nat} (hin : h.within r c) : (c + 1) * typeBits h.ty ≤ h.cols * typeBits h.ty ∧
    ((c + 1) * typeBits h.ty + 7) / 8 ≤ h.rb := by
  have hle : (c + 1) * typeBits h.ty ≤ h.cols * typeBits h.ty := Nat.mul_le_mul_right _ hin.2
  refine ⟨hle, ?_⟩
  unfold Shape.rb
  omega

/-- Rows of a tile lie apart. -/
theorem rows_apart {h : Shape} {areaK r r' : Nat} (hok : h.ok areaK = true) (hr : r < h.rows) (hr' : r' < h.rows) (hne : r' ≠ r) :
    h.rowAt r' + h.rb ≤ h.rowAt r ∨ h.rowAt r + h.rb ≤ h.rowAt r' := by
  have hrb := rb_le_pitch hok (by omega)
  have := columns_apart (w := h.pitch) hne
  unfold Shape.rowAt
  omega

/-- Every other element of a tile stands when one is written. -/
theorem elemAt_setElem_ne {h : Shape} {areaK r c r' c' : Nat} (hok : h.ok areaK = true) (hin : h.within r c) (hin' : h.within r' c')
    (hne : ¬(r = r' ∧ c = c')) (m : Cells 8) (x : Nat) : elemAt (setElem m h r c x) h r' c' = elemAt m h r' c' := by
  by_cases hr : r' = r
  · subst hr
    exact elemAt_setElem_column m h r' x fun hc => hne ⟨rfl, hc.symm⟩
  · refine elemAt_congr fun k hk => ?_
    have hapart := rows_apart hok hin.1 hin'.1 hr
    have hend := (elem_end_le hin).2
    have hlast := (elem_end_le hin').2
    rw [Nat.succ_mul] at hlast
    rw [rowBit, rowBit, setElem_other _ _ _ _ _ _ (by omega)]

/-! ### Tables by row and column -/

theorem row_col_index {rows cols r c : Nat} (hr : r < rows) (hc : c < cols) :
    r * cols + c < rows * cols ∧ (r * cols + c) / cols = r ∧ (r * cols + c) % cols = c := by
  refine ⟨?_, ?_, ?_⟩
  · calc r * cols + c < r * cols + cols := by omega
      _ = (r + 1) * cols := (Nat.succ_mul r cols).symm
      _ ≤ rows * cols := Nat.mul_le_mul_right _ hr
  · rw [Nat.mul_comm, Nat.mul_add_div (by omega), Nat.div_eq_of_lt hc, Nat.add_zero]
  · rw [Nat.mul_comm, Nat.mul_add_mod, Nat.mod_eq_of_lt hc]

theorem exists_row_col {rows cols r c : Nat} (hr : r < rows) (hc : c < cols) :
    ∃ x ∈ List.range (rows * cols), x / cols = r ∧ x % cols = c := by
  obtain ⟨hlt, hdiv, hmod⟩ := row_col_index hr hc
  exact ⟨r * cols + c, List.mem_range.mpr hlt, hdiv, hmod⟩

/-- A number below a product names a row and a column. -/
theorem row_col_of_lt {rows cols x : Nat} (hx : x < rows * cols) : x / cols < rows ∧ x % cols < cols := by
  have hcols : 0 < cols := Nat.pos_of_ne_zero fun h => by simp [h] at hx
  exact ⟨Nat.div_lt_of_lt_mul (Nat.mul_comm rows cols ▸ hx), Nat.mod_lt _ hcols⟩

/-! ### MLW -/

/-- A table of elements reads back what was put into it. -/
theorem cget_readMatrix (m : Cells 8) (h : Shape) {rows cols r c : Nat} (hr : r < rows) (hc : c < cols) :
    cget (readMatrix m h rows cols) (r * cols + c) = BitVec.ofNat 32 (elemAt m h r c) := by
  obtain ⟨hlt, hdiv, hmod⟩ := row_col_index hr hc
  refine foldl_settles (see := fun acc => cget acc (r * cols + c)) (hits := fun k => k = r * cols + c) ?_ ?_ []
    (Or.inr ⟨_, List.mem_range.mpr hlt, rfl⟩)
  · rintro _ - rfl acc
    rw [cget_cset_self, hdiv, hmod]
  · exact fun k _ hk acc => cget_cset_ne _ _ (Ne.symm hk)

/-- The first Luna command of a team in issue order may complete (R247). -/
theorem lunaReady_first {s : State} {o : EngOp} {cmd : Nat} (hcmd : lunaCmd o.ins = some cmd) (hruns : opRuns s o = true)
    (hfirst : s.ops.find? (fun y => y.team == o.team && (lunaCmd y.ins).isSome) = some o) : lunaReady s o cmd = true := by
  simp [lunaReady, hcmd, hruns, hfirst]

section
variable {s : State} {o : EngOp} {t : Team}

/-- The team with the weight set that an MLW latches. -/
def latchWeights (o : EngOp) (t : Team) : Team :=
  { t with weight :=
    { valid := true, k := o.arg 0, n := o.arg 1, ty := (o.shapeArg 2).ty, sc := (o.shapeArg 2).scale
      elems := readMatrix t.tileMem (o.shapeArg 2) (o.arg 0) (o.arg 1)
      scales := if o.arg 6 = 1 then readMatrix t.tileMem (o.shapeArg 4) (blocksOf (o.arg 0)) (o.arg 1) else [] } }

theorem exec_mlwLatch (hop : s.op? o.id = some o) (hready : lunaReady s o 0 = true) :
    exec (.mlwLatch o.id) s = finish (endAll ((s.modTeam o.team (latchWeights o)).dropOp o.id) o.team o.tiles) := by
  change finish _ = _
  simp only [hop, hready, Bool.not_true, Bool.false_eq_true, if_false]
  rfl

/-! ### MMA -/

/-- The tile area after element (x / N, x mod N) of D is accumulated. -/
def mmaPut (t : Team) (o : EngOp) (m : Cells 8) (x : Nat) : Cells 8 :=
  setElem m (o.shapeArg 3) (x / o.arg 5) (x % o.arg 5) (mmaElem t o (x / o.arg 5) (x % o.arg 5)).toNat

/-- The team with the elements of D accumulated. -/
def mmaFill (o : EngOp) (t : Team) : Team :=
  { t with tileMem := (List.range (o.arg 0 * o.arg 5)).foldl (mmaPut t o) t.tileMem }

theorem exec_mmaCompletion (hop : s.op? o.id = some o) (hready : lunaReady s o 1 = true) :
    exec (.mmaCompletion o.id) s =
      finish (readyTiles (endAll ((s.modTeam o.team (mmaFill o)).dropOp o.id) o.team o.tiles) o.team (o.tiles.take 1)) := by
  change finish _ = _
  simp only [hop, hready, Bool.not_true, Bool.false_eq_true, if_false]
  rfl

/-- A byte that no element of D holds stands. -/
theorem cget_mmaFill (hty : (o.shapeArg 3).ty = 0) {a : Nat} (ha : ∀ i j, i < o.arg 0 → j < o.arg 5 →
      a < (o.shapeArg 3).base + i * (o.shapeArg 3).pitch + 4 * j ∨ (o.shapeArg 3).base + i * (o.shapeArg 3).pitch + 4 * j + 4 ≤ a) :
    cget (mmaFill o t).tileMem a = cget t.tileMem a := by
  refine foldl_keeps (see := fun m => cget m a) (fun x hx m => ?_) _
  obtain ⟨hr, hc⟩ := row_col_of_lt (List.mem_range.mp hx)
  refine setElem_other _ _ _ _ _ _ ?_
  have hbits : typeBits (o.shapeArg 3).ty = 32 := by rw [hty]; rfl
  have := ha _ _ hr hc
  rw [hbits, Shape.rowAt]
  omega

/-- Each element of D is its accumulation. -/
theorem elemAt_mmaFill {areaK : Nat} (hty : (o.shapeArg 3).ty = 0) (hok : (o.shapeArg 3).ok areaK = true)
    (hrows : o.arg 0 ≤ (o.shapeArg 3).rows) (hcols : o.arg 5 ≤ (o.shapeArg 3).cols) {i j : Nat} (hi : i < o.arg 0) (hj : j < o.arg 5) :
    elemAt (mmaFill o t).tileMem (o.shapeArg 3) i j = (mmaElem t o i j).toNat := by
  refine foldl_settles (see := fun m => elemAt m (o.shapeArg 3) i j) (hits := fun x => x / o.arg 5 = i ∧ x % o.arg 5 = j) ?_ ?_
    t.tileMem (Or.inr (exists_row_col hi hj))
  · rintro x - ⟨rfl, rfl⟩ m
    refine (elemAt_setElem_self _ _ _ _ _).trans ?_
    rw [hty]
    exact Nat.mod_eq_of_lt (mmaElem t o _ _).isLt
  · intro x hx hne m
    obtain ⟨hr, hc⟩ := row_col_of_lt (List.mem_range.mp hx)
    exact elemAt_setElem_ne hok ⟨by omega, by omega⟩ ⟨by omega, by omega⟩ hne _ _

/-! ### MQ -/

/-- The tile area after the x-th block of D is quantised. -/
def mqPut (t : Team) (o : EngOp) (m : Cells 8) (x : Nat) : Cells 8 :=
  mqBlock t o (x / blocksOf (o.arg 5)) (x % blocksOf (o.arg 5)) m

/-- The team with the blocks of D quantised. -/
def mqFill (o : EngOp) (t : Team) : Team :=
  { t with tileMem := (List.range (o.arg 0 * blocksOf (o.arg 5))).foldl (mqPut t o) t.tileMem }

theorem exec_mqCompletion (hop : s.op? o.id = some o) (hready : lunaReady s o 2 = true) :
    exec (.mqCompletion o.id) s = finish (readyTiles (endAll ((s.modTeam o.team (mqFill o)).dropOp o.id) o.team o.tiles) o.team
      (o.tiles.take (if o.arg 6 = 1 then 2 else 1))) := by
  change finish _ = _
  simp only [hop, hready, Bool.not_true, Bool.false_eq_true, if_false]
  rfl

/-- The element of D that MQ gives without a scale. -/
def mqElem (t : Team) (o : EngOp) (i j : Nat) : Nat :=
  quantElem (o.shapeArg 3).ty (Sys2Proof.Machine.rmOf (o.arg 9)) (decide (o.arg 8 = 1))
    (elemVal 0 (elemAt t.tileMem (o.shapeArg 2) i j)) (scaleVal 0 0)

/-- The columns of block b of a row of n elements. -/
def blockCols (n b : Nat) : List Nat := (List.range (min 32 (n - 32 * b))).map (fun x => 32 * b + x)

theorem mem_blockCols {n b c : Nat} : c ∈ blockCols n b ↔ c < n ∧ c / 32 = b := by
  simp only [blockCols, List.mem_map, List.mem_range]
  constructor
  · rintro ⟨x, hx, rfl⟩
    omega
  · rintro ⟨hc, rfl⟩
    exact ⟨c % 32, by omega, by omega⟩

/-- A block without a scale: its elements in turn. -/
theorem mqBlock_unscaled (hsc : (o.shapeArg 3).scale = 0) (i b : Nat) (m : Cells 8) :
    mqBlock t o i b m = (blockCols (o.arg 5) b).foldl (fun m c => setElem m (o.shapeArg 3) i c (mqElem t o i c)) m := by
  have hzip : ∀ (cs : List Nat) (f : Nat → Val), cs.zip (cs.map f) = cs.map (fun c => (c, f c)) := by
    intro cs f
    simpa using List.zip_map' (f := id) (g := f) (l := cs)
  unfold mqBlock
  simp only [hsc, if_true]
  rw [hzip, List.foldl_map]
  rfl

/-- Each element of D is quantised. -/
theorem elemAt_mqFill {areaK : Nat} (hsc : (o.shapeArg 3).scale = 0) (hok : (o.shapeArg 3).ok areaK = true)
    (hrows : o.arg 0 ≤ (o.shapeArg 3).rows) (hcols : o.arg 5 ≤ (o.shapeArg 3).cols) {i j : Nat} (hi : i < o.arg 0) (hj : j < o.arg 5) :
    elemAt (mqFill o t).tileMem (o.shapeArg 3) i j = mqElem t o i j % 2 ^ typeBits (o.shapeArg 3).ty := by
  have hin : (o.shapeArg 3).within i j := ⟨by omega, by omega⟩
  have hblock : j / 32 < blocksOf (o.arg 5) := by
    unfold blocksOf
    omega
  have hcol : ∀ {b c}, c ∈ blockCols (o.arg 5) b → c < (o.shapeArg 3).cols := fun hc => by
    have := (mem_blockCols.mp hc).1
    omega
  refine foldl_settles (see := fun m => elemAt m (o.shapeArg 3) i j)
    (hits := fun x => x / blocksOf (o.arg 5) = i ∧ x % blocksOf (o.arg 5) = j / 32) ?_ ?_ t.tileMem (Or.inr (exists_row_col hi hblock))
  · rintro x - ⟨rfl, hx⟩ m
    rw [mqPut, mqBlock_unscaled hsc, hx]
    refine foldl_settles (see := fun m => elemAt m (o.shapeArg 3) _ j) (hits := fun c => c = j) ?_ ?_ m
      (Or.inr ⟨j, mem_blockCols.mpr ⟨hj, rfl⟩, rfl⟩)
    · rintro c - rfl m
      exact elemAt_setElem_self _ _ _ _ _
    · exact fun c hc hne m => elemAt_setElem_ne hok ⟨hin.1, hcol hc⟩ hin (fun h => hne h.2) _ _
  · intro x hx hne m
    obtain ⟨hr, -⟩ := row_col_of_lt (List.mem_range.mp hx)
    rw [mqPut, mqBlock_unscaled hsc]
    refine foldl_keeps (see := fun m => elemAt m (o.shapeArg 3) i j) (fun c hc m => ?_) m
    refine elemAt_setElem_ne hok ⟨by omega, hcol hc⟩ hin (fun h => hne ⟨h.1, ?_⟩) _ _
    rw [← h.2, (mem_blockCols.mp hc).2]

end

end Sys2Proof.Machine
end

section
/-! SUPPORT. A Luna command issues: its block is read, its tiles are READY and its grant is there, and it leaves as one operation
(R157, R243 to R247, R318). -/

namespace Sys2Proof.Machine

/-! ### The commit of a group that goes on -/

theorem overtakes_still {u : Nat} {s : State} {rs : List ((Nat × Nat) × LaneRes)}
    (hr : ∀ x ∈ rs, ∀ e, x.2.eff? = some e → e.written = [] ∧ e.latch = none) : rs.foldl (overtakes u) s = s := by
  refine foldl_keeps (see := id) (fun x hx s => ?_) s
  unfold overtakes
  split
  next e he =>
    obtain ⟨hw, hl⟩ := hr x hx e he
    rw [hw, hl]
    rfl
  next => rfl

/-- A group that writes no register and no latch overtakes nothing. -/
theorem commit_ops_goes (s : State) (t : Team) (is : Issue) (h : Hdr) : (commit s is (allDo t is h (.done {}))).ops = s.ops := by
  have hstill : (allDo t is h (.done {})).foldl (overtakes is.team) s = s := by
    refine overtakes_still fun x hx e he => ?_
    simp only [allDo, idleLanes, List.mem_append, List.mem_map] at hx
    obtain ⟨k, -, rfl⟩ | ⟨k, -, rfl⟩ := hx
    · obtain rfl := Option.some.inj he
      exact ⟨rfl, rfl⟩
    · obtain rfl := Option.some.inj he
      exact ⟨rfl, rfl⟩
  unfold commit
  rw [trapWarps_untrapped _ _ _ (allDo_untrapped rfl)]
  change ((allDo t is h (.done {})).foldl (overtakes is.team) s).ops = s.ops
  rw [hstill]

section
variable {s s' : State} {i : Instr} {h : Hdr} {is : Issue} {t : Team}

/-- A group that goes on in a state that has its warps. -/
theorem goesOn_commit (G : Issuing s i h is t) (hw : s'.warp? is.team = (s.seen t is).warp? is.team) :
    GoesOn (commit s' is (allDo t is h (.done {}))) t is h := by
  intro k w l a
  obtain ⟨ls, hseen, hls⟩ := seen_warp? G a.1.2.1
  have hl : ({ w with lanes := ls } : Warp).lanes[k.2]? = some (seenLane t is k l) := by
    change ls[k.2]? = _
    rw [hls, a.1.2.2]
    rfl
  obtain ⟨w', hw', hl'⟩ := commit_active (r := .done {}) G.nodup rfl ((mem_active G).mpr ⟨w, l, a⟩)
    ((congrFun hw k.1).trans hseen) hl
  refine ⟨w', _, hw', hl', ?_⟩
  rw [laneWith_upd is s'.cycle w.sup id, passLane_frame, seenLane_frame]
  exact ⟨rfl, rfl, rfl⟩

theorem untouched_warp? (G : Issuing s i h is t) (hw : s'.warp? is.team = (s.seen t is).warp? is.team) (j : Nat) :
    untouched (t.seen is) s' j = true := by
  have hu : is.team = (t.seen is).uid := ((seen_uid t is).trans (uid_of_team? G.team)).symm
  rw [untouched, ← hu, hw, hu]
  exact untouched_seen G j

end

/-- A step of one warp's group that leaves its warps alone and begins an operation. -/
theorem perWarp_begins {s : State} {i : Instr} {h : Hdr} {is : Issue} {t : Team} {k : Nat × Nat} {w : Warp} {l : Lane}
    {P : Team → EngOp → Prop} (G : Issuing s i h is t) (one : OneWarp t is h k) (a : Active t is h k w l)
    {f : State → Lc → State × LaneRes}
    (hf : ∀ c, Ctx s i h is t c w l → ∃ s1 t1 o, f (s.seen t is) c =
      ({ s1 with ops := s1.ops ++ [o], serial := s1.serial + 1 }, .done {}) ∧ Booked is.team (s.seen t is) s1 (t.seen is) t1 ∧ P t1 o) :
    ∃ s' t' t1 o, perWarp i h s (fun _ _ => none) f = .next s' ∧ GoesOn s' t is h ∧ s'.ops = s.ops ++ [o] ∧
      s'.team? is.team = some t' ∧ t'.ttab = t1.ttab ∧ P t1 o := by
  obtain ⟨c, C, -, hx⟩ := perWarp_one G one a f
  obtain ⟨s1, t1, o, hfc, hb, hp⟩ := hf c C
  have hwarp : s1.warp? is.team = (s.seen t is).warp? is.team := by
    funext j
    simp only [State.warp?, hb.found, seen_team s t is G.team, hb.warps]
  have hawake : Awake s1 := by
    rw [hb.frame]
    exact seen_awake G.awake t is
  have hops : s1.ops = s.ops := by
    rw [hb.frame, seen_state]
  rw [hx, hfc]
  refine ⟨_, t1.commit is s1.cycle (allDo t is h (.done {})), t1, o,
    finish_all hawake rfl (fun j _ => untouched_warp? G hwarp j.1), goesOn_commit G hwarp, ?_, ?_, rfl, hp⟩
  · rw [commit_ops_goes]
    dsimp only
    rw [hops]
  · rw [commit_team? _ _ (allDo_untrapped rfl)]
    refine (congrArg (Option.map _) hb.found).trans ?_
    simp

/-! ### The parameter block -/

/-- A scratchpad access meets nothing where no warp of the team is in a TRY. -/
theorem scratchMeets_calm {s : State} {u : Nat} {t : Team} (ht : s.team? u = some t) (hcalm : NoTry t) (b : Option Nat) (off n : Nat)
    (write : Bool) : scratchMeets s u b off n write = s := by
  unfold scratchMeets
  rw [ht]
  dsimp only
  rw [List.filter_eq_nil_iff.mpr]
  · rfl
  · intro x hx
    rw [hcalm x.1 (List.fst_mem_of_mem_zipIdx hx)]
    simp

theorem noTry_seen {t : Team} (is : Issue) (hcalm : NoTry t) : NoTry (t.seen is) := by
  intro w hw
  obtain ⟨j, hj⟩ := List.mem_iff_getElem?.mp hw
  have hlt : j < t.warps.length := by
    rw [← seen_length t is]
    exact (List.getElem?_eq_some_iff.mp hj).1
  obtain ⟨ls, hls, -⟩ := seen_warp t is j _ (List.getElem?_eq_getElem hlt)
  obtain rfl := Option.some.inj (hj.symm.trans hls)
  exact hcalm t.warps[j] (List.getElem_mem hlt)

theorem readParams_ok {s : State} {c : Lc} {t : Team} {cmd : Nat} {x : MpExt} {p : Params} (ht : s.team? c.is.team = some t)
    (hcalm : NoTry t) (hend : x.pbo.toNat + 64 ≤ 1024 * c.tm.desc.scrK) (hp : params cmd x (cread t.scratch x.pbo.toNat 64) = some p) :
    readParams s c cmd x = (s, .ok p) := by
  unfold readParams
  rw [if_neg (by omega), scratchMeets_calm ht hcalm]
  have hread : scratchRead s c.is.team x.pbo.toNat 64 = cread t.scratch x.pbo.toNat 64 := by
    rw [scratchRead, ht]
    rfl
  simp only [hread, hp]

/-- The tiles that a block names are tiles of the table. -/
theorem params_tiles {cmd : Nat} {x : MpExt} {bs : List Byte} {p : Params} (hp : params cmd x bs = some p) :
    p.st < 32 ∧ p.dt < 32 ∧ p.sc < 32 := by
  unfold params at hp
  dsimp only at hp
  split at hp
  · cases hp
  · obtain rfl := Option.some.inj hp
    exact ⟨Nat.mod_lt _ (by decide), Nat.mod_lt _ (by decide), Nat.mod_lt _ (by decide)⟩

/-! ### The command -/

/-- What a Luna command takes: the kind of grant (R318), whether a scale tile serves it, its destinations, and all its tiles. -/
def lunaKind (cmd : Nat) (p : Params) : Nat := match cmd with | 0 => 1 | 1 => if 128 < p.m then 2 else 0 | _ => 0
def lunaScaled (t : Team) (cmd : Nat) (p : Params) : Bool := (if cmd = 2 then (t.shape p.dt).scale else (t.shape p.st).scale) != 0
def lunaDsts (t : Team) (cmd : Nat) (p : Params) : List Nat :=
  match cmd with | 0 => [] | 1 => [p.dt] | _ => p.dt :: (if lunaScaled t cmd p then [p.sc] else [])
def lunaTiles (t : Team) (cmd : Nat) (p : Params) : List Nat :=
  ([p.st] ++ (if lunaScaled t cmd p then [p.sc] else []) ++ lunaDsts t cmd p).eraseDups

/-- The grant that it takes, if it takes one. -/
def lunaLeave (s : State) (c : Lc) (kind : Nat) : State × Option Wait := if kind = 0 then (s, none) else takeLeave s c kind

/-- The operation as which a command leaves. -/
def lunaOp (i : Instr) (c : Lc) (s : State) (t : Team) (cmd : Nat) (p : Params) : EngOp :=
  let kn := if cmd = 0 then (p.k, p.n) else (p.m, p.k)
  { blankOp i c with
    args := [kn.1, kn.2, tshNat t p.st, tshNat t p.dt, tshNat t p.sc,
      match cmd with | 1 => ((latched s t).map (fun l => l.2.1)).getD 0 | _ => p.n, (lunaScaled t cmd p).toNat, p.za.toNat, p.sat.toNat,
      match p.rm with | .rn => 0 | .rz => 1 | .ru => 2 | .rd => 3 | .rna => 4]
    tiles := lunaDsts t cmd p ++ (lunaTiles t cmd p).filter (fun n => !(lunaDsts t cmd p).contains n), charge := chargeOf (lunaKind cmd p) }

/-- The course of a command, by what it takes. -/
theorem lunaOne_eq (i : Instr) (cmd : Nat) (x : MpExt) (s : State) (c : Lc) : lunaOne i cmd x s c =
    match readParams s c cmd x with
    | (s, .error e) => (s, e)
    | (s, .ok p) =>
      match s.team? c.is.team with
      | none => (s, .stay)
      | some t =>
        match lunaCheck s t cmd p with
        | some e => (s, ill e)
        | none =>
          match firstNot s c.is.team .ready (lunaTiles t cmd p) with
          | some n => waitTile s n
          | none =>
            match lunaLeave s c (lunaKind cmd p) with
            | (s', some w) => (s', .wait w)
            | (s', none) => (addOp (startAll (fillTiles s' c.is.team (lunaDsts t cmd p)) c.is.team (lunaTiles t cmd p))
                (lunaOp i c s' t cmd p), .done {}) := by
  unfold lunaOne
  rfl

/-- A command whose block passes and whose tiles and grant are there. -/
theorem lunaOne_begins {i : Instr} {cmd : Nat} {x : MpExt} {s s' : State} {c : Lc} {t : Team} {p : Params}
    (hread : readParams s c cmd x = (s, .ok p)) (ht : s.team? c.is.team = some t) (hcheck : lunaCheck s t cmd p = none)
    (hready : firstNot s c.is.team .ready (lunaTiles t cmd p) = none) (hleave : lunaLeave s c (lunaKind cmd p) = (s', none)) :
    lunaOne i cmd x s c = (addOp (startAll (fillTiles s' c.is.team (lunaDsts t cmd p)) c.is.team (lunaTiles t cmd p))
      (lunaOp i c s' t cmd p), .done {}) := by
  simp only [lunaOne_eq, hread, ht, hcheck, hready, hleave]

/-- The tiles of a command are those that its block names. -/
theorem lunaTiles_ready {s : State} {u cmd : Nat} {t : Team} {p : Params} (ht : s.team? u = some t) (hst : (t.tile p.st).st = .ready)
    (hdt : cmd ≠ 0 → (t.tile p.dt).st = .ready) (hsc : lunaScaled t cmd p = true → (t.tile p.sc).st = .ready) :
    firstNot s u .ready (lunaTiles t cmd p) = none := by
  have hall : ∀ n ∈ lunaTiles t cmd p, (t.tile n).st = .ready := by
    intro n hn
    rw [lunaTiles, List.mem_eraseDups, List.mem_append, List.mem_append] at hn
    have hscale : n ∈ (if lunaScaled t cmd p = true then [p.sc] else []) → (t.tile n).st = .ready := by
      intro hn
      split at hn
      next hs => exact List.mem_singleton.mp hn ▸ hsc hs
      next => cases hn
    obtain (hn | hn) | hn := hn
    · exact List.mem_singleton.mp hn ▸ hst
    · exact hscale hn
    · unfold lunaDsts at hn
      split at hn
      · cases hn
      · exact List.mem_singleton.mp hn ▸ hdt (by decide)
      · rename_i h0 _
        rcases List.mem_cons.mp hn with rfl | hn
        · exact hdt h0
        · exact hscale hn
  refine List.find?_eq_none.mpr fun n hn => ?_
  simp [State.tile, ht, hall n hn]

/-- Its destination is one of the destinations, and a latched tile is none. -/
theorem dt_mem_lunaDsts (t : Team) {cmd : Nat} (p : Params) (h : cmd ≠ 0) : p.dt ∈ lunaDsts t cmd p := by
  unfold lunaDsts
  split
  · exact absurd rfl h
  · exact List.mem_singleton.mpr rfl
  · exact List.mem_cons_self

/-- The checks of a command do not look at the team's warps. -/
theorem lunaCheck_seen (s : State) (t : Team) (is : Issue) (cmd : Nat) (p : Params) :
    lunaCheck (s.seen t is) (t.seen is) cmd p = lunaCheck s t cmd p := by
  rw [seen_state, seen_frame]
  rfl

/-- The grant that a command takes leaves the rest of its team alone. -/
theorem lunaLeave_grant {s : State} {u : Nat} {t : Team} (ht : s.team? u = some t) {c : Lc} (hc : c.is.team = u)
    (hreq : leaveFor s c = none) {kind : Nat} (hg : kind ≠ 0 → HoldsGrant s t kind) :
    ∃ s' t', lunaLeave s c kind = (s', none) ∧ Booked u s s' t t' ∧ t'.ttab = t.ttab := by
  unfold lunaLeave
  split
  · exact ⟨s, t, rfl, .refl ht, rfl⟩
  next hk => exact takeLeave_grant ht hc hreq (hg hk)

theorem exec_luna {i : Instr} {h : Hdr} {x : MpExt} {cmd : Nat}
    (hi : i = .mlw h x ∧ cmd = 0 ∨ i = .mma h x ∧ cmd = 1 ∨ i = .mq h x ∧ cmd = 2) (s : State) :
    exec i s = perWarp i h s (fun _ _ => none) (lunaOne i cmd x) := by
  rcases hi with ⟨rfl, rfl⟩ | ⟨rfl, rfl⟩ | ⟨rfl, rfl⟩ <;> rfl

end Sys2Proof.Machine
end

section
/-! SUPPORT. O27: Luna's elements, its commands at issue, and their completions. -/

namespace Sys2Proof.Machine

/-- An operation of Luna with its team: what it takes, and the tiles as it begins. -/
structure LunaBegun (t : Team) (i : Instr) (u cmd : Nat) (p : Params) (t1 : Team) (o : EngOp) : Prop where
  ins : o.ins = i
  team : o.team = u
  charge : o.charge = chargeOf (lunaKind cmd p)
  tiles : ∀ k, k < t.ttab.length → (t1.tile k).st = if k ∈ lunaDsts t cmd p then .filling else (t.tile k).st

theorem tile_seen (t : Team) (is : Issue) (n : Nat) : (t.seen is).tile n = t.tile n := by rw [seen_frame]; rfl
theorem lunaScaled_seen (t : Team) (is : Issue) (cmd : Nat) (p : Params) : lunaScaled (t.seen is) cmd p = lunaScaled t cmd p := by
  rw [seen_frame]
  rfl
theorem lunaDsts_seen (t : Team) (is : Issue) (cmd : Nat) (p : Params) : lunaDsts (t.seen is) cmd p = lunaDsts t cmd p := by
  rw [seen_frame]
  rfl

/-- A Luna command whose block passes, whose tiles are READY and whose grant is there leaves as one operation. -/
theorem luna_begins {s : State} {i : Instr} {h : Hdr} {is : Issue} {t : Team} {k : Nat × Nat} {w : Warp} {l : Lane} {x : MpExt}
    {cmd : Nat} {p : Params} (hx : exec i s = perWarp i h s (fun _ _ => none) (lunaOne i cmd x)) (G : Issuing s i h is t)
    (one : OneWarp t is h k) (a : Active t is h k w l) (hcalm : NoTry t) (hend : x.pbo.toNat + 64 ≤ 1024 * t.desc.scrK)
    (hp : params cmd x (cread t.scratch x.pbo.toNat 64) = some p) (hcheck : lunaCheck s t cmd p = none)
    (hst : (t.tile p.st).st = .ready) (hdt : cmd ≠ 0 → (t.tile p.dt).st = .ready)
    (hsc : lunaScaled t cmd p = true → (t.tile p.sc).st = .ready) (hgrant : lunaKind cmd p ≠ 0 → HoldsGrant s t (lunaKind cmd p))
    (hreq : NoRequest t is h) :
    ∃ s' t' t1 o, exec i s = .next s' ∧ GoesOn s' t is h ∧ s'.ops = s.ops ++ [o] ∧ s'.team? is.team = some t' ∧ t'.ttab = t1.ttab ∧
      LunaBegun t i is.team cmd p t1 o := by
  rw [hx]
  refine perWarp_begins G one a fun c C => ?_
  have hteam : (s.seen t is).team? is.team = some (t.seen is) := seen_team s t is G.team
  have hread : readParams (s.seen t is) c cmd x = (s.seen t is, .ok p) := by
    refine readParams_ok (by rw [C.issue]; exact hteam) (noTry_seen is hcalm) (by rw [C.team, seen_desc]; exact hend) ?_
    rw [seen_frame]
    exact hp
  have hready : firstNot (s.seen t is) is.team .ready (lunaTiles (t.seen is) cmd p) = none := by
    refine lunaTiles_ready hteam ?_ ?_ ?_
    · rw [tile_seen]; exact hst
    · rw [tile_seen]; exact hdt
    · rw [tile_seen, lunaScaled_seen]; exact hsc
  have hg : lunaKind cmd p ≠ 0 → HoldsGrant (s.seen t is) (t.seen is) (lunaKind cmd p) := by
    rw [seen_state, seen_frame]
    exact hgrant
  obtain ⟨s1, t1, hleave, hb1, htab1⟩ := lunaLeave_grant hteam (congrArg Issue.team C.issue) (leaveFor_none G C hreq _) hg
  obtain ⟨t2, hb2, hst2⟩ := begun_booked hb1.found (lunaDsts (t.seen is) cmd p) (lunaTiles (t.seen is) cmd p)
  have hone := lunaOne_begins (i := i) hread (by rw [C.issue]; exact hteam) ((lunaCheck_seen s t is cmd p).trans hcheck)
    (by rw [C.issue]; exact hready) hleave
  rw [C.issue, addOp_eq _ rfl rfl] at hone
  refine ⟨_, t2, _, hone, hb1.trans hb2, rfl, congrArg Issue.team C.issue, rfl, fun n hn => ?_⟩
  have hlen : n < t1.ttab.length := by
    rw [htab1, seen_frame]
    exact hn
  rw [hst2 n hlen, tile_congr htab1, tile_seen, lunaDsts_seen]

theorem lunaKind_eq (cmd : Nat) (p : Params) :
    lunaKind cmd p = if cmd = 0 then 1 else if cmd = 1 ∧ 128 < p.m then 2 else 0 := by
  unfold lunaKind
  split
  · rfl
  · simp
  next h0 h1 => rw [if_neg h0, if_neg fun h => h1 h.1]

theorem chargeOf_lunaKind (cmd : Nat) (p : Params) : chargeOf (lunaKind cmd p) = if lunaKind cmd p = 0 then 0 else 16 := by
  unfold lunaKind
  split
  · rfl
  · split <;> rfl
  · rfl

/-- The first tile of an operation is READY where it is a destination. -/
theorem headTile_ready {ns : List Nat} {n : Nat} {t t' : Team} (htiles : ∀ k ∈ ns, k < 32) (hne : ns ≠ []) (hn : 0 < n)
    (hlen : t.ttab.length = 32)
    (hst : ∀ k, k < t.ttab.length → (t'.tile k).st = if k ∈ ns.take n then .ready else (t.tile k).st) :
    (t'.tile (ns.headD 0)).st = .ready := by
  obtain ⟨k, ks, rfl⟩ := List.exists_cons_of_ne_nil hne
  obtain ⟨n, rfl⟩ := Nat.exists_eq_succ_of_ne_zero (Nat.ne_of_gt hn)
  rw [List.headD_cons, hst k (by rw [hlen]; exact htiles k List.mem_cons_self), if_pos]
  rw [List.take_succ_cons]
  exact List.mem_cons_self

/-- Settles O27: an element is a field of bits of its row; at issue a command changes of its team the tiles and the grants
alone; and the fold that completes it writes every element of D once, each apart from the others. -/
theorem lunaRuns : Obligations.LunaRuns := by
  unfold Obligations.LunaRuns
  refine ⟨fun m h r c x => ⟨elemAt_setElem_self m h r c x, fun e he => elemAt_setElem_column m h r x he, fun a ha =>
    setElem_other m h r c x a ha⟩, ?issue, ?mlw, ?mma, ?mq⟩
  case issue =>
    intro s i h is t k w l x cmd p kind hi G one a hcalm hlen hend hp hcheck hst hdt hsc hkind hgrant hreq
    obtain rfl : kind = lunaKind cmd p := hkind.trans (lunaKind_eq cmd p).symm
    obtain ⟨s', t', t1, o, hx, hgo, hops, hteam, htab, B⟩ :=
      luna_begins (exec_luna hi s) G one a hcalm hend hp hcheck hst hdt (fun hs => hsc (bne_iff_ne.mp hs)) hgrant hreq
    obtain ⟨hst32, hdt32, -⟩ := params_tiles hp
    refine ⟨s', o, hx, hgo, hops, B.ins, B.team, B.charge.trans (chargeOf_lunaKind cmd p), fun hcmd => ⟨t', hteam, ?_⟩,
      fun hcmd => ⟨t', hteam, ?_⟩⟩
    · rw [tile_congr htab, B.tiles _ (by omega), if_pos (dt_mem_lunaDsts t p hcmd)]
    · subst hcmd
      rw [tile_congr htab, B.tiles _ (by omega), if_neg (by simp [lunaDsts]), hst]
  case mlw =>
    intro s o t h x hs hop hins ht hruns hfirst
    have hready : lunaReady s o 0 = true := lunaReady_first (by rw [hins]; rfl) hruns hfirst
    obtain ⟨s', t', hx, hteam, hgone, hsame, -⟩ :=
      completed_booked hs ht (f := latchWeights o) (fun _ => rfl) o.id o.tiles []
    refine ⟨s', t', (exec_mlwLatch hop hready).trans hx, hteam, hgone, ?_⟩
    rw [hsame]
    exact ⟨rfl, rfl, rfl, rfl, rfl, rfl, fun r c hr hc => cget_readMatrix _ _ hr hc⟩
  case mma =>
    intro s o t h x areaK hs hop hins ht hruns hfirst hty hok hrows hcols hlen htiles hne
    have hready : lunaReady s o 1 = true := lunaReady_first (by rw [hins]; rfl) hruns hfirst
    obtain ⟨s', t', hx, hteam, hgone, hsame, hst⟩ :=
      completed_booked hs ht (f := mmaFill o) (fun _ => rfl) o.id o.tiles (o.tiles.take 1)
    refine ⟨s', t', (exec_mmaCompletion hop hready).trans hx, hteam, hgone, ?_, ?_⟩
    · exact headTile_ready htiles hne (by decide) hlen hst
    · rw [hsame]
      exact ⟨rfl, fun i j hi hj => elemAt_mmaFill hty hok hrows hcols hi hj, fun b hb => cget_mmaFill hty hb⟩
  case mq =>
    intro s o t h x areaK hs hop hins ht hruns hfirst hlen htiles hne
    have hready : lunaReady s o 2 = true := lunaReady_first (by rw [hins]; rfl) hruns hfirst
    obtain ⟨s', t', hx, hteam, hgone, hsame, hst⟩ :=
      completed_booked hs ht (f := mqFill o) (fun _ => rfl) o.id o.tiles (o.tiles.take (if o.arg 6 = 1 then 2 else 1))
    refine ⟨s', t', (exec_mqCompletion hop hready).trans hx, hteam, hgone, ?_, fun hsc hok hrows hcols _ i j hi hj => ?_⟩
    · exact headTile_ready htiles hne (by split <;> decide) hlen hst
    · rw [hsame]
      exact elemAt_mqFill hsc hok hrows hcols hi hj

end Sys2Proof.Machine
end

section
/-! SUPPORT. The answer of the check of a global address (R60, R222, R345). -/

namespace Sys2Proof.Machine

theorem globalCheck_misaligned (s : State) (space : Nat) {ea : DWord} {n : Nat} (need : Need) (h : ea.toNat % n ≠ 0) :
    globalCheck s space ea n need = .error (.trap 0x07 0 ea 0 false) := by
  simp only [globalCheck, bne_iff_ne, ne_eq, h, not_false_eq_true, if_true]
  rfl

theorem globalCheck_aligned {s : State} {space : Nat} {ea : DWord} {n : Nat} {need : Need} {c : Context} (h : ea.toNat % n = 0)
    (hc : s.ctx? space = some c) : globalCheck s space ea n need =
      match rangeCheck c ea need with | .error sub => .error (.trap 0x10 sub ea 0 false) | .ok ia => .ok ia := by
  unfold globalCheck
  rw [h, hc]
  rfl

/-- The bits above a VA. -/
theorem highBits_eq_zero (ea : DWord) : ea.extractLsb' 56 8 = 0 ↔ ea.toNat < 2 ^ 56 := by
  rw [← BitVec.toNat_inj, BitVec.extractLsb'_toNat, Nat.shiftRight_eq_div_pow]
  have := ea.isLt
  simp only [BitVec.ofNat_eq_ofNat, BitVec.toNat_ofNat]
  omega

theorem rangeCheck_high {c : Context} {ea : DWord} {need : Need} (h : 2 ^ 56 ≤ ea.toNat) : rangeCheck c ea need = .error 0 := by
  have hne : (ea.extractLsb' 56 8 != 0) = true := bne_iff_ne.mpr fun e => absurd ((highBits_eq_zero ea).mp e) (by omega)
  rw [rangeCheck, if_pos hne]

theorem rangeCheck_low {c : Context} {ea : DWord} {need : Need} (h : ea.toNat < 2 ^ 56) : rangeCheck c ea need =
    match rangeOf c ea.toNat with
    | none => .error 1
    | some r => if r.allows need then .ok (r.iaFirst * 65536 + ea.toNat - r.first * 65536) else .error 2 := by
  unfold rangeCheck
  rw [(highBits_eq_zero ea).mpr h]
  rfl

/-- Settles O16: the check looks at the alignment first, then at the high bits, then at the range that holds the address. -/
theorem addressChecks : Obligations.AddressChecks := by
  unfold Obligations.AddressChecks
  refine fun s space ea n need => ⟨globalCheck_misaligned s space need, fun c hn hc => ⟨fun hea => ?_, fun hea hnone => ?_, fun r hea hr => ?_⟩⟩
  · rw [globalCheck_aligned hn hc, rangeCheck_high hea]
  · have hout : rangeOf c ea.toNat = none := by
      refine List.find?_eq_none.mpr fun r hr => ?_
      simp only [Bool.and_eq_true, decide_eq_true_eq, not_and, Nat.not_le]
      exact fun hin => (hnone r hr hin.1).elim (fun hlt => absurd hin.2 (Nat.not_le.mpr hlt)) id
    rw [globalCheck_aligned hn hc, rangeCheck_low hea, hout]
  · have hin : rangeOf c ea.toNat = some r := hr
    have hle : r.first ≤ ea.toNat / 65536 := by
      have := List.find?_some hr
      simp only [Bool.and_eq_true, decide_eq_true_eq] at this
      exact this.1.2
    rw [globalCheck_aligned hn hc, rangeCheck_low hea, hin, ← Nat.add_sub_assoc (by omega)]
    cases hallows : r.allows need <;> simp [hallows]

end Sys2Proof.Machine
end

section
/-! SUPPORT. An instruction that acts once for its warp, or for its one lane: the state that it leaves, where the team's warps
stand as it found them, and what its lanes hold after its result. -/

namespace Sys2Proof.Machine

/-! ### Warps that stand -/

/-- What the commit of a group builds on stands in a warp. -/
structure WarpStands (w w' : Warp) : Prop where
  lanes : w'.lanes = w.lanes
  s : w'.s = w.s
  sup : w'.sup = w.sup
  epoch : w'.epoch = w.epoch

/-- It stands in every warp of a team. -/
def WarpsStand (u : Nat) (s s' : State) : Prop :=
  ∀ j w, s.warp? u j = some w → ∃ w', s'.warp? u j = some w' ∧ WarpStands w w'

theorem WarpStands.refl (w : Warp) : WarpStands w w := ⟨rfl, rfl, rfl, rfl⟩

theorem WarpsStand.of_warp? {u : Nat} {s s' : State} (h : s'.warp? u = s.warp? u) : WarpsStand u s s' :=
  fun j w hw => ⟨w, by rw [h, hw], .refl w⟩

theorem WarpsStand.of_teams {u : Nat} {s s' : State} (h : s'.teams = s.teams) : WarpsStand u s s' :=
  .of_warp? (by funext j; simp only [State.warp?, State.team?, h])

theorem WarpsStand.of_team {u : Nat} {s s' : State} {t t' : Team} (ht : s.team? u = some t) (ht' : s'.team? u = some t')
    (h : t'.warps = t.warps) : WarpsStand u s s' :=
  .of_warp? (by funext j; simp only [State.warp?, ht, ht', h])

theorem warp?_modWarp_any (s : State) (u v i m : Nat) (g : Warp → Warp) :
    (s.modWarp u i g).warp? v m = (s.warp? v m).map (fun w => if v = u ∧ m = i then g w else w) := by
  by_cases hv : v = u
  · subst hv
    simp [warp?_modWarp, eq_comm]
  · have hteam : (s.modWarp u i g).team? v = s.team? v := by
      unfold State.modWarp
      rw [team?_modTeam s u v (fun t => t.modWarp i g) fun _ => rfl]
      simp [hv]
    simp [State.warp?, hteam, hv]

/-- A change of one warp that keeps to the rest of it. -/
theorem warpsStand_modWarp (s : State) (u i : Nat) {f : Warp → Warp} (hf : ∀ w, WarpStands w (f w)) :
    WarpsStand u s (s.modWarp u i f) := by
  intro j w hw
  refine ⟨_, by rw [warp?_modWarp, hw]; rfl, ?_⟩
  split
  · exact hf w
  · exact .refl w

section
variable {s s' : State} {i : Instr} {h : Hdr} {is : Issue} {t : Team} {k : Nat × Nat} {w : Warp} {l : Lane} {r : LaneRes}

theorem untouched_epochs (G : Issuing s i h is t) (hw : ∀ j w, (s.seen t is).warp? is.team j = some w →
    ∃ w', s'.warp? is.team j = some w' ∧ w'.epoch = w.epoch) {j : Nat × Nat} (hj : j ∈ is.lanes) :
    untouched (t.seen is) s' j.1 = true := by
  obtain ⟨w, l, hwj, -⟩ := G.lanes j hj
  obtain ⟨ls, hseen, -⟩ := seen_warp? G hwj
  obtain ⟨w', hw', he⟩ := hw _ _ hseen
  have huid : (t.seen is).uid = is.team := (seen_uid t is).trans (uid_of_team? G.team)
  have hu := untouched_seen G j.1
  unfold untouched at hu ⊢
  rw [huid] at hu ⊢
  rw [hseen] at hu
  rw [hw']
  simpa [he] using hu

theorem untouched_stand (G : Issuing s i h is t) (hw : WarpsStand is.team (s.seen t is) s') {j : Nat × Nat} (hj : j ∈ is.lanes) :
    untouched (t.seen is) s' j.1 = true :=
  untouched_epochs G (fun j w hj => (hw j w hj).elim fun w' ⟨hw', S⟩ => ⟨w', hw', S.epoch⟩) hj

/-! ### The result of the group -/

theorem Ctx.warp_frame {c : Lc} (C : Ctx s i h is t c w l) : c.w = { w with lanes := c.w.lanes } := by
  obtain ⟨ls, hw, -, -⟩ := C.warpEq
  rw [hw]

/-- The number of the warp, and the warp, of any lane of a group of one warp. -/
theorem Ctx.warp_num (G : Issuing s i h is t) (one : OneWarp t is h k) {c : Lc} {w' : Warp} {l' : Lane}
    (C : Ctx s i h is t c w' l') : c.wi = k.1 :=
  one.2 (c.wi, c.slot) ((mem_active G).mpr ⟨_, _, C.active⟩)

theorem Ctx.same_warp (G : Issuing s i h is t) (one : OneWarp t is h k) (a : Active t is h k w l) {c : Lc} {w' : Warp} {l' : Lane}
    (C : Ctx s i h is t c w' l') : w' = w := by
  have hw := C.active.1.2.1
  rw [show (c.wi, c.slot).1 = k.1 from C.warp_num G one, a.1.2.1] at hw
  exact (Option.some.inj hw).symm

/-- A group of one warp whose own check lets it pass: what it does to the state, and its result, are those of one active lane. -/
theorem perWarp_result (G : Issuing s i h is t) (one : OneWarp t is h k) (a : Active t is h k w l)
    {pre : State → Lc → Option LaneRes} (hpre : ∀ c w l, Ctx s i h is t c w l → pre (s.seen t is) c = none)
    (f : State → Lc → State × LaneRes) : ∃ c, Ctx s i h is t c w l ∧ (c.wi, c.slot) = k ∧
      ∀ s' r, f (s.seen t is) c = (s', r) → Awake s' → (∀ j ∈ is.lanes, untouched (t.seen is) s' j.1 = true) → r.trap? = none →
        perWarp i h s pre f = .next (commit s' is (allDo t is h r)) := by
  obtain ⟨c, C, hc, hx⟩ := perWarp_one G one a f
  have hsame : perWarp i h s pre f = perWarp i h s (fun _ _ => none) f := by
    unfold perWarp
    rw [issueWith_quiet G pre _ (fun c hc => (contexts_ctx G hc).elim fun w ⟨l, C⟩ => hpre c w l C),
      issueWith_quiet G (fun _ _ => none) _ (fun _ _ => rfl)]
  refine ⟨c, C, hc, fun s' r hf hs hu hr => ?_⟩
  rw [hsame, hx, hf]
  exact finish_all hs hr hu

theorem perWarp_acts (G : Issuing s i h is t) (one : OneWarp t is h k) (a : Active t is h k w l)
    {pre : State → Lc → Option LaneRes} (hpre : ∀ c w l, Ctx s i h is t c w l → pre (s.seen t is) c = none)
    (f : State → Lc → State × LaneRes) : ∃ c, Ctx s i h is t c w l ∧ (c.wi, c.slot) = k ∧
      ∀ s' r, f (s.seen t is) c = (s', r) → Awake s' → WarpsStand is.team (s.seen t is) s' → r.trap? = none →
        perWarp i h s pre f = .next (commit s' is (allDo t is h r)) := by
  obtain ⟨c, C, hc, hx⟩ := perWarp_result G one a hpre f
  exact ⟨c, C, hc, fun s' r hf hs hw hr => hx s' r hf hs (fun j hj => untouched_stand G hw hj) hr⟩

theorem perLane_acts (G : Issuing s i h is t) (one : OneLane t is h k) (a : Active t is h k w l)
    (f : State → Lc → State × LaneRes) : ∃ c, Ctx s i h is t c w l ∧ (c.wi, c.slot) = k ∧
      ∀ s' r, f (s.seen t is) c = (s', r) → Awake s' → WarpsStand is.team (s.seen t is) s' → r.trap? = none →
        perLane i h s f = .next (commit s' is (allDo t is h r)) := by
  obtain ⟨c, C, hc, -, hx⟩ := perLane_one G one a f
  have hone : activeLanes t is h = [k] := one
  refine ⟨c, C, hc, fun s' r hf hs hw hr => ?_⟩
  rw [hx, hf, show [(k, r)] = (activeLanes t is h).map (fun k => (k, r)) by rw [hone]; rfl]
  exact finish_all hs hr fun j hj => untouched_stand G hw hj

/-! ### The lanes after the result -/

/-- An active lane after the commit, and its warp before it. -/
theorem stand_active (G : Issuing s i h is t) (hw : WarpsStand is.team (s.seen t is) s') (hr : r.trap? = none)
    (a : Active t is h k w l) : ∃ w1, s'.warp? is.team k.1 = some w1 ∧ w1.s = w.s ∧
      (commit s' is (allDo t is h r)).warp? is.team k.1 = some (commitWarp is s'.cycle (allDo t is h r) k.1 w1) ∧
      (commitWarp is s'.cycle (allDo t is h r) k.1 w1).lanes[k.2]? = some (laneWith is s'.cycle w.sup r (seenLane t is k l)) := by
  obtain ⟨ls, hseen, hls⟩ := seen_warp? G a.1.2.1
  obtain ⟨w1, hw1, S⟩ := hw _ _ hseen
  refine ⟨w1, hw1, S.s, commit_warp? (allDo_untrapped hr) hw1, ?_⟩
  rw [commitWarp_get, S.lanes, S.sup, resOf_allDo_active G.nodup ((mem_active G).mpr ⟨w, l, a⟩), hls, a.1.2.2]
  rfl

theorem goesOn_stand (G : Issuing s i h is t) (hw : WarpsStand is.team (s.seen t is) s') :
    GoesOn (commit s' is (allDo t is h (.done {}))) t is h := by
  intro k w l a
  obtain ⟨w1, -, -, hc, hl⟩ := stand_active G (r := .done {}) hw rfl a
  refine ⟨_, _, hc, hl, ?_⟩
  rw [laneWith_done rfl, seenLane_frame]
  exact ⟨rfl, rfl, rfl⟩

theorem waitsIn_stand (G : Issuing s i h is t) (hw : WarpsStand is.team (s.seen t is) s') (x : Wait) :
    WaitsIn (commit s' is (allDo t is h (.wait x))) t is h x := by
  intro k w l a
  obtain ⟨w1, -, -, hc, hl⟩ := stand_active G (r := .wait x) hw rfl a
  obtain ⟨hst, hwait, hpc⟩ := laneWith_wait is s'.cycle w.sup x (seenLane t is k l)
  exact ⟨_, _, hc, hl, hst, hwait, hpc.trans (by rw [seenLane_frame])⟩

/-- The lane whose effect its warp takes, R51. -/
theorem OneWarp.leads (one : OneWarp t is h k) : Leads t is h k := by
  have hall : (activeLanes t is h).filter (fun j => j.1 == k.1) = activeLanes t is h :=
    List.filter_eq_self.mpr fun j hj => by simp [one.2 j hj]
  rw [Leads, hall]
  exact one.1

theorem put_s (r : Reg × Word) {x y : Warp} (h : x.s = y.s) : (x.put r).s = (y.put r).s := by
  unfold Warp.put Warp.wrS
  split
  · split
    · exact h
    · exact congrArg (fun m => cset m _ _) h
  · exact h

theorem puts_s (rs : List (Reg × Word)) {x y : Warp} (h : x.s = y.s) : (rs.foldl Warp.put x).s = (rs.foldl Warp.put y).s := by
  induction rs generalizing x y with
  | nil => exact h
  | cons r rs ih => exact ih (put_s r h)

/-- The leading lane after an effect, in the words of `laneAfter`. -/
theorem stand_effect (G : Issuing s i h is t) (hw : WarpsStand is.team (s.seen t is) s') (a : Active t is h k w l)
    (lead : Leads t is h k) (e : Eff) : ∃ w1 w', s'.warp? is.team k.1 = some w1 ∧
      (commit s' is (allDo t is h (.done e))).warp? is.team k.1 = some w' ∧
      w'.lanes[k.2]? = some (laneAfter t is h s'.cycle (effOf t fun _ _ => e) k w l) ∧
      (e.writesS = true → w'.s = (effWarp e w).s) ∧ w' = commitWarp is s'.cycle (allDo t is h (.done e)) k.1 w1 := by
  obtain ⟨w1, hw1, hs, hc, hl⟩ := stand_active G (r := .done e) hw rfl a
  refine ⟨w1, _, hw1, hc, ?_, fun he => ?_, rfl⟩
  · rw [hl, laneAfter, effOf_active _ a, seenLane]
    cases hg : sameGroup t is.lanes <;> simp [a.1.1, laneWith]
  · have hwriter := group_writer t is h (fun _ => e) k lead he
    rw [commitWarp_s, show allDo t is h (.done e) = groupResults t is h (fun _ => e) from rfl, hwriter]
    exact puts_s e.regs hs

/-- The leading lane after one register or latch is written, and its warp. -/
theorem stand_wrote1 (G : Issuing s i h is t) (hw : WarpsStand is.team (s.seen t is) s') (a : Active t is h k w l)
    (lead : Leads t is h k) (d : Reg) (x : Word) : ∃ w1 w' l', s'.warp? is.team k.1 = some w1 ∧
      (commit s' is (allDo t is h (.done (dst1 h d x)))).warp? is.team k.1 = some w' ∧ w'.lanes[k.2]? = some l' ∧
      Wrote is h d [x] True l w' l' ∧ w' = commitWarp is s'.cycle (allDo t is h (.done (dst1 h d x))) k.1 w1 := by
  obtain ⟨w1, w', hw1, hc, hl, hs, hw'⟩ := stand_effect G hw a lead (dst1 h d x)
  exact ⟨w1, w', _, hw1, hc, hl, (wrote_dst1 a rfl fun _ => hs).alone lead, hw'⟩

/-- The same of a pair of registers. -/
theorem stand_wrote2 (G : Issuing s i h is t) (hw : WarpsStand is.team (s.seen t is) s') (a : Active t is h k w l)
    (lead : Leads t is h k) {d : Reg} {n : Nat} (hd : (info i).dst = .many d n) (x : DWord) :
    ∃ w1 w' l', s'.warp? is.team k.1 = some w1 ∧
      (commit s' is (allDo t is h (.done (dst2 h d x)))).warp? is.team k.1 = some w' ∧ w'.lanes[k.2]? = some l' ∧
      Wrote is h d (twoWords x) True l w' l' ∧ w' = commitWarp is s'.cycle (allDo t is h (.done (dst2 h d x))) k.1 w1 := by
  obtain ⟨w1, w', hw1, hc, hl, hs, hw'⟩ := stand_effect G hw a lead (dst2 h d x)
  obtain ⟨hlatch, hodd⟩ := pair_checks (G.checks k a.1.1 w l a.1.2.1 a.1.2.2 a.2) hd
  exact ⟨w1, w', _, hw1, hc, hl, (wrote_dst2 a rfl hlatch hodd fun _ => hs).alone lead, hw'⟩

/-! ### The team and the state after the result -/

theorem commit_team {u : Team} (hr : r.trap? = none) (hu : s'.team? is.team = some u) :
    (commit s' is (allDo t is h r)).team? is.team = some (u.commit is s'.cycle (allDo t is h r)) := by
  rw [commit_team? _ _ (allDo_untrapped hr), hu]
  simp

/-- Results that write no register overtake nothing. -/
theorem commit_ops_plain (hr : ∀ e, r.eff? = some e → e.written = [] ∧ e.latch = none) (htrap : r.trap? = none) :
    (commit s' is (allDo t is h r)).ops = s'.ops := by
  have hstill : (allDo t is h r).foldl (overtakes is.team) s' = s' := by
    refine overtakes_still fun x hx e he => ?_
    simp only [allDo, idleLanes, List.mem_append, List.mem_map] at hx
    obtain ⟨k, -, rfl⟩ | ⟨k, -, rfl⟩ := hx
    · exact hr e he
    · obtain rfl := Option.some.inj he
      exact ⟨rfl, rfl⟩
  unfold commit
  rw [trapWarps_untrapped _ _ _ (allDo_untrapped htrap)]
  change ((allDo t is h r).foldl (overtakes is.team) s').ops = s'.ops
  rw [hstill]

theorem commit_ops_waits (x : Wait) : (commit s' is (allDo t is h (.wait x))).ops = s'.ops :=
  commit_ops_plain (fun _ he => nomatch he) rfl

end

end Sys2Proof.Machine
end

section
/-! SUPPORT. Tiles are declared, freed and given shapes: what these leave of the tile table and of the shapes (R14, R62, R63, R236,
R237). -/

namespace Sys2Proof.Machine

/-! ### One entry of the tile table -/

section
variable {u : Nat} {s s' : State} {t t' : Team}

theorem Booked.awake (B : Booked u s s' t t') (hs : Awake s) : Awake s' := by
  rw [B.frame]
  exact hs

theorem Booked.mem (B : Booked u s s' t t') : s'.mem = s.mem := by rw [B.frame]

theorem Booked.stand (B : Booked u s s' t t') (ht : s.team? u = some t) : WarpsStand u s s' := .of_team ht B.found B.warps

/-- The tile table after one entry is changed. -/
theorem tile_modified {n : Nat} {f : TileEnt → TileEnt} (htab : t'.ttab = t.ttab.modify n f) (hn : n < t.ttab.length) (m : Nat) :
    t'.tile m = if m = n then f (t.tile n) else t.tile m := by
  unfold Team.tile
  rw [htab, List.getElem?_modify]
  split
  next hmn => subst hmn; simp [List.getElem?_eq_getElem hn]
  next hmn => simp [Ne.symm hmn]

theorem team?_modTeam_self (ht : s.team? u = some t) {f : Team → Team} (hf : ∀ t, (f t).uid = t.uid) :
    (s.modTeam u f).team? u = some (f t) := by
  rw [team?_modTeam s u u f hf, ht]
  simp

theorem state_tile (ht : s.team? u = some t) (n : Nat) : s.tile u n = t.tile n := by simp [State.tile, ht]

theorem setTile_empty_booked (ht : s.team? u = some t) (hd : NoDebugBlock s t.space) (n : Nat) (copyIn : Bool) :
    ∃ t', Booked u s (setTile s u n .empty copyIn) t t' ∧ t'.ttab = t.ttab.modify n (fun e => { e with st := .empty }) := by
  unfold setTile
  simp only [ht, Bool.and_false, Bool.false_eq_true, if_false, show (TileSt.empty == .filling) = false from rfl,
    show (TileSt.empty == .ready) = false from rfl]
  split
  · rw [stamp_noBlock (by exact hd)]
    exact ⟨_, booked_modTeam ht (fun _ => rfl) rfl, rfl⟩
  · exact ⟨_, booked_modTeam ht (fun _ => rfl) rfl, rfl⟩

/-- One entry of a team's tile table is changed. -/
def Team.modTile (t : Team) (n : Nat) (f : TileEnt → TileEnt) : Team := { t with ttab := t.ttab.modify n f }

theorem modTile_tile {n : Nat} (f : TileEnt → TileEnt) (hn : n < t.ttab.length) (m : Nat) :
    (t.modTile n f).tile m = if m = n then f (t.tile n) else t.tile m :=
  tile_modified rfl hn m

theorem modTile_booked (ht : s.team? u = some t) (n : Nat) (f : TileEnt → TileEnt) :
    Booked u s (s.modTeam u (fun t => t.modTile n f)) t (t.modTile n f) :=
  booked_modTeam ht (fun _ => rfl) rfl

def TileEnt.disarm (e : TileEnt) : TileEnt := { e with arm := false, keep := false }

theorem freeTile_eq (ht : s.team? u = some t) (n : Nat) : freeTile s u n =
    if ((t.modTile n TileEnt.disarm).tile n).st = .empty then s.modTeam u (fun t => t.modTile n TileEnt.disarm)
    else setTile (s.modTeam u (fun t => t.modTile n TileEnt.disarm)) u n .empty false := by
  rw [← state_tile (modTile_booked ht n TileEnt.disarm).found n]
  unfold freeTile
  simp only [beq_iff_eq]
  rfl

/-- A freed tile is EMPTY, with no arm and with the delivery that waits for it (R62, R63). -/
theorem freeTile_booked (ht : s.team? u = some t) (hd : NoDebugBlock s t.space) {n : Nat} (hn : n < t.ttab.length) :
    ∃ t', Booked u s (freeTile s u n) t t' ∧
      ∀ m, t'.tile m = if m = n then ⟨.empty, false, false, (t.tile n).pend⟩ else t.tile m := by
  have B := modTile_booked ht n TileEnt.disarm
  have htile := modTile_tile TileEnt.disarm hn
  rw [freeTile_eq ht]
  split
  next hst =>
    refine ⟨_, B, fun m => ?_⟩
    have hempty : (t.tile n).st = .empty := by rwa [htile, if_pos rfl] at hst
    rw [htile]
    split
    · simp [TileEnt.disarm, hempty]
    · rfl
  next =>
    obtain ⟨t', B', htab⟩ := setTile_empty_booked B.found hd n false
    have hlen : n < (t.modTile n TileEnt.disarm).ttab.length := by rwa [Team.modTile, List.length_modify]
    refine ⟨t', B.trans B', fun m => ?_⟩
    rw [tile_modified htab hlen, htile, htile]
    split <;> simp [TileEnt.disarm]

end

/-! ### Waits on tiles -/

theorem tileIdle_iff (e : TileEnt) : tileIdle e = true ↔ e.st = .empty ∨ e.st = .ready := by
  simp [tileIdle]

theorem not_tileIdle {e : TileEnt} (h : e.st = .filling ∨ e.st = .draining) : tileIdle e = false := by
  rcases h with h | h <;> simp [tileIdle, h]

section
variable {s : State} {i : Instr} {h : Hdr} {is : Issue} {t : Team} {k : Nat × Nat} {w : Warp} {l : Lane}

theorem seen_noBlock (hd : NoDebugBlock s t.space) : NoDebugBlock (s.seen t is) (t.seen is).space := by
  rw [seen_state, seen_frame]
  exact hd

theorem Ctx.team? (G : Issuing s i h is t) {c : Lc} (C : Ctx s i h is t c w l) :
    (s.seen t is).team? c.is.team = some (t.seen is) := by
  rw [C.issue]
  exact seen_team s t is G.team

theorem Ctx.stateTile (G : Issuing s i h is t) {c : Lc} (C : Ctx s i h is t c w l) (n : Nat) :
    (s.seen t is).tile c.is.team n = t.tile n := by
  rw [state_tile (C.team? G), tile_seen]

/-- A group of one warp that only waits. -/
theorem perWarp_waits (G : Issuing s i h is t) (one : OneWarp t is h k) (a : Active t is h k w l)
    {pre : State → Lc → Option LaneRes} (hpre : ∀ c w l, Ctx s i h is t c w l → pre (s.seen t is) c = none)
    {f : State → Lc → State × LaneRes} {x : Wait} (hf : ∀ c, Ctx s i h is t c w l → f (s.seen t is) c = (s.seen t is, .wait x)) :
    ∃ s', perWarp i h s pre f = .next s' ∧ WaitsIn s' t is h x := by
  obtain ⟨c, C, -, hx⟩ := perWarp_acts G one a hpre f
  exact ⟨_, hx _ _ (hf c C) (seen_awake G.awake t is) (.of_teams rfl) rfl, waitsIn_stand G (.of_teams rfl) x⟩

/-- A group of one warp that goes on with its team changed, but for the warps. -/
theorem perWarp_goesOn (G : Issuing s i h is t) (one : OneWarp t is h k) (a : Active t is h k w l)
    {pre : State → Lc → Option LaneRes} (hpre : ∀ c w l, Ctx s i h is t c w l → pre (s.seen t is) c = none)
    {f : State → Lc → State × LaneRes} {P : State → Team → Prop}
    (hf : ∀ c, Ctx s i h is t c w l → ∃ s1 t1, f (s.seen t is) c = (s1, .done {}) ∧ Awake s1 ∧ s1.team? is.team = some t1 ∧
      t1.warps = (t.seen is).warps ∧ P s1 t1) :
    ∃ s1 t1 now, perWarp i h s pre f = .next (commit s1 is (allDo t is h (.done {}))) ∧
      GoesOn (commit s1 is (allDo t is h (.done {}))) t is h ∧
      (commit s1 is (allDo t is h (.done {}))).team? is.team = some (t1.commit is now (allDo t is h (.done {}))) ∧ P s1 t1 := by
  obtain ⟨c, C, -, hx⟩ := perWarp_acts G one a hpre f
  obtain ⟨s1, t1, hc, hs1, ht1, hwarps, hP⟩ := hf c C
  have hw : WarpsStand is.team (s.seen t is) s1 := .of_team (seen_team s t is G.team) ht1 hwarps
  exact ⟨s1, t1, s1.cycle, hx _ _ hc hs1 hw rfl, goesOn_stand G hw, commit_team rfl ht1, hP⟩

theorem commit_mem (s1 : State) {r : LaneRes} (hr : r.trap? = none) : (commit s1 is (allDo t is h r)).mem = s1.mem := by
  rw [commit_frame _ is (allDo_untrapped hr)]

/-! ### TDECL and TFREE -/

/-- What TDECL does for its warp, and the shape that it declares there. -/
def tdeclOne (n : Nat) (src : TdeclSrc) (s : State) (c : Lc) : State × LaneRes :=
  if !tileIdle (s.tile c.is.team n) then waitTile s n
  else
    let x := match src with | .reg a => c.pair a | .imm x => x
    if !(shapeOf x).ok c.tm.desc.tileK then (s, tshape)
    else
      let s := freeTile s c.is.team n
      (s.modTeam c.is.team (fun tm => { tm with tsh := cset tm.tsh n x }), .done {})

def declared (w : Warp) (l : Lane) : TdeclSrc → DWord | .reg a => readPair w l a | .imm x => x

/-- What TFREE does for its warp. -/
def tfreeOne (n : Nat) (s : State) (c : Lc) : State × LaneRes :=
  if !tileIdle (s.tile c.is.team n) then waitTile s n else (freeTile s c.is.team n, .done {})

theorem exec_tdecl (h : Hdr) (n : Fin 32) (src : TdeclSrc) (s : State) :
    exec (.tdecl h n src) s = perWarp (.tdecl h n src) h s (fun _ _ => none) (tdeclOne n.val src) := rfl
theorem exec_tfree (h : Hdr) (n : Fin 32) (s : State) :
    exec (.tfree h n) s = perWarp (.tfree h n) h s (fun _ _ => none) (tfreeOne n.val) := rfl

theorem tdeclOne_busy {s : State} {c : Lc} {n : Nat} (src : TdeclSrc) (h : tileIdle (s.tile c.is.team n) = false) :
    tdeclOne n src s c = (s, .wait (.tile n)) := by
  simp [tdeclOne, h, waitTile]

theorem tfreeOne_busy {s : State} {c : Lc} {n : Nat} (h : tileIdle (s.tile c.is.team n) = false) :
    tfreeOne n s c = (s, .wait (.tile n)) := by
  rw [tfreeOne, h]
  rfl

theorem tfreeOne_idle {s : State} {c : Lc} {n : Nat} (h : tileIdle (s.tile c.is.team n) = true) :
    tfreeOne n s c = (freeTile s c.is.team n, .done {}) := by
  rw [tfreeOne, h]
  rfl

theorem tdeclOne_idle {c : Lc} {w : Warp} {l : Lane} {n : Fin 32} {src : TdeclSrc} (G : Issuing s (.tdecl h n src) h is t)
    (C : Ctx s (.tdecl h n src) h is t c w l) (s' : State) (hidle : tileIdle (s'.tile c.is.team n.val) = true)
    (hok : (shapeOf (declared w l src)).ok t.desc.tileK = true) : tdeclOne n.val src s' c =
      ((freeTile s' c.is.team n.val).modTeam c.is.team (fun tm => { tm with tsh := cset tm.tsh n.val (declared w l src) }), .done {}) := by
  cases src with
  | imm y =>
    rw [declared] at hok ⊢
    simp [tdeclOne, hidle, C.team, hok]
  | reg r =>
    rw [declared] at hok ⊢
    have hpair : c.pair r = readPair w l r := C.pair G r 2 (by simp [info])
    simp [tdeclOne, hidle, C.team, hpair, hok]

theorem execTdecl_waits {n : Fin 32} {src : TdeclSrc} (G : Issuing s (.tdecl h n src) h is t) (one : OneWarp t is h k)
    (a : Active t is h k w l) (hst : (t.tile n.val).st = .filling ∨ (t.tile n.val).st = .draining) :
    ∃ s', exec (.tdecl h n src) s = .next s' ∧ WaitsIn s' t is h (.tile n.val) := by
  rw [exec_tdecl]
  exact perWarp_waits G one a (fun _ _ _ _ => rfl) fun c C =>
    tdeclOne_busy src ((congrArg tileIdle (C.stateTile G n.val)).trans (not_tileIdle hst))

theorem execTfree_waits {n : Fin 32} (G : Issuing s (.tfree h n) h is t) (one : OneWarp t is h k)
    (a : Active t is h k w l) (hst : (t.tile n.val).st = .filling ∨ (t.tile n.val).st = .draining) :
    ∃ s', exec (.tfree h n) s = .next s' ∧ WaitsIn s' t is h (.tile n.val) := by
  rw [exec_tfree]
  exact perWarp_waits G one a (fun _ _ _ _ => rfl) fun c C =>
    tfreeOne_busy ((congrArg tileIdle (C.stateTile G n.val)).trans (not_tileIdle hst))

/-- What a tile table is with one tile freed (R62). -/
def FreedTile (t t' : Team) (n : Nat) : Prop :=
  ∀ m, t'.tile m = if m = n then ⟨.empty, false, false, (t.tile n).pend⟩ else t.tile m

/-- Freeing a tile of the team that the group's instruction finds. -/
theorem freeTile_seen (G : Issuing s i h is t) (hd : NoDebugBlock s t.space) (hlen : t.ttab.length = 32) (n : Fin 32) :
    ∃ t1, Booked is.team (s.seen t is) (freeTile (s.seen t is) is.team n.val) (t.seen is) t1 ∧ FreedTile t t1 n.val := by
  obtain ⟨t1, B, htile⟩ := freeTile_booked (seen_team s t is G.team) (seen_noBlock hd) (n := n.val)
    (by rw [seen_frame]; exact lt_of_lt_of_eq n.isLt hlen.symm)
  exact ⟨t1, B, fun m => by rw [htile, tile_seen, tile_seen]⟩

theorem execTfree_frees {n : Fin 32} (G : Issuing s (.tfree h n) h is t) (one : OneWarp t is h k) (a : Active t is h k w l)
    (hd : NoDebugBlock s t.space) (hlen : t.ttab.length = 32) (hst : (t.tile n.val).st = .empty ∨ (t.tile n.val).st = .ready) :
    ∃ s' t', exec (.tfree h n) s = .next s' ∧ GoesOn s' t is h ∧ s'.team? is.team = some t' ∧ FreedTile t t' n.val ∧
      t'.tsh = t.tsh ∧ t'.tileMem = t.tileMem ∧ s'.mem = s.mem := by
  obtain ⟨t0, B, hfree⟩ := freeTile_seen G hd hlen n
  obtain ⟨s1, t1, now, hx, hgo, ht, B, hfree⟩ := perWarp_goesOn G one a (pre := fun _ _ => none) (fun _ _ _ _ => rfl) (f := tfreeOne n.val)
    (P := fun s1 t1 => Booked is.team (s.seen t is) s1 (t.seen is) t1 ∧ FreedTile t t1 n.val)
    fun c C => ⟨_, t0, tfreeOne_idle ((congrArg tileIdle (C.stateTile G n.val)).trans ((tileIdle_iff _).mpr hst)), by
      rw [C.issue]
      exact ⟨B.awake (seen_awake G.awake t is), B.found, B.warps, B, hfree⟩⟩
  refine ⟨_, _, hx, hgo, ht, hfree, ?_, ?_, ?_⟩
  · exact (congrArg Team.tsh B.same).trans (by rw [seen_frame])
  · exact (congrArg Team.tileMem B.same).trans (by rw [seen_frame])
  · rw [commit_mem s1 rfl, B.mem, seen_state]

theorem execTdecl_declares {n : Fin 32} {src : TdeclSrc} (G : Issuing s (.tdecl h n src) h is t)
    (one : OneWarp t is h k) (a : Active t is h k w l) (hd : NoDebugBlock s t.space) (hlen : t.ttab.length = 32)
    (hst : (t.tile n.val).st = .empty ∨ (t.tile n.val).st = .ready) (hok : (shapeOf (declared w l src)).ok t.desc.tileK = true) :
    ∃ s' t', exec (.tdecl h n src) s = .next s' ∧ GoesOn s' t is h ∧ s'.team? is.team = some t' ∧ FreedTile t t' n.val ∧
      t'.tsh = cset t.tsh n.val (declared w l src) ∧ t'.tileMem = t.tileMem ∧ s'.mem = s.mem := by
  obtain ⟨t0, B, hfree⟩ := freeTile_seen G hd hlen n
  obtain ⟨s1, t1, now, hx, hgo, ht, hfree, htsh, hmem, hs1⟩ := perWarp_goesOn G one a (pre := fun _ _ => none) (fun _ _ _ _ => rfl) (f := tdeclOne n.val src)
    (P := fun s1 t1 => FreedTile t t1 n.val ∧ t1.tsh = cset t.tsh n.val (declared w l src) ∧ t1.tileMem = t.tileMem ∧ s1.mem = s.mem)
    fun c C => ⟨_, { t0 with tsh := cset t0.tsh n.val (declared w l src) },
      tdeclOne_idle G C _ ((congrArg tileIdle (C.stateTile G n.val)).trans ((tileIdle_iff _).mpr hst)) hok, by
      rw [C.issue]
      refine ⟨B.awake (seen_awake G.awake t is), ?_, B.warps, hfree, ?_, ?_, ?_⟩
      · exact team?_modTeam_self B.found (f := fun tm => { tm with tsh := cset tm.tsh n.val (declared w l src) }) (fun _ => rfl)
      · exact congrArg (fun m => cset m n.val _) ((congrArg Team.tsh B.same).trans (by rw [seen_frame]))
      · exact (congrArg Team.tileMem B.same).trans (by rw [seen_frame])
      · exact B.mem.trans (by rw [seen_state])⟩
  exact ⟨_, _, hx, hgo, ht, hfree, htsh, hmem, (commit_mem s1 rfl).trans hs1⟩

/-! ### Shapes as registers -/

theorem extract_appended (a : BitVec 4) (b : BitVec 2) (c : BitVec 58) : (a ++ b ++ c).extractLsb' 0 58 = c ∧
    (a ++ b ++ c).extractLsb' 58 2 = b ∧ (a ++ b ++ c).extractLsb' 60 4 = a := by
  refine ⟨?_, ?_, ?_⟩ <;> apply BitVec.eq_of_getLsbD_eq <;> intro j hj <;>
    rw [BitVec.getLsbD_extractLsb', BitVec.getLsbD_append]
  · simp [hj]
  · rw [BitVec.getLsbD_append]
    simp [hj]
  · rw [BitVec.getLsbD_append]
    simp [hj, show ¬ 60 + j < 58 by omega, show ¬ 60 + j - 58 < 2 by omega, show 60 + j - 58 - 2 = j by omega]

/-- TYPE and SCALE are taken unless they are reserved, and the rest always (R14). -/
theorem shapeWrite_fields (old new : DWord) : (shapeWrite old new).extractLsb' 0 58 = new.extractLsb' 0 58 ∧
    (shapeWrite old new).extractLsb' 58 2 = (if new.extractLsb' 58 2 = 3#2 then old.extractLsb' 58 2 else new.extractLsb' 58 2) ∧
    (shapeWrite old new).extractLsb' 60 4 =
      (if new.extractLsb' 60 4 = 15#4 then old.extractLsb' 60 4 else new.extractLsb' 60 4) :=
  extract_appended _ _ _

/-- The team with a value moved to one of its shape registers. -/
def Team.writeShape (t : Team) (n : Nat) (x : DWord) : Team := { t with tsh := cset t.tsh n (shapeWrite (cget t.tsh n) x) }

/-- What MOV Ts, s does for its warp. -/
def shapeOne (n : Nat) (a : Src) (s : State) (c : Lc) : State × LaneRes :=
  if !tileIdle (s.tile c.is.team n) then waitTile s n
  else (s.modTeam c.is.team (fun tm => { tm with tsh := cset tm.tsh n (shapeWrite (cget tm.tsh n) (c.pair a)) }), .done {})

theorem exec_movTshFromS (h : Hdr) (n : Fin 32) (a : Src) (s : State) :
    exec (.movTshFromS h n a) s = perWarp (.movTshFromS h n a) h s (fun _ _ => none) (shapeOne n.val a) := rfl

theorem shapeOne_idle {s : State} {c : Lc} {n : Nat} (a : Src) (h : tileIdle (s.tile c.is.team n) = true) :
    shapeOne n a s c = (s.modTeam c.is.team (fun tm => tm.writeShape n (c.pair a)), .done {}) := by
  simp [shapeOne, h, Team.writeShape]

theorem execMovTshFromS_writes {n : Fin 32} {b : Src} (G : Issuing s (.movTshFromS h n b) h is t) (one : OneWarp t is h k)
    (a : Active t is h k w l) (hst : (t.tile n.val).st = .empty ∨ (t.tile n.val).st = .ready) :
    ∃ s' t', exec (.movTshFromS h n b) s = .next s' ∧ GoesOn s' t is h ∧ s'.team? is.team = some t' ∧
      t'.tsh = cset t.tsh n.val (shapeWrite (cget t.tsh n.val) (readPair w l b)) ∧ t'.ttab = t.ttab ∧ s'.mem = s.mem := by
  obtain ⟨s1, t1, now, hx, hgo, ht, htsh, htab, hs1⟩ := perWarp_goesOn G one a (pre := fun _ _ => none) (fun _ _ _ _ => rfl)
    (f := shapeOne n.val b)
    (P := fun s1 t1 => t1.tsh = cset t.tsh n.val (shapeWrite (cget t.tsh n.val) (readPair w l b)) ∧ t1.ttab = t.ttab ∧ s1.mem = s.mem)
    fun c C => ⟨_, (t.seen is).writeShape n.val (c.pair b),
      shapeOne_idle b ((congrArg tileIdle (C.stateTile G n.val)).trans ((tileIdle_iff _).mpr hst)), seen_awake G.awake t is, by
      rw [C.issue]
      exact team?_modTeam_self (seen_team s t is G.team) (f := fun tm => tm.writeShape n.val (c.pair b)) (fun _ => rfl), rfl, by
      have hpair : c.pair b = readPair w l b := C.pair G b 2 (by simp [info])
      rw [hpair, seen_frame, State.modTeam_mem, seen_state]
      exact ⟨rfl, rfl, rfl⟩⟩
  exact ⟨_, _, hx, hgo, ht, htsh, htab, (commit_mem s1 rfl).trans hs1⟩

theorem execMovSFromTsh_reads {d : Reg} {n : Fin 32} (G : Issuing s (.movSFromTsh h d n) h is t) (one : OneWarp t is h k)
    (a : Active t is h k w l) : ∃ s' w' l', exec (.movSFromTsh h d n) s = .next s' ∧ s'.warp? is.team k.1 = some w' ∧
      w'.lanes[k.2]? = some l' ∧ Wrote is h d (twoWords (cget t.tsh n.val)) True l w' l' := by
  obtain ⟨c, C, -, hx⟩ := perWarp_acts G one a (pre := fun _ _ => none) (fun _ _ _ _ => rfl)
    (fun s c => (s, .done (dst2 h d (((s.team? c.is.team).map (fun tm => cget tm.tsh n.val)).getD 0))))
  have hval : (((s.seen t is).team? c.is.team).map (fun tm => cget tm.tsh n.val)).getD 0 = cget t.tsh n.val := by
    rw [C.team? G, seen_frame]
    rfl
  obtain ⟨-, w', l', -, hw, hl, hwrote, -⟩ := stand_wrote2 G (.of_teams rfl) a one.leads (n := 2) rfl (cget t.tsh n.val)
  exact ⟨_, w', l', hx _ _ (by rw [hval]) (seen_awake G.awake t is) (.of_teams rfl) rfl, hw, hl, hwrote⟩

theorem execTstate_completes {d : Reg} {n : Fin 32} (G : Issuing s (.tstate h d n) h is t) :
    Completes (.tstate h d n) s h is t (fun k _ l w' l' =>
      Wrote is h d [BitVec.ofNat 32 (tileWord (t.tile n.val))] (Leads t is h k) l w' l') :=
  completes_pure G (fun c => .done (dst1 h d (BitVec.ofNat 32 (tileWord (c.tm.tile n.val))))) rfl
    (fun _ _ => dst1 h d (BitVec.ofNat 32 (tileWord (t.tile n.val)))) (fun c _ _ C => by rw [C.team, tile_seen])
    _ fun _ _ _ a _ hs => wrote_dst1 a rfl hs

end

/-- Settles O22: each instruction changes of its team what it names of the tile table or of the shapes, or waits for the tile. -/
theorem tilesAreDeclared : Obligations.TilesAreDeclared := by
  unfold Obligations.TilesAreDeclared
  refine ⟨⟨?tdecl, ?tfree⟩, ?tstate, ?write, ?read⟩
  case tdecl =>
    intro s h is t k w l n src x G one a hd hlen hx
    obtain rfl : x = declared w l src := by rw [hx]; cases src <;> rfl
    refine ⟨fun hst hok => ?_, fun hst => execTdecl_waits G one a hst⟩
    obtain ⟨s', t', hexec, hgo, ht, hfree, htsh, hmem, hs'⟩ := execTdecl_declares G one a hd hlen hst hok
    refine ⟨s', t', hexec, hgo, ht, ?_, ?_, ?_, fun m => ?_, fun m hm => ?_, hmem, hs'⟩
    · rw [hfree, if_pos rfl]
    · rw [hfree, if_pos rfl]
    · rw [hfree, if_pos rfl]
    · rw [htsh, cget_cset]
    · rw [hfree, if_neg hm]
  case tfree =>
    intro s h is t k w l n G one a hd hlen
    refine ⟨fun hst => ?_, fun hst => execTfree_waits G one a hst⟩
    obtain ⟨s', t', hexec, hgo, ht, hfree, htsh, hmem, hs'⟩ := execTfree_frees G one a hd hlen hst
    refine ⟨s', t', hexec, hgo, ht, ?_, ?_, ?_, htsh, fun m hm => ?_, hmem, hs'⟩
    · rw [hfree, if_pos rfl]
    · rw [hfree, if_pos rfl]
    · rw [hfree, if_pos rfl]
    · rw [hfree, if_neg hm]
  case tstate => exact fun s h is t d n G => execTstate_completes G
  case write =>
    rintro s h is t k w l n b x y G one a hst rfl rfl
    obtain ⟨s', t', hexec, hgo, ht, htsh, htab, hs'⟩ := execMovTshFromS_writes G one a hst
    obtain ⟨hrest, hscale, htype⟩ := shapeWrite_fields (cget t.tsh n.val) (readPair w l b)
    refine ⟨s', t', _, hexec, hgo, ht, rfl, ?_, ?_, ?_, fun m hm => ?_, htab, hs'⟩
    · rw [htsh, cget_cset_self, hrest]
    · rw [htsh, cget_cset_self, hscale]
    · rw [htsh, cget_cset_self, htype]
    · rw [htsh, cget_cset_ne _ _ hm]
  case read => exact fun s h is t k w l d n G one a => execMovSFromTsh_reads G one a

end Sys2Proof.Machine
end

section
/-! SUPPORT. O26: message channels, from the lane that sends a flit to the lane that receives it (R74 to R76, R241). -/

namespace Sys2Proof.Machine

/-! ### Channels of a warp -/

theorem chan_setChan (w : Warp) (q : List DWord) {a b : Nat} (ha : a < 4) (hb : b < 4) :
    (w.setChan a q).chan b = if b = a then q else w.chan b := by
  interval_cases a <;> interval_cases b <;> rfl

theorem setChan_frame (w : Warp) (n : Nat) (q : List DWord) : w.setChan n q = { w with
    q0 := (w.setChan n q).q0, q1 := (w.setChan n q).q1, q2 := (w.setChan n q).q2, q3 := (w.setChan n q).q3 } := by
  unfold Warp.setChan
  split <;> rfl

theorem setChan_stands (w : Warp) (n : Nat) (q : List DWord) : WarpStands w (w.setChan n q) := by
  rw [setChan_frame]
  exact ⟨rfl, rfl, rfl, rfl⟩

theorem commitWarp_chan (is : Issue) (now : Nat) (rs : List ((Nat × Nat) × LaneRes)) (j : Nat) (w : Warp) (n : Nat) :
    (commitWarp is now rs j w).chan n = w.chan n := by
  rw [commitWarp_frame]
  rfl

theorem destChan_toNat (x : Word) : (x.extractLsb' 0 2).toNat = x.toNat % 4 := by
  simp [BitVec.extractLsb'_toNat]

/-! ### A flit leaves -/

section
variable {s : State} {h : Hdr} {is : Issue} {t : Team} {k : Nat × Nat} {w : Warp} {l : Lane} {q : Fin 4}

/-- What MOV Qn, v does for a lane. -/
def sendOne (q : Fin 4) (a : Src) (s : State) (c : Lc) : State × LaneRes :=
  let dest := cget c.w.qdest q.val
  if !dest.getLsbD 31 then (s, ill .qoff)
  else
    ({ s with
      flits := s.flits ++ [⟨s.serial, c.space, c.is.team, c.wi, c.slot, q.val, dest, c.pair a, false⟩]
      serial := s.serial + 1 }, .wait (.flit s.serial))

/-- What MOV v, Qn does for a lane. -/
def takeOne (h : Hdr) (d : Reg) (q : Fin 4) (s : State) (c : Lc) : State × LaneRes :=
  match s.warp? c.is.team c.wi with
  | none => (s, .stay)
  | some w =>
    match w.chan q.val with
    | [] => (s, .wait .retry)
    | x :: rest => (s.modWarp c.is.team c.wi (fun w => w.setChan q.val rest), .done (dst2 h d x))

theorem exec_movQFromV (h : Hdr) (q : Fin 4) (a : Src) (s : State) :
    exec (.movQFromV h q a) s = perLane (.movQFromV h q a) h s (sendOne q a) := rfl
theorem exec_movVFromQ (h : Hdr) (d : Reg) (q : Fin 4) (s : State) :
    exec (.movVFromQ h d q) s = perLane (.movVFromQ h d q) h s (takeOne h d q) := rfl

/-- The flit that a lane sends on one of its channels, and the state with it. -/
def sentFlit (s : State) (space u : Nat) (k : Nat × Nat) (q : Fin 4) (w : Warp) (l : Lane) (b : Src) : Flit :=
  ⟨s.serial, space, u, k.1, k.2, q.val, cget w.qdest q.val, readPair w l b, false⟩

def State.send (s : State) (f : Flit) : State := { s with flits := s.flits ++ [f], serial := s.serial + 1 }

theorem sendOne_open {b : Src} (G : Issuing s (.movQFromV h q b) h is t) {c : Lc} (C : Ctx s (.movQFromV h q b) h is t c w l)
    (hck : (c.wi, c.slot) = k) (hopen : (cget w.qdest q.val).getLsbD 31 = true) : sendOne q b (s.seen t is) c =
      ((s.seen t is).send (sentFlit s c.space is.team k q w l b), .wait (.flit s.serial)) := by
  subst hck
  have hdest : c.w.qdest = w.qdest := by rw [C.warp_frame]
  have hpair : c.pair b = readPair w l b := C.pair G b 2 (by simp [info])
  have hserial : (s.seen t is).serial = s.serial := by rw [seen_state]
  simp only [sendOne, hdest, hopen, hpair, hserial, C.issue, Bool.not_true, Bool.false_eq_true, if_false, State.send, sentFlit]

theorem execMovQFromV_sends {b : Src} (G : Issuing s (.movQFromV h q b) h is t) (one : OneLane t is h k) (a : Active t is h k w l)
    (hopen : (cget w.qdest q.val).getLsbD 31 = true) :
    ∃ s' f, exec (.movQFromV h q b) s = .next s' ∧ WaitsIn s' t is h (.flit f.id) ∧ s'.flits = s.flits ++ [f] ∧
      f.team = is.team ∧ f.warp = k.1 ∧ f.lane = k.2 ∧ f.chan = q.val ∧ f.dest = cget w.qdest q.val ∧
      f.payload = readPair w l b ∧ f.bounced = false := by
  obtain ⟨c, C, hck, hx⟩ := perLane_acts G one a (sendOne q b)
  have hstand : WarpsStand is.team (s.seen t is) ((s.seen t is).send (sentFlit s c.space is.team k q w l b)) := .of_teams rfl
  refine ⟨_, sentFlit s c.space is.team k q w l b, hx _ _ (sendOne_open G C hck hopen) (seen_awake G.awake t is) hstand rfl,
    waitsIn_stand G hstand _, ?_, rfl, rfl, rfl, rfl, rfl, rfl, rfl⟩
  rw [commit_frame _ is (allDo_untrapped rfl), State.send, seen_state]

/-- A lane that takes from its own channel finds there what its warp held. -/
theorem seen_chan {i : Instr} (G : Issuing s i h is t) (a : Active t is h k w l) {c : Lc} (C : Ctx s i h is t c w l)
    (hck : (c.wi, c.slot) = k) : ∃ x, (s.seen t is).warp? is.team k.1 = some x ∧ (s.seen t is).warp? c.is.team c.wi = some x ∧
      x.chan q.val = w.chan q.val := by
  subst hck
  obtain ⟨ls, hw, -⟩ := seen_warp? G a.1.2.1
  exact ⟨_, hw, by rw [C.issue]; exact hw, rfl⟩

theorem execMovVFromQ_waits {d : Reg} (G : Issuing s (.movVFromQ h d q) h is t) (one : OneLane t is h k) (a : Active t is h k w l)
    (hnone : w.chan q.val = []) : ∃ s', exec (.movVFromQ h d q) s = .next s' ∧ WaitsIn s' t is h .retry := by
  obtain ⟨c, C, hck, hx⟩ := perLane_acts G one a (takeOne h d q)
  obtain ⟨x, -, hw, hchan⟩ := seen_chan (q := q) G a C hck
  refine ⟨_, hx _ _ ?_ (seen_awake G.awake t is) (.of_teams rfl) rfl, waitsIn_stand G (.of_teams rfl) _⟩
  simp [takeOne, hw, hchan, hnone]

theorem execMovVFromQ_takes {d : Reg} {x : DWord} {rest : List DWord} (G : Issuing s (.movVFromQ h d q) h is t)
    (one : OneLane t is h k) (a : Active t is h k w l) (hq : w.chan q.val = x :: rest) :
    ∃ s' w' l', exec (.movVFromQ h d q) s = .next s' ∧ s'.warp? is.team k.1 = some w' ∧ w'.lanes[k.2]? = some l' ∧
      Wrote is h d (twoWords x) True l w' l' ∧ w'.chan q.val = rest := by
  obtain ⟨c, C, hck, hx⟩ := perLane_acts G one a (takeOne h d q)
  obtain ⟨y, hyk, hy, hchan⟩ := seen_chan (q := q) G a C hck
  have hwi : c.wi = k.1 := congrArg Prod.fst hck
  have htake : takeOne h d q (s.seen t is) c =
      ((s.seen t is).modWarp is.team k.1 (fun w => w.setChan q.val rest), .done (dst2 h d x)) := by
    rw [takeOne, hy]
    simp only [hchan, hq, C.issue, hwi]
  have hstand := warpsStand_modWarp (s.seen t is) is.team k.1 (fun w => setChan_stands w q.val rest)
  obtain ⟨w1, w', l', hw1, hw', hl, hwrote, hcommit⟩ := stand_wrote2 G hstand a one.leads (n := 2) rfl x
  refine ⟨_, w', l', hx _ _ htake (seen_awake G.awake t is) hstand rfl, hw', hl, hwrote, ?_⟩
  obtain rfl : y.setChan q.val rest = w1 := by simpa [warp?_modWarp, hyk] using hw1
  rw [hcommit, commitWarp_chan, chan_setChan _ _ q.isLt q.isLt, if_pos rfl]

end

/-! ### A flit arrives -/

section
variable {s : State} {f : Flit} {u j : Nat} {w x : Warp} {l : Lane}

/-- What the sender's lane becomes as its flit is accepted. -/
def acceptedLane (now id : Nat) (l : Lane) : Lane := if l.waitsFor (.flit id) then completeLane 8 now l else l

/-- The state after a flit is accepted in a buffer with room. -/
def flitTaken (s : State) (f : Flit) (u j : Nat) : State :=
  acceptFlit (s.modWarp u j (fun w => w.setChan (f.dest.toNat % 4) (w.chan (f.dest.toNat % 4) ++ [f.payload]))) f

theorem arriveFlit_room (hroom : flitTo s f = .room u j) : arriveFlit s f = flitTaken s f u j := by
  rw [arriveFlit, hroom]
  simp only [destChan_toNat]
  rfl

theorem arriveFlit_full (hfull : flitTo s f = .full) : arriveFlit s f =
    { s with flits := s.flits.map (fun x => if x.id == f.id then { x with bounced := true } else x) } := by
  rw [arriveFlit, hfull]

theorem execFlitArrival_eq (hf : s.flits.find? (fun g => g.id == s.named) = some f) (hb : f.bounced = false)
    (hfirst : firstOfChannel s f = true) (hs' : Awake (arriveFlit s f)) : exec .flitArrival s = .next (arriveFlit s f) := by
  change finish _ = _
  simp only [hf, hb, hfirst]
  exact finish_awake hs'

theorem execFlitRetry_eq (hf : s.flits.find? (fun g => g.id == s.named) = some f) (hb : f.bounced = true)
    (hfirst : firstOfChannel s f = true) (hs' : Awake (arriveFlit s f)) : exec .flitRetry s = .next (arriveFlit s f) := by
  change finish _ = _
  simp only [hf, hb, hfirst]
  exact finish_awake hs'

theorem flitTaken_flits : ∀ g ∈ (flitTaken s f u j).flits, g.id ≠ f.id := by
  intro g hg
  have : g ∈ s.flits.filter (fun x => x.id != f.id) := hg
  simpa using (List.mem_filter.mp this).2

/-- A warp after the flit is accepted: the receiver's buffer has it, and the sender's lane goes on. -/
def bufferedWarp (f : Flit) (u j v m : Nat) (y : Warp) : Warp :=
  if v = u ∧ m = j then y.setChan (f.dest.toNat % 4) (y.chan (f.dest.toNat % 4) ++ [f.payload]) else y

def takenWarp (s : State) (f : Flit) (u j v m : Nat) (y : Warp) : Warp :=
  if v = f.team ∧ m = f.warp then (bufferedWarp f u j v m y).modLane f.lane (acceptedLane s.cycle f.id)
  else bufferedWarp f u j v m y

theorem acceptFlit_warp? (s : State) (f : Flit) (v m : Nat) : (acceptFlit s f).warp? v m =
    (s.warp? v m).map (fun w => if v = f.team ∧ m = f.warp then w.modLane f.lane (acceptedLane s.cycle f.id) else w) :=
  warp?_modWarp_any _ f.team v f.warp m _

theorem flitTaken_warp? (v m : Nat) {y : Warp} (hy : s.warp? v m = some y) :
    (flitTaken s f u j).warp? v m = some (takenWarp s f u j v m y) := by
  rw [flitTaken, acceptFlit_warp?, warp?_modWarp_any, hy]
  rfl

theorem bufferedWarp_chan {v m n : Nat} (hn : n < 4) (y : Warp) : (bufferedWarp f u j v m y).chan n =
    if v = u ∧ m = j ∧ n = f.dest.toNat % 4 then y.chan n ++ [f.payload] else y.chan n := by
  unfold bufferedWarp
  split
  next hrecv =>
    rw [chan_setChan y _ (Nat.mod_lt _ (by decide)) hn]
    by_cases he : n = f.dest.toNat % 4
    · simp [he, hrecv]
    · simp [he]
  next hrecv => rw [if_neg (fun ⟨h1, h2, _⟩ => hrecv ⟨h1, h2⟩)]

theorem bufferedWarp_lanes (v m : Nat) (y : Warp) : (bufferedWarp f u j v m y).lanes = y.lanes := by
  unfold bufferedWarp
  split
  · exact (setChan_stands y _ _).lanes
  · rfl

theorem takenWarp_chan (v m : Nat) {n : Nat} (hn : n < 4) (y : Warp) : (takenWarp s f u j v m y).chan n =
    if v = u ∧ m = j ∧ n = f.dest.toNat % 4 then y.chan n ++ [f.payload] else y.chan n := by
  rw [← bufferedWarp_chan hn, takenWarp]
  split <;> rfl

theorem takenWarp_sender {y : Warp} (hl : y.lanes[f.lane]? = some l) :
    (takenWarp s f u j f.team f.warp y).lanes[f.lane]? = some (acceptedLane s.cycle f.id l) := by
  rw [takenWarp, if_pos ⟨rfl, rfl⟩]
  exact modLane_get (by rw [bufferedWarp_lanes, hl]) _

theorem flit_accepted (hw : s.warp? f.team f.warp = some w) (hl : w.lanes[f.lane]? = some l) (hst : l.st = .blocked)
    (hwait : l.wait = .flit f.id) : ∃ w' l', (flitTaken s f u j).warp? f.team f.warp = some w' ∧ w'.lanes[f.lane]? = some l' ∧
      StandsAt (l.pc + 8) l l' := by
  refine ⟨_, _, flitTaken_warp? _ _ hw, takenWarp_sender hl, ?_⟩
  have hwaits : l.waitsFor (.flit f.id) = true := by simp [Lane.waitsFor, Lane.under, hst, hwait]
  rw [acceptedLane, if_pos hwaits]
  exact completeLane_blocked hst 8 s.cycle

end

/-- Settles O26: a flit goes from the list of flits to the receiver's buffer, which frees the lane that waits for it, or stays
marked. -/
theorem channelsCarry : Obligations.ChannelsCarry := by
  unfold Obligations.ChannelsCarry
  refine ⟨fun s h is t k w l q b G one a hopen => execMovQFromV_sends G one a hopen, ?arrival, ?full, ?retry, ?take⟩
  case arrival =>
    intro s f u j w l x hs hf hb hfirst hroom hx hw hl hst hwait
    have harrive := arriveFlit_room hroom
    obtain ⟨w', l', hw', hl', hstands⟩ := flit_accepted (u := u) (j := j) hw hl hst hwait
    refine ⟨_, w', l', takenWarp s f u j u j x, execFlitArrival_eq hf hb hfirst (harrive ▸ hs), ?_⟩
    rw [harrive]
    refine ⟨flitTaken_flits, hw', hl', hstands, flitTaken_warp? _ _ hx, fun n hn => ?_⟩
    simp [takenWarp_chan u j hn]
  case full =>
    intro s f hs hf hb hfirst hfull
    have harrive := arriveFlit_full hfull
    refine ⟨_, execFlitArrival_eq hf hb hfirst (harrive ▸ hs), ?_⟩
    rw [harrive]
    exact ⟨rfl, _, List.mem_map_of_mem (List.mem_of_find?_eq_some hf), by simp⟩
  case retry =>
    intro s f u j w l x hs hf hb hfirst hroom hx hw hl hst hwait
    have harrive := arriveFlit_room hroom
    obtain ⟨w', l', hw', hl', hstands⟩ := flit_accepted (u := u) (j := j) hw hl hst hwait
    refine ⟨_, w', l', execFlitRetry_eq hf hb hfirst (harrive ▸ hs), ?_⟩
    rw [harrive]
    exact ⟨flitTaken_flits, hw', hl', hstands⟩
  case take =>
    exact fun s h is t k w l d q x rest G one a =>
      ⟨fun hq => execMovVFromQ_takes G one a hq, fun hnone => execMovVFromQ_waits G one a hnone⟩

end Sys2Proof.Machine
end

section
/-! SUPPORT. O36: the writes of system registers, by their events and by MTS (R74, R293, R311, R344, R381). -/

namespace Sys2Proof.Machine

/-! ### Pending halves -/

theorem pendHalf_getD (old x : Word) : (pendHalf old x).getD old = x := by
  unfold pendHalf
  split
  next h => rw [h]; rfl
  next => rfl

/-- Where the base of a pair must be aligned to. -/
def pairUnit (lo : Word) : Nat := if lo = 0x24 then 65536 else 32

theorem pairReg_writeHi (c : Context) (num : Nat) (x : Word) (n : Nat) : pairReg (writeHi c num x) n = pairReg c n := by
  unfold writeHi
  split <;> rfl

/-- A HI half, then its LO half. -/
theorem pairReg_writePair (c : Context) {lo : Word} (hlo : lo = 0x20 ∨ lo = 0x22 ∨ lo = 0x24) (x1 x0 : Word) (n : Nat)
    (hn : n = 0x20 ∨ n = 0x22 ∨ n = 0x24) : pairReg (writeLo (writeHi c (lo + 1).toNat x1) lo.toNat x0) n =
      if n = lo.toNat ∧ x0.toNat % pairUnit lo = 0 then x1 ++ x0 else pairReg c n := by
  rcases hlo with rfl | rfl | rfl <;> rcases hn with rfl | rfl | rfl <;>
    simp [pairReg, writeLo, writeHi, pairUnit, pendHalf_getD]

/-! ### Range registers -/

/-- What words 1 to 3 leave pending, and word 0 installs. -/
theorem writeRange_words (c : Context) {i : Nat} {p : Option Word × Option Word × Option Word} (hp : c.rngPend[i]? = some p)
    (x0 x1 x2 x3 : Word) :
    (installRange (writeRangeWord (writeRangeWord (writeRangeWord c i 1 x1) i 2 x2) i 3 x3) i x0).rng =
      if (⟨x0, x1 &&& 0xFFFFF01F, x2, x3⟩ : RangeReg).reserved then c.rng else c.rng.set i ⟨x0, x1 &&& 0xFFFFF01F, x2, x3⟩ := by
  simp [installRange, writeRangeWord, rangeAt, hp, pendHalf_getD]

theorem get_setRange {c : Context} (hlen : c.rng.length = 8) (i : Fin 8) (r : RangeReg) (j : Nat) :
    (if r.reserved then c.rng else c.rng.set i.val r)[j]? = if j = i.val ∧ r.reserved = false then some r else c.rng[j]? := by
  cases hr : r.reserved with
  | true => simp
  | false =>
    by_cases hj : j = i.val
    · subst hj
      simp [hlen]
    · simp [hj, Ne.symm hj]

/-! ### The writes as events -/

section
variable {s : State} {space : Nat} {c : Context}

theorem event_writes (hs : Awake s) (hc : s.ctx? space = some c) {f : Context → Context} (hf : ∀ c, (f c).space = c.space) :
    event s (fun s => s.modCtx space f) = .next (s.modCtx space f) ∧ (s.modCtx space f).ctx? space = some (f c) ∧
      Awake (s.modCtx space f) :=
  ⟨finish_awake hs, by rw [State.ctx?_modCtx _ _ _ _ hf, if_pos rfl, hc]; rfl, hs⟩

theorem writeHi_space (c : Context) (num : Nat) (x : Word) : (writeHi c num x).space = c.space := by
  unfold writeHi
  split <;> rfl

theorem writeLo_space (c : Context) (num : Nat) (x : Word) : (writeLo c num x).space = c.space := by
  unfold writeLo
  split <;> rfl

theorem writeCtxReg_rangeWord {n i k : Nat} (hi : i < 8) (hk : 0 < k ∧ k < 4) (hn : n = 0x100 + 4 * i + k) (s : State) (x : Word) :
    writeCtxReg s space n x = s.modCtx space (fun c => writeRangeWord c i k x) := by
  have h1 : n ≠ 0x30 ∧ n ≠ 0x26 ∧ 0x100 ≤ n ∧ n < 0x120 ∧ n % 4 = k ∧ (n - 0x100) / 4 = i ∧ k ≠ 0 := by omega
  obtain ⟨h30, h26, hlow, hhigh, hmod, hdiv, hk0⟩ := h1
  simp [writeCtxReg, h30, h26, hlow, hhigh, hmod, hdiv, hk0]

/-- The registers that one event names by their number: SAVESZ, DBGCTL and words 1 to 3 of the range registers. -/
def plainReg (n : Nat) : Bool := n = 0x26 || n = 0x30 || (0x100 ≤ n && n < 0x120 && n % 4 != 0)

theorem exec_sysregWrite {num : Word} (h : plainReg num.toNat = true) (space : Nat) (x : Word) (s : State) :
    exec (.sysregWrite space num x) s = event s (fun s => writeCtxReg s space num.toNat x) := by
  change finish (if plainReg num.toNat then writeCtxReg s space num.toNat x else s) = _
  rw [if_pos h]
  rfl

/-- Word 1, 2 or 3 of a range register as an event. -/
theorem execRangeWord {n : Word} {i k : Nat} (hs : Awake s) (hc : s.ctx? space = some c) (hi : i < 8) (hk : 0 < k ∧ k < 4)
    (hn : n.toNat = 0x100 + 4 * i + k) (x : Word) : ∃ s', exec (.sysregWrite space n x) s = .next s' ∧
      s'.ctx? space = some (writeRangeWord c i k x) ∧ Awake s' := by
  have hplain : plainReg n.toNat = true := by
    have : 0x100 ≤ n.toNat ∧ n.toNat < 0x120 ∧ n.toNat % 4 ≠ 0 := by omega
    simp [plainReg, this]
  obtain ⟨hx, hc', hs'⟩ := event_writes hs hc (f := fun c => writeRangeWord c i k x) (fun _ => rfl)
  refine ⟨_, ?_, hc', hs'⟩
  rw [exec_sysregWrite hplain, ← hx]
  exact congrArg finish (writeCtxReg_rangeWord hi hk hn s x)

theorem execSaveSize (hs : Awake s) (x : Word) :
    exec (.sysregWrite space 0x26 x) s = .next (s.modCtx space (fun c => { c with savesz := x })) :=
  finish_awake (s := s.modCtx space (fun c => { c with savesz := x })) hs

end

/-! ### Commands to warps of teams that are not saved -/

/-- What such a command leaves: all but the teams, and of those the epochs of their warps. -/
structure KeepsEpochs (s s' : State) : Prop where
  frame : s' = { s with teams := s'.teams }
  warps : ∀ u j w, s.warp? u j = some w → ∃ w', s'.warp? u j = some w' ∧ w'.epoch = w.epoch

namespace KeepsEpochs

variable {s s' s'' : State}

theorem refl (s : State) : KeepsEpochs s s := ⟨rfl, fun _ _ w hw => ⟨w, hw, rfl⟩⟩

theorem trans (h : KeepsEpochs s s') (h' : KeepsEpochs s' s'') : KeepsEpochs s s'' := by
  refine ⟨by rw [h'.frame, h.frame], fun u j w hw => ?_⟩
  obtain ⟨w', hw', he⟩ := h.warps u j w hw
  obtain ⟨w'', hw'', he'⟩ := h'.warps u j w' hw'
  exact ⟨w'', hw'', he'.trans he⟩

theorem modWarp (s : State) (u i : Nat) {f : Warp → Warp} (hf : ∀ w, (f w).epoch = w.epoch) : KeepsEpochs s (s.modWarp u i f) := by
  refine ⟨rfl, fun v m w hw => ⟨_, by rw [warp?_modWarp_any, hw]; rfl, ?_⟩⟩
  split
  · exact hf w
  · rfl

theorem foldl {α : Type} {f : State → α → State} {xs : List α} (h : ∀ x ∈ xs, ∀ s, KeepsEpochs s (f s x)) (s : State) :
    KeepsEpochs s (xs.foldl f s) := by
  induction xs generalizing s with
  | nil => exact refl s
  | cons x xs ih => exact (h x (by simp) s).trans (ih (fun y hy => h y (by simp [hy])) _)

end KeepsEpochs

theorem revokeWarp_keeps {t : Team} (ht : isSaved t = false) (s : State) (wi : Nat) : KeepsEpochs s (revokeWarp s t wi) := by
  have hresume : KeepsEpochs s (commandResume s t wi) := by
    unfold commandResume
    simp only [ht, Bool.false_eq_true, if_false]
    have hgo := KeepsEpochs.modWarp s t.uid wi (f := fun w => { w with dbgHalt := false }) fun _ => rfl
    split
    · exact hgo
    · exact hgo.trans (.modWarp _ _ _ fun _ => rfl)
  refine hresume.trans ?_
  unfold revokeWarp commandStep
  simp only [ht, Bool.false_eq_true, if_false]
  exact .modWarp _ _ _ fun _ => rfl

/-- The state in which a revocation resumes the warps. -/
def rightGone (s : State) (space : Nat) : State :=
  { s.modCtx space (fun c => { c with dbgctl := c.dbgctl &&& 0x0FFFFFFF }) with
    events := s.events.filter (fun e => e.space != space) }

theorem revokeRight_keeps {s : State} (hsaved : ∀ u ∈ s.teams, isSaved u = false) (space : Nat) :
    KeepsEpochs (rightGone s space) (revokeRight s space) := by
  refine KeepsEpochs.foldl (fun t ht s' => ?_) _
  have hmem : t ∈ s.teams := (List.mem_filter.mp ht).1
  exact KeepsEpochs.foldl (fun k _ s => revokeWarp_keeps (hsaved t hmem) s k) s'

theorem revokeRight_ctxs {s : State} (hsaved : ∀ u ∈ s.teams, isSaved u = false) (space : Nat) : (revokeRight s space).ctxs =
    (s.modCtx space (fun c => { c with dbgctl := c.dbgctl &&& 0x0FFFFFFF })).ctxs := by
  rw [(revokeRight_keeps hsaved space).frame]
  rfl

/-! ### A write of a register of a context -/

/-- What such a write leaves: all but the contexts, the events and the teams, and of those the epochs of their warps. -/
structure WritesRegister (s s' : State) : Prop where
  frame : s' = { s with ctxs := s'.ctxs, events := s'.events, teams := s'.teams }
  warps : ∀ u j w, s.warp? u j = some w → ∃ w', s'.warp? u j = some w' ∧ w'.epoch = w.epoch

theorem WritesRegister.modCtx (s : State) (space : Nat) (f : Context → Context) : WritesRegister s (s.modCtx space f) :=
  ⟨rfl, fun _ _ w hw => ⟨w, hw, rfl⟩⟩

theorem WritesRegister.trans {s s' s'' : State} (h : WritesRegister s s') (h' : WritesRegister s' s'') : WritesRegister s s'' := by
  refine ⟨by rw [h'.frame, h.frame], fun u j w hw => ?_⟩
  obtain ⟨w', hw', he⟩ := h.warps u j w hw
  obtain ⟨w'', hw'', he'⟩ := h'.warps u j w' hw'
  exact ⟨w'', hw'', he'.trans he⟩

theorem WritesRegister.awake {s s' : State} (h : WritesRegister s s') (hs : Awake s) : Awake s' := by
  rw [h.frame]
  exact hs

theorem revokeRight_writes {s : State} (hsaved : ∀ u ∈ s.teams, isSaved u = false) (space : Nat) :
    WritesRegister s (revokeRight s space) := by
  have h := revokeRight_keeps hsaved space
  refine ⟨?_, h.warps⟩
  rw [h.frame]
  rfl

/-- DBGCTL without GO. -/
def putDbgctl (s : State) (space : Nat) (x : Word) : State := s.modCtx space (fun c => { c with dbgctl := x &&& 0xFC00FFFF })

theorem writeDbgctl_eq (s : State) (space : Nat) (x : Word) : writeDbgctl s space x =
    if x.getLsbD 27 && x.getLsbD 26 then s
    else if x.getLsbD 25 && x.extractLsb' 0 16 != 0 then
      (if x.getLsbD 31 then putDbgctl s space x else revokeRight (putDbgctl s space x) space).modCtx space (fun c => { c with go := true })
    else if x.getLsbD 31 then putDbgctl s space x else revokeRight (putDbgctl s space x) space := rfl

theorem putDbgctl_writes {s : State} (hsaved : ∀ u ∈ s.teams, isSaved u = false) (space : Nat) (x : Word) :
    WritesRegister s (if x.getLsbD 31 then putDbgctl s space x else revokeRight (putDbgctl s space x) space) := by
  have h : WritesRegister s (putDbgctl s space x) := .modCtx _ _ _
  split
  · exact h
  · exact h.trans (revokeRight_writes (s := putDbgctl s space x) hsaved space)

theorem writeDbgctl_writes {s : State} (hsaved : ∀ u ∈ s.teams, isSaved u = false) (space : Nat) (x : Word) :
    WritesRegister s (writeDbgctl s space x) := by
  rw [writeDbgctl_eq]
  split
  · exact ⟨rfl, fun _ _ w hw => ⟨w, hw, rfl⟩⟩
  · split
    · exact (putDbgctl_writes hsaved space x).trans (.modCtx _ _ _)
    · exact putDbgctl_writes hsaved space x

theorem modCtx_ctxs {s s' : State} (h : s.ctxs = s'.ctxs) (space : Nat) (f : Context → Context) :
    (s.modCtx space f).ctxs = (s'.modCtx space f).ctxs := by
  simp only [State.modCtx, h]

/-- What a write of DBGCTL leaves of the contexts is what the contexts were. -/
theorem writeDbgctl_ctxs {s s' : State} (hsaved : ∀ u ∈ s.teams, isSaved u = false) (hsaved' : ∀ u ∈ s'.teams, isSaved u = false)
    (h : s.ctxs = s'.ctxs) (space : Nat) (x : Word) : (writeDbgctl s space x).ctxs = (writeDbgctl s' space x).ctxs := by
  have hput : (if x.getLsbD 31 then putDbgctl s space x else revokeRight (putDbgctl s space x) space).ctxs =
      (if x.getLsbD 31 then putDbgctl s' space x else revokeRight (putDbgctl s' space x) space).ctxs := by
    have hp : (putDbgctl s space x).ctxs = (putDbgctl s' space x).ctxs := modCtx_ctxs h _ _
    split
    · exact hp
    · rw [revokeRight_ctxs (s := putDbgctl s space x) hsaved, revokeRight_ctxs (s := putDbgctl s' space x) hsaved']
      exact modCtx_ctxs hp _ _
  rw [writeDbgctl_eq, writeDbgctl_eq]
  split
  · exact h
  · split
    · exact modCtx_ctxs hput _ _
    · exact hput

theorem writeDbgctl_teams {x : Word} (hx : x.getLsbD 31 = true) (s : State) (space : Nat) :
    (writeDbgctl s space x).teams = s.teams := by
  rw [writeDbgctl_eq]
  simp only [hx, if_true]
  split
  · rfl
  · split <;> rfl

/-- But for DBGCTL, such a write is a change of the context alone. -/
theorem writeCtxReg_modCtx {num : Nat} (hnum : num ≠ 0x30) (space : Nat) (x : Word) :
    ∃ f, ∀ s, writeCtxReg s space num x = s.modCtx space f := by
  unfold writeCtxReg
  simp only [hnum, if_false]
  by_cases h26 : num = 0x26
  · exact ⟨_, fun s => by rw [if_pos h26]⟩
  · simp only [h26, if_false]
    split
    · split
      · exact ⟨_, fun s => rfl⟩
      · exact ⟨_, fun s => rfl⟩
    · split
      · exact ⟨_, fun s => rfl⟩
      · exact ⟨_, fun s => rfl⟩

theorem writeCtxReg_dbgctl (s : State) (space : Nat) (x : Word) : writeCtxReg s space 0x30 x = writeDbgctl s space x := rfl

theorem writeCtxReg_writes {s : State} {num : Nat} (hsaved : num = 0x30 → ∀ u ∈ s.teams, isSaved u = false) (space : Nat) (x : Word) :
    WritesRegister s (writeCtxReg s space num x) := by
  by_cases hnum : num = 0x30
  · rw [hnum, writeCtxReg_dbgctl]
    exact writeDbgctl_writes (hsaved hnum) space x
  · obtain ⟨f, hf⟩ := writeCtxReg_modCtx hnum space x
    rw [hf]
    exact .modCtx s space f

theorem writeCtxReg_ctxs {s s' : State} {num : Nat} (hsaved : num = 0x30 → ∀ u ∈ s.teams, isSaved u = false)
    (hsaved' : num = 0x30 → ∀ u ∈ s'.teams, isSaved u = false) (h : s.ctxs = s'.ctxs) (space : Nat) (x : Word) :
    (writeCtxReg s space num x).ctxs = (writeCtxReg s' space num x).ctxs := by
  by_cases hnum : num = 0x30
  · rw [hnum, writeCtxReg_dbgctl, writeCtxReg_dbgctl]
    exact writeDbgctl_ctxs (hsaved hnum) (hsaved' hnum) h space x
  · obtain ⟨f, hf⟩ := writeCtxReg_modCtx hnum space x
    rw [hf, hf]
    exact modCtx_ctxs h space f

theorem writeCtxReg_teams {num : Nat} {x : Word} (hx : num = 0x30 → x.getLsbD 31 = true) (s : State) (space : Nat) :
    (writeCtxReg s space num x).teams = s.teams := by
  by_cases hnum : num = 0x30
  · rw [hnum, writeCtxReg_dbgctl, writeDbgctl_teams (hx hnum)]
  · obtain ⟨f, hf⟩ := writeCtxReg_modCtx hnum space x
    rw [hf]
    rfl

/-- The event of a register that MTS may name makes the write of that register. -/
theorem contextWrite_exec {space : Nat} {num x : Word} {i : Instr} (h : contextWrite space num x = some i) :
    num.toNat ≠ 0x12 ∧ 4 ≤ num.toNat ∧ ∀ s, exec i s = event s (fun s => writeCtxReg s space num.toNat x) := by
  unfold contextWrite at h
  simp only at h
  split at h
  next hn =>
    obtain rfl := Option.some.inj h
    refine ⟨by omega, by omega, fun s => ?_⟩
    have : num.toNat ≠ 0x30 ∧ num.toNat ≠ 0x26 ∧ ¬ 0x100 ≤ num.toNat ∧ num.toNat % 2 = 1 := by omega
    change event s (fun s => s.modCtx space (fun c => writeHi c num.toNat x)) = _
    simp [event, writeCtxReg, this]
  next =>
    split at h
    next hn =>
      obtain rfl := Option.some.inj h
      refine ⟨by omega, by omega, fun s => ?_⟩
      have : num.toNat ≠ 0x30 ∧ num.toNat ≠ 0x26 ∧ ¬ 0x100 ≤ num.toNat ∧ ¬ num.toNat % 2 = 1 := by omega
      change event s (fun s => s.modCtx space (fun c => writeLo c num.toNat x)) = _
      simp [event, writeCtxReg, this]
    next =>
      split at h
      next hn =>
        obtain rfl := Option.some.inj h
        refine ⟨by omega, by omega, fun s => ?_⟩
        have h1 : num.toNat ≠ 0x30 ∧ num.toNat ≠ 0x26 ∧ (num.toNat - 0x100) / 4 < 8 := by omega
        change event s (fun s => s.modCtx space (fun c => installRange c (((num.toNat - 0x100) / 4) % 8) x)) = _
        simp [event, writeCtxReg, h1, hn, Nat.mod_eq_of_lt]
      next hn0 =>
        split at h
        next hn =>
          obtain rfl := Option.some.inj h
          refine ⟨by omega, by omega, fun s => ?_⟩
          refine exec_sysregWrite ?_ space x s
          have : num.toNat = 0x26 ∨ num.toNat = 0x30 ∨ 0x100 ≤ num.toNat ∧ num.toNat < 0x120 ∧ num.toNat % 4 ≠ 0 := by omega
          simpa [plainReg, or_assoc, and_assoc] using this
        next => cases h

/-! ### MTS -/

section
variable {s : State} {h : Hdr} {is : Issue} {t : Team} {k : Nat × Nat} {w : Warp} {l : Lane} {num : Word} {b : Src}

/-- What MTS does for its warp. -/
def mtsOne (num : Nat) (a : Src) (s : State) (c : Lc) : State × LaneRes :=
  if accessOf c num != some .rw then (s, .done {})
  else if num < 4 then (s.modWarp c.is.team c.wi (fun w => writeQdest w num (c.src a)), .done {})
  else if num = 0x12 then (s.modWarp c.is.team c.wi (fun w => writeTmrcmp w (c.src a)), .done {})
  else (writeCtxReg s c.space num (c.src a), .done {})

theorem exec_mts (h : Hdr) (num : Word) (a : Src) (s : State) :
    exec (.mts h num a) s = perWarp (.mts h num a) h s (fun _ c => regTrap c num.toNat) (mtsOne num.toNat a) := rfl

section
variable {c : Lc} {n : Nat}

theorem accessOf_listed {a b : RegAccess} (h : regAccess n = some (a, b)) : accessOf c n = some (if c.w.sup then b else a) := by
  rw [accessOf, h]
  rfl

theorem regAccess_written (h : n < 4 ∨ n = 0x12 ∨ n = 0x20 ∨ n = 0x21) : regAccess n = some (.rw, .rw) :=
  if_pos (by simpa [or_assoc] using h)

theorem regAccess_read (h : n = 0x10 ∨ n = 0x11) : regAccess n = some (.ro, .ro) := by
  rcases h with rfl | rfl <;> rfl

theorem regAccess_hidden (h : n = 0x22 ∨ n = 0x23 ∨ (0x100 ≤ n ∧ n < 0x120)) : regAccess n = some (.none, .rw) := by
  unfold regAccess
  rw [if_neg (by simp; omega), if_neg (by simp; omega), if_pos (by simpa [or_assoc] using h)]

theorem regAccess_shown (h : n = 0x24 ∨ n = 0x25 ∨ n = 0x26 ∨ n = 0x30) : regAccess n = some (.ro, .rw) := by
  rcases h with rfl | rfl | rfl | rfl <;> rfl

/-- What user mode may write both modes may; the supervisor also writes what is hidden from user mode or shown to it. -/
theorem accessOf_mayWrite (h : mayWrite c.w.sup n = true) : accessOf c n = some .rw := by
  cases hs : c.w.sup with
  | false =>
    rw [accessOf_listed (regAccess_written (by simpa [mayWrite, hs, or_assoc] using h)), hs]
    rfl
  | true =>
    have hn : (n < 4 ∨ n = 0x12 ∨ n = 0x20 ∨ n = 0x21) ∨ (n = 0x22 ∨ n = 0x23 ∨ (0x100 ≤ n ∧ n < 0x120)) ∨
        (n = 0x24 ∨ n = 0x25 ∨ n = 0x26 ∨ n = 0x30) := by
      simp only [mayWrite, hs, Bool.or_eq_true, Bool.and_eq_true, decide_eq_true_eq, beq_iff_eq, true_and] at h
      omega
    rcases hn with hn | hn | hn
    · rw [accessOf_listed (regAccess_written hn), hs]; rfl
    · rw [accessOf_listed (regAccess_hidden hn), hs]; rfl
    · rw [accessOf_listed (regAccess_shown hn), hs]; rfl

/-- What a mode may only read is read-only in both modes, or shown to user mode. -/
theorem accessOf_mayRead (h : mayRead c.w.sup n = true) (h' : mayWrite c.w.sup n = false) : accessOf c n = some .ro := by
  have hn : (n = 0x10 ∨ n = 0x11) ∨ c.w.sup = false ∧ (n = 0x24 ∨ n = 0x25 ∨ n = 0x26 ∨ n = 0x30) := by
    cases hs : c.w.sup with
    | false =>
      simp [mayWrite, mayRead, hs] at h h' ⊢
      omega
    | true =>
      simp [mayWrite, mayRead, hs] at h h' ⊢
      omega
  rcases hn with hn | ⟨hs, hn⟩
  · rw [accessOf_listed (regAccess_read hn)]
    exact congrArg some (ite_self _)
  · rw [accessOf_listed (regAccess_shown hn), hs]
    rfl

end

theorem Ctx.sup {i : Instr} {c : Lc} (C : Ctx s i h is t c w l) : c.w.sup = w.sup := by rw [C.warp_frame]

/-- A mode that may read the register passes the check of R310. -/
theorem regTrap_mayRead {c : Lc} {n : Nat} (h : mayRead c.w.sup n = true ∨ mayWrite c.w.sup n = true) : regTrap c n = none := by
  unfold regTrap
  cases hw : mayWrite c.w.sup n with
  | true => rw [accessOf_mayWrite hw]
  | false => rw [accessOf_mayRead (h.resolve_right (by simp [hw])) hw]

theorem mtsOne_readOnly {c : Lc} {n : Nat} (h : mayRead c.w.sup n = true) (h' : mayWrite c.w.sup n = false) (s : State) (a : Src) :
    mtsOne n a s c = (s, .done {}) := by
  simp [mtsOne, accessOf_mayRead h h']

theorem mtsOne_qdest {c : Lc} {n : Nat} (h : mayWrite c.w.sup n = true) (hn : n < 4) (s : State) (a : Src) :
    mtsOne n a s c = (s.modWarp c.is.team c.wi (fun w => writeQdest w n (c.src a)), .done {}) := by
  simp [mtsOne, accessOf_mayWrite h, hn]

theorem mtsOne_tmrcmp {c : Lc} (s : State) (a : Src) :
    mtsOne 0x12 a s c = (s.modWarp c.is.team c.wi (fun w => writeTmrcmp w (c.src a)), .done {}) := by
  have h : mayWrite c.w.sup 0x12 = true := rfl
  simp [mtsOne, accessOf_mayWrite h]

theorem mtsOne_context {c : Lc} {n : Nat} (h : mayWrite c.w.sup n = true) (hn : 4 ≤ n) (hn' : n ≠ 0x12) (s : State) (a : Src) :
    mtsOne n a s c = (writeCtxReg s c.space n (c.src a), .done {}) := by
  simp [mtsOne, accessOf_mayWrite h, hn', show ¬ n < 4 by omega]

theorem commitWarp_qdest (is : Issue) (now : Nat) (rs : List ((Nat × Nat) × LaneRes)) (j : Nat) (w : Warp) :
    (commitWarp is now rs j w).qdest = w.qdest := by rw [commitWarp_frame]
theorem commitWarp_tmrcmp (is : Issue) (now : Nat) (rs : List ((Nat × Nat) × LaneRes)) (j : Nat) (w : Warp) :
    (commitWarp is now rs j w).tmrcmp = w.tmrcmp := by rw [commitWarp_frame]
theorem commitWarp_armed (is : Issue) (now : Nat) (rs : List ((Nat × Nat) × LaneRes)) (j : Nat) (w : Warp) :
    (commitWarp is now rs j w).armed = w.armed := by rw [commitWarp_frame]

/-- The check of R310 in a group whose warp may name the register. -/
theorem mts_checks (G : Issuing s (.mts h num b) h is t) (one : OneWarp t is h k) (a : Active t is h k w l)
    (hw : mayRead w.sup num.toNat = true ∨ mayWrite w.sup num.toNat = true) (c : Lc) (w' : Warp) (l' : Lane)
    (C : Ctx s (.mts h num b) h is t c w' l') : regTrap c num.toNat = none :=
  regTrap_mayRead (by rwa [C.sup, C.same_warp G one a])

/-- A change that MTS makes of its warp. -/
theorem execMts_warp (G : Issuing s (.mts h num b) h is t) (one : OneWarp t is h k) (a : Active t is h k w l)
    (hw : mayWrite w.sup num.toNat = true) {f : Word → Warp → Warp} (hf : ∀ x w, WarpStands w (f x w))
    (hone : ∀ c, Ctx s (.mts h num b) h is t c w l →
      mtsOne num.toNat b (s.seen t is) c = ((s.seen t is).modWarp c.is.team c.wi (f (c.src b)), .done {})) :
    ∃ s' now rs ls, exec (.mts h num b) s = .next s' ∧ GoesOn s' t is h ∧
      s'.warp? is.team k.1 = some (commitWarp is now rs k.1 (f (readSrc w l b) { w with lanes := ls })) := by
  obtain ⟨c, C, hck, hx⟩ := perWarp_acts G one a (pre := fun _ c => regTrap c num.toNat) (mts_checks G one a (.inr hw)) (mtsOne num.toNat b)
  have hsrc : c.src b = readSrc w l b := C.src G b 1 (by simp [info])
  have hwi : c.wi = k.1 := congrArg Prod.fst hck
  have hres := hone c C
  rw [hsrc, C.issue, hwi] at hres
  have hstand := warpsStand_modWarp (s.seen t is) is.team k.1 (hf (readSrc w l b))
  obtain ⟨ls, hseen, -⟩ := seen_warp? G a.1.2.1
  refine ⟨_, _, _, ls, hx _ _ hres (seen_awake G.awake t is) hstand rfl, goesOn_stand G hstand, commit_warp? (allDo_untrapped rfl) ?_⟩
  rw [warp?_modWarp, hseen]
  simp

theorem seen_notSaved (h : ∀ u ∈ s.teams, isSaved u = false) (t : Team) (is : Issue) :
    ∀ u ∈ (s.seen t is).teams, isSaved u = false := by
  unfold State.seen
  split
  · exact h
  · intro u hu
    obtain ⟨v, hv, rfl⟩ := List.mem_map.mp hu
    split
    · exact (congrArg isSaved (noBp_frame v is.lanes)).trans (h v hv)
    · exact h v hv

/-- A register of the context that MTS writes is written as its event writes it. -/
theorem execMts_context (G : Issuing s (.mts h num b) h is t) (one : OneWarp t is h k) (a : Active t is h k w l) {i : Instr}
    (hw : mayWrite w.sup num.toNat = true) (hi : contextWrite t.space num (readSrc w l b) = some i)
    (hsaved : num.toNat = 0x30 → ∀ u ∈ s.teams, isSaved u = false) :
    ∃ s' s'', exec (.mts h num b) s = .next s' ∧ exec i s = .next s'' ∧ s'.ctxs = s''.ctxs ∧
      ((num.toNat = 0x30 → (readSrc w l b).getLsbD 31 = true) → GoesOn s' t is h) := by
  obtain ⟨hn12, hn4, hev⟩ := contextWrite_exec hi
  obtain ⟨c, C, hck, hx⟩ := perWarp_result G one a (pre := fun _ c => regTrap c num.toNat) (mts_checks G one a (.inr hw)) (mtsOne num.toNat b)
  have hsrc : c.src b = readSrc w l b := C.src G b 1 (by simp [info])
  have hspace : c.space = t.space := by rw [Lc.space, C.team, seen_frame]
  have hone := mtsOne_context (c := c) (by rwa [C.sup]) hn4 hn12 (s.seen t is) b
  rw [hsrc, hspace] at hone
  have hsaved' := fun hn => seen_notSaved (hsaved hn) t is
  have hwrites := writeCtxReg_writes hsaved' t.space (readSrc w l b)
  refine ⟨_, _, hx _ _ hone (hwrites.awake (seen_awake G.awake t is)) (fun j hj => untouched_epochs G (hwrites.warps is.team) hj) rfl,
    (hev s).trans (finish_awake ((writeCtxReg_writes hsaved t.space _).awake G.awake)), ?_, fun h31 => ?_⟩
  · rw [commit_frame _ is (allDo_untrapped rfl)]
    exact writeCtxReg_ctxs hsaved' hsaved (by rw [seen_state]) t.space _
  · exact goesOn_stand G (.of_teams (writeCtxReg_teams h31 _ _))

theorem execMts_readOnly (G : Issuing s (.mts h num b) h is t) (one : OneWarp t is h k) (a : Active t is h k w l)
    (hr : mayRead w.sup num.toNat = true) (hw : mayWrite w.sup num.toNat = false) :
    ∃ s', exec (.mts h num b) s = .next s' ∧ GoesOn s' t is h ∧ s'.ctxs = s.ctxs ∧ s'.mem = s.mem := by
  obtain ⟨c, C, -, hx⟩ := perWarp_acts G one a (pre := fun _ c => regTrap c num.toNat) (mts_checks G one a (.inl hr)) (mtsOne num.toNat b)
  have hone := mtsOne_readOnly (c := c) (by rwa [C.sup]) (by rwa [C.sup]) (s.seen t is) b
  refine ⟨_, hx _ _ hone (seen_awake G.awake t is) (.of_teams rfl) rfl, goesOn_stand G (.of_teams rfl), ?_, ?_⟩
  · rw [commit_frame _ is (allDo_untrapped rfl), seen_state]
  · rw [commit_frame _ is (allDo_untrapped rfl), seen_state]

end

/-- Settles O36: each event changes what it names, and MTS makes the event's change or none. -/
theorem registerWrites : Obligations.RegisterWrites := by
  unfold Obligations.RegisterWrites
  refine ⟨⟨?timer, ?qdest, ?pair, ?range, ?size⟩, ?mts⟩
  case timer =>
    intro s u k w x hs hw
    exact ⟨_, writeTmrcmp w x, finish_awake (s := s.modWarp u k (fun w => writeTmrcmp w x)) hs, by rw [warp?_modWarp, hw]; simp, rfl, rfl⟩
  case qdest =>
    intro s u k w q x hs hw
    exact ⟨_, writeQdest w q.val x, finish_awake (s := s.modWarp u k (fun w => writeQdest w q.val x)) hs,
      by rw [warp?_modWarp, hw]; simp, fun n => cget_cset _ _ _ _⟩
  case pair =>
    rintro s space c hi lo x1 x0 hs hc hlo rfl
    obtain ⟨hx1, hc1, hs1⟩ := event_writes hs hc (f := fun c => writeHi c (lo + 1).toNat x1) fun c => writeHi_space c _ _
    obtain ⟨hx2, hc2, -⟩ := event_writes hs1 hc1 (f := fun c => writeLo c lo.toNat x0) fun c => writeLo_space c _ _
    have hlo' : lo.toNat = 0x20 ∨ lo.toNat = 0x22 ∨ lo.toNat = 0x24 := by
      rcases hlo with rfl | rfl | rfl
      · exact .inl rfl
      · exact .inr (.inl rfl)
      · exact .inr (.inr rfl)
    refine ⟨_, _, _, _, hx1, hc1, fun n => pairReg_writeHi c _ x1 n, hx2, hc2, ?_, fun n hn hne => ?_⟩
    · rw [pairReg_writePair c hlo x1 x0 _ hlo']
      simp [pairUnit]
    · rw [pairReg_writePair c hlo x1 x0 n hn, if_neg fun h => hne h.1]
  case range =>
    rintro s space c i x0 x1 x2 x3 n r hs hc hlen hpend hn rfl
    have hi := i.isLt
    obtain ⟨s1, hx1, hc1, hs1⟩ := execRangeWord (n := n + 1) (k := 1) hs hc hi (by omega) (by bv_omega) x1
    obtain ⟨s2, hx2, hc2, hs2⟩ := execRangeWord (n := n + 2) (k := 2) hs1 hc1 hi (by omega) (by bv_omega) x2
    obtain ⟨s3, hx3, hc3, hs3⟩ := execRangeWord (n := n + 3) (k := 3) hs2 hc2 hi (by omega) (by bv_omega) x3
    obtain ⟨hx4, hc4, -⟩ := event_writes hs3 hc3 (f := fun c => installRange c i.val x0) fun _ => rfl
    have hp : c.rngPend[i.val]? = some c.rngPend[i.val] := List.getElem?_eq_getElem (by omega)
    refine ⟨s1, s2, s3, _, _, hx1, hx2, hx3, by rw [hc3]; rfl, hx4, hc4, fun j => ?_⟩
    rw [writeRange_words c hp, get_setRange hlen]
  case size =>
    intro s space c x hs hc
    exact ⟨_, _, execSaveSize hs x, (event_writes hs hc (f := fun c => { c with savesz := x }) fun _ => rfl).2.1, rfl, rfl⟩
  case mts =>
    intro s h is t k w l num b G one a _
    refine ⟨fun hw hn => ?_, ?_, fun i hw hi hsaved => ?_, fun hr hw => execMts_readOnly G one a hr hw⟩
    · obtain ⟨s', now, rs, ls, hx, hgo, hwarp⟩ := execMts_warp G one a hw (f := fun x w => writeQdest w num.toNat x)
        (fun _ _ => ⟨rfl, rfl, rfl, rfl⟩) fun c C => mtsOne_qdest (by rwa [C.sup]) hn _ _
      refine ⟨s', _, hx, hgo, hwarp, fun n => ?_⟩
      rw [commitWarp_qdest]
      exact cget_cset _ _ _ _
    · rintro rfl
      obtain ⟨s', now, rs, ls, hx, hgo, hwarp⟩ := execMts_warp G one a (num := 0x12) rfl (f := fun x w => writeTmrcmp w x)
        (fun _ _ => ⟨rfl, rfl, rfl, rfl⟩) fun c C => mtsOne_tmrcmp _ _
      refine ⟨s', _, hx, hgo, hwarp, ?_, ?_⟩
      · rw [commitWarp_tmrcmp]
        rfl
      · rw [commitWarp_armed]
        rfl
    · have hnum : num.toNat = 0x30 → num = 0x30 := fun hn => BitVec.eq_of_toNat_eq hn
      obtain ⟨s', s'', hx, hx', hctx, hgo⟩ := execMts_context G one a hw hi fun hn => hsaved (hnum hn)
      exact ⟨s', s'', hx, hx', hctx, fun h31 => hgo fun hn => h31 (hnum hn)⟩

end Sys2Proof.Machine
end

section
/-! SUPPORT. O19: a load of 16 bytes whose last registers lie beyond v191. A window of more than 192 registers lets it issue. -/

namespace Sys2Proof.Machine

def wideLane : Lane := newLane true 0x100 0
def wideWarp : Warp := newWarp 0 0 .general false [wideLane]

/-- A team of one live lane, with a window of 200 registers. Word 2 of its scratchpad holds 1. -/
def wideTeam : Team :=
  { probeTeam State.reset with
    uid := 2, warps := [wideWarp], scratch := [(8, 1)], desc := { probeDesc with win := 25 } }

/-- Its lane issues. -/
def wideIssue : Issue := ⟨2, 0x100, 8, 0, [(0, 0)], 0⟩
def wideState : State := { State.reset with teams := [wideTeam], cur := some wideIssue }

/-- A load of four words from offset 0, to v190 and on. -/
def plainHdr : Hdr := ⟨⟨7, false⟩, false, none⟩
def wordsOf16 : AccM := ⟨.w, .alloc, false, .b128⟩
def fromV10 : Addr := ⟨.v 10, none⟩
def loadBeyond : Instr := .lds plainHdr wordsOf16 (.v 190) fromV10

theorem wide_member {k : Nat × Nat} (hk : k ∈ wideIssue.lanes) {w : Warp} (hw : wideTeam.warps[k.1]? = some w) :
    k = (0, 0) ∧ w = wideWarp := by
  obtain rfl : k = (0, 0) := by simpa [wideIssue] using hk
  exact ⟨rfl, (Option.some.inj hw).symm⟩

theorem wide_lane {k : Nat × Nat} (hk : k ∈ wideIssue.lanes) {w : Warp} (hw : wideTeam.warps[k.1]? = some w) {l : Lane}
    (hl : w.lanes[k.2]? = some l) : k = (0, 0) ∧ w = wideWarp ∧ l = wideLane := by
  obtain ⟨rfl, rfl⟩ := wide_member hk hw
  exact ⟨rfl, rfl, (Option.some.inj hl).symm⟩

theorem wide_issuing : Issuing wideState loadBeyond plainHdr wideIssue wideTeam where
  hdr := rfl
  cur := rfl
  halt := rfl
  lost := rfl
  saved := rfl
  team := by decide +kernel
  lanes k hk := ⟨wideWarp, wideLane, by simp [wideIssue] at hk; subst hk; exact ⟨rfl, rfl⟩⟩
  live k hk w l hw hl := by
    obtain ⟨-, rfl, rfl⟩ := wide_lane hk hw hl
    decide
  nodup := by decide
  free k hk := by
    obtain rfl : k = (0, 0) := by simpa [wideIssue] using hk
    decide +kernel
  latches := .inr (by decide)
  calm := .inr fun k hk w hw => by
    obtain ⟨-, rfl⟩ := wide_member hk hw
    rfl
  checks k hk w l hw hl _ := by
    obtain ⟨-, rfl, rfl⟩ := wide_lane hk hw hl
    exact ⟨by decide +kernel, (fun r h => nomatch (show (none : Option Role) = some r from h)), by decide +kernel⟩

theorem wide_active : Active wideTeam wideIssue plainHdr (0, 0) wideWarp wideLane := ⟨⟨by decide, rfl, rfl⟩, rfl⟩

theorem wide_noTry : NoTry wideTeam := by
  intro w hw
  obtain rfl : w = wideWarp := by simpa [wideTeam] using hw
  rfl

/-- What the lane reads of v192 after the load. -/
def readBeyond : Option Word :=
  match exec loadBeyond wideState with
  | .next s => (s.lane? 2 0 0).map (fun l => l.rdV 192)
  | _ => none

theorem readBeyond_zero : readBeyond = some 0 := by decide +kernel

/-- Refutes O19: with a window of 200 registers LDS of 16 bytes to v190 issues, and its third word goes to v0, not beyond v191. -/
theorem not_scratchpadAccesses : ¬ Obligations.ScratchpadAccesses := by
  unfold Obligations.ScratchpadAccesses
  rintro ⟨hload, -⟩
  obtain ⟨s', w', l', t', hx, hw', hl', ⟨-, hregs, -⟩, -⟩ := hload wideState plainHdr wideIssue wideTeam (0, 0) wideWarp wideLane
    wordsOf16 (.v 190) fromV10 0 wide_issuing rfl wide_active wide_noTry rfl rfl (by decide)
  have hone : l'.rdV 192 = 1 := hregs rfl 2 1 (by decide +kernel)
  have hzero : some (l'.rdV 192) = some 0 := by
    rw [← readBeyond_zero, readBeyond, show exec loadBeyond wideState = _ from hx]
    simp only [State.lane?]
    rw [show s'.warp? 2 0 = some w' from hw']
    simp [show w'.lanes[0]? = some l' from hl']
  rw [hone] at hzero
  exact absurd hzero (by decide)

end Sys2Proof.Machine
end

section
/-! SUPPORT. Beats of an engine that all translate: translations only count, so that each beat finds the one that stood before the
first (R345, R350, R352, R370). -/

namespace Sys2Proof.Machine

/-! ### Translations that stand -/

/-- Every translation in Cecropia's cache of one state stands in another, with the keys and the ports. -/
structure MapsAs (s s' : State) : Prop where
  look : ∀ space ia need lane, (cached s space ia).isSome = true →
    (cached s' space ia).isSome = true ∧ lookup s' space ia need lane = lookup s space ia need lane
  owner : ∀ space leaf, ownerKey s' space leaf = ownerKey s space leaf
  near : ∀ leaf, unreachable s' leaf = unreachable s leaf

namespace MapsAs

variable {s s' s'' : State}

theorem trans (h : MapsAs s s') (h' : MapsAs s' s'') : MapsAs s s'' where
  look space ia need lane hit := by
    obtain ⟨hit', hlook⟩ := h.look space ia need lane hit
    obtain ⟨hit'', hlook'⟩ := h'.look space ia need lane hit'
    exact ⟨hit'', hlook'.trans hlook⟩
  owner space leaf := (h'.owner space leaf).trans (h.owner space leaf)
  near leaf := (h'.near leaf).trans (h.near leaf)

theorem lookup_congr (htc : s'.tcache = s.tcache) (hk : s'.keys = s.keys) (hp : s'.peerKeys = s.peerKeys) (hpkg : s'.pkg = s.pkg)
    {space ia : Nat} (hit : (cached s space ia).isSome = true) (need : Need) (lane : Bool) :
    lookup s' space ia need lane = lookup s space ia need lane := by
  obtain ⟨e, he⟩ := Option.isSome_iff_exists.mp hit
  have he' : cached s' space ia = some e := by rw [← he, cached, cached, htc]
  simp only [lookup, he, he', leafCheck, ownerKey, State.keyOf, physKey, hk, hp, hpkg]

theorem of_eq (htc : s'.tcache = s.tcache) (hk : s'.keys = s.keys) (hp : s'.peerKeys = s.peerKeys) (hpkg : s'.pkg = s.pkg)
    (hports : s'.ports = s.ports) : MapsAs s s' where
  look space ia need lane hit := ⟨by rwa [cached, htc], lookup_congr htc hk hp hpkg hit need lane⟩
  owner space leaf := by simp only [ownerKey, State.keyOf, hk, hp, hpkg]
  near leaf := by simp only [unreachable, hpkg, hports]

end MapsAs

theorem Warm.as {s s' : State} {space ia : Nat} {need : Need} {lane : Bool} {tr : Trans} (W : Warm s space ia need lane tr)
    (M : MapsAs s s') : Warm s' space ia need lane tr := by
  obtain ⟨hit, hlook⟩ := M.look space ia need lane W.hit
  exact ⟨hit, hlook.trans W.look, W.bits, (M.near _).trans W.near, W.real⟩

/-! ### Counting -/

/-- Two searches, each of which finds what the other looks for, find the same. -/
theorem find?_meet {α : Type} {p q : α → Bool} {xs : List α} {a b : α} (ha : xs.find? p = some a) (hb : xs.find? q = some b)
    (hpb : p b = true) (hqa : q a = true) : a = b := by
  induction xs with
  | nil => cases ha
  | cons x xs ih =>
    rw [List.find?_cons] at ha hb
    cases hp : p x with
    | true =>
      obtain rfl : x = a := by simpa [hp] using ha
      simpa [hqa] using hb
    | false =>
      cases hq : q x with
      | true =>
        obtain rfl : x = b := by simpa [hq] using hb
        rw [hp] at hpb
        cases hpb
      | false => exact ih (by simpa [hp] using ha) (by simpa [hq] using hb)

/-- The entry of a page with its translation counted. -/
def countedEntry (space : Nat) (e : TEntry) (leaf : BitVec 128) (x : TEntry) : TEntry :=
  if x.space == space && x.page == e.page && x.big == e.big
  then { x with leaf := leaf, count := min (x.count + 1) (2 ^ 32 - 1) } else x

theorem counted_place (space : Nat) (e : TEntry) (leaf : BitVec 128) (x : TEntry) : (countedEntry space e leaf x).space = x.space ∧
    (countedEntry space e leaf x).page = x.page ∧ (countedEntry space e leaf x).big = x.big ∧
    (countedEntry space e leaf x).leafPa = x.leafPa := by
  unfold countedEntry
  split <;> exact ⟨rfl, rfl, rfl, rfl⟩

theorem countTranslation_hit {s : State} {space ia : Nat} {e : TEntry} (he : cached s space ia = some e) (tr : Trans)
    (leaf : BitVec 128) : (countTranslation s space ia tr leaf).tcache = s.tcache.map (countedEntry space e leaf) := by
  simp only [countTranslation, he]
  rfl

theorem cached_count {s : State} {space ia : Nat} {e : TEntry} (he : cached s space ia = some e) (tr : Trans) (leaf : BitVec 128)
    (space' ia' : Nat) : cached (countTranslation s space ia tr leaf) space' ia' =
      (cached s space' ia').map (countedEntry space e leaf) := by
  rw [cached, countTranslation_hit he, List.find?_map]
  refine congrArg (fun p => (s.tcache.find? p).map _) (funext fun x => ?_)
  obtain ⟨h1, h2, h3, -⟩ := counted_place space e leaf x
  simp only [Function.comp, h1, h2, h3]

/-- The entry that a search finds, counted for a page, has the leaf that it had. -/
theorem counted_leaf {s : State} {space ia space' ia' : Nat} {e e' : TEntry} (he : cached s space ia = some e)
    (he' : cached s space' ia' = some e') : (countedEntry space e e.leaf e').leaf = e'.leaf := by
  unfold countedEntry
  split
  next h =>
    simp only [Bool.and_eq_true, beq_iff_eq] at h
    obtain ⟨⟨hs, hp⟩, hb⟩ := h
    have h1 := List.find?_some he
    have h2 := List.find?_some he'
    simp only [Bool.and_eq_true, beq_iff_eq] at h1 h2
    have hmeet : e = e' := find?_meet he he' (by simp [hs, hp, hb, h1.2]) (by simp [h1.1, ← h2.1, hs, ← hp, h2.2, ← hb])
    rw [hmeet]
  next => rfl

/-- The leaf of a translation that stands is that of its entry. -/
theorem Warm.leaf_eq {s : State} {space ia : Nat} {need : Need} {lane : Bool} {tr : Trans} (W : Warm s space ia need lane tr)
    {e : TEntry} (he : cached s space ia = some e) : tr.leaf = e.leaf := by
  have h := W.look
  simp only [lookup, he, leafCheck] at h
  split at h
  · cases h
  · split at h
    · cases h
    · split at h
      · cases h
      · exact ((TransRes.ok.inj h) ▸ rfl)

theorem MapsAs.count {s : State} {space ia : Nat} {need : Need} {lane : Bool} {tr : Trans} (W : Warm s space ia need lane tr) :
    MapsAs s (countTranslation s space ia tr tr.leaf) where
  look space' ia' need' lane' hit := by
    obtain ⟨e, he⟩ := Option.isSome_iff_exists.mp W.hit
    obtain ⟨e', he'⟩ := Option.isSome_iff_exists.mp hit
    have hc : cached (countTranslation s space ia tr tr.leaf) space' ia' = some (countedEntry space e e.leaf e') := by
      rw [cached_count he, he', W.leaf_eq he]
      rfl
    refine ⟨by rw [hc]; rfl, ?_⟩
    obtain ⟨-, -, hbig, hpa⟩ := counted_place space e e.leaf e'
    simp only [lookup, hc, he', hbig, hpa, counted_leaf he he']
    rw [countTranslation_frame]
    rfl
  owner space' leaf := by
    rw [countTranslation_frame]
    rfl
  near leaf := by
    rw [countTranslation_frame]
    rfl

/-! ### What a read finds -/

/-- A read finds in one state what it finds in another: memory, the L1s and the translations stand. -/
structure ReadsAs (s s' : State) : Prop where
  frame : s' = { s with
    tcache := s'.tcache, teams := s'.teams, ops := s'.ops, serial := s'.serial, mcasts := s'.mcasts, accs := s'.accs }
  maps : MapsAs s s'

namespace ReadsAs

variable {s s' s'' : State}

theorem trans (h : ReadsAs s s') (h' : ReadsAs s' s'') : ReadsAs s s'' := ⟨by rw [h'.frame, h.frame], h.maps.trans h'.maps⟩

theorem of_frame (h : s' = { s with teams := s'.teams, ops := s'.ops, serial := s'.serial, mcasts := s'.mcasts, accs := s'.accs }) :
    ReadsAs s s' := by
  refine ⟨?_, ?_⟩
  · rw [h]
  · rw [h]
    exact .of_eq rfl rfl rfl rfl rfl

theorem refl (s : State) : ReadsAs s s := .of_frame rfl

theorem count {space ia : Nat} {need : Need} {lane : Bool} {tr : Trans} (W : Warm s space ia need lane tr) :
    ReadsAs s (countTranslation s space ia tr tr.leaf) := by
  refine ⟨?_, .count W⟩
  rw [countTranslation_frame]

theorem mem (h : ReadsAs s s') : s'.mem = s.mem := by rw [h.frame]

theorem awake (h : ReadsAs s s') (hs : Awake s) : Awake s' := by
  rw [h.frame]
  exact hs

theorem corrupt (h : ReadsAs s s') (pa n : Nat) : corrupt s' pa n = corrupt s pa n := by
  rw [h.frame]
  rfl

theorem sliceBytes (h : ReadsAs s s') (core space ia n : Nat) (t : Trans) :
    sliceBytes s' core space ia n t = sliceBytes s core space ia n t := by
  rw [h.frame]
  rfl

theorem readBytes (h : ReadsAs s s') (core : Nat) (fused : Bool) (space ia n : Nat) (t : Trans) :
    readBytes s' core fused space ia n t = readBytes s core fused space ia n t := by
  rw [h.frame]
  rfl

theorem keyed (h : ReadsAs s s') {key : Option (BitVec 512)} {pa n : Nat} (K : KeyedAs s key pa n) : KeyedAs s' key pa n := by
  rw [h.frame]
  exact K

theorem streamed (h : ReadsAs s s') {space : Nat} {need : Need} {key : Option (BitVec 512)} {bs : List Beat} {tr : Beat → Trans}
    (S : Streamed s space need key bs tr) : Streamed s' space need key bs tr where
  warm b hb := (S.warm b hb).as h.maps
  owner b hb := (h.maps.owner _ _).trans (S.owner b hb)
  lines b hb := h.keyed (S.lines b hb)
  inLine := S.inLine
  sound := S.sound.imp_right fun hs b hb => (h.corrupt _ _).trans (hs b hb)

end ReadsAs

theorem readBytes_length (s : State) (core : Nat) (fused : Bool) (space ia n : Nat) (t : Trans) :
    (readBytes s core fused space ia n t).length = n := by
  simp [readBytes, sliceBytes, pread]

/-! ### Beats into a tile area -/

/-- The bytes of some beats are put in their places. -/
def putBeats (place : Beat → Nat) (bytes : Beat → List Byte) (bs : List Beat) (m : Cells 8) : Cells 8 :=
  bs.foldl (fun m b => memPut m (place b) (bytes b)) m

/-- What a core sees at the addresses of a beat. -/
def beatBytes (s : State) (t : Team) (tr : Beat → Trans) (b : Beat) : List Byte :=
  readBytes s t.core t.desc.fused t.space b.ia b.len (tr b)

def Team.putBytes (t : Team) (off : Nat) (bytes : List Byte) : Team := { t with tileMem := memPut t.tileMem off bytes }

theorem fillFrom_eq {s : State} {u : Nat} {t : Team} (ht : s.team? u = some t) (b : Beat) (tr : Beat → Trans) :
    fillFrom u s b (tr b) = s.modTeam u (fun x => x.putBytes b.off (beatBytes s t tr b)) := by
  rw [fillFrom, ht]
  rfl

theorem makeBeats_cons {s : State} {space : Nat} {need : Need} {act : State → Beat → Trans → State} {b : Beat} {tr : Trans}
    (W : Warm s space b.ia need false tr) (hc : need = .store ∨ corrupt s tr.pa b.len = false) (n : Nat) (bs : List (Beat × Nat)) :
    makeBeats space need act s ((b, n) :: bs) = makeBeats space need act (act (countTranslation s space b.ia tr tr.leaf) b tr) bs := by
  simp only [makeBeats, List.foldl_cons, translateFor_warm W hc]

theorem Streamed.tail {s : State} {space : Nat} {need : Need} {key : Option (BitVec 512)} {b : Beat} {bs : List Beat}
    {tr : Beat → Trans} (S : Streamed s space need key (b :: bs) tr) : Streamed s space need key bs tr where
  warm x hx := S.warm x (List.mem_cons_of_mem _ hx)
  owner x hx := S.owner x (List.mem_cons_of_mem _ hx)
  lines x hx := S.lines x (List.mem_cons_of_mem _ hx)
  inLine x hx := S.inLine x (List.mem_cons_of_mem _ hx)
  sound := S.sound.imp_right fun h x hx => h x (List.mem_cons_of_mem _ hx)

/-- Beats that all translate fill the tile area of their team. -/
theorem makeBeats_fills {u : Nat} {key : Option (BitVec 512)} {tr : Beat → Trans} (bs : List (Beat × Nat)) {s : State} {t : Team}
    (ht : s.team? u = some t) (S : Streamed s t.space .load key (bs.map (·.1)) tr) :
    ∃ s', makeBeats t.space .load (fillFrom u) s bs = (s', none) ∧ ReadsAs s s' ∧
      s' = { s with tcache := s'.tcache, teams := s'.teams } ∧
      s'.team? u = some { t with tileMem := putBeats Beat.off (beatBytes s t tr) (bs.map (·.1)) t.tileMem } := by
  induction bs generalizing s t with
  | nil => exact ⟨s, rfl, .refl s, rfl, ht⟩
  | cons x bs ih =>
    obtain ⟨b, n⟩ := x
    have W := S.warm b (by simp)
    have hcount := countTranslation_frame s t.space b.ia (tr b) (tr b).leaf
    have ht1 : (countTranslation s t.space b.ia (tr b) (tr b).leaf).team? u = some t := by rw [hcount]; exact ht
    have hfill := fillFrom_eq ht1 b tr
    have R1 := (ReadsAs.count W).trans (.of_frame (s' := (countTranslation s t.space b.ia (tr b) (tr b).leaf).modTeam u
      (fun x => x.putBytes b.off (beatBytes (countTranslation s t.space b.ia (tr b) (tr b).leaf) t tr b))) rfl)
    have hbytes : ∀ c, beatBytes (countTranslation s t.space b.ia (tr b) (tr b).leaf) t tr c = beatBytes s t tr c :=
      fun c => (ReadsAs.count W).readBytes ..
    rw [hbytes] at hfill R1
    have ht2 := team?_modTeam_self ht1 (f := fun x => x.putBytes b.off (beatBytes s t tr b)) fun _ => rfl
    obtain ⟨s', hmake, R, hframe, ht'⟩ := ih ht2 (R1.streamed S.tail)
    refine ⟨s', ?_, R1.trans R, ?_, ?_⟩
    · rw [makeBeats_cons W (S.sound.imp_right fun h => h b (by simp)), hfill]
      exact hmake
    · rw [hframe, State.modTeam, hcount]
    · rw [ht']
      have : beatBytes _ (t.putBytes b.off (beatBytes s t tr b)) tr = beatBytes s t tr := funext fun c => R1.readBytes ..
      rw [this]
      rfl

/-- What cells hold after the bytes of beats whose places lie apart. -/
theorem putBeats_apart {place : Beat → Nat} {bytes : Beat → List Byte} {bs : List Beat} (hlen : ∀ b, (bytes b).length = b.len)
    (A : bs.Pairwise (fun a b => place a + a.len ≤ place b ∨ place b + b.len ≤ place a)) (m : Cells 8) :
    (∀ e ∈ bs, cread (putBeats place bytes bs m) (place e) e.len = bytes e) ∧
      ∀ x, (∀ e ∈ bs, x < place e ∨ place e + e.len ≤ x) → cget (putBeats place bytes bs m) x = cget m x := by
  induction bs generalizing m with
  | nil => exact ⟨fun e he => (List.not_mem_nil he).elim, fun x _ => rfl⟩
  | cons b bs ih =>
    obtain ⟨hb, hbs⟩ := List.pairwise_cons.mp A
    obtain ⟨hin, hout⟩ := ih hbs (memPut m (place b) (bytes b))
    have hout' : ∀ x, (∀ e ∈ bs, x < place e ∨ place e + e.len ≤ x) → cget (putBeats place bytes (b :: bs) m) x =
        if place b ≤ x ∧ x < place b + b.len then (bytes b).getD (x - place b) 0 else cget m x := by
      intro x hx
      rw [← hlen b, ← cget_memPut]
      exact hout x hx
    refine ⟨fun e he => ?_, fun x hx => ?_⟩
    · rcases List.mem_cons.mp he with rfl | he
      · refine List.ext_getElem (by simp [hlen]) fun j hj hj' => ?_
        have hj1 : j < e.len := by simpa using hj
        have hx := hout' (place e + j) fun c hc => by have := hb c hc; omega
        rw [if_pos (by omega), Nat.add_sub_cancel_left] at hx
        simpa [cread, List.getElem_eq_getD (h := hj') (fallback := 0)] using hx
      · exact hin e he
    · rw [hout' x fun e he => hx e (List.mem_cons_of_mem _ he), if_neg]
      have := hx b (by simp)
      omega

end Sys2Proof.Machine
end

section
/-! SUPPORT. O23: copies between memory and the tile area, from issue to completion (R63, R92, R93, R238). -/

namespace Sys2Proof.Machine

/-! ### A release with nothing to write back -/

theorem mem_dirtyLines {s : State} {cores : List Nat} {x : Nat × Nat × Nat} (hx : x ∈ dirtyLines s cores) :
    ∃ d ∈ s.l1, d.core ∈ cores := by
  have hfold : ∀ x : Nat × Nat × Nat, x ∈ s.l1.foldl (fun acc d =>
      if cores.contains d.core && !acc.contains (d.core, d.space, d.ia / 128)
      then (d.core, d.space, d.ia / 128) :: acc else acc) [] → ∃ d ∈ s.l1, d.core ∈ cores := by
    refine List.foldlRecOn (motive := fun acc => ∀ x : Nat × Nat × Nat, x ∈ acc → ∃ d ∈ s.l1, d.core ∈ cores) _ _
      (fun x hx => (List.not_mem_nil hx).elim) ?_
    intro acc ih d hd x hx
    split at hx
    next hif =>
      simp only [Bool.and_eq_true, List.contains_iff_mem] at hif
      exact ⟨d, hd, hif.1⟩
    next => exact ih x hx
  exact hfold x (List.mem_reverse.mp hx)

/-- No slice holds a dirty line where none of a space is held (R69). -/
theorem dirtyLines_slices {s : State} {space : Nat} (h : CleanSpace s space) (sector : Nat) :
    dirtyLines s [slicesOf sector] = [] := by
  rw [List.eq_nil_iff_forall_not_mem]
  intro x hx
  obtain ⟨d, hd, hcore⟩ := mem_dirtyLines hx
  have hnone := h.2.1 d hd
  rw [List.mem_singleton.mp hcore, sectorAt?, if_pos (by unfold slicesOf; omega)] at hnone
  cases hnone

theorem release_clean {s : State} {t : Team} {a : FenceAt} (h : CleanSpace s t.space) (ht : s.team? a.team = some t) (scope : Scope) :
    release s a scope = (s, .ok) := by
  have hpeer : peerMisses s scope = false := by simp [peerMisses, h.2.2]
  simp [release, ht, dirtyLines_clean h.1, dirtyLines_slices h, writeBackAll, hpeer]

theorem forkRelease_clean {s : State} {t : Team} {c : Lc} (h : CleanSpace s t.space) (ht : s.team? c.is.team = some t) (scope : Scope)
    (k : State → State × LaneRes) : forkRelease s c scope k = k s := by
  rw [forkRelease, release_clean h ht]

theorem seen_clean {s : State} {t : Team} (is : Issue) (h : CleanSpace s t.space) :
    CleanSpace (s.seen t is) (t.seen is).space := by
  rw [seen_state, seen_frame]
  exact h

/-! ### Checks of an operation's operands -/

theorem shapeOk_seen (t : Team) (is : Issue) (n : Nat) : (t.seen is).shapeOk n = t.shapeOk n := by
  rw [seen_frame]
  rfl

theorem shape_seen (t : Team) (is : Issue) (n : Nat) : (t.seen is).shape n = t.shape n := by
  rw [seen_frame]
  rfl

/-- The check of R55 for one tile. -/
theorem shapeCheck_none {s : State} {i : Instr} {h : Hdr} {is : Issue} {t : Team} (G : Issuing s i h is t) {n : Nat}
    (hok : t.shapeOk n = true) (c : Lc) (w : Warp) (l : Lane) (C : Ctx s i h is t c w l) : shapeCheck [n] (s.seen t is) c = none := by
  simp [shapeCheck, C.team? G, shapeOk_seen, hok]

theorem checkBeats_ranged {s : State} {space : Nat} {need : Need} {bs : List Beat} (h : Ranged s space need bs) :
    ∃ ias, checkBeats s space need bs = .ok ias := by
  obtain ⟨c, hc, hall⟩ := h
  simp only [checkBeats, hc]
  induction bs with
  | nil => exact ⟨[], rfl⟩
  | cons b bs ih =>
    obtain ⟨ia, hia⟩ := hall b (by simp)
    obtain ⟨ias, hias⟩ := ih fun x hx => hall x (by simp [hx])
    refine ⟨ia :: ias, ?_⟩
    rw [List.foldr_cons, hias]
    simp only [hia]
    rfl

theorem checkBeats_seen (s : State) (t : Team) (is : Issue) (space : Nat) (need : Need) (bs : List Beat) :
    checkBeats (s.seen t is) space need bs = checkBeats s space need bs := by
  rw [seen_state]
  rfl

/-! ### Tiles of an operation -/

section
variable {u : Nat} {s : State} {t : Team}

theorem computeStart_booked (ht : s.team? u = some t) (n : Nat) : ∃ t', Booked u s (computeStart s u n) t t' ∧ t'.ttab = t.ttab := by
  unfold computeStart
  split
  · exact ⟨t, .refl ht, rfl⟩
  · exact modLife_booked ht _ _

theorem computeEnd_booked (ht : s.team? u = some t) (n : Nat) : ∃ t', Booked u s (computeEnd s u n) t t' ∧ t'.ttab = t.ttab := by
  unfold computeEnd
  split
  · exact ⟨t, .refl ht, rfl⟩
  · exact modLife_booked ht _ _

theorem copyOutEnd_booked (ht : s.team? u = some t) (n : Nat) : ∃ t', Booked u s (copyOutEnd s u n) t t' ∧ t'.ttab = t.ttab :=
  modLife_booked ht _ _

theorem setTile_state (ht : s.team? u = some t) {st : TileSt} (hst : (st == .empty) = false) {n : Nat} (hn : n < t.ttab.length)
    (copyIn : Bool) : ∃ t', Booked u s (setTile s u n st copyIn) t t' ∧ (t'.tile n).st = st ∧ t'.ttab.length = t.ttab.length := by
  obtain ⟨t', B, htab⟩ := setTile_booked ht hst n copyIn
  exact ⟨t', B, by rw [tile_modify n n st htab hn, if_pos rfl], by rw [htab, List.length_modify]⟩

/-- Only its beats' bytes of a team differ. -/
def Fed (s : State) (t t' : Team) (bs : List Beat) (tr : Beat → Trans) : Prop :=
  t' = { t with tileMem := t'.tileMem } ∧ Filled s t t' bs tr

end

/-! ### Runs of beats into the tile area -/

section
variable {s : State} {o : EngOp} {t : Team} {key : Option (BitVec 512)} {tr : Beat → Trans} {bs : List Beat}

theorem beatsFrom_fst (o : EngOp) (bs : List Beat) : (beatsFrom o bs).map (·.1) = bs.drop o.pos := by
  rw [beatsFrom, List.map_drop, List.zipIdx_map_fst]

/-- An operation whose beats all translate makes them all, and stands past the last. -/
theorem runBeatsOf_fills (ht : s.team? o.team = some t) (S : Streamed s t.space .load key (bs.drop o.pos) tr)
    (A : Apart (bs.drop o.pos)) : ∃ s' t', runBeatsOf t.space .load (fillFrom o.team) s o bs = (s', true) ∧ ReadsAs s s' ∧
      s' = { s with tcache := s'.tcache, teams := s'.teams, ops := (s.modOp o.id (fun o => { o with pos := bs.length })).ops } ∧
      s'.team? o.team = some t' ∧ Fed s t t' (bs.drop o.pos) tr := by
  obtain ⟨s1, hmake, R, hframe, ht1⟩ := makeBeats_fills (beatsFrom o bs) ht (by rwa [beatsFrom_fst])
  rw [beatsFrom_fst] at ht1
  refine ⟨s1.modOp o.id (fun o => { o with pos := bs.length }), _, by rw [runBeatsOf, hmake], R.trans (.of_frame rfl), ?_, ht1, rfl, ?_⟩
  · rw [State.modOp, State.modOp, hframe]
  · exact putBeats_apart (fun b => readBytes_length ..) A t.tileMem

end

/-! ### The issue of a copy -/

section
variable {s : State} {i : Instr} {h : Hdr} {is : Issue} {t : Team} {k : Nat × Nat} {w : Warp} {l : Lane} {m : CpyM} {n : Fin 32}
  {ad : Addr} {b : Src}

theorem cpyAddr_eq (G : Issuing s i h is t) {c : Lc} (C : Ctx s i h is t c w l) (hr : (ad.base, 2) ∈ (info i).srcs) :
    cpyAddr c ad = eaOf w l ad := by
  rw [cpyAddr, eaOf, C.pair G ad.base 2 hr]

/-- A copy as it begins: its operands, its IAs and its tile. -/
def copyOp (i : Instr) (c : Lc) (g : DWord) (x : Word) (ias : List Nat) (n : Nat) (kept : Option (Cells 8)) : EngOp :=
  { blankOp i c with args := [g.toNat, x.toNat], ias := ias, tiles := [n], kept := kept }

/-- The tile of a CPYOUT that begins. -/
def Team.keepTile (t : Team) (n : Nat) (keep : Bool) : Team := t.modTile n (fun e => { e with keep := keep })

def outBegun (s : State) (u n : Nat) (free : Bool) : State :=
  computeStart (setTile (s.modTeam u (fun t => t.keepTile n (!free))) u n .draining false) u n

def inBegun (s : State) (u n : Nat) : State := computeStart (setTile s u n .filling true) u n

theorem outBegun_booked {u : Nat} (ht : s.team? u = some t) {n : Nat} (hn : n < t.ttab.length) (free : Bool) :
    ∃ t', Booked u s (outBegun s u n free) t t' ∧ (t'.tile n).st = .draining := by
  have B := modTile_booked ht n (fun e => { e with keep := !free })
  obtain ⟨t1, B1, hst, -⟩ := setTile_state B.found (st := .draining) rfl (n := n) (by rwa [Team.modTile, List.length_modify]) false
  obtain ⟨t2, B2, htab⟩ := computeStart_booked B1.found n
  exact ⟨t2, B.trans (B1.trans B2), by rw [tile_congr htab, hst]⟩

theorem inBegun_booked {u : Nat} (ht : s.team? u = some t) {n : Nat} (hn : n < t.ttab.length) :
    ∃ t', Booked u s (inBegun s u n) t t' ∧ (t'.tile n).st = .filling := by
  obtain ⟨t1, B1, hst, -⟩ := setTile_state ht (st := .filling) rfl hn true
  obtain ⟨t2, B2, htab⟩ := computeStart_booked B1.found n
  exact ⟨t2, B1.trans B2, by rw [tile_congr htab, hst]⟩

/-- The operands of a copy are in order: the address and the stride are multiples of 4, its beats lie in ranges, and its release
has nothing to write back. -/
structure CopyIssues (s : State) (t : Team) (need : Need) (n : Nat) (g : DWord) (x : Word) (ias : List Nat) : Prop where
  clean : CleanSpace s t.space
  addr : g.toNat % 4 = 0
  stride : x.toNat % 4 = 0
  beats : checkBeats s t.space need (rowBeats g x (t.shape n)) = .ok ias

theorem copyOne_out {free : Bool} {c : Lc} {ias : List Nat} (ht : s.team? c.is.team = some t) (hspace : c.space = t.space) {n : Nat}
    (hst : (t.tile n).st = .ready) (O : CopyIssues s t .store n (cpyAddr c ad) (c.src b) ias) :
    copyOne i true free m n ad b s c =
      (addOp (outBegun s c.is.team n free) (copyOp i c (cpyAddr c ad) (c.src b) ias n none), .done {}) := by
  have hbeats := O.beats
  unfold copyOne
  simp only [ht, O.addr, O.stride, hst, hspace, if_true, hbeats, forkRelease_clean O.clean ht]
  rfl

/-- A CPYIN as it begins: which bytes its core has written itself is noted. -/
def inCopyOp (s : State) (t : Team) (i : Instr) (c : Lc) (g : DWord) (x : Word) (ias : List Nat) (n : Nat) : EngOp :=
  copyOp i c g x ias n (some (ownBytes (setTile s c.is.team n .filling true) t))

theorem Ctx.space_eq {c : Lc} (C : Ctx s i h is t c w l) : c.space = (t.seen is).space := by rw [Lc.space, C.team]

theorem CopyIssues.seen {need : Need} {n : Nat} {g : DWord} {x : Word} {ias : List Nat} (O : CopyIssues s t need n g x ias)
    (is : Issue) : CopyIssues (s.seen t is) (t.seen is) need n g x ias where
  clean := seen_clean is O.clean
  addr := O.addr
  stride := O.stride
  beats := by
    rw [checkBeats_seen, shape_seen, show (t.seen is).space = t.space by rw [seen_frame]]
    exact O.beats

theorem seen_ttab (t : Team) (is : Issue) : (t.seen is).ttab = t.ttab := by rw [seen_frame]

/-- CPYOUT takes its tile to DRAINING and leaves as an operation. -/
theorem execCpyout_begins {free : Bool} {ias : List Nat} (G : Issuing s (.cpyout h free m n ad b) h is t) (one : OneWarp t is h k)
    (a : Active t is h k w l) (hlen : t.ttab.length = 32) (hok : t.shapeOk n.val = true) (hst : (t.tile n.val).st = .ready)
    (O : CopyIssues s t .store n.val (eaOf w l ad) (readSrc w l b) ias) :
    ∃ s', exec (.cpyout h free m n ad b) s = .next s' ∧ GoesOn s' t is h ∧ TileAt s' is.team n.val .draining ∧
      Queued s s' (.cpyout h free m n ad b) is k [(eaOf w l ad).toNat, (readSrc w l b).toNat] [n.val] ∧ s'.mem = s.mem := by
  obtain ⟨t0, B, hdrain⟩ := outBegun_booked (seen_team s t is G.team) (n := n.val) (by rw [seen_ttab]; omega) free
  have hawake := B.awake (seen_awake G.awake t is)
  obtain ⟨s1, t1, now, hx, hgo, ht, hst1, hops, hmem⟩ := perWarp_goesOn G one a (shapeCheck_none G hok)
    (f := copyOne (.cpyout h free m n ad b) true free m n.val ad b)
    (P := fun s1 t1 => (t1.tile n.val).st = .draining ∧ (∃ c, c.wi = k.1 ∧ c.is = is ∧ s1.ops = s.ops ++
      [{ copyOp (.cpyout h free m n ad b) c (eaOf w l ad) (readSrc w l b) ias n.val none with id := s.serial }]) ∧ s1.mem = s.mem)
    fun c C => by
      have hsrc : c.src b = readSrc w l b := C.src G b 1 (by simp [info])
      have haddr : cpyAddr c ad = eaOf w l ad := cpyAddr_eq G C (by simp [info])
      have hone := copyOne_out (i := .cpyout h free m n ad b) (free := free) (m := m) (ad := ad) (b := b) (C.team? G) C.space_eq
        (by rw [tile_seen]; exact hst) (by rw [hsrc, haddr]; exact O.seen is)
      rw [hsrc, haddr, C.issue, addOp_eq _ rfl rfl] at hone
      refine ⟨_, t0, hone, hawake, B.found, B.warps, hdrain, ⟨c, C.warp_num G one, C.issue, ?_⟩, ?_⟩
      · rw [B.frame, seen_state]
      · rw [B.frame, seen_state]
  obtain ⟨c, hwi, his, hops⟩ := hops
  refine ⟨_, hx, hgo, ⟨_, ht, hst1⟩, ⟨_, s.ops, (commit_ops_goes ..).trans hops, rfl, rfl, rfl, ?_, ?_, ?_, rfl, rfl, rfl, rfl⟩, ?_⟩
  · exact congrArg Issue.team his
  · exact hwi
  · exact congrArg Issue.pc his
  · rw [commit_mem s1 rfl, hmem]

/-! ### The beats that a CPYIN makes at its fork -/

/-- The state in which an operation has begun. -/
def State.begin (s : State) (o : EngOp) : State :=
  { s with ops := s.ops ++ [{ o with id := s.serial }], serial := s.serial + 1 }

theorem newest_begin (hf : FreshName s) (o : EngOp) (f : EngOp → State) :
    newest (s.begin o) f = f { o with id := s.serial } := by
  have hnone : s.ops.find? (fun x => x.id == s.serial) = none :=
    List.find?_eq_none.mpr fun x hx => by simpa using hf x hx
  have hop : (s.begin o).op? ((s.begin o).serial - 1) = some { o with id := s.serial } := by
    simp [State.op?, State.begin, List.find?_append, hnone]
  rw [newest, hop]

theorem Booked.fresh {u : Nat} {s s' : State} {t t' : Team} (B : Booked u s s' t t') (hf : FreshName s) : FreshName s' := by
  unfold FreshName
  rw [B.frame]
  exact hf

/-- A CPYIN whose tile is EMPTY begins, and makes at once the beats that it can. -/
theorem copyOne_in {free : Bool} {c : Lc} {ias : List Nat} {t0 : Team} {n : Nat} (ht : s.team? c.is.team = some t) (hspace : c.space = t.space)
    (hf : FreshName s) (B : Booked c.is.team s (inBegun s c.is.team n) t t0)
    (hst : t.tile n = ⟨.empty, false, false, none⟩) (O : CopyIssues s t .load n (cpyAddr c ad) (c.src b) ias) :
    copyOne i false free m n ad b s c =
      ((fillRun ((inBegun s c.is.team n).begin (inCopyOp s t i c (cpyAddr c ad) (c.src b) ias n))
        { inCopyOp s t i c (cpyAddr c ad) (c.src b) ias n with id := (inBegun s c.is.team n).serial }).1, .done {}) := by
  have hbeats := O.beats
  have hnew := newest_begin (B.fresh hf) (inCopyOp s t i c (cpyAddr c ad) (c.src b) ias n) fun o =>
    (fillRun ((inBegun s c.is.team n).begin (inCopyOp s t i c (cpyAddr c ad) (c.src b) ias n)) o).1
  rw [← hnew]
  unfold copyOne
  simp [ht, O.addr, O.stride, hst, hspace, hbeats, forkRelease_clean O.clean ht]
  rfl

theorem modOp_begin (hf : FreshName s) (o : EngOp) (f : EngOp → EngOp) :
    ((s.begin o).modOp s.serial f).ops = s.ops ++ [f { o with id := s.serial }] := by
  have hstand : s.ops.map (fun x => if x.id = s.serial then f x else x) = s.ops :=
    (List.map_congr_left fun x hx => by simp [hf x hx]).trans (List.map_id _)
  simp [State.modOp, State.begin, hstand]

theorem copyBeats_copyOp {t' : Team} {i : Instr} {c : Lc} {g : DWord} {x : Word} {ias : List Nat} {n : Nat} {kept : Option (Cells 8)}
    {id : Nat} (hshape : t'.shape n = t.shape n) : copyBeats t' { copyOp i c g x ias n kept with id := id } =
      withIas (rowBeats g x (t.shape n)) ias := by
  simp [copyBeats, copyOp, EngOp.arg, hshape]

/-- The bytes of beats fill the tile area of a team alike in two states in which a read finds the same. -/
theorem Filled.of_reads {s' : State} {t' t'' : Team} {bs : List Beat} {tr : Beat → Trans} (F : Filled s' t' t'' bs tr) (R : ReadsAs s s')
    (ht : t'.core = t.core ∧ t'.desc = t.desc ∧ t'.space = t.space ∧ t'.tileMem = t.tileMem) : Filled s t t'' bs tr := by
  obtain ⟨hin, hout⟩ := F
  obtain ⟨hcore, hdesc, hspace, hmem⟩ := ht
  refine ⟨fun e he => ?_, fun x hx => ?_⟩
  · rw [hin e he, hcore, hdesc, hspace, R.readBytes]
  · rw [hout x hx, hmem]

theorem Booked.fixed {u : Nat} {s s' : State} {t t' : Team} (B : Booked u s s' t t') :
    t'.core = t.core ∧ t'.desc = t.desc ∧ t'.space = t.space ∧ t'.tileMem = t.tileMem ∧ t'.tsh = t.tsh := by
  rw [B.same]
  exact ⟨rfl, rfl, rfl, rfl, rfl⟩

/-- A CPYIN reads at its fork all the beats, where all of them translate. -/
theorem fillRun_begin {u : Nat} {s s1 : State} {t t1 : Team} {o : EngOp} {bs : List Beat} {key : Option (BitVec 512)} {tr : Beat → Trans}
    (B : Booked u s s1 t t1) (hf : FreshName s) (ho : o.team = u ∧ o.pos = 0)
    (hbs : copyBeats t1 { o with id := s1.serial } = bs) (S : Streamed s t.space .load key bs tr) (A : Apart bs) :
    ∃ s' t', (fillRun (s1.begin o) { o with id := s1.serial }).1 = s' ∧ ReadsAs s s' ∧
      s'.ops = s.ops ++ [{ o with id := s.serial, pos := bs.length }] ∧ s'.team? u = some t' ∧
      t' = { t1 with tileMem := t'.tileMem } ∧ Filled s t t' bs tr := by
  obtain ⟨rfl, hpos⟩ := ho
  obtain ⟨hcore, hdesc, hspace, hmem, -⟩ := B.fixed
  have hserial : s1.serial = s.serial := by rw [B.frame]
  have hops : s1.ops = s.ops := by rw [B.frame]
  have hf1 : FreshName s1 := by
    unfold FreshName
    rw [hops, hserial]
    exact hf
  have R : ReadsAs s (s1.begin o) := .of_frame (by rw [State.begin, B.frame])
  obtain ⟨s', t', hrun, R', hframe, ht', F⟩ := runBeatsOf_fills (o := { o with id := s1.serial }) (bs := bs) (s := s1.begin o) (t := t1)
    (tr := tr) (key := key) B.found (by simpa [hpos, hspace] using R.streamed S) (by simpa [hpos] using A)
  have hdrop : bs.drop ({ o with id := s1.serial } : EngOp).pos = bs := by simp [hpos]
  rw [hdrop] at F
  refine ⟨s', t', ?_, R.trans R', ?_, ht', F.1, F.2.of_reads R ⟨hcore, hdesc, hspace, hmem⟩⟩
  · have ht1 : (s1.begin o).team? ({ o with id := s1.serial } : EngOp).team = some t1 := B.found
    rw [fillRun, ht1]
    simp only [hbs, hrun]
  · rw [hframe]
    exact (modOp_begin hf1 o _).trans (by rw [hops, hserial])

/-- CPYIN takes its tile to FILLING, leaves as an operation and reads its beats. -/
theorem execCpyin_begins {ias : List Nat} {bs : List Beat} {key : Option (BitVec 512)} {tr : Beat → Trans}
    (G : Issuing s (.cpyin h m n ad b) h is t) (one : OneWarp t is h k) (a : Active t is h k w l) (hf : FreshName s)
    (hlen : t.ttab.length = 32) (hok : t.shapeOk n.val = true) (hst : t.tile n.val = ⟨.empty, false, false, none⟩)
    (O : CopyIssues s t .load n.val (eaOf w l ad) (readSrc w l b) ias)
    (hbs : withIas (rowBeats (eaOf w l ad) (readSrc w l b) (t.shape n.val)) ias = bs)
    (S : Streamed s t.space .load key bs tr) (A : Apart bs) :
    ∃ s' t' o, exec (.cpyin h m n ad b) s = .next s' ∧ GoesOn s' t is h ∧ s'.team? is.team = some t' ∧
      (t'.tile n.val).st = .filling ∧ s'.ops = s.ops ++ [o] ∧ o.id = s.serial ∧
      o.ins = .cpyin h m n ad b ∧ o.team = is.team ∧ o.tiles = [n.val] ∧ o.pos = bs.length ∧ Filled s t t' bs tr ∧ s'.mem = s.mem := by
  obtain ⟨t0, B, hfill⟩ := inBegun_booked (seen_team s t is G.team) (n := n.val) (by rw [seen_ttab]; omega)
  have R0 : ReadsAs s (s.seen t is) := .of_frame (by rw [seen_state])
  have hseen : (t.seen is).core = t.core ∧ (t.seen is).desc = t.desc ∧ (t.seen is).space = t.space ∧
      (t.seen is).tileMem = t.tileMem := by
    rw [seen_frame]
    exact ⟨rfl, rfl, rfl, rfl⟩
  have hf0 : FreshName (s.seen t is) := by
    rw [seen_state]
    exact hf
  obtain ⟨s1, t1, now, hx, hgo, ht, hst1, ⟨o, hops, hid, hins, hteam, htiles, hpos⟩, F, hmem⟩ := perWarp_goesOn G one a
    (shapeCheck_none G hok) (f := copyOne (.cpyin h m n ad b) false false m n.val ad b)
    (P := fun s1 t1 => (t1.tile n.val).st = .filling ∧ (∃ o, s1.ops = s.ops ++ [o] ∧ o.id = s.serial ∧ o.ins = .cpyin h m n ad b ∧
      o.team = is.team ∧ o.tiles = [n.val] ∧ o.pos = bs.length) ∧ Filled s t t1 bs tr ∧ s1.mem = s.mem)
    fun c C => by
      have hsrc : c.src b = readSrc w l b := C.src G b 1 (by simp [info])
      have haddr : cpyAddr c ad = eaOf w l ad := cpyAddr_eq G C (by simp [info])
      have B' : Booked c.is.team (s.seen t is) (inBegun (s.seen t is) c.is.team n.val) (t.seen is) t0 := by rwa [C.issue]
      have hone := copyOne_in (i := .cpyin h m n ad b) (free := false) (m := m) (ad := ad) (b := b) (C.team? G) C.space_eq hf0 B'
        (by rw [tile_seen]; exact hst) (by rw [hsrc, haddr]; exact O.seen is)
      rw [hsrc, haddr] at hone
      obtain ⟨s', t', hrun, R, hops, ht', hsame, F⟩ := fillRun_begin B' hf0
        (o := inCopyOp (s.seen t is) (t.seen is) (.cpyin h m n ad b) c (eaOf w l ad) (readSrc w l b) ias n.val)
        ⟨rfl, rfl⟩ ((copyBeats_copyOp (t := t) (by
          unfold Team.shape; rw [B.fixed.2.2.2.2, seen_frame])).trans hbs) (R0.streamed (by rw [hseen.2.2.1]; exact S)) A
      rw [hrun] at hone
      rw [C.issue] at ht'
      refine ⟨s', t', hone, R.awake (seen_awake G.awake t is), ht', by rw [hsame]; exact B.warps, ?_,
        ⟨_, hops.trans (congrArg (· ++ _) (by rw [seen_state])), ?_, rfl, ?_, rfl, rfl⟩, ?_, ?_⟩
      · rw [hsame]
        exact hfill
      · change (s.seen t is).serial = s.serial
        rw [seen_state]
      · exact congrArg Issue.team C.issue
      · exact F.of_reads R0 hseen
      · rw [R.mem, R0.mem]
  exact ⟨_, _, o, hx, hgo, ht, hst1, (commit_ops_goes ..).trans hops, hid, hins, hteam, htiles, hpos, F, (commit_mem s1 rfl).trans hmem⟩

end

/-! ### The end of a CPYIN -/

section
variable {s : State} {o : EngOp} {t : Team} {key : Option (BitVec 512)} {tr : Beat → Trans} {bs : List Beat} {n : Nat}

/-- Where there is no multicast, a copy has missed nothing and waits for nothing (R72). -/
theorem endMerge_alone (h : s.mcasts = []) (t : Team) (o : EngOp) : endMerge s t o = (s, true) := by
  have hthrough : ∀ k ia, through s o.id k ia = none := fun k ia => by rw [through, h]; rfl
  have hawait : awaitsBeat s o (copyBeats t o) = false := by
    rw [awaitsBeat, List.any_eq_false]
    intro x _
    simp [hthrough]
  have hmiss : ∀ k, missedBeat s o.id k = false := fun k => by rw [missedBeat, h]; rfl
  have hfill : fillMerged s o (copyBeats t o) = s := by
    unfold fillMerged
    refine List.foldlRecOn (motive := fun s' => s' = s) _ _ rfl ?_
    rintro s' rfl x -
    rw [hthrough]
  have hleave : leaveMerges s o.id = s := by
    have hrest : leaveMerges s o.id = { s with mcasts := [] } := by simp [leaveMerges, h]
    rw [hrest, ← h]
  unfold endMerge
  simp [hawait, hmiss, makeBeats, hfill, hleave]

/-- What the end of a fill leaves: the operation is gone, and its tile is READY. -/
theorem readied {u : Nat} {f : State → State} {copyIn : Bool} (ht : s.team? u = some t) (hn : n < t.ttab.length)
    (hf : ∀ s t, s.team? u = some t → ∃ t', Booked u s (f s) t t' ∧ t'.ttab = t.ttab) (id : Nat) :
    ∃ t', (setTile (f (s.dropOp id)) u n .ready copyIn).team? u = some t' ∧ (t'.tile n).st = .ready ∧
      t'.tileMem = t.tileMem ∧ (setTile (f (s.dropOp id)) u n .ready copyIn).op? id = none ∧
      setTile (f (s.dropOp id)) u n .ready copyIn =
        { s.dropOp id with teams := (setTile (f (s.dropOp id)) u n .ready copyIn).teams } := by
  obtain ⟨t1, B1, htab⟩ := hf (s.dropOp id) t ht
  obtain ⟨t2, B2, hst, -⟩ := setTile_state B1.found (st := .ready) rfl (n := n) (by rwa [htab]) copyIn
  have B := B1.trans B2
  refine ⟨t2, B.found, hst, B.fixed.2.2.2.1, ?_, B.frame⟩
  rw [B.frame]
  exact op?_dropOp s id

theorem execCpyinCompletion_ends {h : Hdr} {m : CpyM} {n : Fin 32} {ad : Addr} {b : Src} (hs : Awake s) (hm : s.mcasts = [])
    (hop : s.op? o.id = some o) (hins : o.ins = .cpyin h m n ad b) (htiles : o.tiles = [n.val]) (ht : s.team? o.team = some t)
    (hrun : opRuns s o = true) (hlen : t.ttab.length = 32) (S : Streamed s t.space .load key ((copyBeats t o).drop o.pos) tr)
    (A : Apart ((copyBeats t o).drop o.pos)) :
    ∃ s' t', exec (.cpyinCompletion o.id) s = .next s' ∧ s'.team? o.team = some t' ∧ (t'.tile n.val).st = .ready ∧
      s'.op? o.id = none ∧ s'.mem = s.mem ∧ Filled s t t' ((copyBeats t o).drop o.pos) tr := by
  obtain ⟨s1, t1, hbeats, R, hframe, ht1, hsame, F⟩ := runBeatsOf_fills ht S A
  have hm1 : s1.mcasts = [] := by rw [hframe]; exact hm
  have hn : n.val < t1.ttab.length := by rw [hsame]; exact lt_of_lt_of_eq n.isLt hlen.symm
  obtain ⟨t2, ht2, hst, hmem, hgone, hframe2⟩ := readied (n := n.val) (copyIn := true) ht1 hn (f := fun s => computeEnd s o.team n.val)
    (fun s t ht => computeEnd_booked ht n.val) o.id
  have hfill : fillRun s o = (s1, true) := by
    rw [fillRun, ht]
    exact hbeats
  have hx : exec (.cpyinCompletion o.id) s =
      finish (setTile (computeEnd (s1.dropOp o.id) o.team n.val) o.team n.val .ready true) := by
    change finish _ = _
    simp [hop, hins, isCpyin, hrun, hfill, ht1, endMerge_alone hm1, htiles]
  refine ⟨_, t2, hx.trans (finish_awake ?_), ht2, hst, hgone, ?_, ?_⟩
  · rw [hframe2]
    exact R.awake hs
  · rw [hframe2]
    exact R.mem
  · refine ⟨fun e he => ?_, fun x hx => ?_⟩
    · rw [hmem]
      exact F.1 e he
    · rw [hmem]
      exact F.2 x hx

end

/-! ### Beats into memory -/

section
variable {s : State} {key : Option (BitVec 512)}

/-- A line under the key, or under none, is not rekeyed (R412). -/
theorem rekeyLine_keyed {k : BitVec 512} {x : Nat}
    (hx : ∀ k0, (s.lineKey.find? (fun y => y.1 == x)).map (·.2) = some k0 → k0 = k) :
    ∃ lk, rekeyLine s k x = { s with lineKey := lk } ∧
      ∀ y k0, (lk.find? (fun z => z.1 == y)).map (·.2) = some k0 → (s.lineKey.find? (fun z => z.1 == y)).map (·.2) = some k0 ∨ k0 = k := by
  unfold rekeyLine
  split
  next k0 hk0 =>
    rw [if_pos (hx k0 hk0)]
    exact ⟨s.lineKey, rfl, fun y k1 h => .inl h⟩
  next =>
    refine ⟨_, rfl, fun y k1 h => ?_⟩
    rw [List.find?_cons] at h
    split at h
    · exact .inr (Option.some.inj h).symm
    · exact .inl h

/-- Lines that all are under the key, or under none, stand as they are, and stay so. -/
theorem rekeyLines_keyed {k : BitVec 512} (xs : List Nat) {s : State}
    (hx : ∀ x ∈ xs, ∀ k0, (s.lineKey.find? (fun y => y.1 == x)).map (·.2) = some k0 → k0 = k) :
    ∃ lk, xs.foldl (fun s x => rekeyLine s k x) s = { s with lineKey := lk } ∧
      ∀ y k0, (lk.find? (fun z => z.1 == y)).map (·.2) = some k0 → (s.lineKey.find? (fun z => z.1 == y)).map (·.2) = some k0 ∨ k0 = k := by
  induction xs generalizing s with
  | nil => exact ⟨s.lineKey, rfl, fun y k1 h => .inl h⟩
  | cons x xs ih =>
    obtain ⟨lk, hlk, hold⟩ := rekeyLine_keyed (hx x (by simp))
    obtain ⟨lk', hlk', hold'⟩ := ih (s := { s with lineKey := lk }) fun y hy k0 h =>
      (hold y k0 h).elim (hx y (by simp [hy]) k0) id
    refine ⟨lk', by rw [List.foldl_cons, hlk, hlk'], fun y k1 h => ?_⟩
    exact (hold' y k1 h).elim (hold y k1) .inr

theorem noMem_real {pa : Nat} (h : pa < 2 ^ 39 ∨ 2 ^ 48 ≤ pa) : noMem s pa = s := by
  unfold noMem
  rw [if_neg]
  simp only [Bool.and_eq_true, decide_eq_true_eq]
  omega

/-- A write where there is memory, to lines of its key, puts its bytes and leaves the lines to that key. -/
theorem pwrite_keyed {pa : Nat} {bs : List Byte} (hreal : pa < 2 ^ 39 ∨ 2 ^ 48 ≤ pa) (K : KeyedAs s key pa bs.length) :
    ∃ s', pwrite s key pa bs = s' ∧ s' = { s with
        mem := memPut s.mem pa bs, lineKey := s'.lineKey, badBytes := s'.badBytes, tails := s'.tails } ∧
      ∀ pa' n, KeyedAs s key pa' n → KeyedAs s' key pa' n := by
  unfold pwrite
  rw [noMem_real hreal]
  cases key with
  | none => exact ⟨_, rfl, rfl, fun _ _ h => h⟩
  | some k =>
    obtain ⟨lk, hlk, hold⟩ := rekeyLines_keyed (linesOf pa bs.length) (s := s) (k := k)
      fun x hx k0 h => (Option.some.inj (K x hx k0 h)).symm
    simp only [hlk]
    refine ⟨_, rfl, rfl, fun pa' n K' x hx k0 h => ?_⟩
    exact (hold x k0 h).elim (K' x hx k0) fun h => by rw [h]

/-- Where no warp is in a TRY, a write conflicts with none (R191). -/
theorem conflicts_noTry (h : NoTryAtAll s) (b : Option (Nat × Nat)) (dom : Nat → Bool) (space ia n pa : Nat) :
    conflicts s b dom space ia n pa = s := by
  have hnone : ∀ p : Team → Nat × Warp → Bool, s.teams.flatMap (fun t =>
      ((t.warps.zipIdx.map (fun x => (x.2, x.1))).filter (fun x => decide (0 < x.2.tx.depth) && p t x)).map
        (fun x => (t.uid, x.1))) = [] := by
    intro p
    rw [List.flatMap_eq_nil_iff]
    intro t ht
    rw [List.map_eq_nil_iff, List.filter_eq_nil_iff]
    intro x hx
    obtain ⟨y, hy, rfl⟩ := List.mem_map.mp hx
    simp [h t ht y.1 (List.fst_mem_of_mem_zipIdx hy)]
  have hwith : conflictWith s b dom space ia n = s := by
    unfold conflictWith
    simp only [Bool.and_assoc, hnone, List.foldl_nil]
  rw [conflicts, hwith]
  unfold conflictFrame
  simp only [Bool.and_assoc, hnone, List.foldl_nil]

/-- Beats have been written to memory, under one key: translations and the lines of the key stand. -/
structure Drains (key : Option (BitVec 512)) (s s' : State) : Prop where
  frame : s' = { s with
    tcache := s'.tcache, mem := s'.mem, lineKey := s'.lineKey, l1 := s'.l1, badBytes := s'.badBytes, tails := s'.tails
    mcasts := s'.mcasts }
  maps : MapsAs s s'
  keyed : ∀ pa n, KeyedAs s key pa n → KeyedAs s' key pa n

namespace Drains

variable {s' s'' : State}

theorem refl (s : State) : Drains key s s := ⟨rfl, .of_eq rfl rfl rfl rfl rfl, fun _ _ h => h⟩

theorem trans (h : Drains key s s') (h' : Drains key s' s'') : Drains key s s'' :=
  ⟨by rw [h'.frame, h.frame], h.maps.trans h'.maps, fun pa n K => h'.keyed pa n (h.keyed pa n K)⟩

theorem count {space ia : Nat} {need : Need} {lane : Bool} {tr : Trans} (W : Warm s space ia need lane tr) :
    Drains key s (countTranslation s space ia tr tr.leaf) := by
  refine ⟨?_, .count W, fun pa n K => ?_⟩
  · rw [countTranslation_frame]
  · rw [countTranslation_frame]
    exact K

theorem streamed (h : Drains key s s') {space : Nat} {bs : List Beat} {tr : Beat → Trans} (S : Streamed s space .store key bs tr) :
    Streamed s' space .store key bs tr where
  warm b hb := (S.warm b hb).as h.maps
  owner b hb := (h.maps.owner _ _).trans (S.owner b hb)
  lines b hb := h.keyed _ _ (S.lines b hb)
  inLine := S.inLine
  sound := .inl rfl

theorem teams (h : Drains key s s') : s'.teams = s.teams := by rw [h.frame]

theorem noTry (h : Drains key s s') (N : NoTryAtAll s) : NoTryAtAll s' := by
  unfold NoTryAtAll
  rw [h.teams]
  exact N

theorem team? (h : Drains key s s') (u : Nat) : s'.team? u = s.team? u := by rw [State.team?, State.team?, h.teams]

end Drains

theorem storeMem_drains {core : Nat} {fused : Bool} {space ia : Nat} {bs : List Byte} {tr : Trans}
    (hreal : tr.pa < 2 ^ 39 ∨ 2 ^ 48 ≤ tr.pa) (hkey : ownerKey s space tr.leaf = key) (K : KeyedAs s key tr.pa bs.length) :
    Drains key s (storeMem s core fused space ia bs tr) ∧ (storeMem s core fused space ia bs tr).mem = memPut s.mem tr.pa bs := by
  subst hkey
  obtain ⟨s', hw, hframe, hkeep⟩ := pwrite_keyed (s := dropDirty s space ia bs.length
    (fun c => c == l1Core core fused ia || c == slicesOf (sectorOf core))) hreal K
  rw [show storeMem s core fused space ia bs tr = s' from hw]
  refine ⟨⟨?_, ?_, hkeep⟩, ?_⟩
  · rw [hframe]
    rfl
  · rw [hframe]
    exact .of_eq rfl rfl rfl rfl rfl
  · rw [hframe]
    rfl

/-- One write at the memory side. -/
theorem memStore_drains {core : Nat} {fused : Bool} {space ia : Nat} {bs : List Byte} {tr : Trans} (N : NoTryAtAll s)
    (hreal : tr.pa < 2 ^ 39 ∨ 2 ^ 48 ≤ tr.pa) (hkey : ownerKey s space tr.leaf = key) (K : KeyedAs s key tr.pa bs.length) :
    Drains key s (memStore s none core fused space ia bs tr) ∧
      (memStore s none core fused space ia bs tr).mem = memPut s.mem tr.pa bs := by
  obtain ⟨D, hmem⟩ := storeMem_drains (core := core) (fused := fused) (ia := ia) hreal hkey K
  have D' : Drains key s (noteWrite (storeMem s core fused space ia bs tr) (l1Core core fused ia) space ia bs.length) :=
    D.trans ⟨rfl, .of_eq rfl rfl rfl rfl rfl, fun _ _ h => h⟩
  rw [memStore, conflicts_noTry (D'.noTry N)]
  exact ⟨D', hmem⟩

/-- The bytes of a beat as a tile area holds them. -/
def tileBytes (t : Team) (b : Beat) : List Byte := cread t.tileMem b.off b.len

theorem drainTo_eq {u : Nat} {t : Team} (ht : s.team? u = some t) (b : Beat) (tr : Trans) :
    drainTo u s b tr = memStore s none t.core t.desc.fused t.space b.ia (tileBytes t b) tr := by
  rw [drainTo, ht]
  rfl

/-- Beats that all translate are written to memory. -/
theorem makeBeats_drains {u : Nat} {t : Team} {tr : Beat → Trans} (bs : List (Beat × Nat)) {s : State} (N : NoTryAtAll s)
    (ht : s.team? u = some t) (S : Streamed s t.space .store key (bs.map (·.1)) tr) :
    ∃ s', makeBeats t.space .store (drainTo u) s bs = (s', none) ∧ Drains key s s' ∧
      s'.mem = putBeats (fun b => (tr b).pa) (tileBytes t) (bs.map (·.1)) s.mem := by
  induction bs generalizing s with
  | nil => exact ⟨s, rfl, .refl s, rfl⟩
  | cons x bs ih =>
    obtain ⟨b, n⟩ := x
    have hb : b ∈ ((b, n) :: bs).map (·.1) := by simp
    have W := S.warm b hb
    have D := Drains.count (key := key) W
    have S1 := D.streamed S
    obtain ⟨D2, hmem⟩ := memStore_drains (core := t.core) (fused := t.desc.fused) (space := t.space) (ia := b.ia)
      (bs := tileBytes t b) (D.noTry N) W.real (S1.owner b hb) (by simpa [tileBytes] using S1.lines b hb)
    have hdrain := drainTo_eq ((D.team? u).trans ht) b (tr b)
    obtain ⟨s', hmake, D', hmem'⟩ := ih ((D.trans D2).noTry N) (((D.trans D2).team? u).trans ht) (D2.streamed S1).tail
    refine ⟨s', ?_, (D.trans D2).trans D', ?_⟩
    · rw [makeBeats_cons W (.inl rfl), hdrain]
      exact hmake
    · rw [hmem', hmem, countTranslation_mem]
      rfl

end

/-! ### The end of a CPYOUT -/

section
variable {s : State} {o : EngOp} {t : Team} {key : Option (BitVec 512)} {tr : Beat → Trans} {bs : List Beat} {n : Nat}

/-- What the tile of a CPYOUT becomes once its beats are written. -/
def outEnded (s : State) (u n : Nat) (free : Bool) : State :=
  setTile ((computeEnd (copyOutEnd s u n) u n).modTeam u (fun t => t.keepTile n false)) u n (if free then .empty else .ready) false

theorem outEnded_booked {u : Nat} (ht : s.team? u = some t) (hd : NoDebugBlock s t.space) (hn : n < t.ttab.length) (free : Bool) :
    ∃ t', Booked u s (outEnded s u n free) t t' ∧ (t'.tile n).st = (if free then .empty else .ready) := by
  obtain ⟨t1, B1, htab1⟩ := copyOutEnd_booked ht n
  obtain ⟨t2, B2, htab2⟩ := computeEnd_booked B1.found n
  have B3 := modTile_booked B2.found n (fun e => { e with keep := false })
  have hlen : n < (t2.modTile n (fun e => { e with keep := false })).ttab.length := by
    rwa [Team.modTile, List.length_modify, htab2, htab1]
  have B := B1.trans (B2.trans B3)
  cases free with
  | false =>
    obtain ⟨t4, B4, hst, -⟩ := setTile_state B.found (st := .ready) rfl hlen false
    exact ⟨t4, B.trans B4, hst⟩
  | true =>
    obtain ⟨t4, B4, htab⟩ := setTile_empty_booked B.found (by rw [B.fixed.2.2.1, B.frame]; exact hd) n false
    refine ⟨t4, B.trans B4, ?_⟩
    rw [tile_modified htab hlen, if_pos rfl]
    rfl

theorem runBeatsOf_drains (N : NoTryAtAll s) (ht : s.team? o.team = some t) (S : Streamed s t.space .store key (bs.drop o.pos) tr) :
    ∃ s', runBeatsOf t.space .store (drainTo o.team) s o bs = (s'.modOp o.id (fun o => { o with pos := bs.length }), true) ∧
      Drains key s s' ∧ s'.mem = putBeats (fun b => (tr b).pa) (tileBytes t) (bs.drop o.pos) s.mem := by
  obtain ⟨s1, hmake, D, hmem⟩ := makeBeats_drains (beatsFrom o bs) N ht (by rwa [beatsFrom_fst])
  rw [beatsFrom_fst] at hmem
  exact ⟨s1, by rw [runBeatsOf, hmake], D, hmem⟩

theorem execCpyoutCompletion_ends {h : Hdr} {free : Bool} {m : CpyM} {n : Fin 32} {ad : Addr} {b : Src} (hs : Awake s)
    (N : NoTryAtAll s) (hd : NoDebugBlock s t.space) (hop : s.op? o.id = some o) (hins : o.ins = .cpyout h free m n ad b)
    (htiles : o.tiles = [n.val]) (ht : s.team? o.team = some t) (hrun : opRuns s o = true) (hlen : t.ttab.length = 32)
    (S : Streamed s t.space .store key ((copyBeats t o).drop o.pos) tr) :
    ∃ s' t', exec (.cpyoutCompletion o.id) s = .next s' ∧ s'.team? o.team = some t' ∧
      (t'.tile n.val).st = (if free then .empty else .ready) ∧ s'.op? o.id = none ∧ t'.tileMem = t.tileMem ∧
      s'.mem = putBeats (fun b => (tr b).pa) (tileBytes t) ((copyBeats t o).drop o.pos) s.mem := by
  obtain ⟨s1, hbeats, D, hmem⟩ := runBeatsOf_drains N ht S
  have ht1 : ((s1.modOp o.id (fun x => { x with pos := (copyBeats t o).length })).dropOp o.id).team? o.team = some t :=
    (D.team? o.team).trans ht
  have hd1 : NoDebugBlock ((s1.modOp o.id (fun x => { x with pos := (copyBeats t o).length })).dropOp o.id) t.space := by
    rw [D.frame]
    exact hd
  obtain ⟨t2, B, hst⟩ := outEnded_booked ht1 hd1 (n := n.val) (lt_of_lt_of_eq n.isLt hlen.symm) free
  have hx : exec (.cpyoutCompletion o.id) s = finish (outEnded ((s1.modOp o.id (fun x =>
      { x with pos := (copyBeats t o).length })).dropOp o.id) o.team n.val free) := by
    change finish _ = _
    simp [hop, ht, hins, isCpyout, hrun, hbeats, htiles]
    rfl
  refine ⟨_, t2, hx.trans (finish_awake (B.awake ?_)), B.found, hst, ?_, B.fixed.2.2.2.1, B.mem.trans hmem⟩
  · rw [D.frame]
    exact hs
  · rw [B.frame]
    exact op?_dropOp _ o.id

end

/-- Settles O23: a copy that begins changes its tile's state and joins the operations; its beats, all of which translate, are made in
turn; and its end gives the tile its last state. -/
theorem copiesRun : Obligations.CopiesRun := by
  unfold Obligations.CopiesRun
  refine ⟨?_, ?_, ?_, ?_⟩
  · rintro s h is t k w l free m n ad b g x G one a hclean hlen rfl rfl hok hg hx hst hranged
    obtain ⟨ias, hias⟩ := checkBeats_ranged hranged
    exact execCpyout_begins G one a hlen hok hst ⟨hclean, hg, hx, hias⟩
  · rintro s h is t k w l m n ad b g x ias bs key tr G one a hclean hf hlen rfl rfl hok hg hx hst hias rfl S A
    obtain ⟨s', t', o, hexec, hgo, ht, hfill, hops, hid, hins, hteam, htiles, hpos, F, hmem⟩ :=
      execCpyin_begins G one a hf hlen hok hst ⟨hclean, hg, hx, hias⟩ rfl S A
    exact ⟨s', t', o, s.ops, hexec, hgo, ht, hfill, hops, rfl, hid, hins, hteam, htiles, hpos, F, hmem⟩
  · rintro s o t h m n ad b key tr bs hs hm hop hins htiles ht hrun hlen rfl S A
    exact execCpyinCompletion_ends hs hm hop hins htiles ht hrun hlen S A
  · rintro s o t h free m n ad b key tr bs hs N hd hop hins htiles ht hrun hlen rfl S hapart
    obtain ⟨s', t', hexec, ht', hst, hgone, htile, hmem⟩ := execCpyoutCompletion_ends hs N hd hop hins htiles ht hrun hlen S
    obtain ⟨hin, hout⟩ := putBeats_apart (place := fun b => (tr b).pa) (bytes := tileBytes t)
      (fun b => by simp [tileBytes]) hapart s.mem
    refine ⟨s', t', hexec, ht', hst, hgone, htile, fun e he => ?_, fun x hx => ?_⟩
    · rw [hmem]
      exact hin e he
    · rw [hmem]
      exact hout x hx

end Sys2Proof.Machine
end

section
/-! SUPPORT. Stage rings: what RPUSH and RPOP leave of the ring that they name (R64, R65, R240). -/

namespace Sys2Proof.Machine

/-! ### A ring after a push and a pop -/

theorem push_slots {g : Ring} (hlen : g.slots.length = g.depth) (hprod : g.prod < g.depth) (n j : Nat) :
    (g.push n).slots[j]? = if j = g.prod then some (n, g.prodPh) else g.slots[j]? := by
  rw [Ring.push, List.getElem?_set]
  by_cases hj : g.prod = j
  · subst hj
    simp [hlen, hprod]
  · simp [hj, Ne.symm hj]

theorem wrap_next {x n : Nat} (h : x < n) : (if x + 1 = n then 0 else x + 1) = (x + 1) % n := by
  split
  next he => rw [he, Nat.mod_self]
  next he => exact (Nat.mod_eq_of_lt (by omega)).symm

theorem flip_when (b : Bool) (p : Prop) [Decidable p] : (if p then !b else b) = (b != decide p) := by
  split
  next hp => cases b <;> simp [hp]
  next hp => cases b <;> simp [hp]

/-! ### What the instructions do for their warp -/

def rpushOne (r : Nat) (src : RpSrc) (s : State) (c : Lc) : State × LaneRes :=
  match s.team? c.is.team with
  | none => (s, .stay)
  | some t =>
    let g := t.ring r
    if g.count = g.depth then (s, .wait .retry)
    else
      let n := match src with | .tile n => n.val | .reg b => (c.src b).toNat % 32
      (s.modRing c.is.team r (fun g => g.push n), .done {})

def rpopOne (h : Hdr) (d : Reg) (r : Nat) (s : State) (c : Lc) : State × LaneRes :=
  match s.team? c.is.team with
  | none => (s, .stay)
  | some t =>
    let g := t.ring r
    let slot := (g.slots[g.cons]?).getD (0, !g.expPh)
    if slot.2 != g.expPh then (s, .wait .retry)
    else (s.modRing c.is.team r Ring.pop, .done (dst1 h d (BitVec.ofNat 32 slot.1)))

theorem exec_rpush (h : Hdr) (r : Fin 8) (src : RpSrc) (s : State) :
    exec (.rpush h r src) s = perWarp (.rpush h r src) h s (ringCheck r.val) (rpushOne r.val src) := rfl
theorem exec_rpop (h : Hdr) (d : Reg) (r : Fin 8) (s : State) :
    exec (.rpop h d r) s = perWarp (.rpop h d r) h s (ringCheck r.val) (rpopOne h d r.val) := rfl

/-- The number that RPUSH writes, as the lane gives it. -/
def pushedNumber (w : Warp) (l : Lane) : RpSrc → Nat | .tile n => n.val | .reg b => (readSrc w l b).toNat % 32

/-- The team with one ring changed. -/
def Team.modRing (t : Team) (r : Nat) (f : Ring → Ring) : Team := { t with rings := t.rings.modify r f }

theorem modRing_get {t : Team} {r : Nat} {g : Ring} (hg : t.rings[r]? = some g) (f : Ring → Ring) :
    (t.modRing r f).rings[r]? = some (f g) := by
  rw [Team.modRing, List.getElem?_modify_eq, hg]
  rfl

theorem team?_modRing {s : State} {u : Nat} {t : Team} (ht : s.team? u = some t) (r : Nat) (f : Ring → Ring) :
    (s.modRing u r f).team? u = some (t.modRing r f) :=
  team?_modTeam_self ht (f := fun t => t.modRing r f) fun _ => rfl

section
variable {s : State} {i : Instr} {h : Hdr} {is : Issue} {t : Team} {k : Nat × Nat} {w : Warp} {l : Lane} {r : Fin 8} {g : Ring}

theorem seen_ring (hg : t.rings[r.val]? = some g) : (t.seen is).rings[r.val]? = some g := by
  rw [seen_frame]
  exact hg

theorem ring_eq {t : Team} {r : Nat} (hg : t.rings[r]? = some g) : t.ring r = g := by
  rw [Team.ring, hg]
  rfl

/-- The check of R65: the ring has stages. -/
theorem ringCheck_none (G : Issuing s i h is t) (hg : t.rings[r.val]? = some g) (hd : 0 < g.depth) (c : Lc) (w : Warp) (l : Lane)
    (C : Ctx s i h is t c w l) : ringCheck r.val (s.seen t is) c = none := by
  have : g.depth ≠ 0 := by omega
  simp [ringCheck, C.team? G, ring_eq (seen_ring hg), this]

theorem rpushOne_full {src : RpSrc} (G : Issuing s i h is t) (hg : t.rings[r.val]? = some g) (hfull : g.count = g.depth) {c : Lc}
    (C : Ctx s i h is t c w l) : rpushOne r.val src (s.seen t is) c = (s.seen t is, .wait .retry) := by
  simp [rpushOne, C.team? G, ring_eq (seen_ring hg), hfull]

theorem rpushOne_room {src : RpSrc} (G : Issuing s (.rpush h r src) h is t) (hg : t.rings[r.val]? = some g)
    (hroom : g.count ≠ g.depth) {c : Lc} (C : Ctx s (.rpush h r src) h is t c w l) : rpushOne r.val src (s.seen t is) c =
      ((s.seen t is).modRing is.team r.val (fun g => g.push (pushedNumber w l src)), .done {}) := by
  unfold rpushOne
  rw [C.team? G]
  simp only [ring_eq (seen_ring hg), hroom, if_false, C.issue]
  cases src with
  | tile n => rfl
  | reg b =>
    have hsrc : c.src b = readSrc w l b := C.src G b 1 (by simp [info])
    simp only [pushedNumber, hsrc]

theorem execRpush_waits {src : RpSrc} (G : Issuing s (.rpush h r src) h is t) (one : OneWarp t is h k) (a : Active t is h k w l)
    (hg : t.rings[r.val]? = some g) (hd : 0 < g.depth) (hfull : g.count = g.depth) :
    ∃ s', exec (.rpush h r src) s = .next s' ∧ WaitsIn s' t is h .retry := by
  rw [exec_rpush]
  exact perWarp_waits G one a (ringCheck_none G hg hd) fun c C => rpushOne_full G hg hfull C

theorem execRpush_pushes {src : RpSrc} (G : Issuing s (.rpush h r src) h is t) (one : OneWarp t is h k) (a : Active t is h k w l)
    (hg : t.rings[r.val]? = some g) (hd : 0 < g.depth) (hroom : g.count ≠ g.depth) :
    ∃ s' t', exec (.rpush h r src) s = .next s' ∧ GoesOn s' t is h ∧ s'.team? is.team = some t' ∧
      t'.rings[r.val]? = some (g.push (pushedNumber w l src)) := by
  obtain ⟨s1, t1, now, hx, hgo, ht, hring⟩ := perWarp_goesOn G one a (ringCheck_none G hg hd) (f := rpushOne r.val src)
    (P := fun _ t1 => t1.rings[r.val]? = some (g.push (pushedNumber w l src)))
    fun c C => ⟨_, (t.seen is).modRing r.val (fun g => g.push (pushedNumber w l src)), rpushOne_room G hg hroom C,
      seen_awake G.awake t is, team?_modRing (seen_team s t is G.team) _ _, rfl, modRing_get (seen_ring hg) _⟩
  exact ⟨_, _, hx, hgo, ht, hring⟩

theorem rpopOne_wrong {d : Reg} {n : Nat} {ph : Bool} (G : Issuing s i h is t) (hg : t.rings[r.val]? = some g)
    (hslot : g.slots[g.cons]? = some (n, ph)) (hph : ph ≠ g.expPh) {c : Lc} (C : Ctx s i h is t c w l) :
    rpopOne h d r.val (s.seen t is) c = (s.seen t is, .wait .retry) := by
  simp [rpopOne, C.team? G, ring_eq (seen_ring hg), hslot, hph]

theorem rpopOne_expected {d : Reg} {n : Nat} (G : Issuing s i h is t) (hg : t.rings[r.val]? = some g)
    (hslot : g.slots[g.cons]? = some (n, g.expPh)) {c : Lc} (C : Ctx s i h is t c w l) : rpopOne h d r.val (s.seen t is) c =
      ((s.seen t is).modRing is.team r.val Ring.pop, .done (dst1 h d (BitVec.ofNat 32 n))) := by
  unfold rpopOne
  rw [C.team? G]
  simp [ring_eq (seen_ring hg), hslot, C.issue]

theorem execRpop_waits {d : Reg} {n : Nat} {ph : Bool} (G : Issuing s (.rpop h d r) h is t) (one : OneWarp t is h k)
    (a : Active t is h k w l) (hg : t.rings[r.val]? = some g) (hd : 0 < g.depth) (hslot : g.slots[g.cons]? = some (n, ph))
    (hph : ph ≠ g.expPh) : ∃ s', exec (.rpop h d r) s = .next s' ∧ WaitsIn s' t is h .retry := by
  rw [exec_rpop]
  exact perWarp_waits G one a (ringCheck_none G hg hd) fun c C => rpopOne_wrong G hg hslot hph C

theorem execRpop_pops {d : Reg} {n : Nat} (G : Issuing s (.rpop h d r) h is t) (one : OneWarp t is h k)
    (a : Active t is h k w l) (hg : t.rings[r.val]? = some g) (hd : 0 < g.depth)
    (hslot : g.slots[g.cons]? = some (n, g.expPh)) :
    ∃ s' w' l' t', exec (.rpop h d r) s = .next s' ∧ s'.warp? is.team k.1 = some w' ∧ w'.lanes[k.2]? = some l' ∧
      Wrote is h d [BitVec.ofNat 32 n] True l w' l' ∧ s'.team? is.team = some t' ∧ t'.rings[r.val]? = some g.pop := by
  obtain ⟨c, C, -, hx⟩ := perWarp_acts G one a (ringCheck_none G hg hd) (rpopOne h d r.val)
  have hteam := team?_modRing (seen_team s t is G.team) r.val Ring.pop
  have hstand : WarpsStand is.team (s.seen t is) ((s.seen t is).modRing is.team r.val Ring.pop) :=
    .of_team (seen_team s t is G.team) hteam rfl
  obtain ⟨-, w', l', -, hw, hl, hwrote, -⟩ := stand_wrote1 G hstand a one.leads d (BitVec.ofNat 32 n)
  exact ⟨_, w', l', _, hx _ _ (rpopOne_expected G hg hslot C) (seen_awake G.awake t is) hstand rfl, hw, hl, hwrote,
    commit_team rfl hteam, modRing_get (seen_ring hg) Ring.pop⟩

end

end Sys2Proof.Machine
end

section
/-! SUPPORT. O25: the rotation of a ring's tiles, from the wait of its members to its end (R67, R239). -/

namespace Sys2Proof.Machine

/-! ### RROT, R239 -/

section
variable {s : State} {h : Hdr} {is : Issue} {t : Team} {k : Nat × Nat} {w : Warp} {l : Lane} {ring dn : Bool} {n : Fin 32}

/-- A member's operation as it begins. -/
def rrotBegun (i : Instr) (c : Lc) (dn : Bool) (n charge lapse : Nat) : EngOp :=
  { blankOp i c with args := [dn.toNat], tiles := [n], charge := charge, lapse := lapse }

/-- What a member of a whole ring takes as it issues: a grant (R318). -/
def rrotLeave (full : Bool) (s : State) (c : Lc) : State × Option Wait := if full then takeLeave s c 4 else (s, none)

theorem rrotOne_begins {i : Instr} {c : Lc} {n : Nat} {s1 : State} (ht : s.team? c.is.team = some t) (hops : ∀ o ∈ s.ops, o.team ≠ c.is.team)
    (hok : t.shapeOk n = true) (hclean : CleanSpace s t.space)
    (hplace : if ring then t.desc.place = 3 ∧ 2 ≤ t.desc.rlen else t.desc.place = 2)
    (hleave : rrotLeave (ring && t.desc.rlen == 16) s c = (s1, none)) :
    ∃ charge lapse, rrotOne i ring dn n s c =
      (addOp s1 (rrotBegun i c dn n charge lapse), .wait (.engine s1.serial)) := by
  have hfail : s.ops.any (fun o => o.team == c.is.team && o.warp == c.wi && o.pc == c.is.pc && o.pos == 2 && (isRrot o.ins).isSome) = false := by
    rw [List.any_eq_false]
    intro o ho
    simp [hops o ho]
  have hshape : (t.desc.place != (if ring then 3 else 2) || (ring && t.desc.rlen < 2)) = false := by
    cases ring with
    | true => simp at hplace ⊢; omega
    | false => simpa using hplace
  refine ⟨if ring && t.desc.rlen == 16 then 8 else 0, if ring && t.desc.rlen == 16 then heldUntil s c 4 else 0, ?_⟩
  unfold rrotOne
  rw [rrotLeave] at hleave
  simp only [ht, hfail, hok, hshape, forkRelease_clean hclean ht, hleave, Bool.not_true, Bool.false_eq_true, if_false]
  rfl

theorem exec_rrot (h : Hdr) (ring dn : Bool) (n : Fin 32) (s : State) : exec (.rrot h ring dn n) s =
    perWarp (.rrot h ring dn n) h s (fun _ _ => none) (rrotOne (.rrot h ring dn n) ring dn n.val) := rfl

/-- A member takes its grant at once, or needs none. -/
theorem rrotLeave_booked {c : Lc} (G : Issuing s (.rrot h ring dn n) h is t) (C : Ctx s (.rrot h ring dn n) h is t c w l)
    (hreq : NoRequest t is h) (hgrant : ring = true → t.desc.rlen = 16 → HoldsGrant s t 4) :
    ∃ s1 t1, rrotLeave (ring && (t.seen is).desc.rlen == 16) (s.seen t is) c = (s1, none) ∧
      Booked is.team (s.seen t is) s1 (t.seen is) t1 := by
  have hdesc : (t.seen is).desc = t.desc := by rw [seen_frame]
  unfold rrotLeave
  split
  next hfull =>
    simp only [Bool.and_eq_true, beq_iff_eq, hdesc] at hfull
    have hgrant' : HoldsGrant (s.seen t is) (t.seen is) 4 := by
      rw [seen_frame, seen_state]
      exact hgrant hfull.1 hfull.2
    obtain ⟨s1, t1, hleave, B, -⟩ := takeLeave_grant (C.team? G) rfl (leaveFor_none G C hreq (s.seen t is)) hgrant'
    rw [C.issue] at B
    exact ⟨s1, t1, hleave, B⟩
  next => exact ⟨_, _, rfl, .refl (seen_team s t is G.team)⟩

theorem execRrot_waits (G : Issuing s (.rrot h ring dn n) h is t) (one : OneWarp t is h k) (a : Active t is h k w l)
    (hclean : CleanSpace s t.space) (hops : ∀ o ∈ s.ops, o.team ≠ is.team) (hreq : NoRequest t is h)
    (hok : t.shapeOk n.val = true) (hplace : if ring then t.desc.place = 3 ∧ 2 ≤ t.desc.rlen else t.desc.place = 2)
    (hgrant : ring = true → t.desc.rlen = 16 → HoldsGrant s t 4) :
    ∃ s', exec (.rrot h ring dn n) s = .next s' ∧ WaitsIn s' t is h (.engine s.serial) ∧
      Queued s s' (.rrot h ring dn n) is k [dn.toNat] [n.val] := by
  obtain ⟨c, C, hck, hx⟩ := perWarp_acts G one a (pre := fun _ _ => none) (fun _ _ _ _ => rfl)
    (rrotOne (.rrot h ring dn n) ring dn n.val)
  obtain ⟨s1, t1, hleave, B⟩ := rrotLeave_booked G C hreq hgrant
  have hdesc : (t.seen is).desc = t.desc := by rw [seen_frame]
  have hserial : s1.serial = s.serial := by rw [B.frame, seen_state]
  have hops1 : s1.ops = s.ops := by rw [B.frame, seen_state]
  obtain ⟨charge, lapse, hone⟩ := rrotOne_begins (i := .rrot h ring dn n) (dn := dn) (C.team? G)
    (by rw [C.issue, seen_state]; exact hops) (by rw [shapeOk_seen]; exact hok) (seen_clean is hclean) (by rw [hdesc]; exact hplace) hleave
  rw [addOp_eq _ rfl rfl, hserial] at hone
  have hstand : WarpsStand is.team (s.seen t is) { s1 with
      ops := s1.ops ++ [{ rrotBegun (.rrot h ring dn n) c dn n.val charge lapse with id := s.serial }], serial := s.serial + 1 } :=
    .of_team (seen_team s t is G.team) B.found B.warps
  refine ⟨_, hx _ _ hone (B.awake (seen_awake G.awake t is)) hstand rfl, waitsIn_stand G hstand _,
    { rrotBegun (.rrot h ring dn n) c dn n.val charge lapse with id := s.serial }, s.ops, ?_, rfl, rfl, rfl,
    congrArg Issue.team C.issue, congrArg Prod.fst hck, congrArg Issue.pc C.issue, rfl, rfl, rfl, rfl⟩
  rw [commit_ops_waits, hops1]

end

/-! ### The members of a rotation -/

section
variable {s : State} {t : Team} {n : Nat} {ms : List (Team × EngOp)} {x : Team × EngOp}

theorem rrotOp_team {u : Nat} {o : EngOp} (h : rrotOp s u n = some o) : o.team = u := by
  have hp := List.find?_some h
  simp only [Bool.and_eq_true, beq_iff_eq] at hp
  exact hp.1.1.1

theorem mem_ringOf {u : Team} {ring : Bool} (h : u ∈ ringOf s t ring) : u ∈ s.teams := by
  have hfilter : ∀ p : Nat → Team → Bool, ∀ m : Nat, ∀ k : Nat, u ∈ (List.range m).filterMap (fun k =>
      (s.teams.filter (fun u => inGroup s t u && !isSaved u)).find? (p k)) → u ∈ s.teams := by
    intro p m _ hu
    obtain ⟨k, -, hk⟩ := List.mem_filterMap.mp hu
    exact (List.mem_filter.mp (List.mem_of_find?_eq_some hk)).1
  unfold ringOf at h
  cases ring with
  | true => exact hfilter (fun k u => u.t == k) t.desc.rlen 0 h
  | false => exact hfilter (fun k u => u.core == t.core / 4 * 4 + k) 4 0 h

/-- A member of a rotation is a team of the machine with its tile READY, and its operation is one of its own. -/
theorem rotationAt_member (h : rotationAt s t n = some ms) (hx : x ∈ ms) :
    x.1 ∈ s.teams ∧ x.2.team = x.1.uid ∧ (x.1.tile n).st = .ready := by
  unfold rotationAt at h
  split at h
  · cases h
  next o ho =>
    obtain ⟨hall, hms⟩ := Option.ite_none_right_eq_some.mp h
    obtain rfl := Option.some.inj hms
    simp only [Bool.and_eq_true, beq_iff_eq] at hall
    have hready := List.all_eq_true.mp hall.2 x hx
    simp only [Bool.and_eq_true, beq_iff_eq] at hready
    obtain ⟨u, hu, hop⟩ := List.mem_filterMap.mp hx
    obtain ⟨o', ho', rfl⟩ := Option.map_eq_some_iff.mp hop
    exact ⟨mem_ringOf hu, rrotOp_team ho', hready.1⟩

theorem ready_lt (h : (t.tile n).st = .ready) : n < t.ttab.length := by
  by_contra hn
  unfold Team.tile at h
  rw [List.getElem?_eq_none (by omega)] at h
  cases h

theorem team?_of_nodup (hnodup : (s.teams.map (·.uid)).Nodup) (ht : t ∈ s.teams) : s.team? t.uid = some t := by
  cases hfind : s.team? t.uid with
  | none => exact absurd (List.find?_eq_none.mp hfind t ht) (by simp)
  | some u =>
    exact congrArg some (List.inj_on_of_nodup_map hnodup (List.mem_of_find?_eq_some hfind) ht (uid_of_team? hfind))

end

/-! ### One member's turn -/

/-- The lanes that wait for an operation go on. -/
def goLanes (o : EngOp) (now : Nat) (w : Warp) : Warp :=
  { w with lanes := w.lanes.map (fun l => if l.waitsFor (.engine o.id) then completeLane o.len now l else l) }

theorem wakeOp_goes (s : State) (o : EngOp) : wakeOp s o true = s.modWarp o.team o.warp (goLanes o s.cycle) := by
  simp only [wakeOp, if_true]
  rfl

theorem wakeOp_team {s : State} {u : Nat} {t : Team} {o : EngOp} (ht : s.team? u = some t) (ho : o.team = u) :
    (wakeOp s o true).team? u = some (t.modWarp o.warp (goLanes o s.cycle)) := by
  rw [wakeOp_goes, ho]
  exact team?_modTeam_self ht (f := fun t => t.modWarp o.warp (goLanes o s.cycle)) fun _ => rfl

/-- A tile takes some bytes and fills. -/
def takeTile (n : Nat) (bytes : List Byte) (s : State) (u : Nat) : State :=
  setTile (s.modTeam u (fun t => t.putBytes (t.shape n).base bytes)) u n .filling false

/-- The time that the member's lane has waited is counted. -/
def waitNoted (s : State) (x : Team × EngOp) (l : TileLife) : TileLife :=
  { l with wait := l.wait + (s.cycle - ((s.lane? x.1.uid x.2.warp x.2.lane).map (·.since)).getD s.cycle) }

/-- A member's tile takes some bytes and fills, and its lanes go on. -/
def rotateOne (n : Nat) (bytes : List Byte) (s : State) (x : Team × EngOp) : State :=
  let s := takeTile n bytes s x.1.uid
  wakeOp ((modLife (computeStart s x.1.uid n) x.1.uid n (waitNoted s x)).modOp x.2.id (fun o => { o with pos := 1 })) x.2 true

/-- What the member's tile takes in the turn: the bytes of its neighbour's. -/
def turnBytes (ms : List (Team × EngOp)) (n ext dn : Nat) (x : (Team × EngOp) × Nat) : List Byte :=
  let src := (ms[if dn = 1 then (x.2 + 1) % ms.length else (x.2 + ms.length - 1) % ms.length]?).getD x.1
  cread src.1.tileMem (src.1.shape n).base ext

theorem rotate_agreed {s : State} {ms : List (Team × EngOp)} {n ext dn : Nat}
    (hall : ∀ x ∈ ms, (x.1.shape n).extent = ext ∧ x.2.arg 0 = dn) :
    rotate s ms n = ms.zipIdx.foldl (fun s x => rotateOne n (turnBytes ms n ext dn x) s x.1) s := by
  cases ms with
  | nil => rfl
  | cons m ms =>
    obtain ⟨hext, hdn⟩ := hall m (by simp)
    have hsame : (m :: ms).all (fun x => (x.1.shape n).extent == ext && x.2.arg 0 == dn) = true := by
      rw [List.all_eq_true]
      intro x hx
      obtain ⟨hx1, hx2⟩ := hall x hx
      simp [hx1, hx2]
    unfold rotate
    simp only [hext, hdn, hsame, if_true]
    rfl

section
variable {s : State} {x : Team × EngOp} {n : Nat} {bytes : List Byte}

/-- Of the state only one team and the operations have changed. -/
structure OnlyTeam (u : Nat) (s s' : State) : Prop where
  frame : s' = { s with teams := s'.teams, ops := s'.ops }
  other : ∀ v, v ≠ u → s'.team? v = s.team? v

theorem OnlyTeam.refl (u : Nat) (s : State) : OnlyTeam u s s := ⟨rfl, fun _ _ => rfl⟩

theorem OnlyTeam.trans {u : Nat} {s s' s'' : State} (h : OnlyTeam u s s') (h' : OnlyTeam u s' s'') : OnlyTeam u s s'' :=
  ⟨by rw [h'.frame, h.frame], fun v hv => (h'.other v hv).trans (h.other v hv)⟩

theorem OnlyTeam.modTeam (s : State) (u : Nat) {f : Team → Team} (hf : ∀ t, (f t).uid = t.uid) : OnlyTeam u s (s.modTeam u f) :=
  ⟨rfl, fun v hv => by rw [team?_modTeam s u v f hf]; simp [hv]⟩

theorem OnlyTeam.setTile (s : State) (u n : Nat) {st : TileSt} (hst : (st == .empty) = false) (copyIn : Bool) :
    OnlyTeam u s (setTile s u n st copyIn) := by
  unfold Machine.setTile
  split
  · exact .refl u s
  · simp only [hst, Bool.false_and, Bool.false_eq_true, if_false]
    exact .modTeam s u fun _ => rfl

theorem OnlyTeam.computeStart (s : State) (u n : Nat) : OnlyTeam u s (computeStart s u n) := by
  unfold Machine.computeStart
  split
  · exact .refl u s
  · exact .modTeam s u fun _ => rfl

theorem takeTile_only (n : Nat) (bytes : List Byte) (s : State) (u : Nat) : OnlyTeam u s (takeTile n bytes s u) :=
  (OnlyTeam.modTeam s u (f := fun t => t.putBytes (t.shape n).base bytes) fun _ => rfl).trans (.setTile _ u n rfl false)

/-- What one member's turn leaves of the other teams and of the rest of the state. -/
theorem rotateOne_only (hx : x.2.team = x.1.uid) : OnlyTeam x.1.uid s (rotateOne n bytes s x) := by
  have hlife : OnlyTeam x.1.uid (takeTile n bytes s x.1.uid)
      (modLife (computeStart (takeTile n bytes s x.1.uid) x.1.uid n) x.1.uid n (waitNoted (takeTile n bytes s x.1.uid) x)) :=
    (OnlyTeam.computeStart _ _ n).trans (.modTeam _ _ fun _ => rfl)
  unfold rotateOne
  dsimp only
  rw [wakeOp_goes, hx]
  exact (takeTile_only n bytes s x.1.uid).trans (hlife.trans (.trans (s' := State.modOp _ x.2.id _) ⟨rfl, fun _ _ => rfl⟩ (.modTeam _ _ fun _ => rfl)))

/-- What it leaves of the member's own team. -/
theorem rotateOne_self (hx : x.2.team = x.1.uid) {t : Team} (ht : s.team? x.1.uid = some t) (hn : n < t.ttab.length) :
    ∃ t' now, (rotateOne n bytes s x).team? x.1.uid = some t' ∧ (t'.tile n).st = .filling ∧
      t'.tileMem = memPut t.tileMem (t.shape n).base bytes ∧ t'.warps = t.warps.modify x.2.warp (goLanes x.2 now) := by
  have ht1 := team?_modTeam_self ht (f := fun t => t.putBytes (t.shape n).base bytes) fun _ => rfl
  obtain ⟨t2, B2, hst, -⟩ := setTile_state ht1 (st := .filling) rfl (n := n) hn false
  obtain ⟨t3, B3, htab⟩ := computeStart_booked B2.found n
  obtain ⟨t4, B4, htab4⟩ := modLife_booked B3.found n (waitNoted (takeTile n bytes s x.1.uid) x)
  have B := B2.trans (B3.trans B4)
  obtain ⟨now, hwake⟩ : ∃ now, (rotateOne n bytes s x).team? x.1.uid = some (t4.modWarp x.2.warp (goLanes x.2 now)) :=
    ⟨_, wakeOp_team (s := State.modOp _ x.2.id _) B.found hx⟩
  refine ⟨_, now, hwake, ?_, B.fixed.2.2.2.1, ?_⟩
  · change (t4.tile n).st = _
    rw [tile_congr (htab4.trans htab), hst]
  · rw [Team.modWarp, B.warps]
    rfl

end

/-! ### All the members' turns -/

section
variable {n : Nat} {bytes : (Team × EngOp) × Nat → List Byte}

/-- The turns of some members, in order. -/
def rotateAll (n : Nat) (bytes : (Team × EngOp) × Nat → List Byte) (s : State) (xs : List ((Team × EngOp) × Nat)) : State :=
  xs.foldl (fun s x => rotateOne n (bytes x) s x.1) s

theorem rotateAll_frame (xs : List ((Team × EngOp) × Nat)) (s : State) (hxs : ∀ x ∈ xs, x.1.2.team = x.1.1.uid) :
    rotateAll n bytes s xs = { s with teams := (rotateAll n bytes s xs).teams, ops := (rotateAll n bytes s xs).ops } := by
  induction xs generalizing s with
  | nil => rfl
  | cons x xs ih =>
    have h := ih (rotateOne n (bytes x) s x.1) fun y hy => hxs y (by simp [hy])
    have h1 := (rotateOne_only (s := s) (n := n) (bytes := bytes x) (hxs x (by simp))).frame
    rw [rotateAll, List.foldl_cons]
    rw [rotateAll] at h
    rw [h, h1]

theorem rotateAll_other (xs : List ((Team × EngOp) × Nat)) (s : State) (hxs : ∀ x ∈ xs, x.1.2.team = x.1.1.uid) {u : Nat}
    (hu : ∀ x ∈ xs, u ≠ x.1.1.uid) : (rotateAll n bytes s xs).team? u = s.team? u := by
  induction xs generalizing s with
  | nil => rfl
  | cons x xs ih =>
    exact (ih (rotateOne n (bytes x) s x.1) (fun y hy => hxs y (by simp [hy])) (fun y hy => hu y (by simp [hy]))).trans
      ((rotateOne_only (hxs x (by simp))).other u (hu x (by simp)))

/-- Each member has one turn. -/
theorem rotateAll_member {xs : List ((Team × EngOp) × Nat)} {s : State} (hxs : ∀ x ∈ xs, x.1.2.team = x.1.1.uid)
    (hnodup : (xs.map (·.1.1.uid)).Nodup) {x : (Team × EngOp) × Nat} (hx : x ∈ xs) :
    ∃ s1, s1.team? x.1.1.uid = s.team? x.1.1.uid ∧
      (rotateAll n bytes s xs).team? x.1.1.uid = (rotateOne n (bytes x) s1 x.1).team? x.1.1.uid := by
  obtain ⟨before, later, rfl⟩ := List.append_of_mem hx
  rw [List.map_append, List.map_cons, List.nodup_append] at hnodup
  obtain ⟨-, hlater, hapart⟩ := hnodup
  have hbefore := rotateAll_other (n := n) (bytes := bytes) before s (fun y hy => hxs y (by simp [hy])) (u := x.1.1.uid)
    fun y hy he => hapart _ (List.mem_map_of_mem hy) _ (by simp) he.symm
  refine ⟨rotateAll n bytes s before, hbefore, ?_⟩
  have hsplit : rotateAll n bytes s (before ++ x :: later) =
      rotateAll n bytes (rotateOne n (bytes x) (rotateAll n bytes s before) x.1) later := by
    simp [rotateAll]
  rw [hsplit]
  refine rotateAll_other later _ (fun y hy => hxs y (by simp [hy])) fun y hy he => ?_
  exact (List.nodup_cons.mp hlater).1 (he ▸ List.mem_map_of_mem hy)

end

theorem cread_memPut (m : Cells 8) (a : Nat) {n : Nat} {bs : List Byte} (h : bs.length = n) : cread (memPut m a bs) a n = bs := by
  subst h
  refine List.ext_getElem (by simp) fun j hj hj' => ?_
  have hx := cget_memPut m a (a + j) bs
  rw [if_pos (by omega), Nat.add_sub_cancel_left, ← List.getElem_eq_getD (h := hj')] at hx
  simpa [cread] using hx

/-- A lane that waited for the operation has completed it. -/
theorem goLanes_get {o : EngOp} {now q : Nat} {w : Warp} {l : Lane} (hl : w.lanes[q]? = some l) (hst : l.st = .blocked)
    (hwait : l.wait = .engine o.id) : ∃ l', (goLanes o now w).lanes[q]? = some l' ∧ StandsAt (l.pc + BitVec.ofNat 56 o.len) l l' := by
  have hwaits : l.waitsFor (.engine o.id) = true := by simp [Lane.waitsFor, Lane.under, hst, hwait]
  exact ⟨completeLane o.len now l, by simp [goLanes, hl, hwaits], completeLane_blocked hst o.len now⟩

theorem execRrotRotation_rotates {s : State} {inst : Nat} {n : Fin 32} {ms : List (Team × EngOp)} {ext dn : Nat} (hs : Awake s)
    (hnodup : (s.teams.map (·.uid)).Nodup)
    (hms : (s.teams.filter (fun u => u.inst == inst)).findSome? (fun u => rotationAt s u n.val) = some ms)
    (hone : (ms.map (·.1.uid)).Nodup) (hall : ∀ x ∈ ms, (x.1.shape n.val).extent = ext ∧ x.2.arg 0 = dn) :
    ∃ s', exec (.rrotRotation inst n) s = .next s' ∧ s'.mem = s.mem ∧ ∀ (j : Nat) (x : Team × EngOp), ms[j]? = some x →
      ∃ t' now, s'.team? x.1.uid = some t' ∧ (t'.tile n.val).st = .filling ∧
        cread t'.tileMem (x.1.shape n.val).base ext = turnBytes ms n.val ext dn (x, j) ∧
        t'.warps = x.1.warps.modify x.2.warp (goLanes x.2 now) := by
  obtain ⟨u, -, hu⟩ := List.exists_of_findSome?_eq_some hms
  have hmember : ∀ x ∈ ms.zipIdx, x.1 ∈ ms := fun x hx => List.fst_mem_of_mem_zipIdx hx
  have hteam : ∀ x ∈ ms.zipIdx, x.1.2.team = x.1.1.uid := fun x hx => (rotationAt_member hu (hmember x hx)).2.1
  have hframe := rotateAll_frame (n := n.val) (bytes := turnBytes ms n.val ext dn) ms.zipIdx s hteam
  have hx : exec (.rrotRotation inst n) s = finish (rotateAll n.val (turnBytes ms n.val ext dn) s ms.zipIdx) := by
    change finish _ = _
    simp only [hms, rotate_agreed hall]
    rfl
  refine ⟨_, hx.trans (finish_awake ?_), ?_, fun j x hj => ?_⟩
  · rw [hframe]
    exact hs
  · rw [hframe]
  · have hmem : (x, j) ∈ ms.zipIdx := List.mem_zipIdx_iff_getElem?.mpr hj
    obtain ⟨hin, hop, hready⟩ := rotationAt_member hu (hmember _ hmem)
    have hnodup' : (ms.zipIdx.map (·.1.1.uid)).Nodup := by
      have : ms.zipIdx.map (·.1.1.uid) = ms.map (·.1.uid) := by
        rw [← List.zipIdx_map_fst 0 ms, List.map_map]
        simp
      rw [this]
      exact hone
    obtain ⟨s1, hs1, hlast⟩ := rotateAll_member (n := n.val) (bytes := turnBytes ms n.val ext dn) (s := s) hteam hnodup' hmem
    obtain ⟨t', now, ht', hst, htile, hwarps⟩ := rotateOne_self (bytes := turnBytes ms n.val ext dn (x, j)) hop
      (hs1.trans (team?_of_nodup hnodup hin)) (ready_lt hready)
    refine ⟨t', now, hlast.trans ht', hst, ?_, hwarps⟩
    rw [htile]
    exact cread_memPut _ _ (by simp [turnBytes])

/-! ### The end of a rotation -/

theorem execRrotCompletion_ends {s : State} {o : EngOp} {t : Team} {n : Fin 32} (hs : Awake s) (ht : s.team? o.team = some t)
    (hlen : t.ttab.length = 32) (hrun : opRuns s o = true)
    (hop : s.ops.find? (fun o => o.team == t.uid && (isRrot o.ins).isSome && o.tiles == [n.val] && o.pos == 1) = some o) :
    ∃ s', exec (.rrotCompletion t.uid n) s = .next s' ∧ TileAt s' t.uid n.val .ready ∧ s'.op? o.id = none := by
  rw [← uid_of_team? ht] at ht
  obtain ⟨t2, ht2, hst, -, hgone, hframe⟩ := readied (copyIn := false) ht (n := n.val) (lt_of_lt_of_eq n.isLt hlen.symm)
    (f := fun s => computeEnd s t.uid n.val) (fun s t ht => computeEnd_booked ht n.val) o.id
  have hx : exec (.rrotCompletion t.uid n) s =
      finish (setTile (computeEnd (s.dropOp o.id) t.uid n.val) t.uid n.val .ready false) := by
    change finish _ = _
    simp [hop, hrun]
  refine ⟨_, hx.trans (finish_awake ?_), ⟨t2, ht2, hst⟩, hgone⟩
  rw [hframe]
  exact hs

/-- Settles O25: the members' turns follow one another, each in a team of its own; a push and a pop move one ring's producer or
consumer. -/
theorem ringsRun : Obligations.RingsRun := by
  unfold Obligations.RingsRun
  refine ⟨⟨?_, ?_, ?_⟩, ?_, ?_⟩
  · intro s h is t k w l ring dn n G one a hclean hops hreq hok hplace hgrant
    exact execRrot_waits G one a hclean hops hreq hok hplace hgrant
  · intro s inst n ms ext dn hs hnodup _ hms hone hall
    obtain ⟨s', hx, hmem, hturn⟩ := execRrotRotation_rotates hs hnodup hms hone hall
    refine ⟨s', hx, hmem, fun j x y hj hy => ?_⟩
    obtain ⟨t', now, ht', hst, hbytes, hwarps⟩ := hturn j x hj
    refine ⟨t', ht', hst, ?_, fun w q l hw hl hblocked hwait => ?_⟩
    · rw [hbytes, turnBytes, hy]
      rfl
    · obtain ⟨l', hl', hstands⟩ := goLanes_get (now := now) hl hblocked hwait
      refine ⟨goLanes x.2 now w, l', ?_, hl', hstands⟩
      simp [State.warp?, ht', hwarps, hw]
  · intro s o t h ring dn n hs ht hlen hrun _ hop
    exact execRrotCompletion_ends hs ht hlen hrun hop
  · intro s h is t k w l r src g G one a hg hd hlen hprod
    refine ⟨fun hroom => ?_, fun hfull => execRpush_waits G one a hg hd hfull⟩
    obtain ⟨s', t', hx, hgo, ht', hring⟩ := execRpush_pushes G one a hg hd hroom
    refine ⟨s', t', _, hx, hgo, ht', hring, rfl, wrap_next hprod, flip_when g.prodPh (g.prod + 1 = g.depth), rfl, rfl, fun j => ?_⟩
    rw [push_slots hlen hprod]
    cases src <;> rfl
  · intro s h is t k w l d r g n ph G one a hg hd hcons hslot
    refine ⟨?_, fun hph => execRpop_waits G one a hg hd hslot hph⟩
    rintro rfl
    obtain ⟨s', w', l', t', hx, hw', hl', hwrote, ht', hring⟩ := execRpop_pops G one a hg hd hslot
    exact ⟨s', w', l', t', _, hx, hw', hl', hwrote, ht', hring, rfl, wrap_next hcons,
      flip_when g.expPh (g.cons + 1 = g.depth), rfl, rfl⟩

end Sys2Proof.Machine
end

section
/-! SUPPORT. O24: multicasts as they leave their warp, arrive and are merged (R71 to R73, R233, R318). -/

namespace Sys2Proof.Machine

/-! ### MCAST, R233 -/

section
variable {s : State} {h : Hdr} {is : Issue} {t : Team} {k : Nat × Nat} {w : Warp} {l : Lane} {n : Fin 32} {a b : Src}

/-- A heavy operation takes the grant that its team holds: one grant fewer is left (R318). -/
theorem takeLeave_erases {c : Lc} (ht : s.team? c.is.team = some t) (hreq : leaveFor s c = none) {kind : Nat}
    (hg : HoldsGrant s t kind) : ∃ s' t', takeLeave s c kind = (s', none) ∧ Booked c.is.team s s' t t' ∧
      t'.grants.length + 1 = t.grants.length := by
  obtain ⟨g, hmem, hkind, hcyc⟩ := hg
  have hu : usable s kind g = true := by simp [usable, hkind, hcyc]
  have huse : t.grants.any (usable s kind) = true := List.any_eq_true.mpr ⟨g, hmem, hu⟩
  unfold takeLeave
  simp only [hreq, ht, huse, if_true]
  refine ⟨_, _, rfl, booked_modTeam ht (fun _ => rfl) rfl, ?_⟩
  change (t.grants.eraseP (usable s kind)).length + 1 = _
  have hpos := List.length_pos_of_mem hmem
  rw [List.length_eraseP_of_mem hmem hu]
  omega

/-- An MCAST as it begins. -/
def mcastOp (i : Instr) (c : Lc) (ea : DWord) (mask ext n : Nat) (ias : List Nat) : EngOp :=
  { blankOp i c with args := [ea.toNat, mask, ext, n], ias := ias, tiles := [n], charge := 4 }

def mcastOne (n : Fin 32) (i : Instr) (a b : Src) (s : State) (c : Lc) : State × LaneRes :=
  match s.team? c.is.team with
  | none => (s, .stay)
  | some tm =>
    let ea := c.pair a
    let m := (c.src b).toNat % 65536
    let e := (tm.shape n.val).extent
    if ea.toNat % 64 != 0 then (s, .trap cALIGN 0 ea 0 false)
    else if 32768 < e || m = 0 then (s, ill .mcast)
    else
      match checkBeats s c.space .load (runBeats ea.toNat e 0) with
      | .error e => (s, e)
      | .ok ias =>
        forkRelease s c .d (fun s =>
          match takeLeave s c 3 with
          | (s, some w) => (s, .wait w)
          | (s, none) => (addOp (computeStart s c.is.team n.val) (mcastOp i c ea m e n.val ias), .done {}))

theorem exec_mcast (h : Hdr) (n : Fin 32) (a b : Src) (s : State) :
    exec (.mcast h n a b) s = perWarp (.mcast h n a b) h s (shapeCheck [n.val]) (mcastOne n (.mcast h n a b) a b) := rfl

theorem shapeOk_extent {n : Nat} (h : t.shapeOk n = true) : (t.shape n).extent ≤ 32768 := by
  simp only [Team.shapeOk, Shape.ok, Bool.and_eq_true, decide_eq_true_eq] at h
  exact h.1.2

theorem mcastOne_begins {i : Instr} {c : Lc} {s1 : State} {ias : List Nat} (ht : s.team? c.is.team = some t) (hspace : c.space = t.space)
    (hok : t.shapeOk n.val = true) (hclean : CleanSpace s t.space) (halign : (c.pair a).toNat % 64 = 0)
    (hmask : (c.src b).toNat % 65536 ≠ 0)
    (hias : checkBeats s t.space .load (runBeats (c.pair a).toNat (t.shape n.val).extent 0) = .ok ias)
    (hleave : takeLeave s c 3 = (s1, none)) : mcastOne n i a b s c = (addOp (computeStart s1 c.is.team n.val)
      (mcastOp i c (c.pair a) ((c.src b).toNat % 65536) (t.shape n.val).extent n.val ias), .done {}) := by
  have hext := shapeOk_extent hok
  unfold mcastOne
  simp [ht, halign, hmask, not_lt.mpr hext, hspace, hias, forkRelease_clean hclean ht, hleave]

/-- The times of a tile that are noted leave the grants. -/
theorem computeStart_grants {u : Nat} (ht : s.team? u = some t) (m : Nat) :
    ∃ t', Booked u s (computeStart s u m) t t' ∧ t'.grants = t.grants := by
  unfold computeStart
  split
  · exact ⟨t, .refl ht, rfl⟩
  · exact ⟨_, booked_modTeam ht (fun _ => rfl) rfl, rfl⟩

theorem execMcast_begins {ias : List Nat} (G : Issuing s (.mcast h n a b) h is t) (one : OneWarp t is h k) (act : Active t is h k w l)
    (hclean : CleanSpace s t.space) (hreq : NoRequest t is h) (hgrant : HoldsGrant s t 3) (hok : t.shapeOk n.val = true)
    (halign : (readPair w l a).toNat % 64 = 0) (hmask : (readSrc w l b).toNat % 65536 ≠ 0)
    (hias : checkBeats s t.space .load (runBeats (readPair w l a).toNat (t.shape n.val).extent 0) = .ok ias) :
    ∃ s' t', exec (.mcast h n a b) s = .next s' ∧ GoesOn s' t is h ∧ s'.team? is.team = some t' ∧
      t'.grants.length + 1 = t.grants.length ∧
      Queued s s' (.mcast h n a b) is k
        [(readPair w l a).toNat, (readSrc w l b).toNat % 65536, (t.shape n.val).extent, n.val] [n.val] := by
  obtain ⟨s1, t1, now, hx, hgo, ht, hgrants, c, hwi, his, hops⟩ := perWarp_goesOn G one act (shapeCheck_none G hok)
    (f := mcastOne n (.mcast h n a b) a b) (P := fun s1 t1 => t1.grants.length + 1 = t.grants.length ∧ ∃ c : Lc, c.wi = k.1 ∧ c.is = is ∧
      s1.ops = s.ops ++ [{ mcastOp (.mcast h n a b) c (readPair w l a) ((readSrc w l b).toNat % 65536) (t.shape n.val).extent n.val ias
        with id := s.serial }])
    fun c C => by
      have hgrant' : HoldsGrant (s.seen t is) (t.seen is) 3 := by
        rw [seen_frame, seen_state]
        exact hgrant
      obtain ⟨s1, t1, hleave, B1, hlen⟩ := takeLeave_erases (C.team? G) (leaveFor_none G C hreq (s.seen t is)) hgrant'
      obtain ⟨t2, B2, hgrants⟩ := computeStart_grants B1.found n.val
      have B := B1.trans B2
      have hpair : c.pair a = readPair w l a := C.pair G a 2 (by simp [info])
      have hsrc : c.src b = readSrc w l b := C.src G b 1 (by simp [info])
      have hspace : (t.seen is).space = t.space := by rw [seen_frame]
      have hone := mcastOne_begins (i := .mcast h n a b) (n := n) (a := a) (b := b) (ias := ias) (C.team? G) C.space_eq
        (by rw [shapeOk_seen]; exact hok) (seen_clean is hclean) (by rw [hpair]; exact halign) (by rw [hsrc]; exact hmask)
        (by rw [checkBeats_seen, hpair, shape_seen, hspace]; exact hias) hleave
      rw [addOp_eq _ rfl rfl, hpair, hsrc, shape_seen] at hone
      rw [C.issue] at hone B
      refine ⟨_, t2, hone, B.awake (seen_awake G.awake t is), B.found, B.warps, ?_, c, C.warp_num G one, C.issue, ?_⟩
      · rw [hgrants, hlen, seen_frame]
      · rw [B.frame, seen_state]
  refine ⟨_, _, hx, hgo, ht, hgrants,
    { mcastOp (.mcast h n a b) c (readPair w l a) ((readSrc w l b).toNat % 65536) (t.shape n.val).extent n.val ias with id := s.serial },
    s.ops, (commit_ops_goes ..).trans hops, rfl, rfl, rfl, ?_, hwi, ?_, rfl, rfl, rfl, rfl⟩
  · exact congrArg Issue.team his
  · exact congrArg Issue.pc his

end

/-! ### The request arrives, R71 -/

theorem execMcastRequestArrival_opens {s : State} {o : EngOp} {h : Hdr} {n : Fin 32} {a b : Src} {t : Team} (hs : Awake s)
    (hop : s.op? o.id = some o) (hins : o.ins = .mcast h n a b) (ht : s.team? o.team = some t) (hrun : opRuns s o = true)
    (hnone : ∀ m ∈ s.mcasts, m.op ≠ o.id) : exec (.mcastRequestArrival o.id) s = .next (openMcast s t o) := by
  have hwindow : hasWindow s o.id = false := by
    rw [hasWindow, List.any_eq_false]
    intro m hm
    simpa using hnone m hm
  have hx : exec (.mcastRequestArrival o.id) s = finish (openMcast s t o) := by
    change finish _ = _
    simp [hop, ht, hins, isMcast, hrun, hwindow]
  exact hx.trans (finish_awake hs)

/-! ### TARM, R63, R73 -/

section
variable {s : State} {h : Hdr} {is : Issue} {t : Team} {k : Nat × Nat} {w : Warp} {l : Lane} {n : Fin 32}

/-- What TARM does for its warp. -/
def tarmOne (h : Hdr) (n : Fin 32) (s : State) (c : Lc) : State × LaneRes :=
  match s.team? c.is.team with
  | none => (s, .stay)
  | some tm =>
    let e := tm.tile n.val
    if e.st != .empty then waitTile s n.val
    else
      match e.pend with
      | none => (s.modTeam c.is.team (fun tm => tm.modTile n.val (fun e => { e with arm := true })), .done {})
      | some p =>
        if p.ext == (tm.shape n.val).extent then startFill (.tarm h n) c n.val p (tm.shape n.val) s
        else (s.modTeam c.is.team (fun tm => { tm with ttab := tm.ttab.modify n.val (fun e => { e with pend := none }) }), ill .mcast)

theorem exec_tarm (h : Hdr) (n : Fin 32) (s : State) :
    exec (.tarm h n) s = perWarp (.tarm h n) h s (shapeCheck [n.val]) (tarmOne h n) := rfl

theorem tarmOne_arms {c : Lc} (ht : s.team? c.is.team = some t) (hst : (t.tile n.val).st = .empty) (hpend : (t.tile n.val).pend = none) :
    tarmOne h n s c = (s.modTeam c.is.team (fun tm => tm.modTile n.val (fun e => { e with arm := true })), .done {}) := by
  unfold tarmOne
  rw [ht]
  simp only [hst, hpend]
  rfl

theorem execTarm_arms (G : Issuing s (.tarm h n) h is t) (one : OneWarp t is h k) (a : Active t is h k w l)
    (hlen : t.ttab.length = 32) (hok : t.shapeOk n.val = true) (hst : (t.tile n.val).st = .empty) (hpend : (t.tile n.val).pend = none) :
    ∃ s' t', exec (.tarm h n) s = .next s' ∧ GoesOn s' t is h ∧ s'.team? is.team = some t' ∧
      (t'.tile n.val).arm = true ∧ (t'.tile n.val).st = .empty := by
  have B := modTile_booked (seen_team s t is G.team) n.val (fun e => { e with arm := true })
  have htile := modTile_tile (t := t.seen is) (fun e => { e with arm := true }) (n := n.val)
    (by rw [seen_ttab]; exact lt_of_lt_of_eq n.isLt hlen.symm) n.val
  rw [if_pos rfl, tile_seen] at htile
  obtain ⟨s1, t1, now, hx, hgo, ht, htile⟩ := perWarp_goesOn G one a (shapeCheck_none G hok) (f := tarmOne h n)
    (P := fun _ t1 => t1.tile n.val = { t.tile n.val with arm := true })
    fun c C => ⟨_, _, tarmOne_arms (C.team? G) (by rw [tile_seen]; exact hst) (by rw [tile_seen]; exact hpend),
      seen_awake G.awake t is, by rw [C.issue]; exact B.found, B.warps, htile⟩
  exact ⟨_, _, hx, hgo, ht, congrArg TileEnt.arm htile, (congrArg TileEnt.st htile).trans hst⟩

/-- The fill that waited for the arming of its tile, as it begins. -/
def tarmOp (i : Instr) (c : Lc) (p : Delivery) (n : Nat) (ias : List Nat) : EngOp :=
  { blankOp i c with args := [p.va.toNat, p.ext], ias := ias, tiles := [n] }

def TileEnt.armed (e : TileEnt) : TileEnt := { e with pend := none, arm := false }

/-- The tile as the fill begins. -/
def tarmBegun (s : State) (u n : Nat) : State := setTile (s.modTeam u (fun t => t.modTile n TileEnt.armed)) u n .filling true

theorem tarmBegun_booked {u : Nat} (ht : s.team? u = some t) {n : Nat} (hn : n < t.ttab.length) :
    ∃ t', Booked u s (tarmBegun s u n) t t' ∧ (t'.tile n).st = .filling ∧ (t'.tile n).arm = false ∧ (t'.tile n).pend = none := by
  have B := modTile_booked ht n TileEnt.armed
  obtain ⟨t1, B1, htab⟩ := setTile_booked B.found (st := .filling) rfl n true
  have hlen : n < (t.modTile n TileEnt.armed).ttab.length := by rwa [Team.modTile, List.length_modify]
  have htile : t1.tile n = { (t.tile n).armed with st := .filling } := by
    rw [tile_modified htab hlen, if_pos rfl, modTile_tile _ hn, if_pos rfl]
  refine ⟨t1, B.trans B1, ?_⟩
  rw [htile]
  exact ⟨rfl, rfl, rfl⟩

theorem tarmOne_fills {c : Lc} {p : Delivery} {ias : List Nat} (ht : s.team? c.is.team = some t) (hspace : c.space = t.space)
    (hst : (t.tile n.val).st = .empty) (hpend : (t.tile n.val).pend = some p) (hext : p.ext = (t.shape n.val).extent)
    (hias : checkBeats s t.space .load (runBeats p.va.toNat p.ext (t.shape n.val).base) = .ok ias) :
    tarmOne h n s c = (addOp (tarmBegun s c.is.team n.val) (tarmOp (.tarm h n) c p n.val ias), .done {}) := by
  have hsame : (p.ext == (t.shape n.val).extent) = true := by simp [hext]
  unfold tarmOne startFill
  simp only [ht, hst, hpend, hsame, hspace, hias, if_true]
  rfl

theorem execTarm_fills (G : Issuing s (.tarm h n) h is t) (one : OneWarp t is h k) (a : Active t is h k w l) {p : Delivery}
    (hlen : t.ttab.length = 32) (hok : t.shapeOk n.val = true) (hst : (t.tile n.val).st = .empty)
    (hpend : (t.tile n.val).pend = some p) (hext : p.ext = (t.shape n.val).extent)
    (hranged : Ranged s t.space .load (runBeats p.va.toNat p.ext (t.shape n.val).base)) :
    ∃ s' t', exec (.tarm h n) s = .next s' ∧ GoesOn s' t is h ∧ s'.team? is.team = some t' ∧ (t'.tile n.val).st = .filling ∧
      (t'.tile n.val).arm = false ∧ (t'.tile n.val).pend = none ∧ Queued s s' (.tarm h n) is k [p.va.toNat, p.ext] [n.val] := by
  obtain ⟨ias, hias⟩ := checkBeats_ranged hranged
  obtain ⟨t0, B, htile⟩ := tarmBegun_booked (seen_team s t is G.team) (n := n.val)
    (by rw [seen_ttab]; exact lt_of_lt_of_eq n.isLt hlen.symm)
  obtain ⟨s1, t1, now, hx, hgo, ht, ⟨hfill, harm, hpend⟩, c, hwi, his, hops⟩ := perWarp_goesOn G one a (shapeCheck_none G hok)
    (f := tarmOne h n) (P := fun s1 t1 => ((t1.tile n.val).st = .filling ∧ (t1.tile n.val).arm = false ∧ (t1.tile n.val).pend = none) ∧
      ∃ c : Lc, c.wi = k.1 ∧ c.is = is ∧ s1.ops = s.ops ++ [{ tarmOp (.tarm h n) c p n.val ias with id := s.serial }])
    fun c C => by
      have hspace : (t.seen is).space = t.space := by rw [seen_frame]
      have hone := tarmOne_fills (n := n) (h := h) (C.team? G) C.space_eq (by rw [tile_seen]; exact hst)
        (by rw [tile_seen]; exact hpend) (by rw [shape_seen]; exact hext) (by rw [checkBeats_seen, shape_seen, hspace]; exact hias)
      rw [addOp_eq _ rfl rfl, C.issue] at hone
      refine ⟨_, t0, hone, B.awake (seen_awake G.awake t is), B.found, B.warps, htile, c, C.warp_num G one, C.issue, ?_⟩
      rw [B.frame, seen_state]
  refine ⟨_, _, hx, hgo, ht, hfill, harm, hpend, { tarmOp (.tarm h n) c p n.val ias with id := s.serial },
    s.ops, (commit_ops_goes ..).trans hops, rfl, rfl, rfl, ?_, hwi, ?_, rfl, rfl, rfl, rfl⟩
  · exact congrArg Issue.team his
  · exact congrArg Issue.pc his

end

/-! ### Requests that are merged, R72 -/

section
variable {s : State} {m : Mcast}

theorem mcast?_modMcast {id : Nat} (hm : s.mcast? id = some m) {f : Mcast → Mcast} (hf : ∀ m, (f m).id = m.id) :
    (s.modMcast id f).mcast? id = some (f m) := by
  have hid : m.id = id := by simpa using List.find?_some hm
  have hpred : ((fun x : Mcast => x.id == id) ∘ fun x => if x.id == id then f x else x) = fun x => x.id == id := by
    funext x
    by_cases hx : x.id = id
    · simp [hx, hf]
    · simp [hx]
  rw [State.mcast?, State.modMcast, List.find?_map, hpred, show s.mcasts.find? (fun x => x.id == id) = some m from hm]
  simp [hid]

theorem mem_coveredBeats {ias : List Nat} {k : Nat} {b : Bool} :
    (k, b) ∈ coveredBeats m ias ↔ ∃ ia j, ias[k]? = some ia ∧ m.beatAt ia = some j ∧ m.hasLeft j = b := by
  simp only [coveredBeats, List.mem_filterMap, Option.map_eq_some_iff, Prod.mk.injEq]
  constructor
  · rintro ⟨⟨ia, k'⟩, hmem, j, hj, rfl, rfl⟩
    exact ⟨ia, j, List.mk_mem_zipIdx_iff_getElem?.mp hmem, hj, rfl⟩
  · rintro ⟨ia, j, hia, hj, rfl⟩
    exact ⟨(ia, k), List.mk_mem_zipIdx_iff_getElem?.mpr hia, j, hj, rfl, rfl⟩

/-- The covered beats that have left are those that were missed. -/
theorem mem_left_coveredBeats {ias : List Nat} {k : Nat} :
    k ∈ ((coveredBeats m ias).filter (·.2)).map (·.1) ↔ Missed m ias k := by
  rw [Missed, ← mem_coveredBeats]
  simp

/-- A copy merged into a multicast. -/
def copyMerged (m : Mcast) (t : Team) (o : EngOp) : Merged :=
  ⟨t.core, o.id, true, ((coveredBeats m o.ias).filter (·.2)).map (·.1)⟩

theorem execMergeRequestArrival_copy {o : EngOp} {t : Team} {h : Hdr} {cm : CpyM} {n : Fin 32} {ad : Addr} {b : Src} (hs : Awake s)
    (hm : s.mcast? m.id = some m) (hfree : m.joined o.id true = none) (hop : s.op? o.id = some o) (hins : o.ins = .cpyin h cm n ad b)
    (hne : o.id ≠ m.op) (ht : s.team? o.team = some t) (hrun : opRuns s o = true) (hspace : t.space = m.space)
    (hsector : t.core / 16 = m.sector) (hwait : ∃ ia ∈ o.ias, ∃ j, m.beatAt ia = some j ∧ m.hasLeft j = false) :
    ∃ s', exec (.mergeRequestArrival m.id o.id) s = .next s' ∧
      s'.mcast? m.id = some { m with merged := m.merged ++ [copyMerged m t o] } := by
  have hany : (coveredBeats m o.ias).any (fun x => !x.2) = true := by
    obtain ⟨ia, hia, j, hj, hleft⟩ := hwait
    obtain ⟨k, hk⟩ := List.mem_iff_getElem?.mp hia
    exact List.any_eq_true.mpr ⟨(k, false), mem_coveredBeats.mpr ⟨ia, j, hk, hj, hleft⟩, rfl⟩
  have hx : exec (.mergeRequestArrival m.id o.id) s = finish (mergeOp s m.id t.core o (coveredBeats m o.ias)) := by
    change finish _ = _
    simp [hm, hop, ht, hins, isCpyin, isMcast, hrun, hspace, sectorOf, hsector, hne, hfree, hany, ownBeats]
  exact ⟨_, hx.trans (finish_awake hs), mcast?_modMcast hm fun _ => rfl⟩

/-- The line in which a beat lies. -/
def Mcast.lineOf (m : Mcast) (k : Nat) : Nat := (m.ias[k]?).getD 0 / 128

theorem lineFirst_eq (m : Mcast) (k : Nat) : m.lineFirst k = (m.ias.findIdx? (fun x => x / 128 == m.lineOf k)).getD k := rfl

/-- The first beat of a line is a beat of it, and none before it is. -/
theorem lineFirst_spec {k : Nat} (hk : k < m.ias.length) : m.lineFirst k < m.ias.length ∧ m.lineOf (m.lineFirst k) = m.lineOf k ∧
    ∀ j < m.lineFirst k, m.lineOf j ≠ m.lineOf k := by
  have hsome : (m.ias.findIdx? (fun x => x / 128 == m.lineOf k)).isSome = true := by
    rw [List.findIdx?_isSome, List.any_eq_true]
    exact ⟨m.ias[k], List.getElem_mem hk, by simp [Mcast.lineOf, hk]⟩
  obtain ⟨i, hi⟩ := Option.isSome_iff_exists.mp hsome
  obtain ⟨hlt, hline, hfirst⟩ := List.findIdx?_eq_some_iff_getElem.mp hi
  rw [lineFirst_eq, hi]
  refine ⟨hlt, ?_, fun j hj => ?_⟩
  · simpa [Mcast.lineOf, hlt] using hline
  · have hjlt : j < m.ias.length := lt_trans hj hlt
    simpa [Mcast.lineOf, hjlt] using hfirst j hj

theorem lineFirst_unique {i k : Nat} (hk : k < m.ias.length) (hline : m.lineOf i = m.lineOf k) (hfirst : ∀ j < i, m.lineOf j ≠ m.lineOf k) :
    m.lineFirst k = i := by
  obtain ⟨-, hl, hf⟩ := lineFirst_spec hk
  exact le_antisymm (not_lt.mp fun h => hf i h hline) (not_lt.mp fun h => hfirst _ h hl)

theorem lineFirst_lineFirst {k : Nat} (hk : k < m.ias.length) : m.lineFirst (m.lineFirst k) = m.lineFirst k := by
  obtain ⟨hlt, hline, hfirst⟩ := lineFirst_spec hk
  exact lineFirst_unique hlt rfl (by rwa [hline])

/-- A line whose first beat has not left has a beat that has not left. -/
theorem lineLeft_waiting {k : Nat} (hk : k < m.ias.length) (h : m.hasLeft (m.lineFirst k) = false) : m.lineLeft k = false := by
  rw [Mcast.lineLeft, List.all_eq_false]
  refine ⟨m.lineFirst k, List.mem_range.mpr (lineFirst_spec hk).1, ?_⟩
  simp [lineFirst_lineFirst hk, h]

theorem execMergeRequestArrival_read {a : Access} {t : Team} {j : Nat} (hs : Awake s) (hm : s.mcast? m.id = some m)
    (hop : s.op? a.id = none) (hacc : s.accs.find? (fun x => x.id == a.id) = some a) (hload : a.op = .load) (hscope : a.scope = none)
    (hmov : movable s a = true) (ht : s.team? a.team = some t) (hspace : t.space = m.space) (hsector : t.core / 16 = m.sector)
    (hbeat : m.beatAt a.ia = some j) (hwait : m.hasLeft (m.lineFirst j) = false) (hfree : m.joined a.id false = none) :
    ∃ s', exec (.mergeRequestArrival m.id a.id) s = .next s' ∧
      s'.mcast? m.id = some { m with merged := m.merged ++ [⟨t.core, a.id, false, []⟩] } := by
  have hj : j < m.ias.length := (List.findIdx?_eq_some_iff_getElem.mp hbeat).choose
  have hline := lineLeft_waiting hj hwait
  have hx : exec (.mergeRequestArrival m.id a.id) s =
      finish (s.modMcast m.id (fun m => { m with merged := m.merged ++ [⟨t.core, a.id, false, []⟩] })) := by
    change finish _ = _
    simp [hm, hop, hacc, ht, hbeat, hspace, sectorOf, hsector, hload, hscope, hmov, hfree, hline, hwait]
  exact ⟨_, hx.trans (finish_awake hs), mcast?_modMcast hm fun _ => rfl⟩

end

end Sys2Proof.Machine
end

section
/-! SUPPORT. O24: deliveries of a multicast, from its first beat at a core to the whole tile (R71, R73). -/

namespace Sys2Proof.Machine

/-! ### The first beat arrives, R71, R73 -/

section
variable {s : State} {m : Mcast} {u : Nat} {t : Team}

/-- The times of a tile that are noted, in this team or another, leave its tiles. -/
theorem computeEnd_tiles (ht : s.team? u = some t) (v n : Nat) :
    ∃ t', (computeEnd s v n).team? u = some t' ∧ t'.ttab = t.ttab ∧ t'.tileMem = t.tileMem := by
  unfold computeEnd
  split
  · exact ⟨t, ht, rfl, rfl⟩
  · rw [modLife, team?_modTeam, ht]
    · refine ⟨_, rfl, ?_⟩
      split <;> exact ⟨rfl, rfl⟩
    · exact fun _ => rfl

theorem computeEnd_frame (s : State) (v n : Nat) : computeEnd s v n = { s with teams := (computeEnd s v n).teams } := by
  unfold computeEnd
  split <;> rfl

/-- The end of a multicast leaves every tile. -/
theorem endMcast_tiles (ht : s.team? u = some t) (id : Nat) :
    ∃ t', (endMcast s id).team? u = some t' ∧ t'.ttab = t.ttab ∧ t'.tileMem = t.tileMem := by
  unfold endMcast
  split
  · exact ⟨t, ht, rfl, rfl⟩
  · dsimp only
    split
    · split
      · exact computeEnd_tiles ht _ _
      · exact ⟨t, ht, rfl, rfl⟩
    · split <;> exact ⟨t, ht, rfl, rfl⟩

theorem endMcast_frame (s : State) (id : Nat) : endMcast s id =
    { s with teams := (endMcast s id).teams, ops := (endMcast s id).ops, mcasts := (endMcast s id).mcasts } := by
  unfold endMcast
  split
  · rfl
  · dsimp only
    split
    · split
      next o _ => rw [computeEnd_frame s o.team]; rfl
      · rfl
    · split <;> rfl

theorem endMcast_awake (hs : Awake s) (id : Nat) : Awake (endMcast s id) := by
  rw [endMcast_frame]
  exact hs

/-- A core leaves the mask. -/
def Mcast.unmask (core : Nat) (m : Mcast) : Mcast := { m with mask := m.mask &&& ~~~BitVec.ofNat 16 (2 ^ (core % 16)) }

theorem unmask_mask (m : Mcast) (core : Nat) : (m.unmask core).mask.getLsbD (core % 16) = false := by
  have h : core % 16 < 16 := Nat.mod_lt _ (by omega)
  rw [Mcast.unmask, BitVec.getLsbD_and, BitVec.getLsbD_not, BitVec.getLsbD_ofNat]
  simp [h, Nat.testBit_two_pow_self]

/-- A core joins the receivers. -/
def Mcast.receive (u core : Nat) (m : Mcast) : Mcast := { m with receivers := m.receivers ++ [(u, core)] }

/-- The delivery that a multicast brings to a core. -/
def Mcast.delivery (m : Mcast) : Delivery := ⟨m.space, m.va, m.ias.headD 0, m.ext⟩

/-- Where the first beat finds its tile armed: an EMPTY one, of the right extent. -/
def armedFor (m : Mcast) (t : Team) : Bool :=
  (t.tile m.tile).st == .empty && (t.tile m.tile).arm && t.shapeOk m.tile && (t.shape m.tile).extent == m.ext

theorem execMcastFirstBeatArrival_eq {core : Nat} (hm : s.mcast? m.id = some m) (hleft : m.left ≠ []) (hsector : core / 16 = m.sector)
    (hmask : m.mask.getLsbD (core % 16) = true) (hrecv : receiverAt s m.inst core = some t) :
    exec (.mcastFirstBeatArrival m.id core) s = finish (if armedFor m t then
      (setTile ((s.modMcast m.id (Mcast.unmask core)).modTeam t.uid (fun x => x.modTile m.tile (fun e => { e with arm := false })))
        t.uid m.tile .filling true).modMcast m.id (Mcast.receive t.uid core)
      else endMcast (dropDelivery (s.modMcast m.id (Mcast.unmask core)) m core) m.id) := by
  have hgo : (m.left.isEmpty || sectorOf core != m.sector || !m.mask.getLsbD (core % 16)) = false := by
    simp [hleft, sectorOf, hsector, hmask]
  have hrecv' : ∀ f, receiverAt (s.modMcast m.id f) m.inst core = some t := fun _ => hrecv
  change finish _ = _
  simp only [hm, hgo, Bool.false_eq_true, if_false, hrecv']
  rfl

theorem execMcastFirstBeatArrival_fills {core : Nat} (hs : Awake s) (hm : s.mcast? m.id = some m) (hleft : m.left ≠ [])
    (hsector : core / 16 = m.sector) (hmask : m.mask.getLsbD (core % 16) = true) (hrecv : receiverAt s m.inst core = some t)
    (ht : s.team? t.uid = some t) (htile : m.tile < t.ttab.length) (harmed : armedFor m t = true) :
    ∃ s' t' m', exec (.mcastFirstBeatArrival m.id core) s = .next s' ∧ s'.team? t.uid = some t' ∧ (t'.tile m.tile).st = .filling ∧
      (t'.tile m.tile).arm = false ∧ s'.mcast? m.id = some m' ∧ (t.uid, core) ∈ m'.receivers ∧
      m'.mask.getLsbD (core % 16) = false := by
  have ht1 : (s.modMcast m.id (Mcast.unmask core)).team? t.uid = some t := ht
  have B1 := modTile_booked ht1 m.tile (fun e => { e with arm := false })
  have hlen : m.tile < (t.modTile m.tile (fun e => { e with arm := false })).ttab.length := by rwa [Team.modTile, List.length_modify]
  obtain ⟨t2, B2, htab⟩ := setTile_booked B1.found (st := .filling) rfl m.tile true
  have B := B1.trans B2
  have hent : t2.tile m.tile = { t.tile m.tile with arm := false, st := .filling } := by
    rw [tile_modified htab hlen, if_pos rfl, modTile_tile _ htile, if_pos rfl]
  have hm2 : (setTile ((s.modMcast m.id (Mcast.unmask core)).modTeam t.uid (fun x => x.modTile m.tile (fun e => { e with arm := false })))
      t.uid m.tile .filling true).mcast? m.id = some (m.unmask core) := by
    rw [B.frame]
    exact mcast?_modMcast hm fun _ => rfl
  have hx := execMcastFirstBeatArrival_eq hm hleft hsector hmask hrecv
  rw [if_pos harmed] at hx
  refine ⟨_, t2, (m.unmask core).receive t.uid core, hx.trans (finish_awake (B.awake hs)), B.found, ?_, ?_,
    mcast?_modMcast hm2 fun _ => rfl, ?_, unmask_mask m core⟩
  · rw [hent]
  · rw [hent]
  · simp [Mcast.receive]

theorem execMcastFirstBeatArrival_keeps {core : Nat} (hs : Awake s) (hm : s.mcast? m.id = some m) (hleft : m.left ≠ [])
    (hsector : core / 16 = m.sector) (hmask : m.mask.getLsbD (core % 16) = true) (hrecv : receiverAt s m.inst core = some t)
    (ht : s.team? t.uid = some t) (htile : m.tile < t.ttab.length)
    (hst : (t.tile m.tile).st ≠ .empty ∨ (t.tile m.tile).arm = false) (hpend : (t.tile m.tile).pend = none) :
    ∃ s' t', exec (.mcastFirstBeatArrival m.id core) s = .next s' ∧ s'.team? t.uid = some t' ∧
      t'.tile m.tile = { t.tile m.tile with pend := some m.delivery } := by
  have hunarmed : armedFor m t = false := by
    rw [armedFor, Bool.eq_false_iff]
    simp only [ne_eq, Bool.and_eq_true, beq_iff_eq]
    rintro ⟨⟨⟨hempty, harm⟩, -⟩, -⟩
    rcases hst with hst | hst
    · exact hst hempty
    · exact Bool.false_ne_true (hst.symm.trans harm)
  have hrecv' : receiverAt (s.modMcast m.id (Mcast.unmask core)) m.inst core = some t := hrecv
  have hdrop : dropDelivery (s.modMcast m.id (Mcast.unmask core)) m core =
      (s.modMcast m.id (Mcast.unmask core)).modTeam t.uid (fun x => x.modTile m.tile (fun e => { e with pend := some m.delivery })) := by
    simp only [dropDelivery, hrecv', hpend]
    rfl
  have ht1 : (s.modMcast m.id (Mcast.unmask core)).team? t.uid = some t := ht
  have B := modTile_booked ht1 m.tile (fun e => { e with pend := some m.delivery })
  obtain ⟨t', ht', htab, -⟩ := endMcast_tiles B.found m.id
  have hx := execMcastFirstBeatArrival_eq hm hleft hsector hmask hrecv
  rw [if_neg (by simp [hunarmed]), hdrop] at hx
  refine ⟨_, t', hx.trans (finish_awake (endMcast_awake (B.awake hs) _)), ht', ?_⟩
  rw [tile_congr htab, modTile_tile _ htile, if_pos rfl]

/-! ### A receiver is whole -/

theorem execMcastDeliveryComplete_readies {core : Nat} (hs : Awake s) (hm : s.mcast? m.id = some m)
    (hrecv : m.receivers.find? (fun x => x.2 == core) = some (u, core)) (hall : m.allLeft = true) (ht : s.team? u = some t)
    (hrun : t.st = .running) (htile : m.tile < t.ttab.length) (hext : m.ext ≤ 64 * m.ias.length) :
    ∃ s' t', exec (.mcastDeliveryComplete m.id core) s = .next s' ∧ s'.team? u = some t' ∧ (t'.tile m.tile).st = .ready ∧
      cread t'.tileMem (t.shape m.tile).base m.ext = (m.ias.flatMap (fun ia => cread m.data ia 64)).take m.ext := by
  have ht1 := team?_modTeam_self ht (f := fun x => x.putBytes (x.shape m.tile).base
    ((m.ias.flatMap (fun ia => cread m.data ia 64)).take m.ext)) fun _ => rfl
  obtain ⟨t2, B, hst, -⟩ := setTile_state ht1 (st := .ready) rfl (n := m.tile) htile true
  obtain ⟨t', ht', htab, hmem⟩ := endMcast_tiles (s := (setTile _ u m.tile .ready true).modMcast m.id
    (fun m => { m with receivers := m.receivers.filter (fun y => y != (u, core)) })) B.found m.id
  have hx : exec (.mcastDeliveryComplete m.id core) s = finish (endMcast ((setTile (s.modTeam u (fun x => x.putBytes
      (x.shape m.tile).base ((m.ias.flatMap (fun ia => cread m.data ia 64)).take m.ext))) u m.tile .ready true).modMcast m.id
      (fun m => { m with receivers := m.receivers.filter (fun y => y != (u, core)) })) m.id) := by
    have hgo : (!m.allLeft || !((s.team? u).map (fun t => t.st == .running || t.st == .ending)).getD false) = false := by
      simp [hall, ht, hrun]
    change finish _ = _
    simp only [hm, hrecv, hgo, Bool.false_eq_true, if_false]
    rfl
  have hlen : ((m.ias.flatMap (fun ia => cread m.data ia 64)).take m.ext).length = m.ext := by
    simpa [List.length_flatMap, Nat.mul_comm] using hext
  refine ⟨_, t', hx.trans (finish_awake (endMcast_awake (by exact B.awake hs) _)), ht', ?_, ?_⟩
  · rw [tile_congr htab, hst]
  · rw [hmem, B.fixed.2.2.2.1]
    exact cread_memPut _ _ hlen

/-! ### A tile filled on arming is whole -/

theorem execMcastDeliveryComplete_arming {o : EngOp} {h : Hdr} {n : Fin 32} {key : Option (BitVec 512)} {tr : Beat → Trans}
    {bs : List Beat} (hs : Awake s) (hnone : s.mcasts = []) (hop : s.op? o.id = some o) (hins : o.ins = .tarm h n)
    (htiles : o.tiles = [n.val]) (ht : s.team? o.team = some t) (hrun : opRuns s o = true) (hlen : t.ttab.length = 32)
    (hbs : withIas (runBeats (o.arg 0) (o.arg 1) (t.shape n.val).base) o.ias = bs)
    (S : Streamed s t.space .load key (bs.drop o.pos) tr) (A : Apart (bs.drop o.pos)) :
    ∃ s' t', exec (.mcastDeliveryComplete o.id t.core) s = .next s' ∧ s'.team? o.team = some t' ∧ (t'.tile n.val).st = .ready ∧
      s'.op? o.id = none ∧ Filled s t t' (bs.drop o.pos) tr := by
  obtain ⟨s1, t1, hbeats, R, hframe, ht1, hsame, F⟩ := runBeatsOf_fills ht S A
  have hn : n.val < t1.ttab.length := by rw [hsame]; exact lt_of_lt_of_eq n.isLt hlen.symm
  obtain ⟨t2, ht2, hst, hmem, hgone, hframe2⟩ := readied (n := n.val) (copyIn := true) ht1 hn (f := id)
    (fun s t ht => ⟨t, .refl ht, rfl⟩) o.id
  have hmc : s.mcast? o.id = none := by rw [State.mcast?, hnone]; rfl
  have hx : exec (.mcastDeliveryComplete o.id t.core) s = finish (setTile (s1.dropOp o.id) o.team n.val .ready true) := by
    change finish _ = _
    simp [hmc, hop, ht, hins, isTarm, hrun, htiles, hbs, hbeats]
  refine ⟨_, t2, hx.trans (finish_awake ?_), ht2, hst, hgone, fun e he => ?_, fun x hx => ?_⟩
  · rw [id] at hframe2
    rw [hframe2]
    exact R.awake hs
  · rw [hmem]
    exact F.1 e he
  · rw [hmem]
    exact F.2 x hx

end
end Sys2Proof.Machine
end

section
/-! SUPPORT. O24: the beats of a multicast leave their slices (R71, R345, R350, R352). -/

namespace Sys2Proof.Machine

theorem lineFirst_le {m : Mcast} {k : Nat} (hk : k < m.ias.length) : m.lineFirst k ≤ k :=
  not_lt.mp fun hlt => (lineFirst_spec hk).2.2 k hlt rfl

/-! ### Beats of one line, R350, R352 -/

section
variable {s : State} {space : Nat}

theorem physKey_add (s : State) (home a b : Nat) : physKey s home (a + b) = physKey s home a + b := by
  unfold physKey
  split <;> omega

theorem Warm.pa_eq {ia : Nat} {need : Need} {lane : Bool} {tr : Trans} (W : Warm s space ia need lane tr) {e : TEntry}
    (he : cached s space ia = some e) : tr.pa = physKey s (if leafNode e.leaf then leafHome e.leaf else s.pkg.val) (leafFrame e.leaf) +
      (if e.big then ia % 2 ^ 21 else ia % 65536) := by
  have h := W.look
  simp only [lookup, he, leafCheck] at h
  split at h
  · cases h
  · split at h
    · cases h
    · split at h
      · cases h
      · rw [← physKey_add]
        exact ((TransRes.ok.inj h) ▸ rfl)

/-- Two addresses of a line have one translation. -/
theorem warm_line {ia ia' : Nat} {need : Need} {lane : Bool} {tr tr' : Trans} (W : Warm s space ia need lane tr)
    (W' : Warm s space ia' need lane tr') (hline : ia / 128 = ia' / 128) : tr'.leaf = tr.leaf ∧ tr'.pa + ia = tr.pa + ia' := by
  obtain ⟨e, he⟩ := Option.isSome_iff_exists.mp W.hit
  have hpage : ∀ big, pageOf big ia' = pageOf big ia := by
    intro big
    unfold pageOf
    split <;> omega
  have he' : cached s space ia' = some e := by
    rw [← he, cached, cached]
    simp only [hpage]
  refine ⟨(W'.leaf_eq he').trans (W.leaf_eq he).symm, ?_⟩
  have hoff : (if e.big then ia' % 2 ^ 21 else ia' % 65536) + ia = (if e.big then ia % 2 ^ 21 else ia % 65536) + ia' := by
    split <;> omega
  rw [W.pa_eq he, W'.pa_eq he']
  omega

/-- One byte of a line as a sector's slices give it. -/
def sliceByte (s : State) (core space : Nat) (t : Trans) (ia k : Nat) : Byte :=
  (l1Find s (slicesOf (sectorOf core)) space (ia + k)).getD (deciphered s (ownerKey s space t.leaf) (t.pa + k))

theorem sliceBytes_eq (s : State) (core space ia n : Nat) (t : Trans) :
    sliceBytes s core space ia n t = (List.range n).map (sliceByte s core space t ia) := by
  refine List.ext_getElem (by simp [sliceBytes, pread]) fun j h h' => ?_
  simp [sliceBytes, pread, sliceByte]

/-- A run of bytes of a line, at two addresses of it. -/
theorem sliceByte_line {core ia ia' : Nat} {need : Need} {lane : Bool} {tr tr' : Trans} (W : Warm s space ia need lane tr)
    (W' : Warm s space ia' need lane tr') (hline : ia / 128 = ia' / 128) {k k' : Nat} (hk : ia + k = ia' + k') :
    sliceByte s core space tr ia k = sliceByte s core space tr' ia' k' := by
  obtain ⟨hleaf, hpa⟩ := warm_line W W' hline
  rw [sliceByte, sliceByte, hk, hleaf, show tr.pa + k = tr'.pa + k' by omega]

end

/-! ### A multicast that nothing has joined, R71 -/

/-- A beat leaves with its bytes. -/
def Mcast.leave (m : Mcast) (k mesh ia : Nat) (bs : List Byte) : Mcast :=
  { m with left := m.left ++ [(k, mesh)], data := memPut m.data ia bs }

section
variable {s : State} {m : Mcast}

/-- The only multicast, which nothing has joined, and whose operation runs. -/
structure Lone (s : State) (m : Mcast) : Prop where
  only : s.mcasts = [m]
  free : m.merged = []

theorem Lone.found (h : Lone s m) : s.mcast? m.id = some m := by simp [State.mcast?, h.only]

theorem Lone.joined (h : Lone s m) (op : Nat) (isOp : Bool) : m.joined op isOp = none := by simp [Mcast.joined, h.free]

theorem Lone.through (h : Lone s m) (op k ia : Nat) : through s op k ia = none := by
  simp [Machine.through, h.only, h.joined]

theorem Lone.modMcast (h : Lone s m) (f : Mcast → Mcast) : s.modMcast m.id f = { s with mcasts := [f m] } := by
  simp [State.modMcast, h.only]

theorem Lone.performMerged (h : Lone s m) (k : Nat) : performMerged s m.id k = s := by
  unfold Machine.performMerged
  simp [h.found, h.joined]
  rw [h.modMcast, ← h.only]

/-- A beat can leave: it has not, and its slice's turn has come. -/
structure Ready (s : State) (m : Mcast) (k : Nat) : Prop extends Lone s m where
  stays : m.hasLeft k = false
  due : ¬ s.mesh < m.due k

theorem leaveBeat_follows {k : Nat} (R : Ready s m k) (hline : m.lineFirst k ≠ k) (hfirst : m.hasLeft (m.lineFirst k) = true) :
    leaveBeat m.id k s = { s with
      mcasts := [m.leave k s.mesh ((m.ias[k]?).getD 0) (cread m.data ((m.ias[k]?).getD 0) 64)] } := by
  have hgo : s.modMcast m.id (fun x => x.leave k s.mesh ((m.ias[k]?).getD 0) (cread m.data ((m.ias[k]?).getD 0) 64)) =
      { s with mcasts := [m.leave k s.mesh ((m.ias[k]?).getD 0) (cread m.data ((m.ias[k]?).getD 0) 64)] } := R.modMcast _
  have hmerged := Lone.performMerged (s := { s with
    mcasts := [m.leave k s.mesh ((m.ias[k]?).getD 0) (cread m.data ((m.ias[k]?).getD 0) 64)] }) ⟨rfl, R.free⟩ k
  have hne : (m.lineFirst k != k) = true := by simpa using hline
  unfold leaveBeat
  simp only [R.found, R.stays, R.through, R.due, hne, hfirst, if_true, Bool.false_eq_true, if_false]
  refine Eq.trans ?_ hmerged
  rw [← hgo]
  rfl

theorem leaveBeat_first {k : Nat} {o : EngOp} {t : Team} {tr : Trans} (R : Ready s m k) (hline : m.lineFirst k = k)
    (hop : s.op? m.op = some o) (ht : s.team? o.team = some t)
    (W : Warm s m.space ((m.ias[k]?).getD 0) .load false tr) {n : Nat}
    (hn : n = 64 * (m.ias.filter (fun x => x / 128 == (m.ias[k]?).getD 0 / 128)).length) (hc : corrupt s tr.pa n = false) :
    leaveBeat m.id k s = { countTranslation s m.space ((m.ias[k]?).getD 0) tr tr.leaf with
      mcasts := [m.leave k s.mesh ((m.ias[k]?).getD 0) (sliceBytes s t.core m.space ((m.ias[k]?).getD 0) n tr)] } := by
  have htr := translateFor_warm W (n := n) (.inr hc)
  have hframe := countTranslation_frame s m.space ((m.ias[k]?).getD 0) tr tr.leaf
  have hbytes := (ReadsAs.count W).sliceBytes t.core m.space ((m.ias[k]?).getD 0) n tr
  generalize countTranslation s m.space ((m.ias[k]?).getD 0) tr tr.leaf = s1 at htr hframe hbytes ⊢
  have hmesh : s1.mesh = s.mesh := by
    rw [hframe]
    rfl
  have hlone : Lone s1 m := ⟨by rw [hframe]; exact R.only, R.free⟩
  have hgo := hlone.modMcast fun x => x.leave k s1.mesh ((m.ias[k]?).getD 0) (sliceBytes s1 t.core m.space ((m.ias[k]?).getD 0) n tr)
  have hmerged := Lone.performMerged (s := { s1 with mcasts :=
    [m.leave k s1.mesh ((m.ias[k]?).getD 0) (sliceBytes s1 t.core m.space ((m.ias[k]?).getD 0) n tr)] }) ⟨rfl, R.free⟩ k
  rw [hmesh, hbytes] at hgo hmerged
  have hsame : (m.lineFirst k != k) = false := by simpa using hline
  unfold leaveBeat
  simp only [R.found, R.stays, R.through, R.due, hsame, Bool.false_eq_true, if_false, hop, ht, Option.map_some, Option.getD_some]
  rw [← hn, htr]
  refine Eq.trans ?_ hmerged
  rw [← hgo, ← hmesh, ← hbytes]
  rfl

end

/-! ### A window whose beats all translate, R71 -/

section
variable {s0 s : State} {m0 m : Mcast} {core ia0 N k : Nat} {tr : Nat → Trans}

/-- The beats of a multicast follow each other, 64 bytes apart, and all of them translate. -/
structure Spread (s : State) (m : Mcast) (tr : Nat → Trans) (ia0 N : Nat) : Prop where
  aligned : ia0 % 64 = 0
  ias : m.ias = (List.range N).map (fun k => ia0 + 64 * k)
  warm : ∀ k < N, Warm s m.space (ia0 + 64 * k) .load false (tr (ia0 + 64 * k))
  sound : ∀ k < N, corrupt s (tr (ia0 + 64 * k)).pa 64 = false

theorem Spread.length (P : Spread s m tr ia0 N) : m.ias.length = N := by simp [P.ias]

theorem Spread.beat (P : Spread s m tr ia0 N) (hk : k < N) : (m.ias[k]?).getD 0 = ia0 + 64 * k := by simp [P.ias, hk]

theorem Spread.lineOf (P : Spread s m tr ia0 N) (hk : k < N) : m.lineOf k = (ia0 + 64 * k) / 128 := by rw [Mcast.lineOf, P.beat hk]

/-- The beats of a line whose first beat is k. -/
def lineEnd (ia0 N k : Nat) : Nat := min N (k + (128 - (ia0 + 64 * k) % 128) / 64)

/-- The beats of the line of its first beat k are those from k on. -/
theorem Spread.line_iff (P : Spread s m tr ia0 N) (hk : k < N) (hfirst : m.lineFirst k = k) {j : Nat} (hj : j < N) :
    (ia0 + 64 * j) / 128 = (ia0 + 64 * k) / 128 ↔ k ≤ j ∧ j < lineEnd ia0 N k := by
  have ha := P.aligned
  have hnone : ∀ i < k, (ia0 + 64 * i) / 128 ≠ (ia0 + 64 * k) / 128 := by
    intro i hi
    have h := (lineFirst_spec (m := m) (k := k) (by rwa [P.length])).2.2 i (by rwa [hfirst])
    rwa [P.lineOf (lt_trans hi hk), P.lineOf hk] at h
  unfold lineEnd
  constructor
  · intro h
    have hkj : k ≤ j := not_lt.mp fun hlt => hnone j hlt h
    omega
  · omega

/-- As many bytes are read as the beats of the line hold. -/
theorem Spread.line_count (P : Spread s m tr ia0 N) (hk : k < N) (hfirst : m.lineFirst k = k) :
    (m.ias.filter (fun x => x / 128 == (m.ias[k]?).getD 0 / 128)).length = lineEnd ia0 N k - k := by
  have hcard : (Finset.range N).filter (fun j => (ia0 + 64 * j) / 128 = (ia0 + 64 * k) / 128) = Finset.Ico k (lineEnd ia0 N k) := by
    ext j
    simp only [Finset.mem_filter, Finset.mem_range, Finset.mem_Ico]
    constructor
    · rintro ⟨hj, h⟩
      exact (P.line_iff hk hfirst hj).mp h
    · rintro ⟨hkj, hje⟩
      have hj : j < N := lt_of_lt_of_le hje (Nat.min_le_left ..)
      exact ⟨hj, (P.line_iff hk hfirst hj).mpr ⟨hkj, hje⟩⟩
  rw [P.beat hk, P.ias, List.filter_map, List.length_map, ← Nat.card_Ico, ← hcard]
  rfl

theorem Spread.line_sound (P : Spread s m tr ia0 N) (hk : k < N) (hfirst : m.lineFirst k = k) :
    corrupt s (tr (ia0 + 64 * k)).pa (64 * (lineEnd ia0 N k - k)) = false := by
  rw [corrupt, List.any_eq_false]
  intro b hb hin
  simp only [Bool.and_eq_true, decide_eq_true_eq] at hin
  obtain ⟨hlo, hhi⟩ := hin
  have hj : k + (b - (tr (ia0 + 64 * k)).pa) / 64 < lineEnd ia0 N k := by omega
  have hjN : k + (b - (tr (ia0 + 64 * k)).pa) / 64 < N := lt_of_lt_of_le hj (Nat.min_le_left ..)
  have hline := (P.line_iff hk hfirst hjN).mpr ⟨Nat.le_add_right .., hj⟩
  obtain ⟨-, hpa⟩ := warm_line (P.warm k hk) (P.warm _ hjN) hline.symm
  have hno := List.any_eq_false.mp (P.sound _ hjN) b hb
  simp only [Bool.and_eq_true, decide_eq_true_eq] at hno
  omega

/-- After a line's first beat has left, the data of its beats are what their slices give. -/
theorem Spread.first_data (P : Spread s m tr ia0 N) (hk : k < N) (hfirst : m.lineFirst k = k) (core : Nat) (data : Cells 8) {j : Nat}
    (hj : j < N) : cread (memPut data (ia0 + 64 * k)
      (sliceBytes s core m.space (ia0 + 64 * k) (64 * (lineEnd ia0 N k - k)) (tr (ia0 + 64 * k)))) (ia0 + 64 * j) 64 =
      if k ≤ j ∧ j < lineEnd ia0 N k then sliceBytes s core m.space (ia0 + 64 * j) 64 (tr (ia0 + 64 * j)) else cread data (ia0 + 64 * j) 64 := by
  have hbyte : ∀ x, cget (memPut data (ia0 + 64 * k) (sliceBytes s core m.space (ia0 + 64 * k) (64 * (lineEnd ia0 N k - k))
      (tr (ia0 + 64 * k)))) (ia0 + 64 * j + x) = if 64 * k ≤ 64 * j + x ∧ 64 * j + x < 64 * k + 64 * (lineEnd ia0 N k - k)
        then sliceByte s core m.space (tr (ia0 + 64 * k)) (ia0 + 64 * k) (64 * j + x - 64 * k)
        else cget data (ia0 + 64 * j + x) := by
    intro x
    rw [cget_memPut, sliceBytes_eq, List.length_map, List.length_range]
    by_cases hin : 64 * k ≤ 64 * j + x ∧ 64 * j + x < 64 * k + 64 * (lineEnd ia0 N k - k)
    · have hlt : 64 * j + x - 64 * k < 64 * (lineEnd ia0 N k - k) := by omega
      rw [if_pos hin, if_pos (by omega), show ia0 + 64 * j + x - (ia0 + 64 * k) = 64 * j + x - 64 * k by omega]
      simp [hlt]
    · rw [if_neg hin, if_neg (by omega)]
  split
  next hin =>
    have hline := (P.line_iff hk hfirst hj).mpr hin
    rw [sliceBytes_eq s core m.space (ia0 + 64 * j) 64]
    refine List.map_congr_left fun x hx => ?_
    have hx := List.mem_range.mp hx
    rw [hbyte, if_pos (by omega)]
    exact sliceByte_line (P.warm k hk) (P.warm j hj) hline.symm (by omega)
  next hout =>
    refine List.map_congr_left fun x hx => ?_
    have hx := List.mem_range.mp hx
    rw [hbyte, if_neg (by omega)]

/-- The beats before k have left, and their lines' data are what the slices give; nothing else has changed. -/
structure Leaving (s0 : State) (m0 : Mcast) (core : Nat) (tr : Nat → Trans) (ia0 N k : Nat) (s : State) (m : Mcast) : Prop where
  reads : ReadsAs s0 s
  frame : s = { s0 with tcache := s.tcache, mcasts := [m] }
  same : m = { m0 with left := m.left, data := m.data }
  left : ∀ j, m.hasLeft j = true ↔ j < k
  data : ∀ j < N, m0.lineFirst j < k →
    cread m.data (ia0 + 64 * j) 64 = sliceBytes s0 core m0.space (ia0 + 64 * j) 64 (tr (ia0 + 64 * j))

theorem hasLeft_leave (m : Mcast) (k mesh ia : Nat) (bs : List Byte) (j : Nat) :
    (m.leave k mesh ia bs).hasLeft j = true ↔ m.hasLeft j = true ∨ j = k := by
  simp [Mcast.hasLeft, Mcast.leave, eq_comm (a := k)]

theorem cread_memPut_self (data : Cells 8) (a n b k : Nat) : cread (memPut data a (cread data a n)) b k = cread data b k := by
  refine List.map_congr_left fun x _ => ?_
  rw [cget_memPut, cread_length]
  split
  next hin =>
    have hlt : b + x - a < n := by omega
    simp [cread, hlt, show a + (b + x - a) = b + x by omega]
  next => rfl

theorem Leaving.spread (P : Spread s0 m0 tr ia0 N) (L : Leaving s0 m0 core tr ia0 N k s m) : Spread s m tr ia0 N where
  aligned := P.aligned
  ias := by rw [L.same]; exact P.ias
  warm j hj := by rw [L.same]; exact (P.warm j hj).as L.reads.maps
  sound j hj := (L.reads.corrupt _ _).trans (P.sound j hj)

theorem Leaving.lineFirst (L : Leaving s0 m0 core tr ia0 N k s m) (j : Nat) : m.lineFirst j = m0.lineFirst j := by
  rw [L.same]
  rfl

theorem Leaving.ready (hfree : m0.merged = []) (hmesh : m0.opened + 64 + N ≤ s0.mesh)
    (L : Leaving s0 m0 core tr ia0 N k s m) (hk : k < N) : Ready s m k where
  only := by rw [L.frame]
  free := by rw [L.same]; exact hfree
  stays := by
    rw [Bool.eq_false_iff, ne_eq, L.left]
    exact lt_irrefl k
  due := by
    have hnow : s.mesh = s0.mesh := by
      rw [L.frame]
      rfl
    have hopened : m.opened = m0.opened := by rw [L.same]
    have hturn := List.countP_le_length (l := m.homes.take k) (p := fun h => h == (m.homes[k]?).getD 0)
    rw [List.length_take] at hturn
    rw [Mcast.due, hnow, hopened]
    omega

/-- One more beat has left, with the right data. -/
theorem Leaving.leave (L : Leaving s0 m0 core tr ia0 N k s m) {s' : State} {mesh : Nat} {bs : List Byte} (R : ReadsAs s s')
    (hframe : s' = { s with tcache := s'.tcache, mcasts := [m.leave k mesh (ia0 + 64 * k) bs] })
    (hdata : ∀ j < N, m0.lineFirst j ≤ k → cread (memPut m.data (ia0 + 64 * k) bs) (ia0 + 64 * j) 64 =
      sliceBytes s0 core m0.space (ia0 + 64 * j) 64 (tr (ia0 + 64 * j))) :
    Leaving s0 m0 core tr ia0 N (k + 1) s' (m.leave k mesh (ia0 + 64 * k) bs) where
  reads := L.reads.trans R
  frame := by rw [hframe, L.frame]
  same := by
    rw [L.same]
    rfl
  left j := by
    rw [hasLeft_leave, L.left]
    omega
  data j hj hline := hdata j hj (Nat.lt_succ_iff.mp hline)

/-- The first beat of a line leaves, with what its slices hold. -/
theorem Leaving.step_first (P : Spread s0 m0 tr ia0 N) {o : EngOp} {t : Team} (hop : s0.op? m0.op = some o)
    (ht : s0.team? o.team = some t) (L : Leaving s0 m0 t.core tr ia0 N k s m) (hk : k < N) (R : Ready s m k)
    (hfirst : m.lineFirst k = k) : ∃ m', Leaving s0 m0 t.core tr ia0 N (k + 1) (leaveBeat m.id k s) m' := by
  have P' := L.spread P
  have hbeat := P'.beat hk
  have hop' : s.op? m.op = some o := by
    rw [L.frame, L.same]
    exact hop
  have ht' : s.team? o.team = some t := by
    rw [L.frame]
    exact ht
  have W := P'.warm k hk
  have hleave := leaveBeat_first (n := 64 * (lineEnd ia0 N k - k)) (tr := tr (ia0 + 64 * k)) R hfirst hop' ht'
    (by rw [hbeat]; exact W) (by rw [P'.line_count hk hfirst]) (P'.line_sound hk hfirst)
  rw [hbeat] at hleave
  rw [hleave]
  refine ⟨_, L.leave ((ReadsAs.count W).trans (.of_frame rfl)) (by rw [countTranslation_frame]) fun j hj hline => ?_⟩
  rw [P'.first_data hk hfirst t.core m.data hj]
  split
  next => rw [L.reads.sliceBytes, show m.space = m0.space by rw [L.same]]
  next hout =>
    refine L.data j hj (hline.lt_of_ne fun heq => hout ?_)
    have hone := (lineFirst_spec (m := m) (k := j) (by rwa [P'.length])).2.1
    rw [L.lineFirst, heq, P'.lineOf hk, P'.lineOf hj] at hone
    exact (P'.line_iff hk hfirst hj).mp hone.symm

/-- Another beat of a line leaves, with what was read as the first did. -/
theorem Leaving.step_follows (P : Spread s0 m0 tr ia0 N) (L : Leaving s0 m0 core tr ia0 N k s m) (hk : k < N) (R : Ready s m k)
    (hfirst : m.lineFirst k ≠ k) : ∃ m', Leaving s0 m0 core tr ia0 N (k + 1) (leaveBeat m.id k s) m' := by
  have P' := L.spread P
  have hbefore := (lineFirst_le (m := m) (k := k) (by rwa [P'.length])).lt_of_ne hfirst
  have hleave := leaveBeat_follows R hfirst ((L.left _).mpr hbefore)
  rw [P'.beat hk] at hleave
  rw [hleave]
  refine ⟨_, L.leave (.of_frame rfl) rfl fun j hj hline => ?_⟩
  rw [cread_memPut_self]
  refine L.data j hj (hline.lt_of_ne fun heq => hfirst ?_)
  rw [L.lineFirst, ← heq]
  exact lineFirst_lineFirst (by rwa [P.length])

/-- A beat whose turn has come leaves. -/
theorem Leaving.step (P : Spread s0 m0 tr ia0 N) (hfree : m0.merged = []) (hmesh : m0.opened + 64 + N ≤ s0.mesh) {o : EngOp} {t : Team}
    (hop : s0.op? m0.op = some o) (ht : s0.team? o.team = some t) (L : Leaving s0 m0 t.core tr ia0 N k s m) (hk : k < N) :
    ∃ m', Leaving s0 m0 t.core tr ia0 N (k + 1) (leaveBeat m0.id k s) m' := by
  have R := L.ready hfree hmesh hk
  rw [show m0.id = m.id by rw [L.same]]
  by_cases hfirst : m.lineFirst k = k
  · exact L.step_first P hop ht hk R hfirst
  · exact L.step_follows P hk R hfirst

/-- All beats leave in their turn. -/
theorem Leaving.run (P : Spread s0 m0 tr ia0 N) (hfree : m0.merged = []) (hmesh : m0.opened + 64 + N ≤ s0.mesh) {o : EngOp} {t : Team}
    (hop : s0.op? m0.op = some o) (ht : s0.team? o.team = some t) (L : Leaving s0 m0 t.core tr ia0 N 0 s m) (hk : k ≤ N) :
    ∃ m', Leaving s0 m0 t.core tr ia0 N k ((List.range k).foldl (fun s k => leaveBeat m0.id k s) s) m' := by
  induction k with
  | zero => exact ⟨m, L⟩
  | succ k ih =>
    obtain ⟨m1, L1⟩ := ih (Nat.le_of_succ_le hk)
    rw [List.range_succ, List.foldl_append]
    exact L1.step P hfree hmesh hop ht hk

end

/-! ### The end of the window -/

section
variable {s : State} {m : Mcast}

/-- A multicast with masked cores still to be served goes on. -/
theorem endMcast_masked (hm : s.mcast? m.id = some m) (hmask : m.mask ≠ 0) : endMcast s m.id = s := by
  have hserved : (m.mask == 0) = false := by simpa using hmask
  unfold endMcast
  simp only [hm, hserved, Bool.and_false, Bool.false_and, Bool.false_eq_true, if_false]

theorem Lone.leaveMerges (h : Lone s m) (hmask : m.mask ≠ 0) (op : Nat) : leaveMerges s op = s := by
  have hrest : s.mcasts.map (fun (m : Mcast) => { m with merged := m.merged.filter (fun x => !(x.isOp && x.op == op)) }) = [m] := by
    rw [h.only, List.map_singleton, h.free, List.filter_nil, ← h.free]
  have hstand : { s with mcasts := [m] } = s := by rw [← h.only]
  unfold Machine.leaveMerges
  rw [hrest]
  dsimp only
  rw [hstand]
  exact endMcast_masked h.found hmask

theorem execMergeWindowClose_leaves {o : EngOp} {t : Team} {tr : Nat → Trans} {ia0 N : Nat} (hs : Awake s) (h : Lone s m)
    (hleft : m.left = []) (hmask : m.mask ≠ 0) (hmesh : m.opened + 64 + N ≤ s.mesh) (hop : s.op? m.op = some o)
    (ht : s.team? o.team = some t) (hrun : opRuns s o = true) (P : Spread s m tr ia0 N) :
    ∃ s' m', exec (.mergeWindowClose m.id) s = .next s' ∧ s'.mcasts = [m'] ∧ m'.mask = m.mask ∧ m'.allLeft = true ∧
      s'.mem = s.mem ∧ ∀ k < N, cread m'.data (ia0 + 64 * k) 64 =
        sliceBytes s t.core m.space (ia0 + 64 * k) 64 (tr (ia0 + 64 * k)) := by
  have L0 : Leaving s m t.core tr ia0 N 0 s m :=
    ⟨.refl s, by rw [← h.only], rfl, fun j => by simp [Mcast.hasLeft, hleft], fun j _ hj => absurd hj (Nat.not_lt_zero _)⟩
  obtain ⟨m', L⟩ := L0.run P h.free hmesh hop ht le_rfl
  have hlone : Lone ((List.range N).foldl (fun s k => leaveBeat m.id k s) s) m' := ⟨by rw [L.frame], by rw [L.same]; exact h.free⟩
  have hmask' : m'.mask = m.mask := by rw [L.same]
  have hid : m'.id = m.id := by rw [L.same]
  have hlen : m'.ias.length = N := (L.spread P).length
  have hall : m'.allLeft = true := by
    rw [Mcast.allLeft, List.all_eq_true]
    intro j hj
    exact (L.left j).mpr (by simpa [hlen] using hj)
  have hx : exec (.mergeWindowClose m.id) s = finish ((List.range N).foldl (fun s k => leaveBeat m.id k s) s) := by
    have hgo : (!((s.op? m.op).map (opRuns s)).getD false) = false := by simp [hop, hrun]
    have hend := endMcast_masked hlone.found (by rwa [hmask'])
    have hmerges := hlone.leaveMerges (by rwa [hmask']) m.op
    have hfound := hlone.found
    rw [hid] at hend hfound
    change finish _ = _
    simp only [h.found, hgo, Bool.false_eq_true, if_false, P.length, hfound, Option.map_some, Option.getD_some, hall, if_true, hmerges,
      hend]
  refine ⟨_, m', hx.trans (finish_awake (L.reads.awake hs)), hlone.only, hmask', hall, L.reads.mem, fun k hk => ?_⟩
  exact L.data k hk ((lineFirst_le (m := m) (by rwa [P.length])).trans_lt hk)

end

/-- Settles O24: an MCAST leaves, its window opens, requests join it, and its beats leave in turn, the first of each line with what its
slices hold (`Leaving.run`); each masked core starts to fill or keeps the delivery, and a whole one is READY. -/
theorem multicastsRun : Obligations.MulticastsRun := by
  unfold Obligations.MulticastsRun
  refine ⟨⟨?_, ?_, ?_⟩, ?_, ?_, ?_, ?_, ?_, ?_⟩
  · intro s h is t k w l n a b G one act hclean hreq hgrant hok halign hmask hranged
    obtain ⟨ias, hias⟩ := checkBeats_ranged hranged
    exact execMcast_begins G one act hclean hreq hgrant hok halign hmask hias
  · intro s o h n a b t hs hop hins ht hrun hnone
    exact ⟨_, _, execMcastRequestArrival_opens hs hop hins ht hrun hnone, rfl, rfl, rfl, rfl, rfl, rfl, rfl, rfl,
      BitVec.toNat_ofNat .., rfl, rfl, rfl, rfl⟩
  · intro s h is t k w l n G one act hlen hok hst
    exact ⟨fun hpend => execTarm_arms G one act hlen hok hst hpend,
      fun p hpend hext hranged => execTarm_fills G one act hlen hok hst hpend hext hranged⟩
  · intro s m o t h cm n ad b hs hm hfree hop hins hne ht hrun hspace hsector hwait
    obtain ⟨s', hx, hm'⟩ := execMergeRequestArrival_copy hs hm hfree hop hins hne ht hrun hspace hsector hwait
    exact ⟨s', copyMerged m t o, hx, hm', rfl, rfl, rfl, fun k => mem_left_coveredBeats⟩
  · intro s m a t j hs hm hop hacc hload hscope hmov ht hspace hsector hbeat hwait hfree
    exact execMergeRequestArrival_read hs hm hop hacc hload hscope hmov ht hspace hsector hbeat hwait hfree
  · intro s m o t tr ia0 n hs honly hleft hfree hmask hmesh hop ht hrun haligned hias htrans
    have hmem : ∀ k < n, ia0 + 64 * k ∈ m.ias := fun k hk => by
      rw [hias]
      exact List.mem_map_of_mem (List.mem_range.mpr hk)
    have P : Spread s m tr ia0 n := ⟨haligned, hias, fun k hk => (htrans _ (hmem k hk)).1, fun k hk => (htrans _ (hmem k hk)).2⟩
    rw [P.length] at hmesh
    obtain ⟨s', m', hx, hm', hmask', hall, hstand, hdata⟩ :=
      execMergeWindowClose_leaves hs ⟨honly, hfree⟩ hleft hmask hmesh hop ht hrun P
    refine ⟨s', m', hx, hm', hmask', hall, hstand, fun ia hia => ?_⟩
    rw [hias] at hia
    obtain ⟨k, hk, rfl⟩ := List.mem_map.mp hia
    exact hdata k (List.mem_range.mp hk)
  · intro s m core t hs hm hleft hsector hmask hrecv ht hlen htile
    have htile' : m.tile < t.ttab.length := by rwa [hlen]
    refine ⟨fun hst harm hok hext => ?_, fun hst hpend => ?_⟩
    · exact execMcastFirstBeatArrival_fills hs hm hleft hsector hmask hrecv ht htile' (by simp [armedFor, hst, harm, hok, hext])
    · exact execMcastFirstBeatArrival_keeps hs hm hleft hsector hmask hrecv ht htile' hst hpend
  · intro s m core u t hs hm hrecv hall ht hrun hlen htile hext
    exact execMcastDeliveryComplete_readies hs hm hrecv hall ht hrun (by rwa [hlen]) hext
  · rintro s o h n t key tr bs hs hnone hop hins htiles ht hrun hlen rfl S A
    exact execMcastDeliveryComplete_arming hs hnone hop hins htiles ht hrun hlen rfl S A

end Sys2Proof.Machine
end

section
/-! SUPPORT. O10: PHASE, a lane that it holds back, and the phase numbers that teams exchange (R84, R85, R184). -/

namespace Sys2Proof.Machine

/-! ### A group's course by another body -/

/-- Two bodies that do the same to the lanes of a group are one course. -/
theorem issueWith_congr {s : State} {i : Instr} {h : Hdr} {is : Issue} {t : Team} (G : Issuing s i h is t)
    {b b' : State → List Lc → State × List ((Nat × Nat) × LaneRes)}
    (hb : b (s.seen t is) (contexts h is t) = b' (s.seen t is) (contexts h is t)) :
    issueWith i h s (fun _ _ => none) b = issueWith i h s (fun _ _ => none) b' := by
  rw [issueWith_quiet G _ b (fun _ _ => rfl), issueWith_quiet G _ b' (fun _ _ => rfl), hb]

/-! ### Whether PHASE waits, R85 -/

section
variable {s : State} {h : Hdr} {is : Issue} {t : Team} {k : Nat × Nat} {w : Warp} {l : Lane} {scope : Scope}

theorem neighbourGone_seen (s : State) (t : Team) (is : Issue) (k : Nat) :
    neighbourGone (s.seen t is) (t.seen is) k = neighbourGone s t k := by
  have hteams : ((s.seen t is).teams.any fun u => u.inst == t.inst && u.t == k) = s.teams.any fun u => u.inst == t.inst && u.t == k := by
    unfold State.seen
    split
    · rfl
    · rw [State.modTeam, List.any_map]
      refine congrArg s.teams.any (funext fun u => ?_)
      dsimp only [Function.comp]
      split
      · rw [noBp_frame]
      · rfl
  rw [neighbourGone, seen_frame]
  dsimp only
  rw [hteams, seen_state]
  rfl

theorem phaseWaits_seen (s : State) (t : Team) (is : Issue) (n : Nat) :
    phaseWaits (s.seen t is) (t.seen is) n = phaseWaits s t n := by
  have hheard : leastHeard (s.seen t is) (t.seen is) = leastHeard s t := by
    unfold leastHeard
    simp only [neighbourGone_seen]
    rw [seen_frame]
    rfl
  rw [phaseWaits, phaseWaits, hheard, seen_frame]

/-- What PHASE asks of a lane of the group. -/
theorem Ctx.phaseWaits_eq {i : Instr} {c : Lc} (C : Ctx s i h is t c w l) :
    phaseWaits (s.seen t is) c.tm (c.l.phases.toNat + 1) = phaseWaits s t (l.phases.toNat + 1) := by
  have hcount : c.l.phases = l.phases := by
    rw [C.lane]
    split <;> rfl
  rw [C.team, phaseWaits_seen, hcount]

/-- A lane that would lead what was last heard by more than LEAD waits. -/
theorem phaseWaits_leads {m c : Nat} (hlead : 0 < t.desc.lead) (hm : leastHeard s t = some m) (hc : m + t.desc.lead < c) :
    phaseWaits s t c = true := by
  simp [phaseWaits, hlead, hm, hc]

/-! ### PHASE, R84, R184 -/

/-- A lane counts a phase, and its accesses in ORD order start afresh. -/
def countPhase (l : Lane) : Lane := { l with phases := l.phases + 1, ords := 0 }

/-- What PHASE does for a warp that it does not hold back. -/
def phaseOne (scope : Scope) (s : State) (c : Lc) : State × LaneRes :=
  match release s c.fence scope with
  | (s, .ok) => (s, .done { upd := countPhase })
  | (s, .wait) => (s, .wait .phase)
  | (s, .fault) => (s, .stay)

/-- Lanes of a group that PHASE holds back, and those that it lets pass. -/
def phaseBody (scope : Scope) (s : State) (cs : List Lc) : State × List ((Nat × Nat) × LaneRes) :=
  let r := foldWarps (phaseOne scope) s (cs.filter (fun c => !phaseWaits s c.tm (c.l.phases.toNat + 1)))
  (r.1, r.2 ++ (cs.filter (fun c => phaseWaits s c.tm (c.l.phases.toNat + 1))).map (fun c => ((c.wi, c.slot), LaneRes.wait .phase)))

theorem exec_phase (h : Hdr) (scope : Scope) (s : State) :
    exec (.phase h scope) s = finish (issueWith (.phase h scope) h s (fun _ _ => none) (phaseBody scope)) := rfl

/-- Where no active lane waits, PHASE acts once for each warp. -/
theorem exec_phase_free (G : Issuing s (.phase h scope) h is t)
    (hgo : ∀ k w l, Active t is h k w l → phaseWaits s t (l.phases.toNat + 1) = false) :
    exec (.phase h scope) s = perWarp (.phase h scope) h s (fun _ _ => none) (phaseOne scope) := by
  have hfree : ∀ c ∈ contexts h is t, phaseWaits (s.seen t is) c.tm (c.l.phases.toNat + 1) = false := by
    intro c hc
    obtain ⟨w, l, C⟩ := contexts_ctx G hc
    exact C.phaseWaits_eq.trans (hgo _ w l C.active)
  have hbody : phaseBody scope (s.seen t is) (contexts h is t) = foldWarps (phaseOne scope) (s.seen t is) (contexts h is t) := by
    unfold phaseBody
    rw [List.filter_eq_self.mpr fun c hc => by simp [hfree c hc], List.filter_eq_nil_iff.mpr fun c hc => by simp [hfree c hc]]
    simp
  rw [exec_phase, issueWith_congr G hbody]
  rfl

/-- A group of one active lane that PHASE holds back does nothing else. -/
theorem exec_phase_held (G : Issuing s (.phase h scope) h is t) (one : OneLane t is h k) (a : Active t is h k w l)
    (hheld : phaseWaits s t (l.phases.toNat + 1) = true) :
    exec (.phase h scope) s = pureLanes (.phase h scope) h s (fun _ => .wait .phase) := by
  obtain ⟨c, hc, -, -, C⟩ := contexts_one (s := s) (i := .phase h scope) one a
  have hwaits : phaseWaits (s.seen t is) c.tm (c.l.phases.toNat + 1) = true := C.phaseWaits_eq.trans hheld
  have hbody : phaseBody scope (s.seen t is) (contexts h is t) =
      foldLanes (fun s _ => (s, .wait .phase)) (s.seen t is) (contexts h is t) := by
    rw [hc, phaseBody, List.filter_eq_nil_iff.mpr (by simp [hwaits]), List.filter_eq_self.mpr (by simp [hwaits])]
    simp [foldWarps, foldLanes, C.team, untouched_seen G]
  rw [exec_phase, issueWith_congr G hbody]
  rfl

theorem execPhase_counts (G : Issuing s (.phase h scope) h is t) (one : OneWarp t is h k) (a : Active t is h k w l)
    (hclean : CleanSpace s t.space) (hgo : ∀ k w l, Active t is h k w l → phaseWaits s t (l.phases.toNat + 1) = false) :
    Completes (.phase h scope) s h is t (fun _ _ l _ l' => StandsAt is.after l l' ∧ l'.phases = l.phases + 1 ∧ l'.ords = 0) := by
  obtain ⟨c, C, -, hx⟩ := perWarp_acts G one a (pre := fun _ _ => none) (fun _ _ _ _ => rfl) (phaseOne scope)
  have hone : phaseOne scope (s.seen t is) c = (s.seen t is, .done { upd := countPhase }) := by
    rw [phaseOne, release_clean (seen_clean is hclean) (C.team? G)]
  refine ⟨_, (exec_phase_free G hgo).trans (hx _ _ hone (seen_awake G.awake t is) (.of_teams rfl) rfl), fun k w l a => ?_⟩
  obtain ⟨w', hw, hl⟩ := seen_active G (r := .done { upd := countPhase }) rfl a
  refine ⟨w', _, hw, hl, ?_⟩
  rw [laneWith_upd, passLane_frame, seenLane_frame]
  exact ⟨⟨rfl, rfl, rfl⟩, rfl, rfl⟩

theorem execPhase_waits (G : Issuing s (.phase h scope) h is t) (one : OneLane t is h k) (a : Active t is h k w l)
    (hheld : phaseWaits s t (l.phases.toNat + 1) = true) :
    ∃ s', exec (.phase h scope) s = .next s' ∧ WaitsIn s' t is h .phase :=
  ⟨_, (exec_phase_held G one a hheld).trans (pureLanes_all G (fun _ => .wait .phase) rfl fun _ _ _ _ => rfl), waitsIn_commit G .phase⟩

end

/-! ### Phase numbers, R85 -/

/-- The team has heard the phase number n of its neighbour k. -/
def Team.hears (k n : Nat) (t : Team) : Team := { t with heard := (k, n) :: t.heard.filter (fun x => x.1 != k) }

theorem execPhaseNumberExchange_heard {s : State} {u v : Nat} {t x : Team} {n : Nat} (hs : Awake s) (ht : s.team? u = some t)
    (hv : s.team? v = some x) (hinst : t.inst = x.inst) (hnear : x.t ∈ neighbours t) (hn : phaseNumber x = some n) :
    ∃ s' t', exec (.phaseNumberExchange u v) s = .next s' ∧ s'.team? u = some t' ∧ (x.t, n) ∈ t'.heard := by
  have hx : exec (.phaseNumberExchange u v) s =
      finish (if t.heard.contains (x.t, n) then s else s.modTeam u (Team.hears x.t n)) := by
    change finish _ = _
    simp only [ht, hv, hinst, hn, BEq.rfl, Bool.true_and, List.contains_iff_mem.mpr hnear, if_true]
    rfl
  rw [hx]
  split
  next hknown => exact ⟨s, t, finish_awake hs, ht, List.contains_iff_mem.mp hknown⟩
  next =>
    exact ⟨_, _, finish_awake hs, team?_modTeam_self ht (f := Team.hears x.t n) fun _ => rfl, List.mem_cons_self⟩

/-- Settles O10: a PHASE that no lane waits in is a release and one result for the warp; one that holds its lane is a wait alone;
and an exchange puts the neighbour's number among those heard. -/
theorem phaseCounts : Obligations.PhaseCounts := by
  unfold Obligations.PhaseCounts
  refine ⟨?_, ?_, ?_⟩
  · exact fun s h is t k w l scope G one a hclean hgo => execPhase_counts G one a hclean hgo
  · exact fun s h is t k w l scope m G one a hlead hm hc => execPhase_waits G one a (phaseWaits_leads hlead hm hc)
  · exact fun s u v t x n hs ht hv hinst hnear hn => execPhaseNumberExchange_heard hs ht hv hinst hnear hn

end Sys2Proof.Machine
end

section
/-! SUPPORT. O21: FENCE with nothing to write back, and PREF, which at most counts a translation (R88, R89, R231, R232). -/

namespace Sys2Proof.Machine

section
variable {s : State} {i : Instr} {h : Hdr} {is : Issue} {t : Team} {k : Nat × Nat} {w : Warp} {l : Lane} {scope : Scope} {hint : Hint}
  {ad : Addr}

/-! ### FENCE, R231 -/

/-- What FENCE does for a warp. -/
def fenceOne (scope : Scope) (s : State) (c : Lc) : State × LaneRes :=
  match release s c.fence scope with
  | (s, .ok) => (s, .done {})
  | (s, .wait) => (s, .wait .retry)
  | (s, .fault) => (s, .stay)

theorem exec_fence (h : Hdr) (scope : Scope) (s : State) :
    exec (.fence h scope) s = perWarp (.fence h scope) h s (fun _ _ => none) (fenceOne scope) := rfl

theorem execFence_goes (G : Issuing s (.fence h scope) h is t) (one : OneWarp t is h k) (a : Active t is h k w l)
    (hclean : CleanSpace s t.space) :
    ∃ s', exec (.fence h scope) s = .next s' ∧ GoesOn s' t is h ∧ s'.mem = s.mem ∧ s'.l1 = s.l1 := by
  obtain ⟨c, C, -, hx⟩ := perWarp_acts G one a (pre := fun _ _ => none) (fun _ _ _ _ => rfl) (fenceOne scope)
  have hone : fenceOne scope (s.seen t is) c = (s.seen t is, .done {}) := by
    rw [fenceOne, release_clean (seen_clean is hclean) (C.team? G)]
  rw [exec_fence]
  refine ⟨_, hx _ _ hone (seen_awake G.awake t is) (.of_teams rfl) rfl, goesOn_stand G (.of_teams rfl), ?_, ?_⟩
  · rw [commit_mem _ rfl, seen_state]
  · rw [commit_frame _ is (allDo_untrapped rfl), seen_state]

/-! ### PREF, R232 -/

theorem exec_pref (h : Hdr) (hint : Hint) (ad : Addr) (s : State) :
    exec (.pref h hint ad) s = perLane (.pref h hint ad) h s (fun s c => (prefOne hint ad s c, .done {})) := rfl

theorem prefOne_nothing {c : Lc} (hno : hint = .noalloc ∨ ad.base.isLatch = true ∨ srcOdd ad.base = true ∨
    srcBeyond c.tm.desc.win ad.base 2 = true) (s : State) : prefOne hint ad s c = s := by
  refine if_pos ?_
  simpa only [Bool.or_eq_true, beq_iff_eq, or_assoc] using hno

/-- An address that a range of the context allows. -/
theorem globalCheck_ok {space n : Nat} {ea : DWord} {need : Need} {c : Context} {ia : Nat} (hc : s.ctx? space = some c)
    (hok : globalCheck s space ea n need = .ok ia) : rangeCheck c ea need = .ok ia := by
  unfold globalCheck at hok
  rw [hc] at hok
  dsimp only at hok
  split at hok
  · cases hok
  · split at hok
    next => cases hok
    next hr =>
      obtain rfl := Except.ok.inj hok
      exact hr

/-- A prefetch whose translation stands changes at most the count of a translation. -/
theorem prefOne_warm {c : Lc} {x : Context} (hx : s.ctx? c.space = some x)
    (hwarm : ∀ ia, rangeCheck x (c.ea ad) .load = .ok ia → ∃ tr, Warm s c.space ia .load false tr) :
    ∃ tc, prefOne hint ad s c = { s with tcache := tc } := by
  unfold prefOne
  split
  · exact ⟨_, rfl⟩
  · split
    next => exact ⟨_, rfl⟩
    next ia hok =>
      obtain ⟨tr, W⟩ := hwarm ia (globalCheck_ok hx hok)
      rw [translate_warm W]
      exact ⟨_, countTranslation_frame ..⟩

theorem Ctx.ea {c : Lc} (G : Issuing s i h is t) (C : Ctx s i h is t c w l) (hsrc : (ad.base, 2) ∈ (info i).srcs) :
    c.ea ad = eaOf w l ad := by
  rw [Lc.ea, C.pair G ad.base 2 hsrc, eaOf]

/-- What translates stands on the state that the group's instruction finds. -/
theorem MapsAs.seen (s : State) (t : Team) (is : Issue) : MapsAs s (s.seen t is) := by
  rw [seen_state]
  exact .of_eq rfl rfl rfl rfl rfl

/-- A lane whose prefetch does nothing, or counts a translation. -/
theorem Ctx.prefOne_keeps {c : Lc} (G : Issuing s (.pref h hint ad) h is t) (C : Ctx s (.pref h hint ad) h is t c w l)
    (hcase : hint = .noalloc ∨ ∃ x, s.ctx? t.space = some x ∧ ∀ ia, rangeCheck x (eaOf w l ad) .load = .ok ia →
      ∃ tr, Warm s t.space ia .load false tr) : ∃ tc, prefOne hint ad (s.seen t is) c = { s.seen t is with tcache := tc } := by
  obtain hno | ⟨x, hx, hwarm⟩ := hcase
  · exact ⟨_, prefOne_nothing (.inl hno) _⟩
  · have hspace : c.space = t.space := by rw [Lc.space, C.team, seen_frame]
    refine prefOne_warm (x := x) ?_ fun ia hia => ?_
    · rw [hspace, seen_state]
      exact hx
    · rw [C.ea G (by simp [info])] at hia
      obtain ⟨tr, W⟩ := hwarm ia hia
      exact ⟨tr, hspace ▸ W.as (.seen s t is)⟩

theorem execPref_goes (G : Issuing s (.pref h hint ad) h is t) (one : OneLane t is h k) (a : Active t is h k w l)
    (hcase : hint = .noalloc ∨ ∃ x, s.ctx? t.space = some x ∧ ∀ ia, rangeCheck x (eaOf w l ad) .load = .ok ia →
      ∃ tr, Warm s t.space ia .load false tr) :
    ∃ s', exec (.pref h hint ad) s = .next s' ∧ GoesOn s' t is h ∧ s'.mem = s.mem := by
  obtain ⟨c, C, -, hx⟩ := perLane_acts G one a fun s c => (prefOne hint ad s c, .done {})
  obtain ⟨tc, hone⟩ := C.prefOne_keeps G hcase
  rw [exec_pref]
  refine ⟨_, hx _ _ (congrArg (·, LaneRes.done {}) hone) (seen_awake G.awake t is) (.of_teams rfl) rfl,
    goesOn_stand G (.of_teams rfl), ?_⟩
  rw [commit_mem _ rfl, seen_state]

/-! ### PREF of an operand that names no pair -/

theorem takeGroup_free (G : Issuing s i h is t) {x : Info} (hfree : ∀ k ∈ is.lanes, gated s is.team k.1 k.2 x = false) :
    takeGroup s is x = takeGroup s is (info i) := by
  have hgate : ∀ y : Info, (∀ k ∈ is.lanes, gated s is.team k.1 k.2 y = false) →
      is.lanes.any (fun k => gated s is.team k.1 k.2 y) = false := fun y hy => List.any_eq_false.mpr fun k hk => by simp [hy k hk]
  rw [takeGroup, takeGroup, hgate x hfree, hgate (info i) G.free]

/-- An instruction whose operands are not checked takes the course of one that passes every check. -/
theorem issueWith_quietly {j : Instr} (G : Issuing s i h is t) (hfree : ∀ k ∈ is.lanes, gated s is.team k.1 k.2 (info j) = false)
    (hquiet : (info j).quiet = true) (htx : txCode j = txCode i) (b : State → List Lc → State × List ((Nat × Nat) × LaneRes)) :
    issueWith j h s (fun _ _ => none) b = issueWith i h s (fun _ _ => none) b := by
  have htake : takeGroup s is (info j) = (s.seen t is, is.lanes) := (takeGroup_free G hfree).trans (takeGroup_quiet G)
  have htry : txAborts j = txAborts i := by
    funext s cs
    rw [txAborts, txAborts, htx]
  have hchk : ∀ c ∈ contexts h is t, issueCheck j h (fun _ => none) c = issueCheck i h (fun _ => none) c := by
    intro c hc
    obtain ⟨w, l, C⟩ := contexts_ctx G hc
    rw [issueCheck_none G C _ rfl, issueCheck]
    exact if_pos hquiet
  have hlanes : ∀ p : Lc → Bool, ((contexts h is t).filter p).map (fun c => ((c.wi, c.slot), issueCheck j h (fun _ => none) c)) =
      ((contexts h is t).filter p).map (fun c => ((c.wi, c.slot), issueCheck i h (fun _ => none) c)) := fun p =>
    List.map_congr_left fun c hc => by rw [hchk c (List.mem_of_mem_filter hc)]
  have hseen := seen_team s t is G.team
  unfold issueWith
  simp only [G.cur, htake, takeGroup_quiet G, hseen, act_eq G, htry]
  simp only [contexts] at hlanes
  simp only [hlanes]

theorem foldLanes_congr {f g : State → Lc → State × LaneRes} {cs : List Lc} (hfg : ∀ c ∈ cs, ∀ s, f s c = g s c) (s : State) :
    foldLanes f s cs = foldLanes g s cs := by
  unfold foldLanes
  refine List.foldl_ext _ _ _ fun acc c hc => ?_
  rw [hfg c hc]

theorem execPref_ignored (G : Issuing s (.nop h) h is t)
    (hfree : ∀ k ∈ is.lanes, gated s is.team k.1 k.2 (info (.pref h hint ad)) = false)
    (hno : ad.base.isLatch = true ∨ srcOdd ad.base = true ∨ srcBeyond t.desc.win ad.base 2 = true) :
    exec (.pref h hint ad) s = pureLanes (.nop h) h s (fun _ => .done {}) := by
  have hbody : foldLanes (fun s c => (prefOne hint ad s c, .done {})) (s.seen t is) (contexts h is t) =
      foldLanes (fun s _ => (s, .done {})) (s.seen t is) (contexts h is t) := by
    refine foldLanes_congr (fun c hc s1 => ?_) _
    obtain ⟨w, l, C⟩ := contexts_ctx G hc
    have hwin : c.tm.desc.win = t.desc.win := by rw [C.team, seen_frame]
    rw [prefOne_nothing (.inr (hwin ▸ hno))]
  rw [exec_pref, perLane, issueWith_quietly G hfree rfl rfl, issueWith_congr G hbody]
  rfl

end

/-- Settles O21: a fence with a clean space releases nothing, and a prefetch counts one translation or none; where PREF's base names
no pair its lanes go on as those of a NOP do. -/
theorem fencesAndPrefetches : Obligations.FencesAndPrefetches := by
  unfold Obligations.FencesAndPrefetches
  refine ⟨?_, ?_, ?_⟩
  · exact fun s h is t k w l scope G one a hclean => execFence_goes G one a hclean
  · exact fun s h is t k w l hint ad G one a hcase => execPref_goes G one a hcase
  · intro s h is t hint ad G hfree hno
    refine ⟨_, (execPref_ignored G hfree hno).trans (pureLanes_all G (fun _ => .done {}) rfl fun _ _ _ _ => rfl),
      goesOn_stand G (.of_teams rfl), ?_⟩
    rw [commit_mem _ rfl, seen_state]

end Sys2Proof.Machine
end

section
/-! SUPPORT. O30: a batch that begins while another operation already has the next name. The batch that runs at the fork is then the
older one, and both take its end. -/

namespace Sys2Proof.Machine

/-! ### Two batches of one name -/

/-- A TNEXT on the record at offset 0, which holds no candidate, so that a batch of it ends with code 8. -/
def tnextAt0 : Instr := .tnext plainHdr (.v 0) (.v 10)

/-- A batch of it that has begun, under the name that the next operation will take. -/
def namesake : EngOp where
  id := wideState.serial
  ins := tnextAt0
  team := 2
  warp := 0
  lane := 0
  pc := 0x100
  len := 8
  bits := 0
  args := [0]
  ias := []
  tiles := []
  pos := 0
  stuck := false
  charge := 0
  dst := none
  latch := none

def clashing : State := { wideState with ops := [namesake] }

theorem clashing_issuing : Issuing clashing tnextAt0 plainHdr wideIssue wideTeam where
  hdr := rfl
  cur := rfl
  halt := rfl
  lost := rfl
  saved := rfl
  team := wide_issuing.team
  lanes := wide_issuing.lanes
  live := wide_issuing.live
  nodup := wide_issuing.nodup
  free k hk := by
    obtain rfl : k = (0, 0) := by simpa [wideIssue] using hk
    decide +kernel
  latches := .inr (by decide)
  calm := .inr fun k hk w hw => by
    obtain ⟨-, rfl⟩ := wide_member hk hw
    rfl
  checks k hk w l hw hl _ := by
    obtain ⟨-, rfl, rfl⟩ := wide_lane hk hw hl
    exact ⟨by decide +kernel, (fun r h => nomatch (show (none : Option Role) = some r from h)), by decide +kernel⟩

theorem clashing_clean : CleanSpace clashing wideTeam.space :=
  ⟨fun _ hd => (nomatch hd), fun _ hd => (nomatch hd), by decide +kernel⟩

/-- Without keys no address translates (R350, R412). -/
theorem lookup_keyless {s : State} (hk : s.keys = []) (hp : s.peerKeys = []) (space ia : Nat) (need : Need) (lane : Bool) (tr : Trans) :
    lookup s space ia need lane ≠ .ok tr := by
  have hcheck : ∀ x, leafCheck s space ia need lane x ≠ .ok tr := by
    intro x
    have hnone : ownerKey s space x.2.1 = none := by simp [ownerKey, State.keyOf, hk, hp]
    unfold leafCheck
    simp only [hnone, Option.isNone_none, if_true]
    split
    · nofun
    · split <;> nofun
  unfold lookup
  split
  · exact hcheck _
  · split
    · nofun
    · split
      · nofun
      · exact hcheck _

/-- What the older batch has kept once the second one has issued. -/
def namesakeKept : Option (Option (Cells 8)) :=
  match exec tnextAt0 clashing with
  | .next s => s.ops.head?.map (·.kept)
  | _ => none

theorem namesakeKept_ends : namesakeKept.map (·.isSome) = some true := by decide +kernel

/-- A batch that has joined the others leaves of the first of them what it had kept. -/
theorem Queued.first_kept {s s' : State} {i : Instr} {is : Issue} {k : Nat × Nat} {args tiles : List Nat} {x : EngOp} {xs : List EngOp}
    (Q : Queued s s' i is k args tiles) (hs : s.ops = x :: xs) : s'.ops.head?.map (·.kept) = some x.kept := by
  obtain ⟨o, os, hops, hplain, -⟩ := Q
  rw [hs] at hplain
  cases os with
  | nil => cases hplain
  | cons y ys =>
    obtain ⟨hy, -⟩ := List.cons.inj hplain
    rw [hops]
    exact congrArg some (congrArg EngOp.kept hy : y.plain.kept = x.plain.kept)

/-- Refutes O30: operations need not have names of their own there. TNEXT issues while an operation already has the next name: the
batch that runs at the fork is the older one, and it is left with an end that it did not have. -/
theorem not_rayBatchesRun : ¬ Obligations.RayBatchesRun := by
  unfold Obligations.RayBatchesRun
  rintro ⟨hissue, -⟩
  obtain ⟨s', hx, -, hqueued⟩ := hissue clashing tnextAt0 plainHdr wideIssue wideTeam (0, 0) wideWarp wideLane (.v 0) (.v 10)
    (.inr (.inr (.inl rfl))) clashing_issuing rfl wide_active wide_noTry clashing_clean (by decide +kernel) (by decide +kernel)
    (fun ia tr hok => absurd hok (lookup_keyless rfl rfl _ _ _ _ _))
  have hkept : namesakeKept = some none := by
    rw [namesakeKept, hx]
    exact hqueued.first_kept (x := namesake) rfl
  have hends := namesakeKept_ends
  rw [hkept] at hends
  exact absurd hends (by decide)

end Sys2Proof.Machine
end

section
/-! SUPPORT. O13: what a rollback and the conflicts of a write leave of another warp, and a warp's own rollback (R191, R193). -/

namespace Sys2Proof.Machine

/-! ### A rollback, R193 -/

theorem abortTry_frame (s : State) (u j code info sub : Nat) : abortTry s u j code info sub = { s with
    bins := (abortTry s u j code info sub).bins, accs := (abortTry s u j code info sub).accs
    results := (abortTry s u j code info sub).results, flits := (abortTry s u j code info sub).flits
    teams := (abortTry s u j code info sub).teams } := by
  unfold abortTry
  split
  · rfl
  · split <;> rfl

/-- What a rollback makes of the team: its scratchpad and its warp are put back. -/
def Team.rollBack (undo : List (Nat × Cells 8)) (j : Nat) (f : Warp → Warp) (t : Team) : Team :=
  { t with scratch := restoreScratch t.scratch undo }.modWarp j f

theorem abortTry_in {s : State} {u j : Nat} {x : Warp} (hx : s.warp? u j = some x) (hin : x.tx.depth ≠ 0) (code info sub : Nat) :
    abortTry s u j code info sub = (dropOutstanding (unfile s u j) u j x.tx.start).modTeam u
      (Team.rollBack x.tx.undo j (rollWarp code info sub s.cycle)) := by
  simp only [abortTry, hx, hin, if_false]
  rfl

/-- The warps of the package after a rollback: the one that is rolled back, and the others as they stood. -/
theorem abortTry_warp? {s : State} {u j : Nat} {x : Warp} (hx : s.warp? u j = some x) (hin : x.tx.depth ≠ 0) (code info sub v i : Nat) :
    (abortTry s u j code info sub).warp? v i =
      (s.warp? v i).map (fun w => if v = u ∧ i = j then rollWarp code info sub s.cycle w else w) := by
  have hteams : (dropOutstanding (unfile s u j) u j x.tx.start).team? v = s.team? v := rfl
  rw [abortTry_in hx hin, State.warp?, team?_modTeam _ _ _ (Team.rollBack _ _ _) (fun _ => rfl), hteams, State.warp?]
  cases s.team? v with
  | none => rfl
  | some t =>
    by_cases hv : v = u
    · by_cases hi : i = j
      · simp [hv, hi, Team.rollBack, Team.modWarp]
      · simp [hv, hi, Team.rollBack, Team.modWarp, Ne.symm hi]
    · simp [hv]

/-- One warp of the package stands, and memory and the L1s with it. -/
structure Spares (u i : Nat) (s s' : State) : Prop where
  frame : s' = { s with bins := s'.bins, accs := s'.accs, results := s'.results, flits := s'.flits, teams := s'.teams }
  warp : s'.warp? u i = s.warp? u i

namespace Spares

variable {u i : Nat} {s s' s'' : State}

theorem refl (u i : Nat) (s : State) : Spares u i s s := ⟨rfl, rfl⟩

theorem trans (h : Spares u i s s') (h' : Spares u i s' s'') : Spares u i s s'' :=
  ⟨by rw [h'.frame, h.frame], h'.warp.trans h.warp⟩

/-- Rollbacks of other warps. -/
theorem abort {v j : Nat} (hne : (v, j) ≠ (u, i)) (s : State) (code info sub : Nat) : Spares u i s (abortTry s v j code info sub) := by
  refine ⟨abortTry_frame .., ?_⟩
  cases hx : s.warp? v j with
  | none => rw [abortTry, hx]
  | some x =>
    by_cases hin : x.tx.depth = 0
    · simp only [abortTry, hx, hin, if_true]
    · rw [abortTry_warp? hx hin]
      have hother : ¬ (u = v ∧ i = j) := fun e => hne (by rw [e.1, e.2])
      simp [hother]

theorem aborts {vs : List (Nat × Nat)} (hne : ∀ v ∈ vs, v ≠ (u, i)) (s : State) (code info sub : Nat) :
    Spares u i s (vs.foldl (fun s v => abortTry s v.1 v.2 code info sub) s) := by
  induction vs generalizing s with
  | nil => exact refl u i s
  | cons v vs ih => exact (abort (hne v List.mem_cons_self) s code info sub).trans (ih (fun x hx => hne x (List.mem_cons_of_mem _ hx)) _)

/-- Warps chosen among those that did not make the write. -/
theorem victims_ne {ts : List Team} {p : Team → Nat × Warp → Bool} (hp : ∀ t x, p t x = true → some (t.uid, x.1) ≠ some (u, i)) :
    ∀ v ∈ ts.flatMap (fun t => ((t.warps.zipIdx.map (fun x => (x.2, x.1))).filter (p t)).map (fun x => (t.uid, x.1))),
      v ≠ (u, i) := by
  intro v hv
  obtain ⟨t, -, hv⟩ := List.mem_flatMap.mp hv
  obtain ⟨x, hx, rfl⟩ := List.mem_map.mp hv
  exact fun e => hp t x (List.mem_filter.mp hx).2 (congrArg some e)

/-- The conflicts of a write spare the warp that makes it (R191). -/
theorem conflictWith (s : State) (dom : Nat → Bool) (space ia n : Nat) :
    Spares u i s (conflictWith s (some (u, i)) dom space ia n) := by
  refine aborts (victims_ne fun t x hx => ?_) s 2 0 0
  simp only [Bool.and_eq_true, bne_iff_ne] at hx
  exact hx.1.1.1.2

theorem conflictFrame (s : State) (dom : Nat → Bool) (pa n : Nat) : Spares u i s (conflictFrame s (some (u, i)) dom pa n) := by
  refine aborts (victims_ne fun t x hx => ?_) s 2 0 0
  simp only [Bool.and_eq_true, bne_iff_ne] at hx
  exact hx.1.2

theorem conflicts (s : State) (dom : Nat → Bool) (space ia n pa : Nat) :
    Spares u i s (conflicts s (some (u, i)) dom space ia n pa) :=
  (conflictWith s dom space ia n).trans (conflictFrame _ dom pa n)

end Spares

/-! ### Lanes that a rollback has moved count as stepped, R385 -/

/-- A lane but for its mark of a step. -/
def Lane.unstepped (l : Lane) : Lane := { l with stepped := false }

/-- A team's warps stand, but for the marks of steps. -/
structure StepsMarked (s s' : State) : Prop where
  frame : s' = { s with teams := s'.teams }
  warp : ∀ u i w, s.warp? u i = some w → ∃ ls, s'.warp? u i = some { w with lanes := ls } ∧
    ls.map Lane.unstepped = w.lanes.map Lane.unstepped

theorem map_modify_same {α β : Type} {f : α → α} {g : α → β} (hfg : ∀ a, g (f a) = g a) (xs : List α) (n : Nat) :
    (xs.modify n f).map g = xs.map g := by
  refine List.ext_getElem? fun j => ?_
  simp only [List.getElem?_map, List.getElem?_modify]
  cases xs[j]? with
  | none => rfl
  | some a =>
    simp only [Option.map_some]
    split
    · exact congrArg some (hfg a)
    · rfl

theorem StepsMarked.refl (s : State) : StepsMarked s s := ⟨rfl, fun _ _ w hw => ⟨w.lanes, hw, rfl⟩⟩

theorem StepsMarked.trans {s s' s'' : State} (h : StepsMarked s s') (h' : StepsMarked s' s'') : StepsMarked s s'' := by
  refine ⟨by rw [h'.frame, h.frame], fun u i w hw => ?_⟩
  obtain ⟨ls, hls, he⟩ := h.warp u i w hw
  obtain ⟨ls', hls', he'⟩ := h'.warp u i _ hls
  exact ⟨ls', hls', he'.trans he⟩

theorem stepMoved_marks (t : Team) (rs : List ((Nat × Nat) × LaneRes)) (s : State) : StepsMarked s (stepMoved t rs s) := by
  unfold stepMoved
  induction rs generalizing s with
  | nil => exact .refl s
  | cons r rs ih =>
    rw [List.foldl_cons]
    refine StepsMarked.trans ?_ (ih _)
    split
    · exact .refl s
    · refine ⟨rfl, fun u i w hw => ?_⟩
      rw [State.modLane, warp?_modWarp_any, hw]
      simp only [Option.map_some]
      split
      · exact ⟨_, rfl, map_modify_same (f := fun l : Lane => { l with stepped := l.live }) (fun _ => rfl) ..⟩
      · exact ⟨w.lanes, rfl, rfl⟩

/-! ### A group whose warp rolls its own TRY back -/

section
variable {s s' : State} {i : Instr} {h : Hdr} {is : Issue} {t : Team} {k : Nat × Nat} {w : Warp} {l : Lane} {r : LaneRes}

/-- A warp of which no result is left stands through the commit. -/
theorem commit_other {rs : List ((Nat × Nat) × LaneRes)} (hu : Untrapped rs) {j : Nat} (hj : ∀ x ∈ rs, x.1.1 ≠ j) {w : Warp}
    (hw : s.warp? is.team j = some w) : (commit s is rs).warp? is.team j = some w := by
  rw [commit_warp? hu hw, commitWarp_other hj]

/-- A lane that a rollback puts back is as its checkpoint held it. -/
theorem rollLane_rolled (tx : TryState) (code info sub now slot : Nat) {l l1 : Lane} (hst : l1.st = l.st) :
    RolledTo tx (tstatWord code info sub) slot l (rollLane tx code info sub now slot l1) := by
  intro c hc hlive
  have hlive1 : (l1.st == .exited) = false := beq_eq_false_iff_ne.mpr (hst ▸ hlive)
  simp [rollLane, hc, hlive1, Lane.dropLatches]

theorem RolledTo.stepped {tx : TryState} {word : Word} {slot : Nat} {l l1 l2 : Lane} (R : RolledTo tx word slot l l1)
    (h : l2.unstepped = l1.unstepped) : RolledTo tx word slot l l2 := by
  intro c hc hlive
  obtain ⟨hv, hp, hpc, hcnt, hstat, hat, hbp⟩ := R c hc hlive
  exact ⟨(congrArg Lane.v h).trans hv, (congrArg Lane.p h).trans hp, (congrArg Lane.regionPc h).trans hpc,
    (congrArg Lane.regionCnt h).trans hcnt, (congrArg Lane.tstat h).trans hstat, (congrArg Lane.pc h).trans hat,
    (congrArg Lane.bp h).trans hbp⟩

/-- The group's instruction finds its team under its name. -/
theorem Issuing.seen_uid (G : Issuing s i h is t) : (t.seen is).uid = is.team :=
  (Machine.seen_uid t is).trans (uid_of_team? G.team)

/-- Whether a warp of the group stands as its results found it is a matter of its epoch. -/
theorem untouched_iff (G : Issuing s i h is t) {j : Nat} {w1 w2 : Warp} (h1 : (s.seen t is).warp? is.team j = some w1)
    (h2 : s'.warp? is.team j = some w2) : untouched (t.seen is) s' j = true ↔ w2.epoch = w1.epoch := by
  rw [State.warp?, seen_team s t is G.team] at h1
  rw [untouched, G.seen_uid, show (t.seen is).warps[j]? = some w1 from h1, h2]
  simp only [Option.map_some, beq_iff_eq, Option.some.injEq]
  exact eq_comm

/-- An instruction that rolls back its own warp, once for the warp (R193). -/
theorem perWarp_aborts (G : Issuing s i h is t) (one : OneWarp t is h k) (a : Active t is h k w l) (hin : w.tx.depth ≠ 0)
    {f : State → Lc → State × LaneRes} {code info sub : Nat}
    (hf : ∀ c, Ctx s i h is t c w l → f (s.seen t is) c = (abortTry (s.seen t is) is.team c.wi code info sub, .stay)) :
    ∃ s', perWarp i h s (fun _ _ => none) f = .next s' ∧ Aborted s' is k.1 w (tstatWord code info sub) := by
  obtain ⟨c, C, hk, hx⟩ := perWarp_one G one a f
  have hwi : c.wi = k.1 := congrArg Prod.fst hk
  obtain ⟨ls, hseen, hls⟩ := seen_warp? G a.1.2.1
  have habort : (abortTry (s.seen t is) is.team k.1 code info sub).warp? is.team k.1 =
      some (rollWarp code info sub (s.seen t is).cycle { w with lanes := ls }) := by
    rw [abortTry_warp? hseen hin, hseen]
    simp
  have hmoved : untouched (t.seen is) (abortTry (s.seen t is) is.team k.1 code info sub) k.1 ≠ true := fun hu =>
    absurd ((untouched_iff G hseen habort).mp hu) (Nat.succ_ne_self _)
  have M := stepMoved_marks (t.seen is) ((activeLanes t is h).map (fun j => (j, LaneRes.stay)))
    (abortTry (s.seen t is) is.team k.1 code info sub)
  obtain ⟨ls', hw', hls'⟩ := M.warp _ _ _ habort
  rw [hx, hf c C, hwi]
  refine ⟨_, finish_awake (commit_awake ?_ is ?untrapped), _, commit_other ?untrapped ?_ hw', rfl, rfl, fun j m hm => ?_⟩
  case untrapped => exact fun x hx => allDo_untrapped (r := .stay) rfl x (List.mem_of_mem_filter hx)
  · rw [M.frame, abortTry_frame]
    exact seen_awake G.awake t is
  · intro x hx e
    have hu := (List.mem_filter.mp hx).2
    rw [e] at hu
    exact hmoved hu
  · have hroll : (rollWarp code info sub (s.seen t is).cycle { w with lanes := ls }).lanes[j]? =
        some (rollLane w.tx code info sub (s.seen t is).cycle j (seenLane t is (k.1, j) m)) := by
      simp [rollWarp, hls, hm]
    have hsame := congrArg (fun xs => xs[j]?) hls'
    simp only [List.getElem?_map, hroll, Option.map_some, Option.map_eq_some_iff] at hsame
    obtain ⟨l', hl', hsame⟩ := hsame
    exact ⟨l', hl', (rollLane_rolled w.tx code info sub _ j (by rw [seenLane_frame])).stepped hsame⟩

end

end Sys2Proof.Machine
end

section
/-! SUPPORT. O13: the parts of an outermost commit: its leaves, its bytes, its stores and its conflicts (R94, R191, R195, R353, R394). -/

namespace Sys2Proof.Machine

/-! ### The leaves of a commit's stores, R353 -/

theorem remember_frame (s : State) (space ia : Nat) (tr : Trans) : remember s space ia tr = { s with
    oldMaps := (remember s space ia tr).oldMaps, stored := (remember s space ia tr).stored
    owed := (remember s space ia tr).owed, l1 := (remember s space ia tr).l1 } := by
  unfold remember
  dsimp only
  split <;> rfl

/-- Translations have been counted and their pages noted: memory, the teams and what translates stand. -/
structure Noted (s s' : State) : Prop where
  frame : s' = { s with tcache := s'.tcache, oldMaps := s'.oldMaps, stored := s'.stored, owed := s'.owed, l1 := s'.l1 }
  maps : MapsAs s s'

theorem Noted.refl (s : State) : Noted s s := ⟨rfl, .of_eq rfl rfl rfl rfl rfl⟩

theorem Noted.trans {s s' s'' : State} (h : Noted s s') (h' : Noted s' s'') : Noted s s'' :=
  ⟨by rw [h'.frame, h.frame], h.maps.trans h'.maps⟩

theorem Noted.count {s : State} {space ia : Nat} {need : Need} {lane : Bool} {tr : Trans} (W : Warm s space ia need lane tr) :
    Noted s (countTranslation s space ia tr tr.leaf) := by
  refine ⟨?_, .count W⟩
  rw [countTranslation_frame]

theorem Noted.remember (s : State) (space ia : Nat) (tr : Trans) : Noted s (remember s space ia tr) := by
  have hframe := remember_frame s space ia tr
  refine ⟨?_, ?_⟩
  · rw [hframe]
  · rw [hframe]
    exact .of_eq rfl rfl rfl rfl rfl

section
variable {s : State} {t : Team}

theorem commitLeaf_noted {block : Nat} {tr : Trans} (W : Warm s t.space (32 * block) .store false tr) : Noted s (commitLeaf t s block) := by
  rw [commitLeaf, translate_warm W]
  dsimp only
  split
  · exact .count W
  · exact (Noted.count W).trans (.remember ..)

theorem commitLeaves_noted {blocks : List Nat} (hwarm : ∀ e ∈ blocks, ∃ tr, Warm s t.space (32 * e) .store false tr) :
    Noted s (blocks.foldl (commitLeaf t) s) := by
  induction blocks generalizing s with
  | nil => exact .refl s
  | cons e es ih =>
    obtain ⟨tr, W⟩ := hwarm e List.mem_cons_self
    have N := commitLeaf_noted W
    refine N.trans (ih fun e' he => ?_)
    obtain ⟨tr', W'⟩ := hwarm e' (List.mem_cons_of_mem _ he)
    exact ⟨tr', W'.as N.maps⟩

/-! ### The bytes of a commit -/

/-- A buffered byte of global memory has a translation that stands, to a page that L1s hold. -/
def Held (s : State) (t : Team) (b : TryByte) : Prop :=
  b.glob = true → ∃ tr, Warm s t.space b.addr .store false tr ∧ leafUnc tr.leaf = false ∧ leafSyn tr.leaf = false

theorem Held.as {s' : State} {b : TryByte} (H : Held s t b) (M : MapsAs s s') : Held s' t b := fun hg => by
  obtain ⟨tr, W, hunc, hsyn⟩ := H hg
  exact ⟨tr, W.as M, hunc, hsyn⟩

theorem commitTrans_warm {a : Nat} {tr : Trans} (W : Warm s t.space a .store false tr) : commitTrans s t a = some tr := by
  rw [commitTrans, W.look]

theorem Held.atMem {b : TryByte} (H : Held s t b) (hg : b.glob = true) : commitsAtMem s t b = false := by
  obtain ⟨tr, W, hunc, hsyn⟩ := H hg
  simp [commitsAtMem, commitTrans_warm W, hunc, hsyn]

theorem commitWaits_held {w : Warp} (H : ∀ b ∈ w.tx.bytes, Held s t b) : commitWaits s t w = false := by
  refine List.any_eq_false.mpr fun b hb => ?_
  cases hg : b.glob with
  | false => simp
  | true => simp [(H b hb).atMem hg]

theorem commitByte_held {b : TryByte} (H : Held s t b) :
    commitByte t s b = if b.glob then storeL1 s t.core t.desc.fused t.space b.addr [b.val] else s := by
  cases hg : b.glob with
  | false => simp [commitByte, hg]
  | true =>
    obtain ⟨tr, W, hunc, hsyn⟩ := H hg
    simp [commitByte, hg, commitTrans_warm W, hunc, hsyn]

/-- One byte of an L1 is dirty after it is put there. -/
theorem l1Find_putDirty_self (s : State) (home space ia : Nat) (x : Byte) :
    l1Find (putDirty s home space ia [x]) home space ia = some x := by
  have hnone : (dropDirty s space ia 1 (fun c => c == home)).l1.find?
      (fun d => d.ia == ia && d.space == space && d.core == home) = none := by
    refine List.find?_eq_none.mpr fun d hd => ?_
    have := (List.mem_filter.mp hd).2
    grind
  simp only [l1Find, putDirty, List.length_singleton, List.find?_append, hnone]
  simp

/-- A byte of another address stands in every L1. -/
theorem l1Find_putDirty_ne {a ia : Nat} (hne : a ≠ ia) (s : State) (home space core sp : Nat) (x : Byte) :
    l1Find (putDirty s home space a [x]) core sp ia = l1Find s core sp ia := by
  have hdropped : (dropDirty s space a 1 (fun c => c == home)).l1.find? (fun d => d.ia == ia && d.space == sp && d.core == core) =
      s.l1.find? (fun d => d.ia == ia && d.space == sp && d.core == core) := by
    rw [dropDirty, List.find?_filter]
    refine congrArg (fun p => s.l1.find? p) (funext fun d => ?_)
    by_cases hd : d.ia = ia
    · have hout : ¬ (a ≤ d.ia ∧ d.ia < a + 1) := by omega
      grind
    · simp [hd]
  simp only [l1Find, putDirty, List.length_singleton, List.find?_append, hdropped]
  simp [hne]

/-- The L1s hold the bytes of a commit, each where its line belongs, and the dirty bytes of other addresses. -/
theorem commitBytes_held {bs : List TryByte} (H : ∀ b ∈ bs, Held s t b) (hn : (bs.map (fun b => (b.glob, b.addr))).Nodup) :
    ∃ d, bs.foldl (commitByte t) s = { s with l1 := d } ∧
      (∀ b ∈ bs, b.glob = true → l1Find { s with l1 := d } (t.l1Core b.addr) t.space b.addr = some b.val) ∧
      ∀ core space ia, (∀ b ∈ bs, b.glob = true → b.addr ≠ ia) →
        l1Find { s with l1 := d } core space ia = l1Find s core space ia := by
  induction bs generalizing s with
  | nil => exact ⟨s.l1, rfl, fun b hb => (List.not_mem_nil hb).elim, fun _ _ _ _ => rfl⟩
  | cons b bs ih =>
    rw [List.map_cons, List.nodup_cons] at hn
    obtain ⟨hnew, hn⟩ := hn
    obtain ⟨d1, hone, hself, hother⟩ : ∃ d1, commitByte t s b = { s with l1 := d1 } ∧
        (b.glob = true → l1Find { s with l1 := d1 } (t.l1Core b.addr) t.space b.addr = some b.val) ∧
        ∀ core space ia, (b.glob = true → b.addr ≠ ia) → l1Find { s with l1 := d1 } core space ia = l1Find s core space ia := by
      rw [commitByte_held (H b List.mem_cons_self)]
      split
      next hg =>
        exact ⟨_, rfl, fun _ => l1Find_putDirty_self s _ _ _ _, fun core space ia hne => l1Find_putDirty_ne (hne hg) s _ _ _ _ _⟩
      next hg => exact ⟨s.l1, rfl, fun h => absurd h hg, fun _ _ _ _ => rfl⟩
    obtain ⟨d, hfold, hin, hout⟩ := ih (s := { s with l1 := d1 })
      (fun b' hb' => (H b' (List.mem_cons_of_mem _ hb')).as (.of_eq rfl rfl rfl rfl rfl)) hn
    refine ⟨d, ?_, fun b' hb' hg => ?_, fun core space ia hne => ?_⟩
    · rw [List.foldl_cons, hone, hfold]
    · obtain rfl | hb' := List.mem_cons.mp hb'
      · refine (hout _ _ _ fun b'' hb'' hg'' e => hnew ?_).trans (hself hg)
        exact List.mem_map.mpr ⟨b'', hb'', by rw [hg, hg'', e]⟩
      · exact hin b' hb' hg
    · exact (hout core space ia fun b' hb' => hne b' (List.mem_cons_of_mem _ hb')).trans
        (hother core space ia (hne b List.mem_cons_self))

end

/-! ### The stores of a commit, R394 -/

/-- A lane but for its store hash. -/
def Lane.unhashed (l : Lane) : Lane := { l with crc := 0, stores := 0 }

/-- Stores have been counted into the hashes of one warp's lanes, or noted with accesses. -/
structure Counted (u i : Nat) (s s' : State) : Prop where
  frame : s' = { s with accs := s'.accs, teams := s'.teams }
  warp : ∀ w, s.warp? u i = some w → ∃ ls, s'.warp? u i = some { w with lanes := ls } ∧
    ls.map Lane.unhashed = w.lanes.map Lane.unhashed

theorem Counted.trans {u i : Nat} {s s' s'' : State} (h : Counted u i s s') (h' : Counted u i s' s'') : Counted u i s s'' := by
  refine ⟨by rw [h'.frame, h.frame], fun w hw => ?_⟩
  obtain ⟨ls, hls, he⟩ := h.warp w hw
  obtain ⟨ls', hls', he'⟩ := h'.warp _ hls
  exact ⟨ls', hls', he'.trans he⟩

theorem countCommitted_counted (u i : Nat) (s : State) (x : TryStore) : Counted u i s (countCommitted u i s x) := by
  unfold countCommitted
  split
  · exact ⟨rfl, fun w hw => ⟨w.lanes, hw, rfl⟩⟩
  · refine ⟨rfl, fun w hw => ?_⟩
    rw [countTry, warp?_modLane hw]
    exact ⟨_, rfl, map_modify_same (f := countStore x.va x.width x.data.toNat) (fun _ => rfl) ..⟩

theorem countStores_counted (u i : Nat) (xs : List TryStore) (s : State) : Counted u i s (xs.foldl (countCommitted u i) s) := by
  induction xs generalizing s with
  | nil => exact ⟨rfl, fun w hw => ⟨w.lanes, hw, rfl⟩⟩
  | cons x xs ih => exact (countCommitted_counted u i s x).trans (ih _)

/-! ### The conflicts of a commit -/

theorem commitConflict_spares (t : Team) (i : Nat) (s : State) (b : TryByte) : Spares t.uid i s (commitConflict t i s b) := by
  unfold commitConflict
  split
  · exact .refl ..
  · dsimp only
    split
    · exact .conflicts ..
    · exact .conflictWith ..

theorem commitConflicts_spares (t : Team) (i : Nat) (bs : List TryByte) (s : State) :
    Spares t.uid i s (bs.foldl (commitConflict t i) s) := by
  induction bs generalizing s with
  | nil => exact .refl ..
  | cons b bs ih => exact (commitConflict_spares t i s b).trans (ih _)

end Sys2Proof.Machine
end

section
/-! SUPPORT. O13: TCOMMIT and TCOMMIT.LANE, by the depth of their warp's TRY (R94, R195). -/

namespace Sys2Proof.Machine

/-! ### The outermost commit -/

/-- The warp is in no TRY. -/
def endTry (w : Warp) : Warp := { w with tx := TryState.none }

/-- The state in which an outermost commit has made its bytes and its TRY has ended, before its conflicts reach other warps. -/
def committed (s : State) (t : Team) (i : Nat) (w : Warp) : State :=
  (w.tx.stores.foldl (countCommitted t.uid i)
    (w.tx.bytes.foldl (commitByte t) (w.tx.entries.foldl (commitLeaf t) s))).modWarp t.uid i endTry

/-- What a warp's outermost commit leaves: its TRY has ended, its lanes stand but for their hashes, and the buffered bytes of global
memory stand in the L1s that hold their lines. -/
structure CommitsTo (s s' : State) (t : Team) (i : Nat) (w : Warp) : Prop where
  awake : Awake s → Awake s'
  mem : s'.mem = s.mem
  warp : ∃ ls, s'.warp? t.uid i = some { w with lanes := ls, tx := TryState.none } ∧ ls.map Lane.unhashed = w.lanes.map Lane.unhashed
  bytes : ∀ b ∈ w.tx.bytes, b.glob = true → l1Find s' (t.l1Core b.addr) t.space b.addr = some b.val

section
variable {s : State} {t : Team} {i : Nat} {w : Warp}

theorem CommitsTo.spares {s1 s2 : State} (T : CommitsTo s s1 t i w) (S : Spares t.uid i s1 s2) : CommitsTo s s2 t i w := by
  refine ⟨fun hs => ?_, ?_, ?_, fun b hb hg => ?_⟩
  · rw [S.frame]
    exact T.awake hs
  · rw [S.frame]
    exact T.mem
  · rw [S.warp]
    exact T.warp
  · rw [S.frame]
    exact T.bytes b hb hg

/-- Its own leaves' updates do not roll the TRY back, so that the commit is made. -/
theorem commitTry_eq (hw : s.warp? t.uid i = some w) (hin : w.tx.depth ≠ 0) (N : Noted s (w.tx.entries.foldl (commitLeaf t) s)) :
    commitTry s t i w = w.tx.bytes.foldl (commitConflict t i) (committed s t i w) := by
  have hw1 : (w.tx.entries.foldl (commitLeaf t) s).warp? t.uid i = some w := by
    rw [N.frame]
    exact hw
  simp only [commitTry, hw1, Option.map_some, Option.getD_some, beq_eq_false_iff_ne.mpr hin, Bool.false_eq_true, if_false]
  rfl

theorem committed_commits (hw : s.warp? t.uid i = some w) (N : Noted s (w.tx.entries.foldl (commitLeaf t) s))
    (hbytes : ∀ b ∈ w.tx.bytes, Held s t b) (hn : (w.tx.bytes.map (fun b => (b.glob, b.addr))).Nodup) :
    CommitsTo s (committed s t i w) t i w := by
  obtain ⟨d, hfold, hheld, -⟩ := commitBytes_held (fun b hb => (hbytes b hb).as N.maps) hn
  have hw1 : { w.tx.entries.foldl (commitLeaf t) s with l1 := d }.warp? t.uid i = some w := by
    rw [N.frame]
    exact hw
  have C := countStores_counted t.uid i w.tx.stores { w.tx.entries.foldl (commitLeaf t) s with l1 := d }
  obtain ⟨ls, hls, hhash⟩ := C.warp w hw1
  rw [committed, hfold]
  refine ⟨fun hs => ?_, ?_, ⟨ls, ?_, hhash⟩, fun b hb hg => ?_⟩
  · rw [C.frame, N.frame]
    exact hs
  · rw [C.frame, N.frame]
    rfl
  · rw [warp?_modWarp, hls]
    simp [endTry]
  · rw [← hheld b hb hg, C.frame]
    rfl

theorem commitTry_commits (hw : s.warp? t.uid i = some w) (hin : w.tx.depth ≠ 0) (hbytes : ∀ b ∈ w.tx.bytes, Held s t b)
    (hleaves : ∀ e ∈ w.tx.entries, ∃ tr, Warm s t.space (32 * e) .store false tr)
    (hn : (w.tx.bytes.map (fun b => (b.glob, b.addr))).Nodup) : CommitsTo s (commitTry s t i w) t i w := by
  have N := commitLeaves_noted hleaves
  rw [commitTry_eq hw hin N]
  exact (committed_commits hw N hbytes hn).spares (commitConflicts_spares t i w.tx.bytes _)

end

/-! ### A group of one warp that acts while other warps are rolled back -/

section
variable {s s' : State} {i : Instr} {h : Hdr} {is : Issue} {t : Team} {k : Nat × Nat} {w : Warp} {l : Lane} {r : LaneRes}

/-- The results of a group whose warps stand as they found them (R191). -/
def standing (t : Team) (is : Issue) (h : Hdr) (r : LaneRes) (s' : State) : List ((Nat × Nat) × LaneRes) :=
  (allDo t is h r).filter (fun x => untouched (t.seen is) s' x.1.1)

theorem standing_untrapped (hr : r.trap? = none) (s' : State) : Untrapped (standing t is h r s') :=
  fun x hx => allDo_untrapped hr x (List.mem_of_mem_filter hx)

theorem resOf_standing (hn : is.lanes.Nodup) (hu : untouched (t.seen is) s' k.1 = true) (hk : k ∈ activeLanes t is h) :
    resOf (standing t is h r s') k.1 k.2 = r :=
  resOf_mem ((allDo_keys hn).sublist (List.filter_sublist.map _)) (List.mem_filter.mpr ⟨mem_allDo hk, hu⟩)

/-- What a group of one warp does when its own warp stands. -/
theorem perWarp_alone (G : Issuing s i h is t) (one : OneWarp t is h k) (a : Active t is h k w l) (f : State → Lc → State × LaneRes) :
    ∃ c, Ctx s i h is t c w l ∧ c.wi = k.1 ∧ ∀ s' r, f (s.seen t is) c = (s', r) → Awake s' → r.trap? = none →
      untouched (t.seen is) s' k.1 = true → perWarp i h s (fun _ _ => none) f = .next (commit s' is (standing t is h r s')) := by
  obtain ⟨c, C, hk, hx⟩ := perWarp_one G one a f
  refine ⟨c, C, congrArg Prod.fst hk, fun s' r hf hs hr hu => ?_⟩
  rw [hx, hf]
  dsimp only
  rw [stepMoved_still fun x hx => ?_]
  · exact finish_awake (commit_awake hs is (standing_untrapped hr s'))
  · obtain ⟨j, hj, rfl⟩ := List.mem_map.mp hx
    rw [show j.1 = k.1 from one.2 j hj]
    exact hu

/-- The TRY of a warp stands through the commit of its group. -/
theorem commit_tx {rs : List ((Nat × Nat) × LaneRes)} (hu : Untrapped rs) {j : Nat} {w1 : Warp} (hw : s'.warp? is.team j = some w1) :
    ∃ w', (commit s' is rs).warp? is.team j = some w' ∧ w'.tx = w1.tx :=
  ⟨_, commit_warp? hu hw, by rw [commitWarp_frame]⟩

/-- The lanes of the group go on when their warp stands, but for what the instruction counts in them. -/
theorem goesOn_alone (G : Issuing s i h is t) (one : OneWarp t is h k) (a : Active t is h k w l) {w1 : Warp}
    (hw : s'.warp? is.team k.1 = some w1) (hu : untouched (t.seen is) s' k.1 = true)
    (hcnt : w1.lanes.map Lane.regionCnt = w.lanes.map Lane.regionCnt) :
    GoesOn (commit s' is (standing t is h (.done {}) s')) t is h := by
  have hc := commit_warp? (is := is) (standing_untrapped (t := t) (is := is) (h := h) (r := .done {}) rfl s') hw
  intro j x m b
  have hj : j ∈ activeLanes t is h := (mem_active G).mpr ⟨x, m, b⟩
  have hwarp : j.1 = k.1 := one.2 j hj
  have hlane : w.lanes[j.2]? = some m := by
    obtain ⟨⟨-, hx, hm⟩, -⟩ := b
    rw [hwarp, a.1.2.1] at hx
    rwa [Option.some.inj hx]
  have hsame := congrArg (fun xs => xs[j.2]?) hcnt
  simp only [List.getElem?_map, hlane, Option.map_some, Option.map_eq_some_iff] at hsame
  obtain ⟨m1, hm1, hsame⟩ := hsame
  have hafter : (commitWarp is s'.cycle (standing t is h (.done {}) s') k.1 w1).lanes[j.2]? =
      some (laneWith is s'.cycle w1.sup (.done {}) m1) := by
    rw [commitWarp_get, hm1, ← hwarp, resOf_standing G.nodup (by rw [hwarp]; exact hu) hj]
    rfl
  rw [hwarp]
  refine ⟨_, _, hc, hafter, ?_⟩
  rw [laneWith_done rfl]
  exact ⟨rfl, rfl, by simp [hsame]⟩

/-! ### TCOMMIT and TCOMMIT.LANE, R195 -/

/-- TCOMMIT.LANE, which an aborted lane does not keep from committing. -/
def isLaneCommit : Instr → Bool | .tcommitLane _ => true | _ => false

theorem exec_commit {i : Instr} (hi : i = .tcommit h ∨ i = .tcommitLane h) (s : State) :
    exec i s = perWarp i h s (fun _ _ => none) (tcommitOne (isLaneCommit i)) := by
  obtain rfl | rfl := hi <;> rfl

theorem tcommitOne_outside {lane : Bool} {c : Lc} (hd : c.w.tx.depth = 0) (s : State) : tcommitOne lane s c = (s, .done {}) := if_pos hd

theorem tcommitOne_inner {lane : Bool} {c : Lc} (h0 : c.w.tx.depth ≠ 0) (h1 : c.w.tx.depth ≠ 1) (s : State) : tcommitOne lane s c =
    (s.modWarp c.is.team c.wi (fun w => { w with tx := { w.tx with depth := w.tx.depth - 1 } }), .done {}) := by
  rw [tcommitOne, if_neg h0, if_neg h1]

theorem tcommitOne_lane {c : Lc} (hd : c.w.tx.depth = 1) (hflag : c.w.tx.laneFlag = true) (s : State) :
    tcommitOne false s c = (abortTry s c.is.team c.wi 9 0 0, .stay) := by
  simp [tcommitOne, hd, hflag]

theorem tcommitOne_commits {lane : Bool} {c : Lc} (hd : c.w.tx.depth = 1) (hflag : c.w.tx.laneFlag = false ∨ lane = true) {s : State}
    (hwait : commitWaits s c.tm c.w = false) : tcommitOne lane s c = (commitTry s c.tm c.wi c.w, .done {}) := by
  have hgo : (c.w.tx.laneFlag && !lane) = false := by
    obtain hflag | rfl := hflag <;> simp [*]
  simp [tcommitOne, hd, hgo, hwait]

/-- What the commit of a group builds on stands in its warp: the epoch, and the counts of its lanes. -/
structure Carries (w w1 : Warp) : Prop where
  epoch : w1.epoch = w.epoch
  counts : w1.lanes.map Lane.regionCnt = w.lanes.map Lane.regionCnt

theorem seen_carries {ls : List Lane} (hls : ∀ n, ls[n]? = (w.lanes[n]?).map (seenLane t is (k.1, n))) :
    ls.map Lane.regionCnt = w.lanes.map Lane.regionCnt := by
  refine List.ext_getElem? fun n => ?_
  simp only [List.getElem?_map, hls, Option.map_map]
  refine congrArg (fun f => (w.lanes[n]?).map f) (funext fun m => ?_)
  rw [Function.comp, seenLane_frame]

/-- A TCOMMIT that completes: its lanes go on, and its warp's TRY is as the commit has left it. -/
theorem execCommit_goes (hi : i = .tcommit h ∨ i = .tcommitLane h) (G : Issuing s i h is t) (one : OneWarp t is h k)
    (a : Active t is h k w l) {P : State → Warp → Prop}
    (hone : ∀ c, Ctx s i h is t c w l → c.wi = k.1 → ∃ s1 w1, tcommitOne (isLaneCommit i) (s.seen t is) c = (s1, .done {}) ∧
      Awake s1 ∧ s1.warp? is.team k.1 = some w1 ∧ Carries w w1 ∧ P s1 w1) :
    ∃ s1 w1 rs w', exec i s = .next (commit s1 is rs) ∧ Untrapped rs ∧ GoesOn (commit s1 is rs) t is h ∧
      (commit s1 is rs).warp? is.team k.1 = some w' ∧ w'.tx = w1.tx ∧ P s1 w1 := by
  obtain ⟨c, C, hwi, hx⟩ := perWarp_alone G one a (tcommitOne (isLaneCommit i))
  obtain ⟨s1, w1, hc, hs1, hw1, K, hP⟩ := hone c C hwi
  obtain ⟨ls, hseen, -⟩ := seen_warp? G a.1.2.1
  have hu : untouched (t.seen is) s1 k.1 = true := (untouched_iff G hseen hw1).mpr K.epoch
  have hrs := standing_untrapped (t := t) (is := is) (h := h) (r := .done {}) rfl s1
  obtain ⟨w', hw', htx⟩ := commit_tx hrs hw1
  exact ⟨s1, w1, _, w', (exec_commit hi s).trans (hx _ _ hc hs1 rfl hu), hrs, goesOn_alone G one a hw1 hu K.counts, hw', htx, hP⟩

/-- The depth of the TRY that the group's warp is in. -/
theorem Ctx.tx {c : Lc} (C : Ctx s i h is t c w l) : c.w.tx = w.tx := by rw [C.warp_frame]

/-- The warp that the group's instruction finds. -/
theorem Ctx.warp? {c : Lc} (G : Issuing s i h is t) (C : Ctx s i h is t c w l) : (s.seen t is).warp? is.team c.wi = some c.w := by
  rw [State.warp?, seen_team s t is G.team]
  exact C.warp

theorem tx_outside {tx : TryState} (h : tx.depth = 0) : tx = { tx with depth := tx.depth - 1 } := by
  cases tx
  subst h
  rfl

theorem execCommit_inner (hi : i = .tcommit h ∨ i = .tcommitLane h) (G : Issuing s i h is t) (one : OneWarp t is h k)
    (a : Active t is h k w l) (hd : w.tx.depth ≠ 1) : ∃ s' w', exec i s = .next s' ∧ GoesOn s' t is h ∧
      s'.warp? is.team k.1 = some w' ∧ w'.tx = { w.tx with depth := w.tx.depth - 1 } := by
  obtain ⟨ls, hseen, hls⟩ := seen_warp? G a.1.2.1
  obtain ⟨s1, w1, rs, w', hx, -, hgo, hw', htx, hP⟩ := execCommit_goes hi G one a
    (P := fun _ w1 => w1.tx = { w.tx with depth := w.tx.depth - 1 }) fun c C hwi => by
      by_cases h0 : w.tx.depth = 0
      · exact ⟨_, _, tcommitOne_outside (by rw [C.tx]; exact h0) _, seen_awake G.awake t is, hseen, ⟨rfl, seen_carries hls⟩,
          tx_outside h0⟩
      · refine ⟨_, { w with lanes := ls, tx := { w.tx with depth := w.tx.depth - 1 } },
          tcommitOne_inner (by rw [C.tx]; exact h0) (by rw [C.tx]; exact hd) _, seen_awake G.awake t is, ?_,
          ⟨rfl, seen_carries hls⟩, rfl⟩
        rw [C.issue, hwi, warp?_modWarp, hseen]
        simp
  exact ⟨_, w', hx, hgo, hw', htx.trans hP⟩

/-- The commit of the group's warp, on the state and the team that the instruction finds. -/
theorem Ctx.commits {c : Lc} (G : Issuing s i h is t) (C : Ctx s i h is t c w l) (hd : w.tx.depth = 1)
    (hbytes : ∀ b ∈ w.tx.bytes, Held s t b) (hleaves : ∀ e ∈ w.tx.entries, ∃ tr, Warm s t.space (32 * e) .store false tr)
    (hn : (w.tx.bytes.map (fun b => (b.glob, b.addr))).Nodup) :
    commitWaits (s.seen t is) c.tm c.w = false ∧
      CommitsTo (s.seen t is) (commitTry (s.seen t is) c.tm c.wi c.w) (t.seen is) c.wi c.w := by
  have hheld : ∀ b ∈ c.w.tx.bytes, Held (s.seen t is) (t.seen is) b := by
    rw [C.tx, seen_frame]
    exact fun b hb => (hbytes b hb).as (.seen s t is)
  rw [C.team]
  refine ⟨commitWaits_held hheld, commitTry_commits ?_ ?_ hheld ?_ ?_⟩
  · rw [G.seen_uid]
    exact C.warp? G
  · rw [C.tx, hd]
    exact one_ne_zero
  · rw [C.tx, seen_frame]
    exact fun e he => (hleaves e he).imp fun tr W => W.as (.seen s t is)
  · rwa [C.tx]

theorem execCommit_outermost (hi : i = .tcommit h ∨ i = .tcommitLane h) (G : Issuing s i h is t) (one : OneWarp t is h k)
    (a : Active t is h k w l) (hd : w.tx.depth = 1) (hflag : w.tx.laneFlag = false ∨ i = .tcommitLane h)
    (hbytes : ∀ b ∈ w.tx.bytes, Held s t b) (hleaves : ∀ e ∈ w.tx.entries, ∃ tr, Warm s t.space (32 * e) .store false tr)
    (hn : (w.tx.bytes.map (fun b => (b.glob, b.addr))).Nodup) : ∃ s' w', exec i s = .next s' ∧ GoesOn s' t is h ∧
      s'.warp? is.team k.1 = some w' ∧ w'.tx = TryState.none ∧ s'.mem = s.mem ∧
      ∀ b ∈ w.tx.bytes, b.glob = true → l1Find s' (t.l1Core b.addr) t.space b.addr = some b.val := by
  obtain ⟨ls, hseen, hls⟩ := seen_warp? G a.1.2.1
  obtain ⟨s1, w1, rs, w', hx, hu, hgo, hw', htx, hended, hmem, hl1⟩ := execCommit_goes hi G one a
    (P := fun s1 w1 => w1.tx = TryState.none ∧ s1.mem = s.mem ∧
      ∀ b ∈ w.tx.bytes, b.glob = true → l1Find s1 (t.l1Core b.addr) t.space b.addr = some b.val) fun c C hwi => by
      obtain ⟨hwait, T⟩ := C.commits G hd hbytes hleaves hn
      obtain ⟨ls', hw1, hhash⟩ := T.warp
      have hcw : c.w.lanes.map Lane.regionCnt = w.lanes.map Lane.regionCnt := by
        have hc := C.warp? G
        rw [hwi, hseen] at hc
        rw [← Option.some.inj hc]
        exact seen_carries hls
      have hcnt : ls'.map Lane.regionCnt = c.w.lanes.map Lane.regionCnt := by
        have := congrArg (List.map Lane.regionCnt) hhash
        rwa [List.map_map, List.map_map] at this
      refine ⟨_, { c.w with lanes := ls', tx := TryState.none }, tcommitOne_commits (by rw [C.tx, hd]) ?_ hwait,
        T.awake (seen_awake G.awake t is), ?_, ⟨?_, hcnt.trans hcw⟩, rfl, ?_, fun b hb hg => ?_⟩
      · rw [C.tx]
        exact hflag.imp_right (by rintro rfl; rfl)
      · rw [G.seen_uid] at hw1
        rw [← hwi]
        exact hw1
      · rw [C.warp_frame]
      · rw [T.mem, seen_state]
      · have hl1 := T.bytes b (by rwa [C.tx]) hg
        rwa [seen_frame] at hl1
  refine ⟨_, w', hx, hgo, hw', htx.trans hended, ?_, fun b hb hg => ?_⟩
  · rw [commit_frame _ is hu]
    exact hmem
  · rw [← hl1 b hb hg, commit_frame _ is hu]
    rfl

theorem tstatWord_eq (code info sub : Nat) : tstatWord code info sub = statusWord code info sub :=
  congrArg (BitVec.ofNat 32) (by omega)

theorem execTcommit_lane (G : Issuing s (.tcommit h) h is t) (one : OneWarp t is h k) (a : Active t is h k w l)
    (hd : w.tx.depth = 1) (hflag : w.tx.laneFlag = true) :
    ∃ s', exec (.tcommit h) s = .next s' ∧ Aborted s' is k.1 w (statusWord 9 0 0) := by
  rw [exec_commit (.inl rfl), ← tstatWord_eq]
  refine perWarp_aborts G one a (by omega) fun c C => ?_
  rw [← C.issue]
  exact tcommitOne_lane (by rw [C.tx]; exact hd) (by rw [C.tx]; exact hflag) _

end

/-- Settles O13: an inner TCOMMIT changes the depth alone, the outermost one hands its bytes to the L1s before its conflicts reach other
warps, and one whose warp has a lane aborted alone rolls the warp back. -/
theorem speculationCommits : Obligations.SpeculationCommits := by
  unfold Obligations.SpeculationCommits
  refine fun i s h is t k w l hi G one a => ⟨fun hd => ?_, fun hd hflag hbytes hleaves hn => ?_, fun hd hflag hi => ?_⟩
  · exact execCommit_inner hi G one a hd
  · exact execCommit_outermost hi G one a hd hflag hbytes hleaves hn
  · subst hi
    exact execTcommit_lane G one a hd hflag

end Sys2Proof.Machine
end
